-- ==== Sys2Proof/Word.lean ====
section
/-! DEFINITION. The byte and word types of the model (R1: little-endian, bit 0 least significant). -/
namespace Sys2Proof

/-- One byte. -/
abbrev Byte := BitVec 8

/-- A 64-bit word (fabric cycle stamps, aux fields, crumbs). -/
abbrev Word := BitVec 64

end Sys2Proof
end

