-- ==== Sys2Proof/Syntax.lean ====
section
/-! DEFINITION. The commands of the module: one constructor per row of spec/opcode_table.json, in the table's order.
The table gives no bits, so the operands are those the row's rule names. -/
namespace Sys2Proof

/-- Who writes a dictionary entry (R394, R396): the mailbox or an MDP session. -/
inductive Source where
  | mailbox
  | session (id : Nat)
deriving DecidableEq, Repr

/-- The 32-byte packet header of Table 04.6. `loc` is bits 191–128: the address, or group, epoch and chunk_index. -/
structure Header where
  opcode : BitVec 8
  cls : BitVec 2
  dateline : Bool := false
  poison : Bool := false
  last : Bool := false
  ackReq : Bool := false
  sprayed : Bool := false
  retx : Bool := false
  dst : BitVec 23
  src : BitVec 23
  sequence : BitVec 24 := 0
  payloadLength : BitVec 13
  slice : BitVec 10
  loc : BitVec 64 := 0
  aux : BitVec 64 := 0
deriving DecidableEq, Repr

/-- A packet: header and payload bytes (the trailer is computed, R86). -/
structure Packet where
  h : Header
  payload : List Byte
deriving DecidableEq, Repr

/-- How a function's STARTING ended (Table 02.6). -/
inductive StartOutcome where
  | success
  | unitFault
  | otherFailure
deriving DecidableEq, Repr

/-- What the pass and unit checks of R280 found. -/
inductive KneadVerdict where
  | pass
  | column (j : Nat)
  | checksum
deriving DecidableEq, Repr

/-- Why a cluster leaves service (R287). -/
inductive DepartReason where
  | fault
  | proof
  | disable
deriving DecidableEq, Repr

/-- A group definition as a MGMT message carries it to a tree module (R200), its layout not published. -/
structure GroupDef where
  slice : Nat
  members : List Nat
  permute : List (BitVec 64)
  root : Nat
  parentBundle : Nat
  childMask : Nat
  subtreeMembers : Nat
  depth : Nat
  /-- member modules below this one: coordinate, and the child bundle that leads to it -/
  below : List (Nat × Nat) := []
deriving DecidableEq, Repr

/-- An MDP datagram (R399): source address, 16-byte header, body, and the 16 bytes of tag that end it (empty before a session). -/
structure Datagram where
  addr : BitVec 128
  header : BitVec 128
  body : List Byte
  tag : List Byte := []
deriving DecidableEq, Repr

/-- The two identity pages of a cage insert (Table 18.6), `none` where the memory does not respond, and what the
signature check over them finds (R430). -/
structure Insert where
  page0 : Option (List Byte)
  page1 : List Byte
  signatureOk : Bool
deriving DecidableEq, Repr

/-- One dictionary write item: index, sub-index, value bytes. -/
structure Item where
  index : Nat
  sub : Nat
  value : List Byte
deriving DecidableEq, Repr

/-- A command. -/
inductive Instr where
  -- power, pins, clocks and boot (01, 02)
  | alwaysOnStart (mv : Nat)
  | mainPowerStart (mv : Nat)
  | supplyLow (mv : Nat)
  | supplyHigh (mv : Nat)
  | supplyUv
  | supplyOv
  | mainRailsShutdown
  | inputLost
  | alwaysOnLoss
  | mateNChange (high : Bool)
  | modReset
  | modResetRelease (straps : BitVec 16) (mv : Nat)
  | perstNAssert
  | perstNRelease (speed width : Nat)
  | functionLevelReset
  | refclkLost
  | fallbackRelock
  | refclkRestored
  | pllLoss
  | bootPllLock
  | starterSelect (sigA sigB : Bool)
  | bootLanes (refclkGood : Bool)
  | bootLoaf
  | bootMemory (trained : Bool)
  | bootProof (failed : List Nat) (pes : List (Nat × Nat × Nat)) (rows : List (Nat × Nat))
  | bootTopology
  | bootReady (ms : Nat)
  -- function states and throttling (02)
  | enableRequest (index sub : Nat)
  | disableRequest (index sub : Nat)
  | functionStartDone (index sub : Nat) (outcome : StartOutcome)
  | functionStopDone (index sub : Nat)
  | stopTimeout (index sub : Nat)
  | thermalLevelChange (milliC : Int)
  | thermalTrip (milliC : Int)
  | powerWindow10us (watts : Nat)
  | powerWindow1ms (mv ma watts : Nat)
  | supplyPeakPowerRead (src : Source)
  -- lanes, frames and ports (03, 04)
  | frameSlot (port : Nat)
  | markerSlot (group : Nat)
  | signalDetect (lane : Nat)
  | cdrLock (lane : Nat)
  | markerReceived (lane slot skew : Nat) (block : BitVec 136)
  | idFrameReceived (port : Nat) (onSpare : Bool) (flit : BitVec 512) (trailer : BitVec 32)
  | quarantineRelease (port : Nat)
  | portExpectedEndpointWrite (src : Source) (port : Nat) (ident : BitVec 64)
  | lossOfSignal (lane : Nat)
  | cdrLossOfLock (lane : Nat)
  | markerLoss (lane : Nat)
  | marginWindowEnd (lane errors : Nat)
  | lossClassify (port : Nat)
  | switchReceived (group : Nat) (block : BitVec 136)
  | laneUserCalWrite (src : Source) (group sub : Nat) (value : BitVec 8)
  | pktFrameReceived (port : Nat) (flit : BitVec 512) (trailer : BitVec 32)
  | retryTimerExpiry (port : Nat)
  | roundTripFixed (port : Nat)
  -- topology, slices, routing and delivery (05, 06)
  | torusSizeCommit (src : Source)
  | portBondLeaderWrite (src : Source) (port leader : Nat)
  | sliceCommit (src : Source) (slice : Nat)
  | sliceDrainTimeout (slice : Nat)
  | bulkEscapeWait (port vc : Nat)
  | escapeProceed (port vc : Nat)
  | stallTimeout (port vc : Nat)
  | localFailover (port : Nat)
  | egressRequeue (port : Nat)
  | detourInstall (entries : List (Nat × Nat))
  | detourRemove (modules : List Nat)
  | fabricAdmit (src : Source)
  | routeAdmission (port : Nat)
  | windowUpdDelay (srcId : BitVec 23) (cls : BitVec 2)
  | windowLeakTimeout (srcId : BitVec 23) (module : Nat) (cls : BitVec 2)
  | reorderHoldTimeout (srcId dstId : BitVec 23)
  | reorderContextIdle (srcId dstId : BitVec 23)
  -- pools, policing and scheduling (07)
  | curdGrant (pool : Nat)
  | wheyGrant
  | policerRefill
  | policerRateWrite (src : Source) (port cls value : Nat)
  | policerBurstWrite (src : Source) (port cls value : Nat)
  | policerEnableWrite (src : Source) (port value : Nat)
  | policerWindowWrite (src : Source) (value : Nat)
  | shaperConfigWrite (src : Source) (port sub : Nat) (value : List Byte)
  | ctrlCeilingFill (port : Nat)
  -- Vat and Cellar (08)
  | vatAccess (slab unit : Nat) (write : Option (Nat × List Byte)) (flips : List (Nat × Byte))
  | vatRefetchDone (slab : Nat) (flips : List (Nat × Byte))
  | vatReadbackDone (slab : Nat) (flips : List (Nat × Byte))
  | vatRemapDone (slab : Nat)
  | vatBankMoveDone (bank : Nat)
  | tbufParityError (cluster half : Nat)
  | tbufReload (cluster half : Nat)
  | cellarSlabReadDone (cslab slab : Nat) (flips : List (Nat × Byte))
  | cellarRefresh (waited rate : Nat) (milliC : Int)
  | cellarChannel (channel : Nat)
  | fabricState
  -- number formats (09)
  | plihotuProbeWrite (src : Source) (value : List Byte)
  -- collectives and Churn (10, 11)
  | groupInstall (src : Source)
  | groupRemove (src : Source)
  | groupEntryMsg (group origin : Nat) (entry : Option GroupDef)
  | groupEntryAck (group module : Nat) (refusal : Nat)
  | joinReceived (port : Nat) (pkt : Packet)
  | dataReceived (port : Nat) (pkt : Packet)
  | contribReceived (port : Nat) (pkt : Packet)
  | joinUpReceived (port : Nat) (pkt : Packet)
  | doneUpReceived (port : Nat) (pkt : Packet)
  | commitReceived (port : Nat) (pkt : Packet)
  | collResultReceived (port : Nat) (pkt : Packet)
  | endReceived (port : Nat) (pkt : Packet)
  | rerunReceived (port : Nat) (pkt : Packet)
  | reportReceived (port : Nat) (pkt : Packet)
  | memberAbortReceived (port : Nat) (pkt : Packet)
  | poisonNoticeReceived (port : Nat) (pkt : Packet)
  | joinTimeout (group : Nat)
  | progressTimeout (group : Nat)
  | treeLossReport (group lostModule : Nat) (isMember : Bool)
  | treeRecompute (group : Nat) (entry : Option GroupDef)
  | contextSwap (group : Nat)
  | maximaReceived (port : Nat) (pkt : Packet)
  | finalReceived (port : Nat) (pkt : Packet)
  | churnTake (group acc : Nat)
  | skewWindowEnd (group acc : Nat)
  | accumulatorComplete (group acc lane : Nat) (residueOk convertOk : Bool)
  | churnSpareTakeover (lane : Nat)
  -- Knead (12)
  | kneadTileLoaded (unit : Nat)
  | kneadPassDone (unit array : Nat) (verdict : KneadVerdict)
  | kneadUnitDone (unit : Nat) (verdict : KneadVerdict)
  | kneadRepairApply (array : Nat)
  | clusterTakeover (cluster : Nat) (reason : DepartReason)
  -- recipes, stations and steps (13, 14)
  | recipeInstall (src : Source)
  | recipeRemove (src : Source)
  | invokeReceived (port : Nat) (pkt : Packet)
  | invokePacketReceived (port : Nat) (pkt : Packet)
  | recipeInputTimeout (inv : Nat)
  | invocationStart (inv : Nat)
  | matmulForward (inv : Nat)
  | matmulBackwardPair (inv : Nat)
  | topk (inv : Nat)
  | softmax (inv : Nat)
  | normRms (inv : Nat)
  | normLayer (inv : Nat)
  | scaleMul (inv : Nat)
  | scaleRowvec (inv : Nat)
  | scaleColvec (inv : Nat)
  | scaleRelu (inv : Nat)
  | scaleSilu (inv : Nat)
  | addStep (inv : Nat)
  | subStep (inv : Nat)
  | mulStep (inv : Nat)
  | convert (inv : Nat)
  | stageIn (inv : Nat)
  | stageOut (inv : Nat)
  | dispatch (inv : Nat)
  | returnBufferAllocated (inv : Nat)
  | combine (inv : Nat)
  | reduceInit (inv : Nat)
  | reduceAccumulate (inv : Nat)
  | reduceRows (inv : Nat)
  | updateSgdM (inv : Nat)
  | updateAdamw (inv : Nat)
  | updateSlotTaken (inv : Nat)
  | digestCompute (inv : Nat)
  | digestCompare (inv : Nat)
  | digestAuto (inv : Nat)
  | barrier (inv : Nat)
  | stepComplete (inv : Nat)
  | recipeStepTimeout (inv : Nat)
  | stationInstall (src : Source)
  | stationRemove (src : Source)
  | stationReady (src : Source)
  | stationReload (src : Source)
  | combineDataReceived (port : Nat) (pkt : Packet)
  | ownerWindowFree (inv token slot : Nat)
  | expertRetry (inv token slot : Nat)
  | expertReturnTimeout (inv token slot : Nat)
  -- determinism, SAVE and RESTORE (15)
  | strictWrite (src : Source) (value : Nat)
  | save (src : Source)
  | saveComplete
  | restore (src : Source)
  | restoreVerifyDone (hostImage : List Byte)
  | restoreApplyDone (failedStation : Option Nat)
  -- faults, fencing and Proof (16)
  | fatalRecordFlash
  | faultRecordClose (record : Nat)
  | faultUnfence (src : Source) (value : Nat)
  | coreFault (core : Nat)
  | coreEcc (core : Nat)
  | coreRestartDone (core : Nat)
  | fenceNoticeDelay (port : Nat)
  | fenceRefresh
  | fenceNoticeReceived (port : Nat) (pkt : Packet)
  | fenceBitExpiry (module port : Nat)
  | proofDue (unit : Nat)
  | proofNow (src : Source) (unit : Nat)
  | proofPeriodWrite (src : Source) (hours : Nat)
  | proofTakeoverDone
  | proofTestDone (pass : Bool) (failing : List (Nat × Nat × Nat))
  | proofDeferralEnd
  -- MDP (17)
  | discover (msg : Datagram)
  | mdpOpen (msg : Datagram)
  | prove (msg : Datagram) (signatureOk : Bool)
  | mdpClose (msg : Datagram)
  | ping (msg : Datagram)
  | mdpRead (msg : Datagram)
  | mdpWrite (msg : Datagram)
  | readBlock (msg : Datagram)
  | writeBlock (msg : Datagram)
  | subscribe (msg : Datagram)
  | eventAck (msg : Datagram)
  | eventResend (session seq : Nat)
  | watchCheck (session watch : Nat)
  | proveTimeout (session : Nat)
  | openLockoutExpiry (addr : BitVec 128)
  | sessionTimeout (session : Nat)
  | blockTransferTimeout (src : Source)
  | managerKeyWrite (src : Source) (item : Item)
  | persistStore
  | persistFlush (src : Source)
  | persistReset (src : Source) (value : Nat)
  -- mailbox (17)
  | sqDoorbell (tail : Nat) (entries : List (BitVec 512))
  | dict (entry : BitVec 512) (body : List Byte)
  | vatWrite (entry : BitVec 512) (data : List Byte)
  | vatRead (entry : BitVec 512)
  | cellarWrite (entry : BitVec 512) (data : List Byte)
  | cellarRead (entry : BitVec 512)
  | setSaveBuffer (entry : BitVec 512)
  | nop (entry : BitVec 512)
  | mailboxCommandComplete
  | cqHeadWrite (value : Nat)
  | eqHeadWrite (value : Nat)
  | mbControlWrite (value : BitVec 32) (sqBase cqBase eqBase : BitVec 64) (sqSize cqSize eqSize : Nat)
  | eventMsixTimer (vector : Nat)
  -- firmware, attestation and cage inserts (18)
  | loafImageWrite (src : Source) (image : List Byte)
  | loafProgramDone (signatureOk : Bool)
  | verify (src : Source) (signatureOk : Bool)
  | activateLive (src : Source)
  | liveUpdateGroupDone (started : Bool)
  | activateAtReset (src : Source)
  | confirm (src : Source)
  | reject (src : Source)
  | attestNonceWrite (src : Source) (nonce : List Byte)
  | insertSeated (cage : Nat) (insert : Insert)
  | insertRemoved (cage : Nat)
  | engineFault (cage cause : Nat)
  | laserHoursTick (cage : Nat)
  | registerWrite (src : Source) (item : Item)
  | icmpv6Echo (dst : BitVec 128) (src : BitVec 128) (payload : List Byte)
  | neighborDiscovery (target : BitVec 128) (src : BitVec 128)
  | mdpFrameError (msg : Datagram)
deriving DecidableEq, Repr

end Sys2Proof
end

