-- ==== Sys2Proof/Decode.lean ====
section
/-! DEFINITION. The commands that a word spells. spec/opcode_table.json gives no row any bits (every row's fields are
empty), so no word spells a command. -/
namespace Sys2Proof

/-- The command whose bits are `w`: none of the table's rows has bits. -/
def decodeTableWord (_nbits _w : Nat) : Option Instr := none

end Sys2Proof
end

