-- ==== Sys2Proof/Config.lean ====
section
/-! DEFINITION. What one part has fixed at the factory and what the spec leaves open. Every constant here is opaque:
no proof can see its value (log entries 4 and 5). -/
namespace Sys2Proof.Config

/-- SerialNumber (Table 17.13, factory), at most 16 characters. -/
opaque serialNumber : List Byte
/-- HardwareRevision (Table 17.13, factory). -/
opaque hardwareRevision : BitVec 16
/-- MacAddress (Table 17.13, factory). -/
opaque macAddress : BitVec 48
/-- PciVendorId (Table 17.13, factory). -/
opaque pciVendorId : BitVec 16
/-- PciDeviceId (Table 17.13, factory). -/
opaque pciDeviceId : BitVec 16
/-- StarterRevision (Table 17.13, factory). -/
opaque starterRevision : BitVec 32
/-- DeviceCertificate (Table 18.7, factory). -/
opaque deviceCertificate : List Byte
/-- Factory calibration of group g, sub-index s (Table 03.8), as two's complement I8. -/
opaque factoryCal : Nat → Nat → BitVec 8
/-- SHA-512 hash of firmware public key slot k in OTP (R418). -/
opaque otpFirmwareKeyHash : Nat → BitVec 512
/-- SHA-512 hash of optical-engine public key slot k in OTP (R430). -/
opaque otpEngineKeyHash : Nat → BitVec 512
/-- The Nunor sheet of the running Loaf (R417), a file published beside the manual. -/
opaque nunorSheet : List Byte
/-- DictionaryVersion's Loaf image shipped with the part: its 32-bit revision (Table 18.7 gives no default). -/
opaque factoryLoafRevision : BitVec 32

/-- live_from of that image (Table 18.1 gives no value). -/
opaque factoryLiveFrom : BitVec 32

/-- The next_bundle that another module's table of a TABLE slice names toward a module: its route bank is not held here (R107, R202). -/
opaque farNextBundle : (slice fromCoord toCoord : Nat) → Nat

/-- The descriptor whose desc_hash a relay with several children sees in JOIN_UP: the spec gives a relay no way to learn
the fields that combining needs (R207, R213, R216). -/
opaque relayDescriptor : (hash : Word) → BitVec 512

/-- Why a CONTRIB from another module with the POISON flag was poisoned: its aux carries no reason (R213, R232, log entry 22). -/
opaque farReason : (group epoch chunk : Nat) → Nat

/-- Some chunk poisoned below another module carries reason SOURCE_POISON: DONE_UP names no reason (R213, R232, log entry 22). -/
opaque sourceBelow : (group epoch : Nat) → Bool

/-- The record's fields that END does not carry (R214, R229, log entry 21). -/
opaque endRecord : (group epoch : Nat) → BitVec 512

/-- A fresh value the spec leaves open (nonces, ephemeral keys, signatures: R401, R429): bytes number `n` of draw `k`. -/
opaque freeBytes : (draw : Nat) → (length : Nat) → List Byte
/-- The ECDH secret of two ephemeral keys (R402), named by standard only. -/
opaque ecdhSecret : (draw : Nat) → (managerEphemeral : List Byte) → List Byte

/-- The FP32 encoding of a quotient by zero, which the spec does not state (R310, R318). -/
opaque divByZero : (numerator : BitVec 32) → BitVec 32
/-- The FP32 encoding of 1/sqrt(x) for x at or below zero or not finite, which the spec does not state (R312). -/
opaque rsqrtOpen : BitVec 32 → BitVec 32
/-- The FP32 encoding of sqrt(x) for x below zero or not finite, which the spec does not state (R318). -/
opaque sqrtOpen : BitVec 32 → BitVec 32

/-- Which errors in a Cellar slab its devices' ECC corrects (R175, log entry 126). -/
opaque eccCorrects : List (Nat × BitVec 8) → Bool

end Sys2Proof.Config
end

