-- ==== Sys2Proof/Machine/Bits.lean ====
section
/-! DEFINITION. Little-endian byte strings, cyclic redundancy checks, the Plihotu mix and SHA-512 (R1, R70, R86, R191, R353, R402). -/
namespace Sys2Proof.Machine

/-- The value of a little-endian byte string (R1). -/
def leNat : List Byte → Nat
  | [] => 0
  | b :: t => b.toNat + 256 * leNat t

/-- `n` bytes of a value, least significant first (R1). -/
def leBytes : (n v : Nat) → List Byte
  | 0, _ => []
  | n + 1, v => BitVec.ofNat 8 v :: leBytes n (v / 256)

/-- The value of a big-endian byte string (SEC 1 strings, SHA-512 words). -/
def beNat (l : List Byte) : Nat := leNat l.reverse

/-- Bits `lo + w - 1` to `lo` of a number. -/
def bitsAt (v lo w : Nat) : Nat := (v >>> lo) % 2 ^ w

/-- Bit `i` of a number. -/
def bitAt (v i : Nat) : Bool := v.testBit i

/-- A Bool as a bit. -/
def b2n (b : Bool) : Nat := if b then 1 else 0

/-- A value moved into a `w`-bit field. -/
def wrapTo (w v : Nat) : Nat := v % 2 ^ w

/-- The two's complement reading of a `w`-bit value. -/
def signed (w v : Nat) : Int := if 2 * (v % 2 ^ w) < 2 ^ w then (v % 2 ^ w : Nat) else (v % 2 ^ w : Nat) - (2 ^ w : Nat)

/-- The `w`-bit two's complement encoding. -/
def unsigned (w : Nat) (x : Int) : Nat := (x % (2 ^ w : Nat)).toNat

/-- Replace the bytes of `l` from offset `o` by `p`, padding with zeros where `l` is shorter. -/
def overlay (l : List Byte) (o : Nat) (p : List Byte) : List Byte :=
  let l' := l ++ List.replicate (o - l.length) 0
  l'.take o ++ p ++ l'.drop (o + p.length)

/-- `n` bytes of `l` from offset `o`, zero-filled beyond its end. -/
def sliceZ (l : List Byte) (o n : Nat) : List Byte :=
  let p := (l.drop o).take n
  p ++ List.replicate (n - p.length) 0

/-- A function of a number, which evaluates the number first. -/
def forceNat {α : Type} (n : Nat) (f : Nat → α) : α :=
  match n with
  | 0 => f 0
  | k + 1 => f (k + 1)

/-- A fold over bytes whose accumulator is evaluated at each byte, so that long messages stay evaluable. -/
def foldBytes (f : Nat → Byte → Nat) : List Byte → Nat → Nat
  | [], c => c
  | b :: l, c => forceNat (f c b) (foldBytes f l)

/-- Put an element in front of the first one that it comes before or ties with. -/
def insertBy {α : Type} (le : α → α → Bool) (a : α) : List α → List α
  | [] => [a]
  | b :: t => if le a b then a :: b :: t else b :: insertBy le a t

/-- A list in ascending order; elements that tie keep their order. -/
def sortBy {α : Type} (le : α → α → Bool) (l : List α) : List α := l.foldr (insertBy le) []

/-- One bit of a reflected CRC. -/
def crcReflBit (poly c : Nat) : Nat := if c % 2 = 1 then (c / 2) ^^^ poly else c / 2

/-- One byte of a reflected CRC. -/
def crcReflByte (poly c : Nat) (b : Byte) : Nat :=
  (List.range 8).foldl (fun a _ => crcReflBit poly a) (c ^^^ b.toNat)

/-- CRC-32C of a byte string (R86): check value 0xE306_9283. -/
def crc32c (l : List Byte) : BitVec 32 :=
  BitVec.ofNat 32 (foldBytes (crcReflByte 0x82F63B78) l 0xFFFFFFFF ^^^ 0xFFFFFFFF)

/-- CRC-64 of ECMA-182, reflected (R353): check value 0x995D_C9BB_DF19_39FA. -/
def crc64 (l : List Byte) : BitVec 64 :=
  BitVec.ofNat 64 (foldBytes (crcReflByte 0xC96C5795D7870F42) l 0xFFFFFFFFFFFFFFFF ^^^ 0xFFFFFFFFFFFFFFFF)

/-- One bit of a CRC kept most significant bit first, of width `w`. -/
def crcMsbBit (w poly c : Nat) (bit : Bool) : Nat :=
  let top := c.testBit (w - 1)
  let c' := (2 * c) % 2 ^ w
  if top != bit then c' ^^^ poly else c'

/-- CRC-16 of R70 (polynomial 0x1021, initial 0xFFFF): check value 0x29B1. -/
def crc16 (l : List Byte) : BitVec 16 :=
  BitVec.ofNat 16 (foldBytes (fun c b =>
    (List.range 8).foldl (fun a i => crcMsbBit 16 0x1021 a (b.toNat.testBit (7 - i))) c) l 0xFFFF)

/-- CRC-8 of a control block (Table 03.2), over bits 127–0 in transmission order. DEDUCED: bit 0 is sent first
(log entry 14). -/
def crc8Block (v : Nat) : BitVec 8 :=
  BitVec.ofNat 8 ((List.range 128).foldl (fun a i => crcMsbBit 8 0x07 a (v.testBit i)) 0)

/-- The stir function of R191. -/
def stir (x : Word) : Word :=
  let x := x ^^^ (x >>> 32)
  let x := x * 0x9D2C5680E1F3A47B#64
  let x := x ^^^ (x >>> 29)
  let x := x * 0x6B43A9B5D21E0C97#64
  x ^^^ (x >>> 32)

/-- The Plihotu mix (R191). -/
def plihotu (a b c : Word) : Word :=
  stir (stir (stir (a + 0xE4A13F7D8C65B219#64) ^^^ b) + c)

/-- A 64-bit word of a number. -/
def w64 (v : Nat) : Word := BitVec.ofNat 64 v

/-- One chunk's share of a crumb with tensor id `tid` (R353). -/
def crumbChunk (tid : Word) (k : Nat) (data : List Byte) : Word := plihotu tid (w64 k) (crc64 data)

/-- The crumb of a tensor's chunks, in any order (R353). -/
def crumbOf (kind key1 key2 : Word) (chunks : List (Nat × List Byte)) : Word :=
  chunks.foldl (fun c kd => c + crumbChunk (plihotu kind key1 key2) kd.1 kd.2) 0

/-! SHA-512 of FIPS 180-4, which R401 and R418 name by standard (PRESUMED, log entry 15). -/

/-- The largest `r` below 2^bits with r^k ≤ x, bit by bit. -/
def iroot (k x : Nat) : (bits : Nat) → Nat → Nat
  | 0, r => r
  | b + 1, r => iroot k x b (if (r + 2 ^ b) ^ k ≤ x then r + 2 ^ b else r)

/-- The first eighty primes. -/
def shaPrimes : List Nat :=
  [2, 3, 5, 7, 11, 13, 17, 19, 23, 29, 31, 37, 41, 43, 47, 53, 59, 61, 67, 71] ++
  [73, 79, 83, 89, 97, 101, 103, 107, 109, 113, 127, 131, 137, 139, 149, 151, 157, 163, 167, 173] ++
  [179, 181, 191, 193, 197, 199, 211, 223, 227, 229, 233, 239, 241, 251, 257, 263, 269, 271, 277, 281] ++
  [283, 293, 307, 311, 313, 317, 331, 337, 347, 349, 353, 359, 367, 373, 379, 383, 389, 397, 401, 409]

/-- Round constants: the first 64 fraction bits of the primes' cube roots. -/
def shaK : List Word := shaPrimes.map fun p => w64 (iroot 3 (p * 2 ^ 192) 68 0)

/-- Initial hash words: the first 64 fraction bits of the first eight primes' square roots. -/
def shaH0 : List Word := (shaPrimes.take 8).map fun p => w64 (iroot 2 (p * 2 ^ 128) 68 0)

/-- The padded message as bytes. -/
def shaPad (l : List Byte) : List Byte :=
  l ++ [0x80#8] ++ List.replicate ((239 - l.length % 128) % 128) 0 ++ (leBytes 16 (8 * l.length)).reverse

/-- The message schedule: the last sixteen words, newest first, give the next. -/
def shaExtend : Nat → List Word → List Word
  | 0, ws => ws
  | n + 1, ws =>
    let g (i : Nat) : Word := ws.getD i 0
    let s0 := (g 14).rotateRight 1 ^^^ (g 14).rotateRight 8 ^^^ (g 14 >>> 7)
    let s1 := (g 1).rotateRight 19 ^^^ (g 1).rotateRight 61 ^^^ (g 1 >>> 6)
    shaExtend n ((s1 + g 6 + s0 + g 15) :: ws)

/-- One round on the eight working words. -/
def shaRound (v : List Word) (kw : Word × Word) : List Word :=
  match v with
  | [a, b, c, d, e, f, g, h] =>
    let t1 := h + (e.rotateRight 14 ^^^ e.rotateRight 18 ^^^ e.rotateRight 41) + ((e &&& f) ^^^ (~~~e &&& g)) + kw.1 + kw.2
    let t2 := (a.rotateRight 28 ^^^ a.rotateRight 34 ^^^ a.rotateRight 39) + ((a &&& b) ^^^ (a &&& c) ^^^ (b &&& c))
    [t1 + t2, a, b, c, d + t1, e, f, g]
  | _ => v

/-- One 128-byte block. -/
def shaBlock (h : List Word) (block : List Byte) : List Word :=
  let ws := (List.range 16).map fun i => w64 (beNat ((block.drop (8 * i)).take 8))
  let sched := (shaExtend 64 ws.reverse).reverse
  List.zipWith (· + ·) h ((List.zip shaK sched).foldl shaRound h)

/-- All blocks of a padded message. -/
def shaBlocks : Nat → List Word → List Byte → List Word
  | 0, h, _ => h
  | n + 1, h, l => shaBlocks n (shaBlock h (l.take 128)) (l.drop 128)

/-- SHA-512 as 64 bytes. -/
def sha512 (l : List Byte) : List Byte :=
  let p := shaPad l
  (shaBlocks (p.length / 128) shaH0 p).flatMap fun w => (leBytes 8 w.toNat).reverse

/-- HMAC-SHA-512 (RFC 2104, named by R402). -/
def hmac512 (key msg : List Byte) : List Byte :=
  let k0 := if key.length > 128 then sha512 key else key
  let k := k0 ++ List.replicate (128 - k0.length) 0
  sha512 (k.map (· ^^^ 0x5C#8) ++ sha512 (k.map (· ^^^ 0x36#8) ++ msg))

/-- HKDF with SHA-512 giving 64 bytes (RFC 5869, named by R402). -/
def hkdf64 (ikm salt info : List Byte) : List Byte := hmac512 (hmac512 salt ikm) (info ++ [1#8])

end Sys2Proof.Machine
end

