-- ==== Sys2Proof/Machine/State.lean ====
section
/-! DEFINITION. The module's whole state as plain data, the reasons a command can stop, and the state after reset. -/
namespace Sys2Proof.Machine

/-- An exact value: NaN, an infinity, or a signed rational (so that −0 is kept, R187). -/
inductive Val where
  | nan
  | inf (neg : Bool)
  | fin (neg : Bool) (num den : Nat)
deriving DecidableEq, Repr

/-- Why a command stops with a fault. -/
inductive Fault where
  /-- Raised by every command whose operand names a unit, port, lane, slab, cage or entry row that the spec says does not
  exist (for example a port above 127 or a Vat slab above 0x7_FFFF). Safe: the model stops where no such part exists. -/
  | noSuchUnit
deriving DecidableEq, Repr

/-- Why the model has no meaning for a command. -/
inductive Refusal where
  /-- Raised by an arm of `exec` whose command has no meaning yet. Safe: nothing can be proved of it. -/
  | notModelled (mnemonic : String)
deriving DecidableEq, Repr

/-- The states of a function (Table 02.6). -/
inductive FnState where
  | off | starting | on | stopping | fenced | quarantined
deriving DecidableEq, Repr

/-- A function's state and its PENDING_ON flag (Table 02.7). -/
structure Fn where
  state : FnState := .off
  pendingOn : Bool := false
deriving DecidableEq, Repr

/-- The boot step in progress (Table 02.5); `held` is reset itself and `refWait` is REFCLK_WAIT (R29). -/
inductive Boot where
  | held | pll | starter | lanes | refWait | loaf | memory | proof | topology | readyStep | done
deriving DecidableEq, Repr

/-- Pins and supply domains (01). -/
structure Pins where
  alwaysOn : Bool := true
  mainUp : Bool := true
  /-- the supply monitor found an undervoltage or overvoltage, and the main rails are not shut down yet (Table 01.3) -/
  uvOv : Bool := false
  /-- an undervoltage or overvoltage shut the rails down, and no reset pulse has followed (R8) -/
  shutdown : Bool := false
  /-- MOD_RESET_N was asserted after that shutdown -/
  asserted : Bool := false
  /-- the input is lost, below 40.0 V, and the always-on domain still runs (R10) -/
  inputLost : Bool := false
  mateHigh : Bool := false
  resetLow : Bool := true
  perstLow : Bool := true
  ready : Bool := false
  fltP : Bool := true
  fltN : Bool := false
deriving DecidableEq, Repr

/-- Clock and throttle state beside the dictionary entries (R27, R41, R42). -/
structure Clk where
  rootLocked : Bool := false
  lanePll : BitVec 32 := 0
  refGood : Bool := true
  prevMsAbove : Bool := false
  /-- some 10 µs average of the current 1 ms window was not 5 % below its limit (R42) -/
  msPeakHigh : Bool := false
  aclkEdge : Nat := 0
deriving DecidableEq, Repr

/-- One serial lane (03). -/
structure Lane where
  txActive : Bool := false
  signal : Bool := false
  cdrLocked : Bool := false
  aligned : Bool := false
  deskewed : Bool := false
  inverted : Bool := false
  markerLane : Nat := 31
  lastMarker : Option Nat := none
  markerSeq : Nat := 0
  skew : Nat := 0
  /-- equaliser values applied at the last start: pre, main, post, CTLE (R51) -/
  applied : Option (Int × Int × Int × Int) := none
  /-- declared lost and not served since (R62, R63) -/
  lost : Bool := false
  /-- in loss of signal since a declaration (R60) -/
  los : Bool := false
  /-- invalid control blocks counted since the last valid MARKER (R48, R62) -/
  badBlocks : Nat := 0
  /-- fenced only because a SWITCH named it (R67) -/
  fencedBySwitch : Bool := false
  /-- the last 58 scrambled bits sent and received, the newest as bit 0 (R47), from 0 on (DESIGN CHOICE, log entry 122) -/
  tx : BitVec 58 := 0
  rx : BitVec 58 := 0
  /-- the 68 levels of the last slot sent, in order; none in electrical idle (R45, R46) -/
  line : List Int := []
deriving DecidableEq, Repr

/-- One lane group and its spare (R65 to R67). -/
structure LaneGroup where
  markerSeq : Nat := 0
  /-- position our transmitter carries on the spare -/
  carries : Option Nat := none
  /-- position our receiver reads from the spare -/
  reads : Option Nat := none
  /-- lane named by a SWITCH waiting for the next frame slot; 31 returns the position -/
  switchDue : Option Nat := none
  /-- last SWITCH block sent on the spare -/
  lastSwitch : Option (BitVec 136) := none
  spareIdent : Option (BitVec 256) := none
  spareRun : Option (BitVec 256 × Nat) := none
  /-- ports that have had their frame in the current slot of the grid, and whether a SWITCH takes its slot on the spare (R46) -/
  slotPorts : List Nat := []
  switching : Bool := false
  /-- bytes left of the spare's own identity frame (R54) -/
  spareFrame : List Byte := []
deriving DecidableEq, Repr

/-- A frame kept for retry (R73). -/
structure SentFrame where
  seq : Nat
  vc : Nat
  sop : Bool
  flit : BitVec 512
  sentAt : Nat
deriving DecidableEq, Repr

/-- The link layer of one port, cleared when it enters ON (R73 to R82). -/
structure Link where
  expected : Nat := 0
  nakState : Bool := false
  nakDue : Bool := false
  lastAccepted : Option Nat := none
  next : Nat := 0
  retry : List SentFrame := []
  lastAcked : Nat := 1023
  lastSent : Nat := 1023
  ackSeen : Bool := false
  replay : Option Nat := none
  t0 : Nat := 0
  k : Nat := 0
  /-- credits used on the far grant, per VC -/
  used : Tab Nat := []
  /-- cumulative credits returned to the far end, per VC -/
  ret : Tab Nat := []
  /-- credits the far end has in use of our grant, per VC -/
  farUsed : Tab Nat := []
  /-- far end's grant and its last credit_ret, per VC -/
  farGrant : Tab Nat := []
  farRet : Tab Nat := []
  /-- credits returned in the fabric cycle `lateAt`, usable from the next one (R77) -/
  late : Tab Nat := []
  lateAt : Nat := 0
  grantsKnown : Bool := false
  stateDue : Bool := false
  sinceState : Nat := 0
  /-- frame slots since the last ID_FRAME (R54) -/
  sinceId : Nat := 0
deriving DecidableEq, Repr

/-- Round-trip measurement (R82). At entry to ON the tag is 0, and echo_seen and echo_delay are 0 until a tag has come (DESIGN CHOICE,
log entry 120). -/
structure Echo where
  tag : Nat := 0
  /-- when each tag was first sent, by tag -/
  sentAt : Tab Nat := []
  seen : Nat := 0
  seenAt : Nat := 0
  largest : Option Nat := none
  periods : Nat := 0
  fixed : Bool := false
deriving DecidableEq, Repr

/-- What the header check decided for a packet (R92, R116). -/
inductive Fate where
  | drop
  | consume
  | forward (port vc : Nat)
deriving DecidableEq, Repr

/-- A packet being received on one VC (R72). -/
structure RxPacket where
  h : Header
  bytes : List Byte
  left : Nat
  fate : Fate
  /-- the cause of Table 04.10 that the header check found, if any -/
  cause : Option Nat := none
  /-- bytes reserved in the policer's bucket (R151) -/
  policed : Option Nat := none
  /-- frames of it whose hop credits have been returned (R79) -/
  back : Nat := 0
  /-- fc of the header check (R146) -/
  stamp : Nat := 0
  /-- its header check found that it takes a curd block (R142) -/
  needs : Bool := false
  /-- its place in the order in which headers came (R122) -/
  order : Nat := 0
deriving DecidableEq, Repr

/-- A packet on an egress queue: its output VC, the frames it has already sent, its block, and whether its trailer is stomped. -/
structure OutPacket where
  pkt : Packet
  vc : Nat
  stomped : Bool := false
  sent : Nat := 0
  /-- key of the curd or whey block it reads, if any -/
  block : Option Nat := none
  /-- port it arrived on, or 255 for the module itself -/
  arrival : Nat := 255
  /-- VC it arrived on -/
  arrivalVc : Nat := 0
  /-- its flits still stand in the arrival port's input buffer (R79, R142) -/
  inBuf : Bool := false
  /-- frames of it whose hop credits have been returned -/
  back : Nat := 0
  /-- ACCEPT, WINDOW_UPD or DROP_NOTICE made by a module (R155) -/
  express0 : Bool := false
  /-- its place in the order in which headers came (R122), or in which the module sent its own packets (R227); 0 for a notice -/
  order : Nat := 0
deriving DecidableEq, Repr

/-- The egress scheduler of one port (R154 to R159); V and the shaper credits stand in the dictionary entries. -/
structure Sched where
  s : Tab Nat := []
  f : Tab Nat := []
  eligible : Tab Bool := []
  ceiling : Nat := 130
deriving DecidableEq, Repr

/-- One port (03, 04, 07). -/
structure Port where
  run : Option (BitVec 256 × Nat) := none
  recorded : Option (BitVec 512) := none
  /-- what the checks of Table 03.4 found when the identity was recorded: 0 pass, a cause code, or none while they wait (R57, R61) -/
  checks : Option Nat := none
  farOn : Bool := false
  deskewed : Bool := false
  lossPending : Bool := false
  excluded : Bool := false
  noticeInForce : Bool := false
  /-- failures counted in the 1 h window `failWindow` (R373, R374) -/
  failures : Nat := 0
  failWindow : Nat := 0
  /-- stamp of the last PORT_DESKEW_FAIL (R56) -/
  deskewFailAt : Option Nat := none
  link : Link := {}
  echo : Echo := {}
  rx : Tab RxPacket := []
  queue : List OutPacket := []
  sched : Sched := {}
  lastTx : Option (BitVec 512 × BitVec 32) := none
  /-- the route-admission message was sent, and received (R127) -/
  admSent : Bool := false
  admReceived : Bool := false
deriving DecidableEq, Repr

/-- A slice's active link set and route bank, or box (R107 to R113). -/
structure SliceActive where
  kind : Nat
  links : BitVec 128
  table : List Byte
  origin : Nat
  extent : Nat
  wrap : Nat
deriving DecidableEq, Repr

/-- Topology states (Table 05.1). -/
inductive TopoState where
  | unsized | ready | coordParity | coordRange | coordSuspect
deriving DecidableEq, Repr

/-- Topology, slices and detours (05, 06). -/
structure Topo where
  /-- the sizes of the last accepted commit, persistent, and the active ones (R95) -/
  committed : Option (Nat × Nat × Nat) := none
  /-- slices whose SliceState was ON when last written, persistent (Table 05.5) -/
  wanted : List Nat := []
  sizes : Option (Nat × Nat × Nat) := none
  state : TopoState := .unsized
  slices : Tab SliceActive := []
  detours : Tab Nat := []
deriving DecidableEq, Repr

/-- An admission-window counter at the source edge (R130). -/
structure Window where
  src : BitVec 23
  module : Nat
  cls : BitVec 2
  bytes : Nat
deriving DecidableEq, Repr

/-- Unreported bytes at the destination edge (R131). -/
structure Returns where
  src : BitVec 23
  cls : BitVec 2
  bytes : Nat
  slice : BitVec 10
deriving DecidableEq, Repr

/-- A reorder context (R140). -/
structure Reorder where
  src : BitVec 23
  dst : BitVec 23
  e : Nat
  held : List OutPacket
  gap : Bool
deriving DecidableEq, Repr

/-- End-to-end state (06). -/
structure EndToEnd where
  windows : List Window := []
  returns : List Returns := []
  reorder : List Reorder := []
deriving DecidableEq, Repr

/-- A pool block in use (R148). `refs` 0 marks a leaked block. -/
structure Block where
  pool : Nat
  index : Nat
  refs : Nat
  reserveVc : Option Nat
  port : Nat
  leaked : Bool := false
  /-- of a CTRL packet: its 128 B blocks, in payload order (R143) -/
  chain : List Nat := []
deriving DecidableEq, Repr

/-- A packet held at its arrival: waiting for a block (R146), or where `outPort` is 255 for a port with VC 6 credit, and
where it is 254 for VC 7 credit (R119). For CTRL `copies` counts the 128 B blocks still to be granted. -/
structure Waiter where
  out : OutPacket
  outPort : Nat
  copies : Nat
  /-- fc in which the header check completed (R146) -/
  stamp : Nat
  loaf : Bool := false
  /-- the further copies that share its block: output port and packet (R142, R148) -/
  more : List (Nat × OutPacket) := []
  /-- the tables of its slice that were in force when its header passed (R113) -/
  slice : Option SliceActive := none
  /-- addressed to the module itself: its unit has it (R143) -/
  taken : Bool := false
deriving DecidableEq, Repr

/-- A packet for the module itself that stands in a block, or in its descriptor, until its unit is done with it (R143). -/
structure InPacket where
  port : Nat
  pkt : Packet
  block : Option Nat := none
  /-- the fc of its first flit -/
  stamp : Nat := 0
  /-- the unit has it and may still need its space -/
  taken : Bool := false
deriving DecidableEq, Repr

/-- Pools and policer state (07); pool 3 is the whey pool. -/
structure Pools where
  shared : Tab Nat := []
  reserve : Nat := 0
  blocks : Tab Block := []
  nextKey : Nat := 0
  waiting : List Waiter := []
  pointer : Nat := 0
  reserved : Tab Nat := []
  windowStart : Nat := 0
  pendingWindow : Option Nat := none
  /-- blocks freed in the fabric cycle `freedAt`, not grantable in it (R145): the VC of a reserve block, pool and index -/
  freed : List (Option Nat × Nat × Nat) := []
  freedAt : Nat := 0
  /-- fc after the last grant of each pool (R145: at most one block per fc) -/
  grantedAt : Tab Nat := []
  /-- headers that have come (R122), with the packets that the module has sent (R227); the model's own count -/
  nextIn : Nat := 0
  /-- packets of Loaf that the whey pool refused, which Loaf sends again, with their output where the route does not choose it (R150) -/
  loafQueue : List (OutPacket × Option Nat) := []
deriving DecidableEq, Repr

/-- A slab tag (Table 08.2 and its CRC words). -/
inductive Pend where
  | none
  | stage
  | refetch
  | readback
deriving DecidableEq, Repr

/-- A Vat access that waits for a pending slab (R167): a read, or a write of bytes at an offset of the unit. -/
structure VatReq where
  slab : Nat
  unit : Nat
  write : Option (Nat × List Byte)
  flips : List (Nat × Byte) := []
deriving DecidableEq, Repr

/-- A slab's tag (Table 08.2). -/
structure Tag where
  poisoned : Bool := false
  /-- blocks found bad where crc_mode is 1 or 2 -/
  badUnits : List Nat := []
  sourceValid : Bool := false
  /-- a stage or a refetch is writing the slab, or its read-back is owed -/
  pend : Pend := .none
  sourceSlab : Nat := 0
  owner : Nat := 0
  /-- CRC words by unit; a unit not listed holds the CRC of zero bytes -/
  crc : Tab (BitVec 32) := []
deriving DecidableEq, Repr

/-- The Vat (08). -/
structure Vat where
  mem : List Host.Cell := []
  tags : Tab Tag := []
  /-- physical position (bank × 4,096 + row) of a slab that was remapped or moved (R172, R173) -/
  place : Tab Nat := []
  /-- stamp of the last check failure of a physical position (R172) -/
  failedAt : Tab Nat := []
  packetSlabs : Nat := 0
  churnSlabs : Nat := 0
  stationSlabs : Nat := 0
  /-- runs (first, count) of headroom slabs, and of station slabs that have no place left (R173) -/
  headroom : List (Nat × Nat) := [(522240, 2048)]
  dead : List (Nat × Nat) := []
  /-- allocated runs of station slabs: (first, count) -/
  allocs : List (Nat × Nat) := []
  churnUsed : List Nat := []
  /-- remap copies in progress, as slab and failing physical position (R172), and banks being moved -/
  remaps : List (Nat × Nat) := []
  moves : List Nat := []
  /-- accesses that wait for pending slabs, oldest first (R167) -/
  queue : List VatReq := []
  /-- the refetched slab that is being delivered to its waiting readers (R169) -/
  delivered : Option Nat := none
  /-- through-mode copies in progress: Vat slab and Cellar home (R168) -/
  copies : List (Nat × Nat) := []
deriving DecidableEq, Repr

/-- A Cellar read in progress: a refetch, or a stage of a Vat slab (R176). -/
structure CellarReq where
  refetch : Bool
  /-- the Cellar slab that is read, and the Vat slab it goes to -/
  cslab : Nat
  slab : Nat
  /-- fc in which it arrived -/
  at_ : Nat
deriving DecidableEq, Repr

/-- The Cellar (08): bytes, slab CRCs, and through-mode or stage copies in progress. -/
structure Cellar where
  mem : List Host.Cell := []
  crc : Tab (BitVec 32) := []
  /-- reads in progress, in the order in which they are served (R176) -/
  queue : List CellarReq := []
deriving DecidableEq, Repr

/-- An A128 sum without its anchor: m and tag bits nan, pinf, ninf, sat (R192, Table 11.3). -/
structure AWord where
  m : Int := 0
  tag : BitVec 4 := 0
deriving DecidableEq, Repr

/-- One term of a FAST_FLOAT_SUM accumulator: when its trailer passed and its arrival port, and its encodings (R257). -/
structure FastTerms where
  passed : Nat
  port : Nat
  first : Nat
  code : Nat
  encs : List Nat
deriving DecidableEq, Repr

/-- An accumulator of a reduction (R243, R245). -/
structure Acc where
  /-- SUM family: one word per element -/
  words : List AWord := []
  /-- element encodings: MAX and MIN in in_fmt, FAST_FLOAT_SUM in FP32 -/
  elems : List (Option Nat) := []
  /-- flags of each FAST_FLOAT_SUM element -/
  eflags : List Nat := []
  /-- terms added: source (rank, or 2^20 + child bundle) and chunk -/
  added : List (Nat × Nat) := []
  /-- SPARSE_SUM: some term of its portion was present -/
  present : Bool := false
  openAt : Nat := 0
  /-- its skew window has ended, and when -/
  closed : Bool := false
  closedAt : Nat := 0
  /-- it spills once the terms in progress are added (R245) -/
  spillDue : Bool := false
  /-- FAST_FLOAT_SUM: the terms added in the fc `sumFc`, in order, and the elements and flags before them (R257) -/
  sumFc : Nat := 0
  sumTerms : List FastTerms := []
  baseElems : List (Option Nat) := []
  baseFlags : List Nat := []
  /-- the churn slab it spilled to or opened in -/
  slab : Option Nat := none
  /-- why it is poisoned (Table 10.4's reasons) -/
  poison : Option Nat := none
  /-- its two converters disagreed (R260) -/
  convertBad : Bool := false
  emitted : Bool := false
deriving DecidableEq, Repr

/-- The summary a subtree sends up in JOIN_UP (R213, R222). -/
structure JoinSummary where
  joined : Nat
  lowRank : Nat
  lowHash : Word
  diffRank : Nat
  diffId : Nat
  lowCrumb : Word
  crumbDiffRank : Nat
  crumbDiffId : Nat
deriving DecidableEq, Repr

/-- The summary a subtree sends up in DONE_UP (R213, R227). -/
structure DoneSummary where
  poisoned : Nat
  unreachedCount : Nat
  unreachedRank : Nat
  unreachedId : Nat
deriving DecidableEq, Repr

/-- A contribution that waits to be taken into a staging row (R244): its source key (rank, or 2^20 + child bundle). -/
structure Contribution where
  source : Nat
  chunk : Nat
  pkt : Packet
  port : Nat
  /-- the fc of its first flit, while it has not had to wait (R245) -/
  stamp : Option Nat := none
  /-- the fc in which its trailer passed -/
  passed : Nat := 0
  /-- its length has been looked at (R241) -/
  checked : Bool := false
deriving DecidableEq, Repr

/-- An open collective instance at this module (R205). -/
structure Inst where
  /-- op of the first JOIN (Table 10.10 open_op) -/
  op : Nat := 0
  /-- the descriptor of the first JOIN that passed (R209) -/
  desc : Option (BitVec 512) := none
  joins : List (Nat × BitVec 512) := []
  failedJoins : List Nat := []
  /-- by child bundle -/
  joinUps : Tab JoinSummary := []
  joinUpSent : Bool := false
  joinDone : Bool := false
  /-- by rank: the number of its chunks, and of its spans, taken -/
  nextChunk : Tab Nat := []
  nextSpan : Tab Nat := []
  /-- anchor entries by span, and who reported them: (source, span) -/
  maxima : Tab (List Int) := []
  reported : List (Nat × Nat) := []
  maximaSent : Nat := 0
  finals : Tab (List Int) := []
  /-- when a span's FINAL was installed -/
  finalAt : Tab Nat := []
  finalsSent : Nat := 0
  /-- ANCHOR packets for a later span, as (source, port, packet): a rank, 2^20 + child bundle, 2^21 the parent (R251) -/
  anchors : List (Nat × Nat × Packet) := []
  /-- contributions to a reduction, not yet taken (R244) -/
  waiting : List Contribution := []
  /-- data-moving chunks not yet passed on (R216, R219) -/
  held : List Contribution := []
  accs : Tab Acc := []
  /-- result chunks the root has emitted -/
  sentChunks : List Nat := []
  /-- CONTRIB packets by child bundle, and COLL_RESULT packets from the parent -/
  up : Tab Nat := []
  down : Nat := 0
  /-- result copies by local rank: queued, and acknowledged by the link -/
  queued : Tab Nat := []
  acked : Tab Nat := []
  /-- copies sent and not acknowledged: port, number of the last frame, rank -/
  unacked : List (Nat × Nat × Nat) := []
  unreached : List Nat := []
  /-- poisoned result chunks and their reasons (R231), by chunk or by rank × 2^32 + chunk (SHIFT, PERMUTE) -/
  poisoned : Tab Nat := []
  doneUps : Tab DoneSummary := []
  doneUpSent : Bool := false
  flags : BitVec 8 := 0
  invalidCount : Nat := 0
  firstInvalid : Nat := 0xFFFF_FFFF_FFFF_FFFF
  crumb : Word := 0
  /-- a result depended on arrival order (R257) -/
  timing : Bool := false
  /-- result chunks of a replica sum, by chunk (R344) -/
  sums : Tab (List Byte) := []
  runs : Nat := 1
  resident : Bool := true
  /-- packets that wait for the record to become resident (R236) -/
  parked : List (Nat × Packet) := []
  lastPacket : Nat := 0
deriving DecidableEq, Repr

/-- A group entry at this module (R200, R203). -/
structure Group where
  gdef : GroupDef
  /-- a recomputed tree, used from the next epoch (R204) -/
  nextDef : Option GroupDef := none
  /-- the recomputed tree leaves this module out -/
  leaving : Bool := false
  epoch : Nat := 1
  ordinal : Nat := 0
  chain : Word := 0
  inst : Option Inst := none
  heldJoins : List (Nat × Packet) := []
  /-- CONTRIBs of another edge module for the next instance, which they do not open (R205, R219) -/
  early : List Contribution := []
  /-- relays of the tree reported lost (R232) -/
  lost : List Nat := []
  lastRecord : Option (BitVec 512) := none
  /-- re-runs behind the next instance, and the epoch a RERUN closed last -/
  runs : Nat := 0
  rerunOf : Option Nat := none
  /-- the words of the last committed replica sum (R344) -/
  sums : Tab (List Byte) := []
deriving DecidableEq, Repr

/-- A group commit made on this module (R200, R201): tree modules whose acknowledgement is missing, those that accepted,
and the first refusal in R200's order (0 none). -/
structure GroupCommit where
  group : Nat
  install : Bool
  awaiting : List Nat
  accepted : List Nat := []
  refusal : Nat := 0
deriving DecidableEq, Repr

/-- One unit of a MATMUL (R272) and its accumulator bank. -/
structure KUnit where
  inv : Nat
  /-- 0: the step's product (Y, or dX of a pair); 1: the pair's second product dW -/
  product : Nat
  mTile : Nat
  nChunk : Nat
  kGroup : Nat
  cluster : Nat
  chunk : Nat
  /-- it holds one of its cluster's six accumulator banks (R272, R304) -/
  bank : Bool := false
  /-- ANCHOR mode: the anchors of its elements, from its first pass on (R275) -/
  anchors : List Int := []
  /-- the element sums of the tile, row-major: FP32 encodings, or A128 words without their anchors -/
  floats : List Nat := []
  words : List AWord := []
  flags : List Nat := []
  /-- the failures of this unit's runs so far (Table 12.4), and the first failure of this run with its array -/
  seen : List KneadVerdict := []
  failing : Option (KneadVerdict × Nat) := none
  /-- the array that ran its last pass, the columns and whether a vector had a comparison there (R281) -/
  last : Option (Nat × List Nat × Bool) := none
  /-- the array whose repair its recompute waits for (R282) -/
  waitFor : Option Nat := none
  poisoned : Bool := false
  finished : Bool := false
deriving DecidableEq, Repr

/-- A tile: what it is of, the elements by column, an absent one as none, and the residue sums of its K positions (R264, R280).
`side`: 0 streamed, 1 stationary; `unit`: the unit it was loaded for. -/
structure KTile where
  unit : Nat := 0
  job : Nat
  product : Nat
  side : Nat
  index : Nat
  chunk : Nat
  cols : List (List (Option Val)) := []
  rk : List Nat := []
deriving DecidableEq, Repr

/-- One half of a transposing buffer: its tile, the Vat slabs it came from, and whether it is being loaded again (R174). -/
structure TbufHalf where
  tile : Option KTile := none
  slabs : List Nat := []
  reloading : Bool := false
deriving DecidableEq, Repr

/-- The transposing buffers (R174): halves by 2 × cluster + half, and the half each cluster fills next. -/
structure Tbuf where
  halves : Tab TbufHalf := []
  fill : Tab Nat := []
deriving DecidableEq, Repr

/-- Registers, repairs and strikes of one array (R264, R282, R284). -/
structure KArray where
  /-- the tiles in its active and shadow stationary registers -/
  active : Option KTile := none
  shadow : Option KTile := none
  rows : List Nat := []
  cols : List Nat := []
  fenced : Bool := false
  /-- strikes of the 24 h window `window`: by column, and of the checksum -/
  window : Nat := 0
  columnStrikes : Tab Nat := []
  checksumStrikes : Nat := 0
  dueCols : List Nat := []
  dueRows : List Nat := []
deriving DecidableEq, Repr

/-- The Knead (12): clusters in service in dealing order, the spare, units in flight. -/
structure Knead where
  order : List Nat := [0, 1, 2, 3, 4, 5, 6, 7]
  spare : Option Nat := some 8
  arrays : Tab KArray := []
  units : Tab KUnit := []
  nextUnit : Nat := 0
deriving DecidableEq, Repr

/-- Bytes staged for a recipe (Table 13.14). -/
structure RecipeStage where
  header : List Byte := []
  steps : List Byte := []
  tensors : List Byte := []
deriving DecidableEq, Repr

/-- An installed recipe (R292). -/
structure Recipe where
  header : BitVec 256
  steps : List (BitVec 128)
  tensors : List (BitVec 256)
  removing : Bool := false
deriving DecidableEq, Repr

/-- The state of one expert slot (R330 to R335). -/
inductive SlotState where
  | waiting | outstanding | returned | overflow | degraded
deriving DecidableEq, Repr

/-- One expert slot of an invocation (14). -/
structure ESlot where
  token : Nat
  slot : Nat
  expert : Nat
  state : SlotState
  primary : Nat := 0
  backup : Option Nat := none
  owner : Nat := 0
  toBackup : Bool := false
  attempt : Nat := 0
  /-- parts taken into the return buffer -/
  parts : List Nat := []
  /-- its DISPATCH step, and the row of a that it sends -/
  disp : Nat
  row : List Byte := []
  /-- the owners it was sent to -/
  sentTo : List Nat := []
deriving DecidableEq, Repr

/-- How a step stands (R301). -/
inductive StepPhase where
  | idle        -- not started
  | running     -- a MATMUL's units, a DISPATCH, a STAGE or a compare is in progress
  | waiting     -- waits for locks, a slot, a version or the slabs of a return buffer (R302, R324, R336)
  | blocked     -- waits for a pending slab, for its DISPATCH, or for earlier asynchronous steps (R167, R320, R337)
  | done        -- ready for STEP_COMPLETE
  | closing     -- ended; its completion record has not left yet (R321)
deriving DecidableEq, Repr

/-- A MATMUL in progress (R272): the K groups of each of its products, fixed at issue. -/
structure MatJob where
  groups : List Nat
  poisoned : Bool := false
  /-- its first unit's number -/
  first : Nat := 0
  /-- SCAN: the largest exponents of each product's rows of A and columns of B (R275) -/
  maxA : List (List (Option Int)) := []
  maxB : List (List (Option Int)) := []
deriving DecidableEq, Repr

/-- An asynchronous step in progress: STAGE IN (slab pairs left to copy) or DISPATCH. -/
structure AsyncStep where
  step : Nat
  stage : List (Nat × Nat) := []
  dispatch : Bool := false
deriving DecidableEq, Repr

/-- An admitted invocation (R295 to R301). -/
structure Inv where
  port : Nat
  srcId : BitVec 23
  dstId : BitVec 23
  tag : Nat
  recipe : Nat
  slice : BitVec 10
  generation : Nat
  inputBytes : Nat
  tokenBase : Nat
  tokenCount : Nat
  stepTag : Nat
  inputBase : Nat
  scratchBase : Nat
  outputBase : Nat
  /-- place in the order of admission -/
  order : Nat := 0
  /-- a packet 0 repeated its (src, tag): what follows is the repeated message (R299) -/
  dup : Bool := false
  received : Nat := 0
  nextChunk : Nat := 1
  lastPayload : Nat := 0
  readyAt : Option Nat := none
  context : Bool := false
  started : Bool := false
  step : Nat := 0
  phase : StepPhase := .idle
  status : Option Nat := none
  job : Option MatJob := none
  asyncs : List AsyncStep := []
  slots : List ESlot := []
  /-- return buffers by DISPATCH step: first slab -/
  rets : Tab Nat := []
  /-- reader counts held: (step, station × 4 + version, slot) -/
  readers : List (Nat × Nat × Nat) := []
  slotTaken : Option Nat := none
  flags : BitVec 8 := 0
  stepFlags : BitVec 8 := 0
  stepInvalid : Nat := 0
  stepFirst : Nat := 0xFFFF_FFFF_FFFF_FFFF
  invalidStep : Nat := 0xFFFF
  invalidCount : Nat := 0
  firstInvalid : Nat := 0xFFFF_FFFF_FFFF_FFFF
  readTag : Nat := 0xFFFF_FFFF
  newTag : Nat := 0xFFFF_FFFF
  timing : Nat := 0
  crumb : Word := 0
  culprit : Nat := 0xFFFF_FFFF
  station : Nat := 0xFFFF
  /-- a collective instance that the current step joined: group and epoch (R319, R344) -/
  coll : Option (Nat × Nat) := none
  /-- ended before its first step started (Table 13.6) -/
  early : Bool := false
  /-- its completion record, formed and not yet sent (R297, R301, R321) -/
  closing : Option (BitVec 512) := none
deriving DecidableEq, Repr

/-- A lock on a station field, with the rows of a STASH it covers (R302, R341). -/
structure Lock where
  inv : Nat
  step : Nat
  station : Nat
  field : Nat
  write : Bool
  rows : Option (Nat × Nat) := none
deriving DecidableEq, Repr

/-- Recipes and invocations (13). -/
structure Recipes where
  stages : Tab RecipeStage := []
  installed : Tab Recipe := []
  /-- definitions installed again at boot, persistent (R294) -/
  kept : Tab RecipeStage := []
  results : Tab Nat := []
  invs : Tab Inv := []
  generations : Tab Nat := []
  histories : Tab (List (BitVec 23 × Nat × BitVec 512)) := []
  /-- admission order, and ready invocations in the order in which they became ready (R301) -/
  nextOrder : Nat := 0
  ready : List Nat := []
  locks : List Lock := []
  lockQueue : List Lock := []
deriving DecidableEq, Repr

/-- A version slot (R324, R354). State 0 unused, 1 kept, 2 writing. -/
structure VSlot where
  state : Nat := 0
  tag : Nat := 0
  readers : Nat := 0
  /-- the field whose kind-1 crumb is kept, and the crumb (R354) -/
  crumb : Option (Nat × Word) := none
deriving DecidableEq, Repr

/-- Bytes staged for a station (Table 13.14). -/
structure StationStage where
  header : List Byte := []
  fields : List Byte := []
  initTag : Nat := 0
deriving DecidableEq, Repr

/-- An installed station (R323). State 1 LOADING, 2 READY, 3 INCONSISTENT. -/
structure Station where
  header : BitVec 128
  fields : List (BitVec 256)
  state : Nat
  initTag : Nat
  /-- first slab of each field's copy 0 -/
  bases : List Nat
  slots : List VSlot
  updates : Nat := 0
  sinceCompare : Nat := 0
  chain : Word := 0
  stale : Nat := 0
  waitTime : Nat := 0
  updateQueue : List Nat := []
deriving DecidableEq, Repr

/-- Stations (13). -/
structure Stations where
  stages : Tab StationStage := []
  results : Tab Nat := []
  installed : Tab Station := []
  /-- definitions installed again at boot, persistent (R323) -/
  kept : Tab StationStage := []
deriving DecidableEq, Repr

/-- SAVE and RESTORE (15). Phase 0 none, 1 saving, 2 verifying, 3 applying. -/
structure SaveState where
  phase : Nat := 0
  target : Nat := 0
  base : Nat := 0
  stations : List Nat := []
  groups : List Nat := []
  image : List Byte := []
  buffer : Option (Nat × Nat) := none
  /-- entries staged for the crumb ring (R356) -/
  crumbQueue : List (BitVec 256) := []
deriving DecidableEq, Repr

/-- A fault record (Table 16.3). -/
structure Record where
  id : Nat
  siteKind : Nat
  siteIndex : Nat
  cls : Nat
  firstCode : Nat
  lastCode : Nat
  causes : BitVec 64
  firstFc : Nat
  lastFc : Nat
  merges : Nat := 0
  context : Word := 0
  opened : Bool := true
  reported : Bool := false
deriving DecidableEq, Repr

/-- Faults (16). -/
structure Faults where
  records : List Record := []
  fatal : Option Nat := none
  frozen : Bool := false
  flash : Option (BitVec 512) := none
  /-- errors counted toward thresholds: (unit key → count) in the current window -/
  counted : Tab Nat := []
deriving DecidableEq, Repr

/-- Fence notices (R378, R379). -/
structure Fence where
  seq : Nat := 0
  applied : Tab Nat := []
  bits : List Nat := []
deriving DecidableEq, Repr

/-- Proof (R381 to R386). Phase 0 none, 1 taking over, 2 testing, 3 deferred. -/
structure Proof where
  /-- due units in due order, with whether a pass unfences the unit (R377) -/
  queue : List (Nat × Bool) := []
  active : Option Nat := none
  phase : Nat := 0
  retried : Bool := false
  withheld : Bool := false
  /-- the unit that carries its work (R382) -/
  cover : Option Nat := none
  unfencing : Bool := false
  results : Tab (Nat × Nat) := []
deriving DecidableEq, Repr

/-- The control complex (R375): cores restarting and groups waiting. -/
structure Cores where
  restarting : List Nat := []
deriving DecidableEq, Repr

/-- A subscribed watch (R408). -/
structure Watch where
  index : Nat
  sub : Nat
  interval : Nat
  last : Option (List Byte) := none
deriving DecidableEq, Repr

/-- A write block transfer (R404). -/
structure Transfer where
  index : Nat
  sub : Nat
  total : Nat
  got : List Byte
deriving DecidableEq, Repr

/-- An MDP session, from CHALLENGE on (R401 to R403). -/
structure Session where
  id : Nat
  addr : BitVec 128
  slot : Nat
  /-- false between CHALLENGE and PROVE -/
  isOpen : Bool
  role : Nat
  /-- the keys of R402 -/
  managerKey : List Byte
  moduleKey : List Byte
  lastSeq : Nat := 0
  cached : Option (BitVec 128 × List Byte) := none
  eventSeq : Nat := 1
  mask : Word := 0
  watches : List Watch := []
  queue : List (Nat × BitVec 1024 × Nat) := []
  lost : Nat := 0
  transfer : Option Transfer := none
deriving DecidableEq, Repr

/-- Management state (17). -/
structure Mgmt where
  sessions : List Session := []
  nextSession : Nat := 1
  authFails : List (BitVec 128 × Nat) := []
  lockouts : List (BitVec 128) := []
  mailboxTransfer : Option Transfer := none
  /-- session-scoped entries (R394): ((source, address), value) -/
  sessionRegs : List ((Source × Nat) × List Byte) := []
  /-- addresses of persistent values waiting for flash, and the values flash holds (R393) -/
  waiting : List Nat := []
  flash : Tab (List Byte) := []
  resetAtBoot : Nat := 0
  eventSeq : Nat := 0
deriving DecidableEq, Repr

/-- The PCI Express function (R409 to R415). -/
structure HostIf where
  linkUp : Bool := false
  /-- speed and width at the last release of PERST_N (PcieLinkStatus) -/
  link : Nat := 0
  enable : Bool := false
  sqBase : BitVec 64 := 0
  cqBase : BitVec 64 := 0
  eqBase : BitVec 64 := 0
  sqSize : Nat := 0
  cqSize : Nat := 0
  eqSize : Nat := 0
  sqHead : Nat := 0
  sqTail : Nat := 0
  cqHead : Nat := 0
  cqTail : Nat := 0
  eqHead : Nat := 0
  eqTail : Nat := 0
  phase : Bool := true
  /-- entries behind the doorbell, not fetched yet (R411) -/
  ringed : List (BitVec 512) := []
  fetched : List (BitVec 512) := []
  /-- commands done but not completed in ring order: (entry, status, done bytes, detail) -/
  finished : List (BitVec 512 × Nat × Nat × Nat) := []
  aborted : List (BitVec 16) := []
  abortPending : Bool := false
  eventLost : Nat := 0
  unraised : List Nat := []
deriving DecidableEq, Repr

/-- A Loaf slot (R419): state 0 EMPTY, 1 INVALID, 2 VALID, 3 TRIAL, 4 CONFIRMED; header fields of Table 18.1 as checked. -/
structure LoafSlot where
  state : Nat := 0
  trialBoots : Nat := 0
  image : List Byte := []
deriving DecidableEq, Repr

/-- Firmware, OTP and measurements (18). -/
structure Firmware where
  slotA : LoafSlot := { state := 4 }
  slotB : LoafSlot := {}
  active : Nat := 0
  running : Nat := 0
  rollback : Nat := 0
  revokedFirmware : BitVec 4 := 0
  revokedEngine : BitVec 4 := 0
  bootCount : Nat := 0
  programming : Bool := false
  live : Option Nat := none
  measures : List (BitVec 512) := [0, 0, 0, 0]
deriving DecidableEq, Repr

/-- One cage and the insert in it (R430 to R433). -/
structure Cage where
  insert : Option Insert := none
  lastSerial : List Byte := []
  laserOn : Bool := false
  wear : Nat := 0
  /-- this seating's insertion is not written yet (R432, R435) -/
  writeDue : Bool := false
deriving DecidableEq, Repr

/-- What leaves the module other than frames: datagrams, host-memory writes, interrupts, insert memory writes. -/
inductive Out where
  | mdp (addr : BitVec 128) (header : BitVec 128) (body tag : List Byte)
  | hostMem (addr : Nat) (bytes : List Byte)
  | msix (vector : Nat)
  | insertMem (cage offset : Nat) (bytes : List Byte)
  | icmp (addr : BitVec 128) (payload : List Byte)
  | neighbor (addr target : BitVec 128) (mac : BitVec 48)
deriving DecidableEq, Repr

/-- The state of the module. -/
structure State where
  /-- the fabric cycle counter (R31), kept modulo 2^64 by its readers -/
  now : Nat := 0
  boot : Boot := .held
  pins : Pins := {}
  clk : Clk := {}
  /-- scalar dictionary entries by address (index × 256 + sub), raw bits; an address not listed holds its default -/
  regs : Tab Nat := []
  /-- byte-string dictionary entries by address -/
  blobs : Tab (List Byte) := []
  /-- function states by state-entry address (Table 02.8) -/
  fns : Tab Fn := []
  lanes : Tab Lane := []
  laneGroups : Tab LaneGroup := []
  ports : Tab Port := []
  topo : Topo := {}
  e2e : EndToEnd := {}
  pools : Pools := {}
  vat : Vat := {}
  cellar : Cellar := {}
  /-- transposing-buffer halves being reloaded: cluster × 2 + half -/
  tbuf : Tbuf := {}
  groups : Tab Group := []
  /-- the commit made here that is still running -/
  groupCommit : Option GroupCommit := none
  knead : Knead := {}
  recipes : Recipes := {}
  stations : Stations := {}
  save : SaveState := {}
  faults : Faults := {}
  fence : Fence := {}
  proof : Proof := {}
  cores : Cores := {}
  mgmt : Mgmt := {}
  host : HostIf := {}
  fw : Firmware := {}
  cages : Tab Cage := []
  engineRecords : List (List Byte × Nat × Nat) := []
  /-- packets addressed to the module, taken but not yet consumed: (arrival port, packet) -/
  inbox : List InPacket := []
  outbox : List Out := []
  /-- draws made of the free values of Config (the model's own field, log entry 4) -/
  draws : Nat := 0
  /-- commands waiting, first in first out -/
  pending : List Instr := []
deriving DecidableEq, Repr

/-- The module held in reset with its supply good and nothing else happened: MOD_RESET_N low, every entry at its
default, memories cleared (log entries 1 and 2). -/
def State.reset : State := {}

end Sys2Proof.Machine
end

