-- ==== Sys2Proof/Machine/Dict.lean ====
section
/-! DEFINITION. The object dictionary (17): the address of every entry, the table of its type, access right, default,
range and persistence as the chapters' dictionary tables state them, and raw access to the scalar entries. -/
namespace Sys2Proof.Machine

/-! Addresses of entries: index × 256 + sub-index (R390). -/

abbrev eSupplyVoltage : Nat := 0xA01001
abbrev eSupplyCurrent : Nat := 0xA01002
abbrev eSupplyPower : Nat := 0xA01003
abbrev eSupplyPeakPower : Nat := 0xA01004
abbrev eSupplyLowCount : Nat := 0xA01005
abbrev eSupplyHighCount : Nat := 0xA01006
abbrev eFaultPairState : Nat := 0xA01101
abbrev eStrapSample : Nat := 0xA01201
abbrev eCageInsert : Nat := 0xA01202
abbrev eFunctionFencedCount : Nat := 0x1F0001
abbrev eFunctionQuarantinedCount : Nat := 0x1F0002
abbrev ePortState (k : Nat) : Nat := 0x1F0101 + k
abbrev eLaneState (k : Nat) : Nat := 0x1F1000 + k
abbrev eClusterState (k : Nat) : Nat := 0x1F2000 + k
abbrev eControlGroupState (k : Nat) : Nat := 0x1F2100 + k
abbrev eSliceState (k : Nat) : Nat := 0x1F3000 + k
abbrev eEngineState (k : Nat) : Nat := 0x1F4000 + k
abbrev eFabricCycleCount : Nat := 0xA00001
abbrev eRefClkSource : Nat := 0xA00002
abbrev eRefClkLostCount : Nat := 0xA00003
abbrev eRootPllLocked : Nat := 0xA00004
abbrev eLanePllLocked : Nat := 0xA00005
abbrev eThrottleLevel : Nat := 0xA00101
abbrev eThermalLevel : Nat := 0xA00102
abbrev ePowerLevel : Nat := 0xA00103
abbrev eAclkSkippedCount : Nat := 0xA00104
abbrev eDieTempMax : Nat := 0xA00105
abbrev eThrottleStartTemp : Nat := 0xA00106
abbrev eThermalTripTemp : Nat := 0xA00107
abbrev eBootStage : Nat := 0xA00201
abbrev eBootTime : Nat := 0xA00202
abbrev eLaneStatus (L : Nat) : Nat := (0x2000 + L) * 256 + 0x01
abbrev eLaneSkew (L : Nat) : Nat := (0x2000 + L) * 256 + 0x02
abbrev eLaneLosCount (L : Nat) : Nat := (0x2000 + L) * 256 + 0x03
abbrev eLaneCdrUnlockCount (L : Nat) : Nat := (0x2000 + L) * 256 + 0x04
abbrev eLaneMarkerErrorCount (L : Nat) : Nat := (0x2000 + L) * 256 + 0x05
abbrev eLaneMarginErrorCount (L : Nat) : Nat := (0x2000 + L) * 256 + 0x06
abbrev eEffectivePre (L : Nat) : Nat := (0x2000 + L) * 256 + 0x07
abbrev eEffectiveMain (L : Nat) : Nat := (0x2000 + L) * 256 + 0x08
abbrev eEffectivePost (L : Nat) : Nat := (0x2000 + L) * 256 + 0x09
abbrev eEffectiveCtle (L : Nat) : Nat := (0x2000 + L) * 256 + 0x0A
abbrev eLaneSwitchCount (L : Nat) : Nat := (0x2000 + L) * 256 + 0x0B
abbrev eLaneUserCal (g k : Nat) : Nat := (0x2E00 + g) * 256 + (0x01 + k)
abbrev eLaneFactoryCal (g k : Nat) : Nat := (0x2F00 + g) * 256 + (0x01 + k)
abbrev ePortFarIdentity (p : Nat) : Nat := (0x2400 + p) * 256 + 0x01
abbrev ePortExpectedEndpoint (p : Nat) : Nat := (0x2400 + p) * 256 + 0x02
abbrev ePortNegotiatedLevel (p : Nat) : Nat := (0x2400 + p) * 256 + 0x03
abbrev ePortFarPort (p : Nat) : Nat := (0x2400 + p) * 256 + 0x04
abbrev ePortQuarantineCause (p : Nat) : Nat := (0x2400 + p) * 256 + 0x05
abbrev ePortLaneOrderSeen (p : Nat) : Nat := (0x2400 + p) * 256 + 0x06
abbrev ePortFailCount (p : Nat) : Nat := (0x2400 + p) * 256 + 0x07
abbrev ePortRetryExhaustCount (p : Nat) : Nat := (0x2400 + p) * 256 + 0x08
abbrev ePortQuarantineDropCount (p : Nat) : Nat := (0x2400 + p) * 256 + 0x09
abbrev eRindLevelMin : Nat := 0x248001
abbrev eRindLevelMax : Nat := 0x248002
abbrev eLaneMarginLimit : Nat := 0x248003
abbrev eLinkCrcErrorCount (p : Nat) : Nat := (0x2400 + p) * 256 + 0x0A
abbrev eLinkNakSentCount (p : Nat) : Nat := (0x2400 + p) * 256 + 0x0B
abbrev eLinkReplayCount (p : Nat) : Nat := (0x2400 + p) * 256 + 0x0C
abbrev eLinkTimerExpiryCount (p : Nat) : Nat := (0x2400 + p) * 256 + 0x0D
abbrev eLinkDuplicateCount (p : Nat) : Nat := (0x2400 + p) * 256 + 0x0E
abbrev eLinkFramingErrorCount (p : Nat) : Nat := (0x2400 + p) * 256 + 0x0F
abbrev eLinkUnknownFrameCount (p : Nat) : Nat := (0x2400 + p) * 256 + 0x10
abbrev eLinkProtocolErrorCount (p : Nat) : Nat := (0x2400 + p) * 256 + 0x11
abbrev ePortRoundTrip (p : Nat) : Nat := (0x2400 + p) * 256 + 0x12
abbrev ePortCreditGrant (p k : Nat) : Nat := (0x2400 + p) * 256 + (0x13 + k)
abbrev ePacketCrcErrorCount (p : Nat) : Nat := (0x2400 + p) * 256 + 0x1B
abbrev ePacketStompSeenCount (p : Nat) : Nat := (0x2400 + p) * 256 + 0x1C
abbrev ePacketTruncatedCount (p : Nat) : Nat := (0x2400 + p) * 256 + 0x1D
abbrev ePacketHeaderDropCount (p : Nat) : Nat := (0x2400 + p) * 256 + 0x1E
abbrev eDropNoticeSentCount (p : Nat) : Nat := (0x2400 + p) * 256 + 0x1F
abbrev eRetryBufferFullTime (p : Nat) : Nat := (0x2400 + p) * 256 + 0x20
abbrev eLinkStateInterval : Nat := 0x248004
abbrev eLinkRetryBufferDepth : Nat := 0x248005
abbrev eLinkRetryTimer : Nat := 0x248006
abbrev eTopologyState : Nat := 0x400001
abbrev eModuleCoordinate : Nat := 0x400002
abbrev eTorusSizeX : Nat := 0x400003
abbrev eTorusSizeY : Nat := 0x400004
abbrev eTorusSizeZ : Nat := 0x400005
abbrev eTorusSizeCommit : Nat := 0x400006
abbrev eTorusSizeActive : Nat := 0x400007
abbrev eModuleNumber : Nat := 0x400008
abbrev eTableSliceCount : Nat := 0x400009
abbrev eSliceCheckDropCount (k : Nat) : Nat := 0x400101 + k
abbrev ePortBondLeader (p : Nat) : Nat := (0x2400 + p) * 256 + 0x21
abbrev ePortBondStatus (p : Nat) : Nat := (0x2400 + p) * 256 + 0x22
abbrev eSliceKind (s : Nat) : Nat := (0x4100 + s) * 256 + 0x01
abbrev eSliceLinkMask (s : Nat) : Nat := (0x4100 + s) * 256 + 0x02
abbrev eSliceBoxOrigin (s : Nat) : Nat := (0x4100 + s) * 256 + 0x03
abbrev eSliceBoxExtent (s : Nat) : Nat := (0x4100 + s) * 256 + 0x04
abbrev eSliceBoxWrap (s : Nat) : Nat := (0x4100 + s) * 256 + 0x05
abbrev eSliceRouteTable (s : Nat) : Nat := (0x4100 + s) * 256 + 0x06
abbrev eSliceCommit (s : Nat) : Nat := (0x4100 + s) * 256 + 0x07
abbrev eSliceInstallResult (s : Nat) : Nat := (0x4100 + s) * 256 + 0x08
abbrev eSliceActiveLinkMask (s : Nat) : Nat := (0x4100 + s) * 256 + 0x09
abbrev eSliceDropCount (s : Nat) : Nat := (0x4100 + s) * 256 + 0x0A
abbrev eSliceDrainDropCount (s : Nat) : Nat := (0x4100 + s) * 256 + 0x0B
abbrev ePortRoutable (p : Nat) : Nat := (0x2400 + p) * 256 + 0x23
abbrev eFabricAdmitted : Nat := 0x450001
abbrev eFabricAdmit : Nat := 0x450002
abbrev eDetourTable : Nat := 0x450003
abbrev eDetourActiveCount : Nat := 0x450004
abbrev eBulkEscapeWait : Nat := 0x450005
abbrev eStallTimeout : Nat := 0x450006
abbrev eRouteDropCount : Nat := 0x450101
abbrev eDestPortDownDropCount : Nat := 0x450102
abbrev eLocalFailoverCount : Nat := 0x450103
abbrev eBulkEscapeCount : Nat := 0x450104
abbrev eStallDropCount : Nat := 0x450105
abbrev eAdmissionWindowExpress : Nat := 0x480001
abbrev eAdmissionWindowBulk : Nat := 0x480002
abbrev eWindowUpdThreshold : Nat := 0x480003
abbrev eWindowUpdDelay : Nat := 0x480004
abbrev eWindowLeakTimeout : Nat := 0x480005
abbrev eReorderHoldTime : Nat := 0x480006
abbrev eReorderContextCount : Nat := 0x480007
abbrev eAcceptSentCount : Nat := 0x480101
abbrev eWindowDropCount : Nat := 0x480102
abbrev eWindowUpdSentCount : Nat := 0x480103
abbrev eWindowLeakResetCount : Nat := 0x480104
abbrev eReorderHeldCount : Nat := 0x480105
abbrev eReorderTimeoutCount : Nat := 0x480106
abbrev eReorderNoContextCount : Nat := 0x480107
abbrev eReorderContextsInUse : Nat := 0x480108
abbrev eCurdPartitionSize : Nat := 0x300001
abbrev eCurdShare256 : Nat := 0x300002
abbrev eCurdShare1K : Nat := 0x300003
abbrev eCurdShare4K : Nat := 0x300004
abbrev eVcReserveBlocks : Nat := 0x300005
abbrev ePoolHighMark : Nat := 0x300006
abbrev ePoolLowMark : Nat := 0x300007
abbrev eCurdFreeBlocks (k : Nat) : Nat := 0x300101 + k
abbrev eCurdBlocksTotal (k : Nat) : Nat := 0x300104 + k
abbrev eCurdFullTime (k : Nat) : Nat := 0x300107 + k
abbrev eCurdUpsizeCount : Nat := 0x30010A
abbrev eVcReserveInUse (k : Nat) : Nat := 0x30010B + k
abbrev ePoolRefcountErrorCount : Nat := 0x300111
abbrev ePoolLeakedBlocks : Nat := 0x300112
abbrev ePoolPressureState : Nat := 0x300113
abbrev eWheyBlocksTotal : Nat := 0x300201
abbrev eWheyFreeBlocks : Nat := 0x300202
abbrev eWheyLoafReserve : Nat := 0x300203
abbrev eWheyFullTime : Nat := 0x300204
abbrev ePortCurdBlocksHeld (p : Nat) : Nat := (0x2400 + p) * 256 + 0x24
abbrev ePortBlockWaitTime (p : Nat) : Nat := (0x2400 + p) * 256 + 0x25
abbrev eEgressFlushDropCount (p : Nat) : Nat := (0x2400 + p) * 256 + 0x26
abbrev eCtrlCeilingWaitTime (p : Nat) : Nat := (0x2400 + p) * 256 + 0x27
abbrev ePolicerWindow : Nat := 0x300301
abbrev ePolicerEnable (p : Nat) : Nat := (0x3100 + p) * 256 + 0x01
abbrev ePolicerRate (p k : Nat) : Nat := (0x3100 + p) * 256 + (0x02 + k)
abbrev ePolicerBurst (p k : Nat) : Nat := (0x3100 + p) * 256 + (0x05 + k)
abbrev ePolicerTokens (p k : Nat) : Nat := (0x3100 + p) * 256 + (0x08 + k)
abbrev ePolicerDropCount (p k : Nat) : Nat := (0x3100 + p) * 256 + (0x0B + k)
abbrev eCtrlCeilingInterval : Nat := 0x300302
abbrev eCtrlCeilingDepth : Nat := 0x300303
abbrev eSchedWeight (p k : Nat) : Nat := (0x3200 + p) * 256 + (0x01 + k)
abbrev eShaperIdleSlope (p k : Nat) : Nat := (0x3200 + p) * 256 + (0x04 + k)
abbrev eShaperHiCredit (p k : Nat) : Nat := (0x3200 + p) * 256 + (0x07 + k)
abbrev eShaperLoCredit (p k : Nat) : Nat := (0x3200 + p) * 256 + (0x0A + k)
abbrev eShaperCredit (p k : Nat) : Nat := (0x3200 + p) * 256 + (0x0D + k)
abbrev eSchedVirtualTime (p : Nat) : Nat := (0x3200 + p) * 256 + 0x10
abbrev eClassFrameCount (p k : Nat) : Nat := (0x3200 + p) * 256 + (0x11 + k)
abbrev eVatCapacity : Nat := 0x700001
abbrev eChurnPartitionSize : Nat := 0x700002
abbrev eStationPartitionSize : Nat := 0x700003
abbrev eStationSlabsFree : Nat := 0x700004
abbrev eVatFenceHeadroom : Nat := 0x700005
abbrev eVatHeadroomFree : Nat := 0x700006
abbrev eVatBanksFenced : Nat := 0x700007
abbrev eVatCrcErrorCount : Nat := 0x700101
abbrev eVatRefetchCount : Nat := 0x700102
abbrev eVatPoisonCount : Nat := 0x700103
abbrev eVatPoisonedSlabs : Nat := 0x700104
abbrev eVatRowRemapCount : Nat := 0x700105
abbrev eVatRowFailWindow : Nat := 0x700106
abbrev eVatLastErrorSlab : Nat := 0x700107
abbrev eVatSlabTagRead : Nat := 0x700108
abbrev eVatBankSpareRowsUsed (b : Nat) : Nat := (0x7100 + b) * 256 + 0x01
abbrev eVatBankCrcErrorCount (b : Nat) : Nat := (0x7100 + b) * 256 + 0x02
abbrev eVatBankStatus (b : Nat) : Nat := (0x7100 + b) * 256 + 0x03
abbrev eCellarCapacity : Nat := 0x720001
abbrev eCellarEccCorrectedCount : Nat := 0x720002
abbrev eCellarCrcErrorCount : Nat := 0x720003
abbrev eCellarRefreshStallTime : Nat := 0x720004
abbrev eCellarRefreshRate : Nat := 0x720005
abbrev eCellarTempMax : Nat := 0x720006
abbrev eCrumbLogBase : Nat := 0x720007
abbrev eTbufReloadCount (k : Nat) : Nat := 0x730001 + k
abbrev ePlihotuProbeInput : Nat := 0x90F001
abbrev ePlihotuProbeOutput : Nat := 0x90F002
abbrev eFormatSupportMask : Nat := 0x90F003
abbrev eScaleSupportMask : Nat := 0x90F004
abbrev eGroupJoinTimeout : Nat := 0x500001
abbrev eCollProgressTimeout : Nat := 0x500002
abbrev eCollRerunLimit : Nat := 0x500003
abbrev eGroupsInstalled : Nat := 0x500004
abbrev eInstancesOpen : Nat := 0x500005
abbrev eChurnContextCount : Nat := 0x500006
abbrev eContextsResident : Nat := 0x500007
abbrev eGroupStageId : Nat := 0x500101
abbrev eGroupStageSlice : Nat := 0x500102
abbrev eGroupStageMembers : Nat := 0x500103
abbrev eGroupStagePermute : Nat := 0x500104
abbrev eGroupStageCommit : Nat := 0x500105
abbrev eGroupInstallResult : Nat := 0x500106
abbrev eGroupSelect : Nat := 0x500201
abbrev eGroupInfo : Nat := 0x500202
abbrev eGroupLastRecord : Nat := 0x500203
abbrev eCollCompletedCount : Nat := 0x500301
abbrev eCollEndCount (k : Nat) : Nat := 0x500302 + k
abbrev eCollRerunCount : Nat := 0x50030C
abbrev eCollPoisonSentCount : Nat := 0x50030D
abbrev eCollDuplicateCount : Nat := 0x50030E
abbrev eCollGapDiscardCount : Nat := 0x50030F
abbrev eCollStaleDiscardCount : Nat := 0x500310
abbrev eCollNotMemberCount : Nat := 0x500311
abbrev eCollUnreachedCount : Nat := 0x500312
abbrev eCollContextSwapCount : Nat := 0x500313
abbrev eChurnSkewWindow : Nat := 0x580001
abbrev eChurnLaneErrorLimit : Nat := 0x580002
abbrev eChurnLanesActive : Nat := 0x580003
abbrev eChurnSparesFree : Nat := 0x580004
abbrev eChurnGatherSlots : Nat := 0x580005
abbrev eChurnGatherInUse : Nat := 0x580006
abbrev eChurnAnchorSpanWindow : Nat := 0x580007
abbrev eChurnOnDieCount : Nat := 0x580101
abbrev eChurnSpillCount : Nat := 0x580102
abbrev eChurnLateTermCount : Nat := 0x580103
abbrev eChurnGatherFullCount : Nat := 0x580104
abbrev eChurnPartitionFullTime : Nat := 0x580105
abbrev eChurnSatCount : Nat := 0x580106
abbrev eChurnAnchorUnderReportCount : Nat := 0x580107
abbrev eChurnAnchorDiscardCount : Nat := 0x580108
abbrev eChurnLengthErrorCount : Nat := 0x580109
abbrev eChurnResidueErrorCount : Nat := 0x58010A
abbrev eChurnConvertMismatchCount : Nat := 0x58010B
abbrev eChurnFastFloatCount : Nat := 0x58010C
abbrev eChurnLaneStatus (l : Nat) : Nat := (0x5810 + l) * 256 + 0x01
abbrev eChurnLaneErrorCount (l : Nat) : Nat := (0x5810 + l) * 256 + 0x02
abbrev eKneadClustersInService : Nat := 0x600001
abbrev eKneadSpareCluster : Nat := 0x600002
abbrev eKneadLastFoldClusters : Nat := 0x600003
abbrev eKneadColumnFailLimit : Nat := 0x600004
abbrev eKneadChecksumFailLimit : Nat := 0x600005
abbrev eKneadStrikeWindow : Nat := 0x600006
abbrev eKneadPassCount : Nat := 0x600101
abbrev eKneadFoldChangeCount : Nat := 0x600102
abbrev eKneadRecomputeCount : Nat := 0x600103
abbrev eKneadCheckFailCount : Nat := 0x600104
abbrev eKneadCheckSkipCount : Nat := 0x600105
abbrev eKneadZeroTileSkipCount : Nat := 0x600106
abbrev eKneadSparsePassCount : Nat := 0x600107
abbrev eKneadBackwardArrayForwardPassCount : Nat := 0x600108
abbrev eKneadSubstitutionCount : Nat := 0x600109
abbrev eKneadUncheckedPassCount : Nat := 0x60010A
abbrev eKneadAnchorSatCount : Nat := 0x60010B
abbrev eArrayStatus (n : Nat) : Nat := (0x6010 + n) * 256 + 0x01
abbrev eArrayRowRepair (n : Nat) : Nat := (0x6010 + n) * 256 + 0x02
abbrev eArrayColRepair (n : Nat) : Nat := (0x6010 + n) * 256 + 0x03
abbrev eArrayCheckFailCount (n : Nat) : Nat := (0x6010 + n) * 256 + 0x04
abbrev eArrayPassCount (n : Nat) : Nat := (0x6010 + n) * 256 + 0x05
abbrev eClusterSubstituteFor (c : Nat) : Nat := (0x6030 + c) * 256 + 0x01
abbrev eClusterUnitsInFlight (c : Nat) : Nat := (0x6030 + c) * 256 + 0x02
abbrev eRecipeSelect : Nat := 0x680001
abbrev eRecipeHeader : Nat := 0x680002
abbrev eRecipeSteps : Nat := 0x680003
abbrev eRecipeTensors : Nat := 0x680004
abbrev eRecipeCommit : Nat := 0x680005
abbrev eRecipeInstallResult : Nat := 0x680006
abbrev eRecipeStatus : Nat := 0x680007
abbrev eRecipeStepStoreFree : Nat := 0x680008
abbrev eInvocationsOpen : Nat := 0x680101
abbrev eContextsBusy : Nat := 0x680102
abbrev eRecipeInputTimeout : Nat := 0x680103
abbrev eRecipeStepTimeout : Nat := 0x680104
abbrev eRecipeOpenLimit : Nat := 0x680105
abbrev eRecipeContextCount : Nat := 0x680106
abbrev eRecipeHistoryDepth : Nat := 0x680107
abbrev eInvokeCount : Nat := 0x680201
abbrev eRecipeEndCount (k : Nat) : Nat := 0x680202 + k
abbrev eRecipeDuplicateCount : Nat := 0x680213
abbrev eRecipeDiscardCount : Nat := 0x680214
abbrev eStationSelect : Nat := 0x688001
abbrev eStationHeader : Nat := 0x688002
abbrev eStationFields : Nat := 0x688003
abbrev eStationCommit : Nat := 0x688004
abbrev eStationInstallResult : Nat := 0x688005
abbrev eStationState : Nat := 0x688006
abbrev eStationInitTag : Nat := 0x688007
abbrev eStationFieldBase : Nat := 0x688008
abbrev eStationVersions : Nat := 0x688009
abbrev eStationUpdateCount : Nat := 0x68800A
abbrev eStationUpdatesSinceCompare : Nat := 0x68800B
abbrev eStationStaleCount : Nat := 0x68800C
abbrev eStationUpdateWaitTime : Nat := 0x68800D
abbrev eStationsInstalled : Nat := 0x688101
abbrev eExpertOwnerWindow : Nat := 0x690001
abbrev eExpertRetryInterval : Nat := 0x690002
abbrev eExpertReturnBufferSlabs : Nat := 0x690003
abbrev eExpertSlotsOutstanding : Nat := 0x690004
abbrev eExpertDispatchCount : Nat := 0x690101
abbrev eExpertResendCount : Nat := 0x690102
abbrev eExpertOverflowCount : Nat := 0x690103
abbrev eExpertDegradedCount : Nat := 0x690104
abbrev eExpertBackupCount : Nat := 0x690105
abbrev eExpertRerouteCount : Nat := 0x690106
abbrev eExpertTimeoutCount : Nat := 0x690107
abbrev eExpertDuplicateReturnCount : Nat := 0x690108
abbrev eExpertStaleReturnCount : Nat := 0x690109
abbrev eExpertLengthErrorCount : Nat := 0x69010A
abbrev eExpertWindowWaitTime : Nat := 0x69010B
abbrev eReplicaSumCount : Nat := 0x690201
abbrev eReplicaSumFailCount : Nat := 0x690202
abbrev eStashRangeErrorCount : Nat := 0x690203
abbrev eDeterminismStrict : Nat := 0x900001
abbrev eStrictRefusedCount : Nat := 0x900002
abbrev eTimingChoiceTotal : Nat := 0x900101
abbrev eCrumbLogHead : Nat := 0x900201
abbrev eCrumbLogEntries : Nat := 0x900202
abbrev eCrumbLogMask : Nat := 0x900203
abbrev eCrumbLogDropCount : Nat := 0x900204
abbrev eStationCrumbChain : Nat := 0x900301
abbrev eStationVersionCrumbs : Nat := 0x900302
abbrev eGroupCrumbChain : Nat := 0x900303
abbrev eGroupCommitOrdinal : Nat := 0x900304
abbrev eSaveTarget : Nat := 0x900401
abbrev eSaveCellarBase : Nat := 0x900402
abbrev eSaveStationList : Nat := 0x900403
abbrev eSaveGroupList : Nat := 0x900404
abbrev eSaveCommand : Nat := 0x900405
abbrev eSaveResult : Nat := 0x900406
abbrev eSaveImageSlabs : Nat := 0x900407
abbrev eSaveImageDigest : Nat := 0x900408
abbrev eSaveLastStation : Nat := 0x900409
abbrev eFaultLogHead : Nat := 0x800001
abbrev eFaultLogDepth : Nat := 0x800002
abbrev eFaultRecordSelect : Nat := 0x800003
abbrev eFaultRecord : Nat := 0x800004
abbrev eFaultOpenCount : Nat := 0x800005
abbrev eFaultMergeWindow : Nat := 0x800006
abbrev eFaultMsixVector : Nat := 0x800007
abbrev eLastFatalRecord : Nat := 0x800008
abbrev eFaultUnreportedCount : Nat := 0x800009
abbrev eFaultUnfence : Nat := 0x80000A
abbrev eFaultUnfenceResult : Nat := 0x80000B
abbrev eFaultClassCount (k : Nat) : Nat := 0x800101 + k
abbrev eCoreEccLimit : Nat := 0x800201
abbrev ePortFailLimit : Nat := 0x800202
abbrev eReplicaDivergeAction : Nat := 0x800203
abbrev eFenceNoticeDelay : Nat := 0x800301
abbrev eFenceRefreshInterval : Nat := 0x800302
abbrev eFenceNoticeGeneration : Nat := 0x800303
abbrev eFencedEndpointCount : Nat := 0x800304
abbrev eFenceTable : Nat := 0x800305
abbrev eFenceNoticeSentCount : Nat := 0x800306
abbrev eFenceNoticeStaleCount : Nat := 0x800307
abbrev eControlCoreState (n : Nat) : Nat := (0x8010 + n) * 256 + 0x01
abbrev ePortFenceNoticeEnable (p : Nat) : Nat := (0x2400 + p) * 256 + 0x28
abbrev eProofPeriod : Nat := 0x880001
abbrev eProofDeferral : Nat := 0x880002
abbrev eProofEnable : Nat := 0x880003
abbrev eProofOrigin : Nat := 0x880004
abbrev eProofUnitCount : Nat := 0x880005
abbrev eProofNow : Nat := 0x880006
abbrev eProofActiveUnit : Nat := 0x880007
abbrev eProofWindow : Nat := 0x880008
abbrev eProofRunCount : Nat := 0x880101
abbrev eProofFailCount : Nat := 0x880102
abbrev eProofDeferCount : Nat := 0x880103
abbrev eProofWithholdCount : Nat := 0x880104
abbrev eProofSkipCount : Nat := 0x880105
abbrev eProofUnitSelect : Nat := 0x880106
abbrev eProofUnitResult : Nat := 0x880107
abbrev eVendorName : Nat := 0x100001
abbrev eProductName : Nat := 0x100002
abbrev ePartNumber : Nat := 0x100003
abbrev eSerialNumber : Nat := 0x100004
abbrev eHardwareRevision : Nat := 0x100005
abbrev eMacAddress : Nat := 0x100006
abbrev ePciVendorId : Nat := 0x100007
abbrev ePciDeviceId : Nat := 0x100008
abbrev eLoafRevision : Nat := 0x100009
abbrev eStarterRevision : Nat := 0x10000A
abbrev eDictionaryVersion : Nat := 0x10000B
abbrev eNunorSheet : Nat := 0x10000C
abbrev eNunorSheetCrc : Nat := 0x10000D
abbrev eMdpVersion : Nat := 0x10000E
abbrev eMdpUdpPort : Nat := 0x110001
abbrev ePlcaNodeId : Nat := 0x110002
abbrev ePlcaNodeCount : Nat := 0x110003
abbrev eIpv6LinkLocal : Nat := 0x110004
abbrev eIpv6Address : Nat := 0x110005
abbrev eIpv6PrefixLength : Nat := 0x110006
abbrev eMdpSessionLimit : Nat := 0x110007
abbrev eMdpSessionsOpen : Nat := 0x110008
abbrev eMdpAuthFailCount : Nat := 0x110009
abbrev eMdpSeqErrorCount : Nat := 0x11000A
abbrev eMdpFrameErrorCount : Nat := 0x11000B
abbrev eMdpEventLostCount : Nat := 0x11000C
abbrev eManagerKey (k : Nat) : Nat := 0x111001 + k
abbrev eManagerKeyRole (k : Nat) : Nat := 0x111101 + k
abbrev ePcieLinkStatus : Nat := 0x112001
abbrev eMailboxMsixVector : Nat := 0x112002
abbrev eEventMsixVector : Nat := 0x112003
abbrev eHostEventMask : Nat := 0x112004
abbrev eHostEventDropCount : Nat := 0x112005
abbrev eDmaBytesToModule : Nat := 0x112006
abbrev eDmaBytesToHost : Nat := 0x112007
abbrev eMailboxAbortCount : Nat := 0x112008
abbrev ePersistPending : Nat := 0x113001
abbrev ePersistFlush : Nat := 0x113002
abbrev ePersistReset : Nat := 0x113003
abbrev eLoafSlotActive : Nat := 0xC00001
abbrev eLoafSlotState : Nat := 0xC00002
abbrev eLoafImage : Nat := 0xC00003
abbrev eFirmwareCommand : Nat := 0xC00004
abbrev eFirmwareResult : Nat := 0xC00005
abbrev eFirmwareProgress : Nat := 0xC00006
abbrev eAntiRollbackCounter : Nat := 0xC00007
abbrev eFirmwareKeyRevoked : Nat := 0xC00008
abbrev eBootCount : Nat := 0xC00009
abbrev eLiveUpdateCount : Nat := 0xC0000A
abbrev eAttestNonce : Nat := 0xC00101
abbrev eAttestReport : Nat := 0xC00102
abbrev eDeviceCertificate : Nat := 0xC00103
abbrev eMeasurementRegisters : Nat := 0xC00104
abbrev eEngineWearPercent : Nat := 0xB00001
abbrev eEngineRecordTable : Nat := 0xB00002
abbrev eEngineIdentity (n : Nat) : Nat := (0xB010 + n) * 256 + 0x01
abbrev eEngineIdentityResult (n : Nat) : Nat := (0xB010 + n) * 256 + 0x02
abbrev eEngineLaserHours (n : Nat) : Nat := (0xB010 + n) * 256 + 0x03
abbrev eEngineInsertions (n : Nat) : Nat := (0xB010 + n) * 256 + 0x04
abbrev eEngineWearState (n : Nat) : Nat := (0xB010 + n) * 256 + 0x05
abbrev eEngineFaultCause (n : Nat) : Nat := (0xB010 + n) * 256 + 0x06
abbrev eEngineTemp (n : Nat) : Nat := (0xB010 + n) * 256 + 0x07
abbrev eEnginePower (n : Nat) : Nat := (0xB010 + n) * 256 + 0x08

/-- Access rights (Table 17.2). -/
inductive Access where
  | ro | rw | wo | rwl | const
deriving DecidableEq, Repr

/-- One row of a dictionary table: `idxN` indices from `idx`, `subN` sub-indices from `sub`, the type code of Table 17.1,
the length in bytes (the largest, where `exact` is false), the range of a number, and what the value's length must be a
multiple of. -/
structure EntryRow where
  idx : Nat
  idxN : Nat
  sub : Nat
  subN : Nat
  ty : Nat
  len : Nat
  acc : Access
  lo : Int
  hi : Int
  mult : Nat
  persist : Bool
  session : Bool
  exact : Bool
deriving DecidableEq, Repr

/-- Entry rows, part 0. -/
def entryRows0 : List EntryRow := [
  ⟨0x1000, 1, 0x01, 1, 11, 255, .const, 0, 0, 1, false, false, false⟩,
  ⟨0x1000, 1, 0x02, 1, 11, 255, .const, 0, 0, 1, false, false, false⟩,
  ⟨0x1000, 1, 0x03, 1, 11, 255, .const, 0, 0, 1, false, false, false⟩,
  ⟨0x1000, 1, 0x04, 1, 11, 255, .const, 0, 0, 1, false, false, false⟩,
  ⟨0x1000, 1, 0x05, 1, 3, 2, .const, 0, 65535, 1, false, false, true⟩,
  ⟨0x1000, 1, 0x06, 1, 5, 8, .const, 0, 18446744073709551615, 1, false, false, true⟩,
  ⟨0x1000, 1, 0x07, 1, 3, 2, .const, 0, 65535, 1, false, false, true⟩,
  ⟨0x1000, 1, 0x08, 1, 3, 2, .const, 0, 65535, 1, false, false, true⟩,
  ⟨0x1000, 1, 0x09, 1, 4, 4, .ro, 0, 4294967295, 1, false, false, true⟩,
  ⟨0x1000, 1, 0x0A, 1, 4, 4, .const, 0, 4294967295, 1, false, false, true⟩,
  ⟨0x1000, 1, 0x0B, 1, 3, 2, .ro, 0, 65535, 1, false, false, true⟩,
  ⟨0x1000, 1, 0x0C, 1, 13, 4194304, .ro, 0, 0, 1, false, false, false⟩,
  ⟨0x1000, 1, 0x0D, 1, 5, 8, .ro, 0, 18446744073709551615, 1, false, false, true⟩,
  ⟨0x1000, 1, 0x0E, 1, 2, 1, .const, 0, 255, 1, false, false, true⟩,
  ⟨0x1100, 1, 0x01, 1, 3, 2, .rw, 1024, 65535, 1, true, false, true⟩,
  ⟨0x1100, 1, 0x02, 1, 2, 1, .rw, 0, 255, 1, true, false, true⟩,
  ⟨0x1100, 1, 0x03, 1, 2, 1, .rw, 2, 255, 1, true, false, true⟩,
  ⟨0x1100, 1, 0x04, 1, 12, 16, .ro, 0, 0, 1, false, false, true⟩,
  ⟨0x1100, 1, 0x05, 1, 12, 16, .rw, 0, 0, 1, true, false, true⟩,
  ⟨0x1100, 1, 0x06, 1, 2, 1, .rw, 8, 128, 1, true, false, true⟩,
  ⟨0x1100, 1, 0x07, 1, 2, 1, .const, 0, 255, 1, false, false, true⟩,
  ⟨0x1100, 1, 0x08, 1, 2, 1, .ro, 0, 255, 1, false, false, true⟩,
  ⟨0x1100, 1, 0x09, 1, 4, 4, .ro, 0, 4294967295, 1, false, false, true⟩,
  ⟨0x1100, 1, 0x0A, 1, 4, 4, .ro, 0, 4294967295, 1, false, false, true⟩,
  ⟨0x1100, 1, 0x0B, 1, 4, 4, .ro, 0, 4294967295, 1, false, false, true⟩,
  ⟨0x1100, 1, 0x0C, 1, 4, 4, .ro, 0, 4294967295, 1, false, false, true⟩,
  ⟨0x1110, 1, 0x01, 8, 12, 133, .rw, 0, 0, 1, true, false, true⟩,
  ⟨0x1111, 1, 0x01, 8, 2, 1, .rw, 0, 2, 1, true, false, true⟩,
  ⟨0x1120, 1, 0x01, 1, 3, 2, .ro, 0, 65535, 1, false, false, true⟩,
  ⟨0x1120, 1, 0x02, 1, 2, 1, .rw, 0, 63, 1, true, false, true⟩,
  ⟨0x1120, 1, 0x03, 1, 2, 1, .rw, 0, 63, 1, true, false, true⟩,
  ⟨0x1120, 1, 0x04, 1, 5, 8, .rw, 0, 18446744073709551615, 1, true, false, true⟩,
  ⟨0x1120, 1, 0x05, 1, 4, 4, .ro, 0, 4294967295, 1, false, false, true⟩,
  ⟨0x1120, 1, 0x06, 1, 5, 8, .ro, 0, 18446744073709551615, 1, false, false, true⟩,
  ⟨0x1120, 1, 0x07, 1, 5, 8, .ro, 0, 18446744073709551615, 1, false, false, true⟩,
  ⟨0x1120, 1, 0x08, 1, 4, 4, .ro, 0, 4294967295, 1, false, false, true⟩,
  ⟨0x1130, 1, 0x01, 1, 1, 1, .ro, 0, 1, 1, false, false, true⟩,
  ⟨0x1130, 1, 0x02, 1, 2, 1, .wo, 1, 1, 1, false, false, true⟩,
  ⟨0x1130, 1, 0x03, 1, 2, 1, .wo, 1, 2, 1, false, false, true⟩,
  ⟨0x1F00, 1, 0x01, 1, 3, 2, .ro, 0, 65535, 1, false, false, true⟩]

/-- Entry rows, part 1. -/
def entryRows1 : List EntryRow := [
  ⟨0x1F00, 1, 0x02, 1, 3, 2, .ro, 0, 65535, 1, false, false, true⟩,
  ⟨0x1F01, 1, 0x01, 128, 2, 1, .rw, 0, 255, 1, false, false, true⟩,
  ⟨0x1F10, 2, 0x00, 256, 2, 1, .rw, 0, 255, 1, false, false, true⟩,
  ⟨0x1F12, 1, 0x00, 32, 2, 1, .rw, 0, 255, 1, false, false, true⟩,
  ⟨0x1F20, 1, 0x00, 9, 2, 1, .rw, 0, 255, 1, false, false, true⟩,
  ⟨0x1F21, 1, 0x00, 4, 2, 1, .rw, 0, 255, 1, false, false, true⟩,
  ⟨0x1F30, 3, 0x00, 256, 2, 1, .rw, 0, 255, 1, false, false, true⟩,
  ⟨0x1F33, 1, 0x00, 256, 2, 1, .rw, 0, 255, 1, false, false, true⟩,
  ⟨0x1F40, 1, 0x00, 6, 2, 1, .rw, 0, 255, 1, false, false, true⟩,
  ⟨0x2000, 544, 0x01, 1, 4, 4, .ro, 0, 4294967295, 1, false, false, true⟩,
  ⟨0x2000, 544, 0x02, 1, 3, 2, .ro, 0, 65535, 1, false, false, true⟩,
  ⟨0x2000, 544, 0x03, 1, 4, 4, .ro, 0, 4294967295, 1, false, false, true⟩,
  ⟨0x2000, 544, 0x04, 1, 4, 4, .ro, 0, 4294967295, 1, false, false, true⟩,
  ⟨0x2000, 544, 0x05, 1, 4, 4, .ro, 0, 4294967295, 1, false, false, true⟩,
  ⟨0x2000, 544, 0x06, 1, 5, 8, .ro, 0, 18446744073709551615, 1, false, false, true⟩,
  ⟨0x2000, 544, 0x07, 1, 6, 1, .ro, (-128), 127, 1, false, false, true⟩,
  ⟨0x2000, 544, 0x08, 1, 6, 1, .ro, (-128), 127, 1, false, false, true⟩,
  ⟨0x2000, 544, 0x09, 1, 6, 1, .ro, (-128), 127, 1, false, false, true⟩,
  ⟨0x2000, 544, 0x0A, 1, 2, 1, .ro, 0, 255, 1, false, false, true⟩,
  ⟨0x2000, 544, 0x0B, 1, 4, 4, .ro, 0, 4294967295, 1, false, false, true⟩,
  ⟨0x2400, 128, 0x01, 1, 12, 64, .ro, 0, 0, 1, false, false, true⟩,
  ⟨0x2400, 128, 0x02, 1, 5, 8, .rw, 0, 18446744073709551615, 1, true, false, true⟩,
  ⟨0x2400, 128, 0x03, 1, 2, 1, .ro, 0, 255, 1, false, false, true⟩,
  ⟨0x2400, 128, 0x04, 1, 2, 1, .ro, 0, 255, 1, false, false, true⟩,
  ⟨0x2400, 128, 0x05, 1, 2, 1, .ro, 0, 255, 1, false, false, true⟩,
  ⟨0x2400, 128, 0x06, 1, 3, 2, .ro, 0, 65535, 1, false, false, true⟩,
  ⟨0x2400, 128, 0x07, 1, 4, 4, .ro, 0, 4294967295, 1, false, false, true⟩,
  ⟨0x2400, 128, 0x08, 1, 4, 4, .ro, 0, 4294967295, 1, false, false, true⟩,
  ⟨0x2400, 128, 0x09, 1, 4, 4, .ro, 0, 4294967295, 1, false, false, true⟩,
  ⟨0x2400, 128, 0x0A, 1, 4, 4, .ro, 0, 4294967295, 1, false, false, true⟩,
  ⟨0x2400, 128, 0x0B, 1, 4, 4, .ro, 0, 4294967295, 1, false, false, true⟩,
  ⟨0x2400, 128, 0x0C, 1, 4, 4, .ro, 0, 4294967295, 1, false, false, true⟩,
  ⟨0x2400, 128, 0x0D, 1, 4, 4, .ro, 0, 4294967295, 1, false, false, true⟩,
  ⟨0x2400, 128, 0x0E, 1, 4, 4, .ro, 0, 4294967295, 1, false, false, true⟩,
  ⟨0x2400, 128, 0x0F, 1, 4, 4, .ro, 0, 4294967295, 1, false, false, true⟩,
  ⟨0x2400, 128, 0x10, 1, 4, 4, .ro, 0, 4294967295, 1, false, false, true⟩,
  ⟨0x2400, 128, 0x11, 1, 4, 4, .ro, 0, 4294967295, 1, false, false, true⟩,
  ⟨0x2400, 128, 0x12, 1, 3, 2, .ro, 0, 65535, 1, false, false, true⟩,
  ⟨0x2400, 128, 0x13, 8, 3, 2, .rwl, 0, 65535, 1, true, false, true⟩,
  ⟨0x2400, 128, 0x1B, 1, 4, 4, .ro, 0, 4294967295, 1, false, false, true⟩]

/-- Entry rows, part 2. -/
def entryRows2 : List EntryRow := [
  ⟨0x2400, 128, 0x1C, 1, 4, 4, .ro, 0, 4294967295, 1, false, false, true⟩,
  ⟨0x2400, 128, 0x1D, 1, 4, 4, .ro, 0, 4294967295, 1, false, false, true⟩,
  ⟨0x2400, 128, 0x1E, 1, 4, 4, .ro, 0, 4294967295, 1, false, false, true⟩,
  ⟨0x2400, 128, 0x1F, 1, 4, 4, .ro, 0, 4294967295, 1, false, false, true⟩,
  ⟨0x2400, 128, 0x20, 1, 5, 8, .ro, 0, 18446744073709551615, 1, false, false, true⟩,
  ⟨0x2400, 104, 0x21, 1, 2, 1, .rwl, 0, 255, 1, true, false, true⟩,
  ⟨0x2400, 128, 0x22, 1, 2, 1, .ro, 0, 255, 1, false, false, true⟩,
  ⟨0x2400, 128, 0x23, 1, 1, 1, .ro, 0, 1, 1, false, false, true⟩,
  ⟨0x2400, 128, 0x24, 1, 4, 4, .ro, 0, 4294967295, 1, false, false, true⟩,
  ⟨0x2400, 128, 0x25, 1, 5, 8, .ro, 0, 18446744073709551615, 1, false, false, true⟩,
  ⟨0x2400, 128, 0x26, 1, 4, 4, .ro, 0, 4294967295, 1, false, false, true⟩,
  ⟨0x2400, 128, 0x27, 1, 5, 8, .ro, 0, 18446744073709551615, 1, false, false, true⟩,
  ⟨0x2400, 104, 0x28, 1, 1, 1, .rw, 0, 1, 1, true, false, true⟩,
  ⟨0x2480, 1, 0x01, 1, 2, 1, .ro, 0, 255, 1, false, false, true⟩,
  ⟨0x2480, 1, 0x02, 1, 2, 1, .ro, 0, 255, 1, false, false, true⟩,
  ⟨0x2480, 1, 0x03, 1, 4, 4, .rw, 0, 4294967295, 1, true, false, true⟩,
  ⟨0x2480, 1, 0x04, 1, 2, 1, .const, 0, 255, 1, false, false, true⟩,
  ⟨0x2480, 1, 0x05, 1, 3, 2, .const, 0, 65535, 1, false, false, true⟩,
  ⟨0x2480, 1, 0x06, 1, 3, 2, .const, 0, 65535, 1, false, false, true⟩,
  ⟨0x2E00, 32, 0x01, 68, 6, 1, .rw, (-128), 127, 1, true, false, true⟩,
  ⟨0x2F00, 32, 0x01, 68, 6, 1, .ro, (-128), 127, 1, false, false, true⟩,
  ⟨0x3000, 1, 0x01, 1, 3, 2, .rw, 128, 512, 16, true, false, true⟩,
  ⟨0x3000, 1, 0x02, 1, 2, 1, .rw, 0, 255, 1, true, false, true⟩,
  ⟨0x3000, 1, 0x03, 1, 2, 1, .rw, 0, 255, 1, true, false, true⟩,
  ⟨0x3000, 1, 0x04, 1, 2, 1, .rw, 0, 255, 1, true, false, true⟩,
  ⟨0x3000, 1, 0x05, 1, 3, 2, .rw, 8, 1024, 1, true, false, true⟩,
  ⟨0x3000, 1, 0x06, 1, 2, 1, .rw, 0, 255, 1, true, false, true⟩,
  ⟨0x3000, 1, 0x07, 1, 2, 1, .rw, 0, 255, 1, true, false, true⟩,
  ⟨0x3001, 1, 0x01, 3, 4, 4, .ro, 0, 4294967295, 1, false, false, true⟩,
  ⟨0x3001, 1, 0x04, 3, 4, 4, .ro, 0, 4294967295, 1, false, false, true⟩,
  ⟨0x3001, 1, 0x07, 3, 5, 8, .ro, 0, 18446744073709551615, 1, false, false, true⟩,
  ⟨0x3001, 1, 0x0A, 1, 5, 8, .ro, 0, 18446744073709551615, 1, false, false, true⟩,
  ⟨0x3001, 1, 0x0B, 6, 3, 2, .ro, 0, 65535, 1, false, false, true⟩,
  ⟨0x3001, 1, 0x11, 1, 4, 4, .ro, 0, 4294967295, 1, false, false, true⟩,
  ⟨0x3001, 1, 0x12, 1, 4, 4, .ro, 0, 4294967295, 1, false, false, true⟩,
  ⟨0x3001, 1, 0x13, 1, 2, 1, .ro, 0, 255, 1, false, false, true⟩,
  ⟨0x3002, 1, 0x01, 1, 4, 4, .const, 0, 4294967295, 1, false, false, true⟩,
  ⟨0x3002, 1, 0x02, 1, 4, 4, .ro, 0, 4294967295, 1, false, false, true⟩,
  ⟨0x3002, 1, 0x03, 1, 4, 4, .const, 0, 4294967295, 1, false, false, true⟩,
  ⟨0x3002, 1, 0x04, 1, 5, 8, .ro, 0, 18446744073709551615, 1, false, false, true⟩]

/-- Entry rows, part 3. -/
def entryRows3 : List EntryRow := [
  ⟨0x3003, 1, 0x01, 1, 4, 4, .rw, 140, 1400000, 1, true, false, true⟩,
  ⟨0x3003, 1, 0x02, 1, 2, 1, .const, 0, 255, 1, false, false, true⟩,
  ⟨0x3003, 1, 0x03, 1, 2, 1, .const, 0, 255, 1, false, false, true⟩,
  ⟨0x3100, 104, 0x01, 1, 2, 1, .rw, 0, 255, 1, true, false, true⟩,
  ⟨0x3100, 104, 0x02, 3, 4, 4, .rw, 0, 4294967295, 1, true, false, true⟩,
  ⟨0x3100, 104, 0x05, 3, 4, 4, .rw, 4132, 16777216, 1, true, false, true⟩,
  ⟨0x3100, 104, 0x08, 3, 4, 4, .ro, 0, 4294967295, 1, false, false, true⟩,
  ⟨0x3100, 104, 0x0B, 3, 4, 4, .ro, 0, 4294967295, 1, false, false, true⟩,
  ⟨0x3200, 128, 0x01, 3, 2, 1, .rw, 1, 255, 1, true, false, true⟩,
  ⟨0x3200, 128, 0x04, 3, 3, 2, .rw, 1, 1024, 1, true, false, true⟩,
  ⟨0x3200, 128, 0x07, 3, 8, 4, .rw, 1024, 1048576, 1, true, false, true⟩,
  ⟨0x3200, 128, 0x0A, 3, 8, 4, .rw, (-1048576), (-1024), 1, true, false, true⟩,
  ⟨0x3200, 128, 0x0D, 3, 8, 4, .ro, (-2147483648), 2147483647, 1, false, false, true⟩,
  ⟨0x3200, 128, 0x10, 1, 5, 8, .ro, 0, 18446744073709551615, 1, false, false, true⟩,
  ⟨0x3200, 128, 0x11, 3, 5, 8, .ro, 0, 18446744073709551615, 1, false, false, true⟩,
  ⟨0x4000, 1, 0x01, 1, 2, 1, .ro, 0, 255, 1, false, false, true⟩,
  ⟨0x4000, 1, 0x02, 1, 3, 2, .ro, 0, 65535, 1, false, false, true⟩,
  ⟨0x4000, 1, 0x03, 1, 2, 1, .rw, 0, 255, 1, true, false, true⟩,
  ⟨0x4000, 1, 0x04, 1, 2, 1, .rw, 0, 255, 1, true, false, true⟩,
  ⟨0x4000, 1, 0x05, 1, 2, 1, .rw, 0, 255, 1, true, false, true⟩,
  ⟨0x4000, 1, 0x06, 1, 2, 1, .wo, 1, 1, 1, false, false, true⟩,
  ⟨0x4000, 1, 0x07, 1, 3, 2, .ro, 0, 65535, 1, false, false, true⟩,
  ⟨0x4000, 1, 0x08, 1, 3, 2, .ro, 0, 65535, 1, false, false, true⟩,
  ⟨0x4000, 1, 0x09, 1, 3, 2, .ro, 0, 65535, 1, false, false, true⟩,
  ⟨0x4001, 1, 0x01, 5, 4, 4, .ro, 0, 4294967295, 1, false, false, true⟩,
  ⟨0x4100, 1024, 0x01, 1, 2, 1, .rwl, 0, 2, 1, true, false, true⟩,
  ⟨0x4100, 1024, 0x02, 1, 12, 16, .rw, 0, 0, 1, true, false, true⟩,
  ⟨0x4100, 1024, 0x03, 1, 3, 2, .rwl, 0, 65535, 1, true, false, true⟩,
  ⟨0x4100, 1024, 0x04, 1, 3, 2, .rwl, 0, 65535, 1, true, false, true⟩,
  ⟨0x4100, 1024, 0x05, 1, 2, 1, .rwl, 0, 255, 1, true, false, true⟩,
  ⟨0x4100, 1024, 0x06, 1, 13, 8192, .rw, 0, 0, 1, true, false, true⟩,
  ⟨0x4100, 1024, 0x07, 1, 2, 1, .wo, 1, 1, 1, false, false, true⟩,
  ⟨0x4100, 1024, 0x08, 1, 2, 1, .ro, 0, 255, 1, false, false, true⟩,
  ⟨0x4100, 1024, 0x09, 1, 12, 16, .ro, 0, 0, 1, false, false, true⟩,
  ⟨0x4100, 1024, 0x0A, 1, 4, 4, .ro, 0, 4294967295, 1, false, false, true⟩,
  ⟨0x4100, 1024, 0x0B, 1, 4, 4, .ro, 0, 4294967295, 1, false, false, true⟩,
  ⟨0x4500, 1, 0x01, 1, 1, 1, .ro, 0, 1, 1, false, false, true⟩,
  ⟨0x4500, 1, 0x02, 1, 2, 1, .wo, 1, 1, 1, false, false, true⟩,
  ⟨0x4500, 1, 0x03, 1, 13, 4096, .ro, 0, 0, 1, false, false, false⟩,
  ⟨0x4500, 1, 0x04, 1, 3, 2, .ro, 0, 65535, 1, false, false, true⟩]

/-- Entry rows, part 4. -/
def entryRows4 : List EntryRow := [
  ⟨0x4500, 1, 0x05, 1, 3, 2, .rw, 8, 1400, 1, true, false, true⟩,
  ⟨0x4500, 1, 0x06, 1, 4, 4, .rw, 100, 100000, 1, true, false, true⟩,
  ⟨0x4501, 1, 0x01, 1, 4, 4, .ro, 0, 4294967295, 1, false, false, true⟩,
  ⟨0x4501, 1, 0x02, 1, 4, 4, .ro, 0, 4294967295, 1, false, false, true⟩,
  ⟨0x4501, 1, 0x03, 1, 4, 4, .ro, 0, 4294967295, 1, false, false, true⟩,
  ⟨0x4501, 1, 0x04, 1, 5, 8, .ro, 0, 18446744073709551615, 1, false, false, true⟩,
  ⟨0x4501, 1, 0x05, 1, 4, 4, .ro, 0, 4294967295, 1, false, false, true⟩,
  ⟨0x4800, 1, 0x01, 1, 4, 4, .rw, 65536, 4194304, 1, true, false, true⟩,
  ⟨0x4800, 1, 0x02, 1, 4, 4, .rw, 65536, 4194304, 1, true, false, true⟩,
  ⟨0x4800, 1, 0x03, 1, 4, 4, .const, 0, 4294967295, 1, false, false, true⟩,
  ⟨0x4800, 1, 0x04, 1, 3, 2, .const, 0, 65535, 1, false, false, true⟩,
  ⟨0x4800, 1, 0x05, 1, 4, 4, .rw, 100, 100000, 1, true, false, true⟩,
  ⟨0x4800, 1, 0x06, 1, 3, 2, .rw, 5, 20, 1, true, false, true⟩,
  ⟨0x4800, 1, 0x07, 1, 3, 2, .const, 0, 65535, 1, false, false, true⟩,
  ⟨0x4801, 1, 0x01, 1, 5, 8, .ro, 0, 18446744073709551615, 1, false, false, true⟩,
  ⟨0x4801, 1, 0x02, 1, 4, 4, .ro, 0, 4294967295, 1, false, false, true⟩,
  ⟨0x4801, 1, 0x03, 1, 5, 8, .ro, 0, 18446744073709551615, 1, false, false, true⟩,
  ⟨0x4801, 1, 0x04, 1, 4, 4, .ro, 0, 4294967295, 1, false, false, true⟩,
  ⟨0x4801, 1, 0x05, 1, 5, 8, .ro, 0, 18446744073709551615, 1, false, false, true⟩,
  ⟨0x4801, 1, 0x06, 1, 4, 4, .ro, 0, 4294967295, 1, false, false, true⟩,
  ⟨0x4801, 1, 0x07, 1, 4, 4, .ro, 0, 4294967295, 1, false, false, true⟩,
  ⟨0x4801, 1, 0x08, 1, 3, 2, .ro, 0, 65535, 1, false, false, true⟩,
  ⟨0x5000, 1, 0x01, 1, 4, 4, .rw, 1000, 10000000, 1, true, false, true⟩,
  ⟨0x5000, 1, 0x02, 1, 4, 4, .rw, 100, 10000000, 1, true, false, true⟩,
  ⟨0x5000, 1, 0x03, 1, 2, 1, .rw, 0, 15, 1, true, false, true⟩,
  ⟨0x5000, 1, 0x04, 1, 4, 4, .ro, 0, 4294967295, 1, false, false, true⟩,
  ⟨0x5000, 1, 0x05, 1, 4, 4, .ro, 0, 4294967295, 1, false, false, true⟩,
  ⟨0x5000, 1, 0x06, 1, 3, 2, .const, 0, 65535, 1, false, false, true⟩,
  ⟨0x5000, 1, 0x07, 1, 3, 2, .ro, 0, 65535, 1, false, false, true⟩,
  ⟨0x5001, 1, 0x01, 1, 3, 2, .rw, 0, 65535, 1, false, true, true⟩,
  ⟨0x5001, 1, 0x02, 1, 3, 2, .rw, 0, 65535, 1, false, true, true⟩,
  ⟨0x5001, 1, 0x03, 1, 13, 1703936, .rw, 0, 0, 4, false, true, false⟩,
  ⟨0x5001, 1, 0x04, 1, 13, 524288, .rw, 0, 0, 8, false, true, false⟩,
  ⟨0x5001, 1, 0x05, 1, 2, 1, .wo, 1, 2, 1, false, false, true⟩,
  ⟨0x5001, 1, 0x06, 1, 2, 1, .ro, 0, 255, 1, false, false, true⟩,
  ⟨0x5002, 1, 0x01, 1, 3, 2, .rw, 0, 65535, 1, false, true, true⟩,
  ⟨0x5002, 1, 0x02, 1, 12, 0, .ro, 0, 0, 1, false, false, true⟩,
  ⟨0x5002, 1, 0x03, 1, 12, 64, .ro, 0, 0, 1, false, false, true⟩,
  ⟨0x5003, 1, 0x01, 1, 5, 8, .ro, 0, 18446744073709551615, 1, false, false, true⟩,
  ⟨0x5003, 1, 0x02, 10, 4, 4, .ro, 0, 4294967295, 1, false, false, true⟩]

/-- Entry rows, part 5. -/
def entryRows5 : List EntryRow := [
  ⟨0x5003, 1, 0x0C, 1, 4, 4, .ro, 0, 4294967295, 1, false, false, true⟩,
  ⟨0x5003, 1, 0x0D, 1, 4, 4, .ro, 0, 4294967295, 1, false, false, true⟩,
  ⟨0x5003, 1, 0x0E, 1, 5, 8, .ro, 0, 18446744073709551615, 1, false, false, true⟩,
  ⟨0x5003, 1, 0x0F, 1, 4, 4, .ro, 0, 4294967295, 1, false, false, true⟩,
  ⟨0x5003, 1, 0x10, 1, 4, 4, .ro, 0, 4294967295, 1, false, false, true⟩,
  ⟨0x5003, 1, 0x11, 1, 4, 4, .ro, 0, 4294967295, 1, false, false, true⟩,
  ⟨0x5003, 1, 0x12, 1, 4, 4, .ro, 0, 4294967295, 1, false, false, true⟩,
  ⟨0x5003, 1, 0x13, 1, 5, 8, .ro, 0, 18446744073709551615, 1, false, false, true⟩,
  ⟨0x5800, 1, 0x01, 1, 4, 4, .rw, 1400, 28000, 1, true, false, true⟩,
  ⟨0x5800, 1, 0x02, 1, 2, 1, .rw, 1, 16, 1, true, false, true⟩,
  ⟨0x5800, 1, 0x03, 1, 2, 1, .ro, 0, 255, 1, false, false, true⟩,
  ⟨0x5800, 1, 0x04, 1, 2, 1, .ro, 0, 255, 1, false, false, true⟩,
  ⟨0x5800, 1, 0x05, 1, 3, 2, .const, 0, 65535, 1, false, false, true⟩,
  ⟨0x5800, 1, 0x06, 1, 3, 2, .ro, 0, 65535, 1, false, false, true⟩,
  ⟨0x5800, 1, 0x07, 1, 2, 1, .const, 0, 255, 1, false, false, true⟩,
  ⟨0x5801, 1, 0x01, 1, 5, 8, .ro, 0, 18446744073709551615, 1, false, false, true⟩,
  ⟨0x5801, 1, 0x02, 1, 5, 8, .ro, 0, 18446744073709551615, 1, false, false, true⟩,
  ⟨0x5801, 1, 0x03, 1, 5, 8, .ro, 0, 18446744073709551615, 1, false, false, true⟩,
  ⟨0x5801, 1, 0x04, 1, 4, 4, .ro, 0, 4294967295, 1, false, false, true⟩,
  ⟨0x5801, 1, 0x05, 1, 5, 8, .ro, 0, 18446744073709551615, 1, false, false, true⟩,
  ⟨0x5801, 1, 0x06, 1, 5, 8, .ro, 0, 18446744073709551615, 1, false, false, true⟩,
  ⟨0x5801, 1, 0x07, 1, 4, 4, .ro, 0, 4294967295, 1, false, false, true⟩,
  ⟨0x5801, 1, 0x08, 1, 4, 4, .ro, 0, 4294967295, 1, false, false, true⟩,
  ⟨0x5801, 1, 0x09, 1, 4, 4, .ro, 0, 4294967295, 1, false, false, true⟩,
  ⟨0x5801, 1, 0x0A, 1, 4, 4, .ro, 0, 4294967295, 1, false, false, true⟩,
  ⟨0x5801, 1, 0x0B, 1, 4, 4, .ro, 0, 4294967295, 1, false, false, true⟩,
  ⟨0x5801, 1, 0x0C, 1, 5, 8, .ro, 0, 18446744073709551615, 1, false, false, true⟩,
  ⟨0x5810, 68, 0x01, 1, 2, 1, .ro, 0, 255, 1, false, false, true⟩,
  ⟨0x5810, 68, 0x02, 1, 4, 4, .ro, 0, 4294967295, 1, false, false, true⟩,
  ⟨0x6000, 1, 0x01, 1, 2, 1, .ro, 0, 255, 1, false, false, true⟩,
  ⟨0x6000, 1, 0x02, 1, 2, 1, .ro, 0, 255, 1, false, false, true⟩,
  ⟨0x6000, 1, 0x03, 1, 2, 1, .ro, 0, 255, 1, false, false, true⟩,
  ⟨0x6000, 1, 0x04, 1, 2, 1, .rw, 1, 16, 1, true, false, true⟩,
  ⟨0x6000, 1, 0x05, 1, 2, 1, .rw, 1, 16, 1, true, false, true⟩,
  ⟨0x6000, 1, 0x06, 1, 4, 4, .const, 0, 4294967295, 1, false, false, true⟩,
  ⟨0x6001, 1, 0x01, 1, 5, 8, .ro, 0, 18446744073709551615, 1, false, false, true⟩,
  ⟨0x6001, 1, 0x02, 1, 5, 8, .ro, 0, 18446744073709551615, 1, false, false, true⟩,
  ⟨0x6001, 1, 0x03, 1, 4, 4, .ro, 0, 4294967295, 1, false, false, true⟩,
  ⟨0x6001, 1, 0x04, 1, 4, 4, .ro, 0, 4294967295, 1, false, false, true⟩,
  ⟨0x6001, 1, 0x05, 1, 5, 8, .ro, 0, 18446744073709551615, 1, false, false, true⟩]

/-- Entry rows, part 6. -/
def entryRows6 : List EntryRow := [
  ⟨0x6001, 1, 0x06, 1, 5, 8, .ro, 0, 18446744073709551615, 1, false, false, true⟩,
  ⟨0x6001, 1, 0x07, 1, 5, 8, .ro, 0, 18446744073709551615, 1, false, false, true⟩,
  ⟨0x6001, 1, 0x08, 1, 5, 8, .ro, 0, 18446744073709551615, 1, false, false, true⟩,
  ⟨0x6001, 1, 0x09, 1, 4, 4, .ro, 0, 4294967295, 1, false, false, true⟩,
  ⟨0x6001, 1, 0x0A, 1, 5, 8, .ro, 0, 18446744073709551615, 1, false, false, true⟩,
  ⟨0x6001, 1, 0x0B, 1, 5, 8, .ro, 0, 18446744073709551615, 1, false, false, true⟩,
  ⟨0x6010, 27, 0x01, 1, 3, 2, .ro, 0, 65535, 1, false, false, true⟩,
  ⟨0x6010, 27, 0x02, 1, 3, 2, .ro, 0, 65535, 1, false, false, true⟩,
  ⟨0x6010, 27, 0x03, 1, 3, 2, .ro, 0, 65535, 1, false, false, true⟩,
  ⟨0x6010, 27, 0x04, 1, 4, 4, .ro, 0, 4294967295, 1, false, false, true⟩,
  ⟨0x6010, 27, 0x05, 1, 5, 8, .ro, 0, 18446744073709551615, 1, false, false, true⟩,
  ⟨0x6030, 9, 0x01, 1, 2, 1, .ro, 0, 255, 1, false, false, true⟩,
  ⟨0x6030, 9, 0x02, 1, 2, 1, .ro, 0, 255, 1, false, false, true⟩,
  ⟨0x6800, 1, 0x01, 1, 3, 2, .rw, 0, 4095, 1, false, true, true⟩,
  ⟨0x6800, 1, 0x02, 1, 12, 32, .rw, 0, 0, 1, true, false, true⟩,
  ⟨0x6800, 1, 0x03, 1, 13, 16384, .rw, 0, 0, 16, true, false, false⟩,
  ⟨0x6800, 1, 0x04, 1, 13, 8160, .rw, 0, 0, 32, true, false, false⟩,
  ⟨0x6800, 1, 0x05, 1, 2, 1, .wo, 1, 2, 1, false, false, true⟩,
  ⟨0x6800, 1, 0x06, 1, 2, 1, .ro, 0, 255, 1, false, false, true⟩,
  ⟨0x6800, 1, 0x07, 1, 2, 1, .ro, 0, 255, 1, false, false, true⟩,
  ⟨0x6800, 1, 0x08, 1, 4, 4, .ro, 0, 4294967295, 1, false, false, true⟩,
  ⟨0x6801, 1, 0x01, 1, 3, 2, .ro, 0, 65535, 1, false, false, true⟩,
  ⟨0x6801, 1, 0x02, 1, 2, 1, .ro, 0, 255, 1, false, false, true⟩,
  ⟨0x6801, 1, 0x03, 1, 4, 4, .rw, 10, 10000, 1, true, false, true⟩,
  ⟨0x6801, 1, 0x04, 1, 4, 4, .rw, 1000, 10000000, 1, true, false, true⟩,
  ⟨0x6801, 1, 0x05, 1, 3, 2, .const, 0, 65535, 1, false, false, true⟩,
  ⟨0x6801, 1, 0x06, 1, 2, 1, .const, 0, 255, 1, false, false, true⟩,
  ⟨0x6801, 1, 0x07, 1, 3, 2, .const, 0, 65535, 1, false, false, true⟩,
  ⟨0x6802, 1, 0x01, 1, 5, 8, .ro, 0, 18446744073709551615, 1, false, false, true⟩,
  ⟨0x6802, 1, 0x02, 17, 4, 4, .ro, 0, 4294967295, 1, false, false, true⟩,
  ⟨0x6802, 1, 0x13, 1, 4, 4, .ro, 0, 4294967295, 1, false, false, true⟩,
  ⟨0x6802, 1, 0x14, 1, 4, 4, .ro, 0, 4294967295, 1, false, false, true⟩,
  ⟨0x6880, 1, 0x01, 1, 3, 2, .rw, 0, 4095, 1, false, true, true⟩,
  ⟨0x6880, 1, 0x02, 1, 12, 16, .rw, 0, 0, 1, true, false, true⟩,
  ⟨0x6880, 1, 0x03, 1, 13, 512, .rw, 0, 0, 1, true, false, true⟩,
  ⟨0x6880, 1, 0x04, 1, 2, 1, .wo, 1, 4, 1, false, false, true⟩,
  ⟨0x6880, 1, 0x05, 1, 2, 1, .ro, 0, 255, 1, false, false, true⟩,
  ⟨0x6880, 1, 0x06, 1, 2, 1, .ro, 0, 255, 1, false, false, true⟩,
  ⟨0x6880, 1, 0x07, 1, 4, 4, .rw, 0, 4294967295, 1, true, false, true⟩,
  ⟨0x6880, 1, 0x08, 1, 12, 128, .ro, 0, 0, 1, false, false, true⟩]

/-- Entry rows, part 7. -/
def entryRows7 : List EntryRow := [
  ⟨0x6880, 1, 0x09, 1, 12, 64, .ro, 0, 0, 1, false, false, true⟩,
  ⟨0x6880, 1, 0x0A, 1, 5, 8, .ro, 0, 18446744073709551615, 1, false, false, true⟩,
  ⟨0x6880, 1, 0x0B, 1, 3, 2, .ro, 0, 65535, 1, false, false, true⟩,
  ⟨0x6880, 1, 0x0C, 1, 4, 4, .ro, 0, 4294967295, 1, false, false, true⟩,
  ⟨0x6880, 1, 0x0D, 1, 5, 8, .ro, 0, 18446744073709551615, 1, false, false, true⟩,
  ⟨0x6881, 1, 0x01, 1, 3, 2, .ro, 0, 65535, 1, false, false, true⟩,
  ⟨0x6900, 1, 0x01, 1, 3, 2, .rw, 1, 4096, 1, true, false, true⟩,
  ⟨0x6900, 1, 0x02, 1, 4, 4, .rw, 25, 1000, 1, true, false, true⟩,
  ⟨0x6900, 1, 0x03, 1, 4, 4, .ro, 0, 4294967295, 1, false, false, true⟩,
  ⟨0x6900, 1, 0x04, 1, 4, 4, .ro, 0, 4294967295, 1, false, false, true⟩,
  ⟨0x6901, 1, 0x01, 1, 5, 8, .ro, 0, 18446744073709551615, 1, false, false, true⟩,
  ⟨0x6901, 1, 0x02, 1, 5, 8, .ro, 0, 18446744073709551615, 1, false, false, true⟩,
  ⟨0x6901, 1, 0x03, 1, 5, 8, .ro, 0, 18446744073709551615, 1, false, false, true⟩,
  ⟨0x6901, 1, 0x04, 1, 5, 8, .ro, 0, 18446744073709551615, 1, false, false, true⟩,
  ⟨0x6901, 1, 0x05, 1, 4, 4, .ro, 0, 4294967295, 1, false, false, true⟩,
  ⟨0x6901, 1, 0x06, 1, 5, 8, .ro, 0, 18446744073709551615, 1, false, false, true⟩,
  ⟨0x6901, 1, 0x07, 1, 4, 4, .ro, 0, 4294967295, 1, false, false, true⟩,
  ⟨0x6901, 1, 0x08, 1, 5, 8, .ro, 0, 18446744073709551615, 1, false, false, true⟩,
  ⟨0x6901, 1, 0x09, 1, 4, 4, .ro, 0, 4294967295, 1, false, false, true⟩,
  ⟨0x6901, 1, 0x0A, 1, 4, 4, .ro, 0, 4294967295, 1, false, false, true⟩,
  ⟨0x6901, 1, 0x0B, 1, 5, 8, .ro, 0, 18446744073709551615, 1, false, false, true⟩,
  ⟨0x6902, 1, 0x01, 1, 5, 8, .ro, 0, 18446744073709551615, 1, false, false, true⟩,
  ⟨0x6902, 1, 0x02, 1, 4, 4, .ro, 0, 4294967295, 1, false, false, true⟩,
  ⟨0x6902, 1, 0x03, 1, 4, 4, .ro, 0, 4294967295, 1, false, false, true⟩,
  ⟨0x7000, 1, 0x01, 1, 4, 4, .const, 0, 4294967295, 1, false, false, true⟩,
  ⟨0x7000, 1, 0x02, 1, 3, 2, .rw, 256, 1024, 16, true, false, true⟩,
  ⟨0x7000, 1, 0x03, 1, 4, 4, .ro, 0, 4294967295, 1, false, false, true⟩,
  ⟨0x7000, 1, 0x04, 1, 4, 4, .ro, 0, 4294967295, 1, false, false, true⟩,
  ⟨0x7000, 1, 0x05, 1, 3, 2, .const, 0, 65535, 1, false, false, true⟩,
  ⟨0x7000, 1, 0x06, 1, 3, 2, .ro, 0, 65535, 1, false, false, true⟩,
  ⟨0x7000, 1, 0x07, 1, 3, 2, .ro, 0, 65535, 1, false, false, true⟩,
  ⟨0x7001, 1, 0x01, 1, 5, 8, .ro, 0, 18446744073709551615, 1, false, false, true⟩,
  ⟨0x7001, 1, 0x02, 1, 5, 8, .ro, 0, 18446744073709551615, 1, false, false, true⟩,
  ⟨0x7001, 1, 0x03, 1, 4, 4, .ro, 0, 4294967295, 1, false, false, true⟩,
  ⟨0x7001, 1, 0x04, 1, 4, 4, .ro, 0, 4294967295, 1, false, false, true⟩,
  ⟨0x7001, 1, 0x05, 1, 4, 4, .ro, 0, 4294967295, 1, false, false, true⟩,
  ⟨0x7001, 1, 0x06, 1, 4, 4, .rw, 1, 720, 1, true, false, true⟩,
  ⟨0x7001, 1, 0x07, 1, 4, 4, .ro, 0, 4294967295, 1, false, false, true⟩,
  ⟨0x7001, 1, 0x08, 1, 12, 4, .rw, 0, 0, 1, false, true, true⟩,
  ⟨0x7100, 256, 0x01, 1, 2, 1, .ro, 0, 255, 1, false, false, true⟩]

/-- Entry rows, part 8. -/
def entryRows8 : List EntryRow := [
  ⟨0x7100, 256, 0x02, 1, 4, 4, .ro, 0, 4294967295, 1, false, false, true⟩,
  ⟨0x7100, 256, 0x03, 1, 2, 1, .ro, 0, 255, 1, false, false, true⟩,
  ⟨0x7200, 1, 0x01, 1, 4, 4, .const, 0, 4294967295, 1, false, false, true⟩,
  ⟨0x7200, 1, 0x02, 1, 5, 8, .ro, 0, 18446744073709551615, 1, false, false, true⟩,
  ⟨0x7200, 1, 0x03, 1, 4, 4, .ro, 0, 4294967295, 1, false, false, true⟩,
  ⟨0x7200, 1, 0x04, 1, 5, 8, .ro, 0, 18446744073709551615, 1, false, false, true⟩,
  ⟨0x7200, 1, 0x05, 1, 2, 1, .ro, 0, 255, 1, false, false, true⟩,
  ⟨0x7200, 1, 0x06, 1, 8, 4, .ro, (-2147483648), 2147483647, 1, false, false, true⟩,
  ⟨0x7200, 1, 0x07, 1, 5, 8, .const, 0, 18446744073709551615, 1, false, false, true⟩,
  ⟨0x7300, 1, 0x01, 9, 4, 4, .ro, 0, 4294967295, 1, false, false, true⟩,
  ⟨0x8000, 1, 0x01, 1, 4, 4, .ro, 0, 4294967295, 1, false, false, true⟩,
  ⟨0x8000, 1, 0x02, 1, 3, 2, .const, 0, 65535, 1, false, false, true⟩,
  ⟨0x8000, 1, 0x03, 1, 4, 4, .rw, 0, 4294967295, 1, false, true, true⟩,
  ⟨0x8000, 1, 0x04, 1, 12, 64, .ro, 0, 0, 1, false, false, true⟩,
  ⟨0x8000, 1, 0x05, 1, 3, 2, .ro, 0, 65535, 1, false, false, true⟩,
  ⟨0x8000, 1, 0x06, 1, 4, 4, .rw, 1400, 1400000, 1, true, false, true⟩,
  ⟨0x8000, 1, 0x07, 1, 2, 1, .rw, 0, 63, 1, true, false, true⟩,
  ⟨0x8000, 1, 0x08, 1, 12, 64, .ro, 0, 0, 1, false, false, true⟩,
  ⟨0x8000, 1, 0x09, 1, 4, 4, .ro, 0, 4294967295, 1, false, false, true⟩,
  ⟨0x8000, 1, 0x0A, 1, 4, 4, .wo, 0, 4294967295, 1, false, false, true⟩,
  ⟨0x8000, 1, 0x0B, 1, 2, 1, .ro, 0, 255, 1, false, false, true⟩,
  ⟨0x8001, 1, 0x01, 3, 5, 8, .ro, 0, 18446744073709551615, 1, false, false, true⟩,
  ⟨0x8002, 1, 0x01, 1, 3, 2, .rw, 1, 1000, 1, true, false, true⟩,
  ⟨0x8002, 1, 0x02, 1, 2, 1, .rw, 0, 255, 1, true, false, true⟩,
  ⟨0x8002, 1, 0x03, 1, 2, 1, .rw, 0, 1, 1, true, false, true⟩,
  ⟨0x8003, 1, 0x01, 1, 4, 4, .rw, 10, 10000, 1, true, false, true⟩,
  ⟨0x8003, 1, 0x02, 1, 4, 4, .rw, 100, 60000, 1, true, false, true⟩,
  ⟨0x8003, 1, 0x03, 1, 3, 2, .ro, 0, 65535, 1, true, false, true⟩,
  ⟨0x8003, 1, 0x04, 1, 4, 4, .ro, 0, 4294967295, 1, false, false, true⟩,
  ⟨0x8003, 1, 0x05, 1, 13, 53248, .ro, 0, 0, 1, false, false, false⟩,
  ⟨0x8003, 1, 0x06, 1, 4, 4, .ro, 0, 4294967295, 1, false, false, true⟩,
  ⟨0x8003, 1, 0x07, 1, 4, 4, .ro, 0, 4294967295, 1, false, false, true⟩,
  ⟨0x8010, 16, 0x01, 1, 2, 1, .ro, 0, 255, 1, false, false, true⟩,
  ⟨0x8800, 1, 0x01, 1, 4, 4, .rw, 1, 720, 1, true, false, true⟩,
  ⟨0x8800, 1, 0x02, 1, 4, 4, .rw, 10, 600, 1, true, false, true⟩,
  ⟨0x8800, 1, 0x03, 1, 2, 1, .rw, 0, 255, 1, true, false, true⟩,
  ⟨0x8800, 1, 0x04, 1, 5, 8, .ro, 0, 18446744073709551615, 1, false, false, true⟩,
  ⟨0x8800, 1, 0x05, 1, 3, 2, .const, 0, 65535, 1, false, false, true⟩,
  ⟨0x8800, 1, 0x06, 1, 3, 2, .wo, 0, 892, 1, false, false, true⟩,
  ⟨0x8800, 1, 0x07, 1, 3, 2, .ro, 0, 65535, 1, false, false, true⟩]

/-- Entry rows, part 9. -/
def entryRows9 : List EntryRow := [
  ⟨0x8800, 1, 0x08, 1, 4, 4, .const, 0, 4294967295, 1, false, false, true⟩,
  ⟨0x8801, 1, 0x01, 1, 5, 8, .ro, 0, 18446744073709551615, 1, false, false, true⟩,
  ⟨0x8801, 1, 0x02, 1, 4, 4, .ro, 0, 4294967295, 1, false, false, true⟩,
  ⟨0x8801, 1, 0x03, 1, 4, 4, .ro, 0, 4294967295, 1, false, false, true⟩,
  ⟨0x8801, 1, 0x04, 1, 4, 4, .ro, 0, 4294967295, 1, false, false, true⟩,
  ⟨0x8801, 1, 0x05, 1, 4, 4, .ro, 0, 4294967295, 1, false, false, true⟩,
  ⟨0x8801, 1, 0x06, 1, 3, 2, .rw, 0, 65535, 1, false, true, true⟩,
  ⟨0x8801, 1, 0x07, 1, 12, 16, .ro, 0, 0, 1, false, false, true⟩,
  ⟨0x9000, 1, 0x01, 1, 1, 1, .rw, 0, 1, 1, true, false, true⟩,
  ⟨0x9000, 1, 0x02, 1, 4, 4, .ro, 0, 4294967295, 1, false, false, true⟩,
  ⟨0x9001, 1, 0x01, 1, 5, 8, .ro, 0, 18446744073709551615, 1, false, false, true⟩,
  ⟨0x9002, 1, 0x01, 1, 5, 8, .ro, 0, 18446744073709551615, 1, false, false, true⟩,
  ⟨0x9002, 1, 0x02, 1, 4, 4, .const, 0, 4294967295, 1, false, false, true⟩,
  ⟨0x9002, 1, 0x03, 1, 2, 1, .rw, 0, 255, 1, true, false, true⟩,
  ⟨0x9002, 1, 0x04, 1, 4, 4, .ro, 0, 4294967295, 1, false, false, true⟩,
  ⟨0x9003, 1, 0x01, 1, 5, 8, .ro, 0, 18446744073709551615, 1, false, false, true⟩,
  ⟨0x9003, 1, 0x02, 1, 12, 32, .ro, 0, 0, 1, false, false, true⟩,
  ⟨0x9003, 1, 0x03, 1, 5, 8, .ro, 0, 18446744073709551615, 1, false, false, true⟩,
  ⟨0x9003, 1, 0x04, 1, 4, 4, .ro, 0, 4294967295, 1, false, false, true⟩,
  ⟨0x9004, 1, 0x01, 1, 2, 1, .rw, 0, 1, 1, false, false, true⟩,
  ⟨0x9004, 1, 0x02, 1, 4, 4, .rw, 0, 4294967295, 1, false, false, true⟩,
  ⟨0x9004, 1, 0x03, 1, 13, 8192, .rw, 0, 0, 2, false, false, false⟩,
  ⟨0x9004, 1, 0x04, 1, 13, 131072, .rw, 0, 0, 2, false, false, false⟩,
  ⟨0x9004, 1, 0x05, 1, 2, 1, .wo, 1, 2, 1, false, false, true⟩,
  ⟨0x9004, 1, 0x06, 1, 2, 1, .ro, 0, 255, 1, false, false, true⟩,
  ⟨0x9004, 1, 0x07, 1, 4, 4, .ro, 0, 4294967295, 1, false, false, true⟩,
  ⟨0x9004, 1, 0x08, 1, 5, 8, .ro, 0, 18446744073709551615, 1, false, false, true⟩,
  ⟨0x9004, 1, 0x09, 1, 3, 2, .ro, 0, 65535, 1, false, false, true⟩,
  ⟨0x90F0, 1, 0x01, 1, 12, 24, .rw, 0, 0, 1, false, true, true⟩,
  ⟨0x90F0, 1, 0x02, 1, 5, 8, .ro, 0, 18446744073709551615, 1, false, false, true⟩,
  ⟨0x90F0, 1, 0x03, 1, 3, 2, .const, 0, 65535, 1, false, false, true⟩,
  ⟨0x90F0, 1, 0x04, 1, 2, 1, .const, 0, 255, 1, false, false, true⟩,
  ⟨0xA000, 1, 0x01, 1, 5, 8, .ro, 0, 18446744073709551615, 1, false, false, true⟩,
  ⟨0xA000, 1, 0x02, 1, 2, 1, .ro, 0, 255, 1, false, false, true⟩,
  ⟨0xA000, 1, 0x03, 1, 4, 4, .ro, 0, 4294967295, 1, false, false, true⟩,
  ⟨0xA000, 1, 0x04, 1, 1, 1, .ro, 0, 1, 1, false, false, true⟩,
  ⟨0xA000, 1, 0x05, 1, 4, 4, .ro, 0, 4294967295, 1, false, false, true⟩,
  ⟨0xA001, 1, 0x01, 1, 2, 1, .ro, 0, 255, 1, false, false, true⟩,
  ⟨0xA001, 1, 0x02, 1, 2, 1, .ro, 0, 255, 1, false, false, true⟩,
  ⟨0xA001, 1, 0x03, 1, 2, 1, .ro, 0, 255, 1, false, false, true⟩]

/-- Entry rows, part 10. -/
def entryRows10 : List EntryRow := [
  ⟨0xA001, 1, 0x04, 1, 5, 8, .ro, 0, 18446744073709551615, 1, false, false, true⟩,
  ⟨0xA001, 1, 0x05, 1, 8, 4, .ro, (-2147483648), 2147483647, 1, false, false, true⟩,
  ⟨0xA001, 1, 0x06, 1, 8, 4, .const, (-2147483648), 2147483647, 1, false, false, true⟩,
  ⟨0xA001, 1, 0x07, 1, 8, 4, .const, (-2147483648), 2147483647, 1, false, false, true⟩,
  ⟨0xA002, 1, 0x01, 1, 2, 1, .ro, 0, 255, 1, false, false, true⟩,
  ⟨0xA002, 1, 0x02, 1, 4, 4, .ro, 0, 4294967295, 1, false, false, true⟩,
  ⟨0xA010, 1, 0x01, 1, 4, 4, .ro, 0, 4294967295, 1, false, false, true⟩,
  ⟨0xA010, 1, 0x02, 1, 4, 4, .ro, 0, 4294967295, 1, false, false, true⟩,
  ⟨0xA010, 1, 0x03, 1, 4, 4, .ro, 0, 4294967295, 1, false, false, true⟩,
  ⟨0xA010, 1, 0x04, 1, 4, 4, .ro, 0, 4294967295, 1, false, false, true⟩,
  ⟨0xA010, 1, 0x05, 1, 4, 4, .ro, 0, 4294967295, 1, false, false, true⟩,
  ⟨0xA010, 1, 0x06, 1, 4, 4, .ro, 0, 4294967295, 1, false, false, true⟩,
  ⟨0xA011, 1, 0x01, 1, 2, 1, .ro, 0, 255, 1, false, false, true⟩,
  ⟨0xA012, 1, 0x01, 1, 3, 2, .ro, 0, 65535, 1, false, false, true⟩,
  ⟨0xA012, 1, 0x02, 1, 4, 4, .ro, 0, 4294967295, 1, false, false, true⟩,
  ⟨0xB000, 1, 0x01, 1, 2, 1, .const, 0, 255, 1, false, false, true⟩,
  ⟨0xB000, 1, 0x02, 1, 12, 1024, .ro, 0, 0, 1, true, false, true⟩,
  ⟨0xB010, 6, 0x01, 1, 12, 256, .ro, 0, 0, 1, false, false, true⟩,
  ⟨0xB010, 6, 0x02, 1, 2, 1, .ro, 0, 255, 1, false, false, true⟩,
  ⟨0xB010, 6, 0x03, 1, 4, 4, .ro, 0, 4294967295, 1, false, false, true⟩,
  ⟨0xB010, 6, 0x04, 1, 3, 2, .ro, 0, 65535, 1, false, false, true⟩,
  ⟨0xB010, 6, 0x05, 1, 2, 1, .ro, 0, 255, 1, false, false, true⟩,
  ⟨0xB010, 6, 0x06, 1, 2, 1, .ro, 0, 255, 1, false, false, true⟩,
  ⟨0xB010, 6, 0x07, 1, 8, 4, .ro, (-2147483648), 2147483647, 1, false, false, true⟩,
  ⟨0xB010, 6, 0x08, 1, 4, 4, .ro, 0, 4294967295, 1, false, false, true⟩,
  ⟨0xC000, 1, 0x01, 1, 2, 1, .ro, 0, 255, 1, false, false, true⟩,
  ⟨0xC000, 1, 0x02, 1, 12, 32, .ro, 0, 0, 1, false, false, true⟩,
  ⟨0xC000, 1, 0x03, 1, 13, 16777216, .wo, 0, 0, 1, false, false, false⟩,
  ⟨0xC000, 1, 0x04, 1, 2, 1, .wo, 0, 255, 1, false, false, true⟩,
  ⟨0xC000, 1, 0x05, 1, 2, 1, .ro, 0, 255, 1, false, false, true⟩,
  ⟨0xC000, 1, 0x06, 1, 2, 1, .ro, 0, 255, 1, false, false, true⟩,
  ⟨0xC000, 1, 0x07, 1, 4, 4, .ro, 0, 4294967295, 1, false, false, true⟩,
  ⟨0xC000, 1, 0x08, 1, 2, 1, .ro, 0, 255, 1, false, false, true⟩,
  ⟨0xC000, 1, 0x09, 1, 4, 4, .ro, 0, 4294967295, 1, false, false, true⟩,
  ⟨0xC000, 1, 0x0A, 1, 4, 4, .ro, 0, 4294967295, 1, false, false, true⟩,
  ⟨0xC001, 1, 0x01, 1, 12, 32, .rw, 0, 0, 1, false, false, true⟩,
  ⟨0xC001, 1, 0x02, 1, 12, 468, .ro, 0, 0, 1, false, false, true⟩,
  ⟨0xC001, 1, 0x03, 1, 12, 1024, .const, 0, 0, 1, false, false, false⟩,
  ⟨0xC001, 1, 0x04, 1, 12, 256, .ro, 0, 0, 1, false, false, true⟩]

/-- Every entry of Tables 01.9 to 18.7. -/
def entryRows : List EntryRow :=
  entryRows0 ++ entryRows1 ++ entryRows2 ++ entryRows3 ++ entryRows4 ++ entryRows5 ++ entryRows6 ++ entryRows7 ++ entryRows8 ++ entryRows9 ++ entryRows10

/-- Non-zero defaults, part 0: indices, sub-indices, raw value. -/
def defaultRows0 : List (Nat × Nat × Nat × Nat × Nat) := [
  (0x1000, 1, 0x0B, 1, 1),
  (0x1000, 1, 0x0E, 1, 1),
  (0x1100, 1, 0x01, 1, 47300),
  (0x1100, 1, 0x02, 1, 255),
  (0x1100, 1, 0x03, 1, 8),
  (0x1100, 1, 0x06, 1, 64),
  (0x1100, 1, 0x07, 1, 8),
  (0x1120, 1, 0x03, 1, 2),
  (0x1120, 1, 0x04, 1, 4194302),
  (0x1F21, 1, 0x00, 4, 2),
  (0x2400, 104, 0x13, 1, 64),
  (0x2400, 104, 0x15, 1, 192),
  (0x2400, 104, 0x17, 1, 384),
  (0x2400, 104, 0x19, 1, 384),
  (0x2400, 104, 0x21, 1, 255),
  (0x2400, 128, 0x04, 1, 255),
  (0x2400, 128, 0x06, 1, 65535),
  (0x2400, 128, 0x12, 1, 1680),
  (0x2468, 24, 0x13, 1, 32),
  (0x2468, 24, 0x14, 1, 32),
  (0x2468, 24, 0x15, 1, 96),
  (0x2468, 24, 0x16, 1, 96),
  (0x2468, 24, 0x17, 1, 192),
  (0x2468, 24, 0x18, 1, 192),
  (0x2468, 24, 0x19, 1, 192),
  (0x2468, 24, 0x1A, 1, 192),
  (0x2480, 1, 0x01, 1, 1),
  (0x2480, 1, 0x02, 1, 1),
  (0x2480, 1, 0x03, 1, 10000),
  (0x2480, 1, 0x04, 1, 64),
  (0x2480, 1, 0x05, 1, 330),
  (0x2480, 1, 0x06, 1, 560),
  (0x3000, 1, 0x01, 1, 256),
  (0x3000, 1, 0x02, 1, 2),
  (0x3000, 1, 0x03, 1, 4),
  (0x3000, 1, 0x04, 1, 10),
  (0x3000, 1, 0x05, 1, 64),
  (0x3000, 1, 0x06, 1, 224),
  (0x3000, 1, 0x07, 1, 192),
  (0x3002, 1, 0x01, 1, 65536)]

/-- Non-zero defaults, part 1: indices, sub-indices, raw value. -/
def defaultRows1 : List (Nat × Nat × Nat × Nat × Nat) := [
  (0x3002, 1, 0x03, 1, 4096),
  (0x3003, 1, 0x01, 1, 1400),
  (0x3003, 1, 0x02, 1, 100),
  (0x3003, 1, 0x03, 1, 130),
  (0x3100, 104, 0x02, 3, 52650),
  (0x3100, 104, 0x05, 3, 65536),
  (0x3200, 128, 0x01, 1, 128),
  (0x3200, 128, 0x02, 1, 96),
  (0x3200, 128, 0x03, 1, 32),
  (0x3200, 128, 0x04, 3, 1024),
  (0x3200, 128, 0x07, 3, 133120),
  (0x3200, 128, 0x0A, 3, 4294834176),
  (0x4500, 1, 0x05, 1, 32),
  (0x4500, 1, 0x06, 1, 1000),
  (0x4800, 1, 0x01, 1, 524288),
  (0x4800, 1, 0x02, 1, 524288),
  (0x4800, 1, 0x03, 1, 65536),
  (0x4800, 1, 0x04, 1, 2800),
  (0x4800, 1, 0x05, 1, 1000),
  (0x4800, 1, 0x06, 1, 10),
  (0x4800, 1, 0x07, 1, 16384),
  (0x5000, 1, 0x01, 1, 10000),
  (0x5000, 1, 0x02, 1, 10000),
  (0x5000, 1, 0x03, 1, 3),
  (0x5000, 1, 0x06, 1, 4096),
  (0x5800, 1, 0x01, 1, 2800),
  (0x5800, 1, 0x02, 1, 2),
  (0x5800, 1, 0x03, 1, 64),
  (0x5800, 1, 0x04, 1, 4),
  (0x5800, 1, 0x05, 1, 4096),
  (0x5800, 1, 0x07, 1, 8),
  (0x5820, 1, 0x01, 1, 1),
  (0x5831, 1, 0x01, 1, 1),
  (0x5842, 1, 0x01, 1, 1),
  (0x5853, 1, 0x01, 1, 1),
  (0x6000, 1, 0x01, 1, 8),
  (0x6000, 1, 0x02, 1, 8),
  (0x6000, 1, 0x03, 1, 8),
  (0x6000, 1, 0x04, 1, 2),
  (0x6000, 1, 0x05, 1, 2),
  (0x6000, 1, 0x06, 1, 24),
  (0x6010, 27, 0x02, 1, 65535),
  (0x6010, 27, 0x03, 1, 65535)]

/-- Non-zero defaults, part 2: indices, sub-indices, raw value. -/
def defaultRows2 : List (Nat × Nat × Nat × Nat × Nat) := [
  (0x6030, 9, 0x01, 1, 255),
  (0x6800, 1, 0x08, 1, 262144),
  (0x6801, 1, 0x03, 1, 100),
  (0x6801, 1, 0x04, 1, 100000),
  (0x6801, 1, 0x05, 1, 1024),
  (0x6801, 1, 0x06, 1, 64),
  (0x6801, 1, 0x07, 1, 256),
  (0x6900, 1, 0x01, 1, 64),
  (0x6900, 1, 0x02, 1, 50),
  (0x7000, 1, 0x01, 1, 2048),
  (0x7000, 1, 0x02, 1, 512),
  (0x7000, 1, 0x03, 1, 1280),
  (0x7000, 1, 0x05, 1, 2048),
  (0x7000, 1, 0x06, 1, 2048),
  (0x7001, 1, 0x06, 1, 24),
  (0x7200, 1, 0x01, 1, 131072),
  (0x7200, 1, 0x05, 1, 1),
  (0x7200, 1, 0x07, 1, 137371844608),
  (0x8000, 1, 0x02, 1, 1024),
  (0x8000, 1, 0x06, 1, 14000),
  (0x8000, 1, 0x07, 1, 1),
  (0x8002, 1, 0x01, 1, 16),
  (0x8002, 1, 0x02, 1, 8),
  (0x8003, 1, 0x01, 1, 100),
  (0x8003, 1, 0x02, 1, 1000),
  (0x8800, 1, 0x01, 1, 24),
  (0x8800, 1, 0x02, 1, 60),
  (0x8800, 1, 0x03, 1, 31),
  (0x8800, 1, 0x05, 1, 893),
  (0x8800, 1, 0x07, 1, 65535),
  (0x8800, 1, 0x08, 1, 40),
  (0x9002, 1, 0x02, 1, 2097152),
  (0x9002, 1, 0x03, 1, 14),
  (0x9004, 1, 0x09, 1, 65535),
  (0x90F0, 1, 0x03, 1, 2047),
  (0x90F0, 1, 0x04, 1, 6),
  (0xA001, 1, 0x06, 1, 95000),
  (0xA001, 1, 0x07, 1, 110000),
  (0xA002, 1, 0x01, 1, 1),
  (0xA011, 1, 0x01, 1, 1)]

/-- Non-zero defaults, part 3: indices, sub-indices, raw value. -/
def defaultRows3 : List (Nat × Nat × Nat × Nat × Nat) := [
  (0xB000, 1, 0x01, 1, 90),
  (0xC000, 1, 0x06, 1, 255)]

/-- Every non-zero default of a scalar entry (a default the tables leave open is 0, log entry 2). -/
def defaultRows : List (Nat × Nat × Nat × Nat × Nat) :=
  defaultRows0 ++ defaultRows1 ++ defaultRows2 ++ defaultRows3

/-- The row that holds an address. -/
def entryRow (index sub : Nat) : Option EntryRow :=
  entryRows.find? fun r => r.idx ≤ index && index < r.idx + r.idxN && r.sub ≤ sub && sub < r.sub + r.subN

/-- The default of a scalar entry, as raw bits (R393). -/
def entryDefault (a : Nat) : Nat :=
  match defaultRows.find? fun (i, n, s, k, _) => i ≤ a / 256 && a / 256 < i + n && s ≤ a % 256 && a % 256 < s + k with
  | some (_, _, _, _, v) => v
  | none => 0

/-- A scalar entry's raw bits. -/
def rd (s : State) (a : Nat) : Nat :=
  match Tab.find s.regs a with
  | some v => v
  | none => entryDefault a

/-- Set a scalar entry's raw bits. -/
def wr (s : State) (a v : Nat) : State := { s with regs := Tab.set s.regs a v }

/-- A counter (every counter's default is 0). -/
def cnt (s : State) (a : Nat) : Nat := Tab.getD s.regs a 0

/-- Add to a counter of `bytes` bytes, saturating (its table says so). -/
def bumpBy (bytes : Nat) (s : State) (a n : Nat) : State := wr s a (min (2 ^ (8 * bytes) - 1) (cnt s a + n))

/-- Count one in a U32 counter, saturating. -/
def bump (s : State) (a : Nat) : State := bumpBy 4 s a 1

/-- Count in a U64 counter. -/
def bump64 (s : State) (a n : Nat) : State := bumpBy 8 s a n

/-- One timing-dependent choice (R348). -/
def timingChoice (s : State) : State := bump64 s eTimingChoiceTotal 1

/-- A byte entry's bytes; empty where it holds its zero default. -/
def blob (s : State) (a : Nat) : List Byte := Tab.getD s.blobs a []

/-- Set a byte entry. -/
def setBlob (s : State) (a : Nat) (v : List Byte) : State := { s with blobs := Tab.set s.blobs a v }

/-- A session-scoped entry's bytes for one writer (R394); `none` where it holds its default. -/
def scopedReg (s : State) (src : Source) (a : Nat) : Option (List Byte) :=
  (s.mgmt.sessionRegs.find? fun e => e.1 = (src, a)).map (·.2)

/-- A session-scoped number, 0 by default. -/
def scopedNum (s : State) (src : Source) (a : Nat) : Nat := leNat ((scopedReg s src a).getD [])

/-- Set a session-scoped entry. -/
def setScoped (s : State) (src : Source) (a : Nat) (v : List Byte) : State :=
  { s with mgmt := { s.mgmt with sessionRegs := ((src, a), v) :: s.mgmt.sessionRegs.filter (fun e => e.1 ≠ (src, a)) } }

end Sys2Proof.Machine
end

