-- ==== Sys2Proof/Machine/Mem.lean ====
section
/-! DEFINITION. The addressed memories of the module (08): the Vat's 2 GiB and the Cellar's 128 GiB as sorted lists of
(address, byte) pairs in which an unlisted address reads 0 (boot step 6 clears both, R164, R175; log entry 3). -/
namespace Sys2Proof.Machine

/-- A memory: cells with strictly rising addresses, none of them 0. -/
abbrev Memory := List Host.Cell

/-- The addresses of the cells rise strictly. -/
def Memory.rising : Memory → Bool
  | [] => true
  | [_] => true
  | a :: b :: t => decide (a.1 < b.1) && Memory.rising (b :: t)

/-- The canonical form: strictly rising addresses and no entry equal to what an unlisted address reads as. -/
def Memory.wf (m : Memory) : Bool := m.rising && m.all (fun c => c.2 ≠ 0)

/-- Read one byte. -/
def Memory.get : Memory → Nat → Byte
  | [], _ => 0
  | (b, v) :: t, a => if b = a then v else Memory.get t a

/-- Read `n` bytes from address `a`. -/
def Memory.read (m : Memory) (a n : Nat) : List Byte :=
  let part := m.filter fun c => a ≤ c.1 && c.1 < a + n
  (List.range n).map fun i => Memory.get part (a + i)

/-- The cells that `bytes` at address `a` list. -/
def Memory.cells : Nat → List Byte → Memory
  | _, [] => []
  | a, b :: t => if b = 0 then Memory.cells (a + 1) t else (a, b) :: Memory.cells (a + 1) t

/-- Write bytes from address `a`, keeping the canonical form. -/
def Memory.write (m : Memory) (a : Nat) (bytes : List Byte) : Memory :=
  m.filter (fun c => c.1 < a) ++ Memory.cells a bytes ++ m.filter (fun c => a + bytes.length ≤ c.1)

/-- Physical corruption: each (offset, byte) is combined by exclusive or with the byte read. -/
def flipBytes (l : List Byte) (flips : List (Nat × Byte)) : List Byte :=
  flips.foldl (fun l f => l.set f.1 (l.getD f.1 0 ^^^ f.2)) l

end Sys2Proof.Machine
end

