-- ==== Sys2Proof/Machine/Ops.lean ====
section
/-! DEFINITION. The operations every family shares: outcomes, units, time, function states, events, fault records,
SAFE_IDLE and what leaves the module (02, 16, 17). -/
namespace Sys2Proof.Machine

/-- The outcome type of every command. -/
abbrev Out1 := Host.Outcome State Fault Refusal

/-- A command whose operand names no unit of the part stops; any other has its effect. -/
def onUnit (ok : Bool) (s : State) : Out1 := if ok then .next s else .fault .noSuchUnit

/-! Units of the part (Tables 00.2, 01.4, 08.1, 12.1, 16.3). -/

abbrev portCount : Nat := 128
abbrev edgePorts : Nat := 104
abbrev laneCount : Nat := 544
abbrev laneGroupCount : Nat := 32
abbrev vatSlabs : Nat := 524288
abbrev vatBanks : Nat := 256
abbrev cellarSlabs : Nat := 33554432
abbrev slabBytes : Nat := 4096

/-! Time. -/

/-- The fabric cycle counter (R31): 64 bits. -/
def fcNow (s : State) : Nat := s.now % 2 ^ 64

/-- Cycles in a microsecond (R33). -/
abbrev fcPerUs : Nat := 1400
/-- Cycles in an hour, and in a day. -/
abbrev fcPerHour : Nat := 5040000000000
abbrev fcPerDay : Nat := 120960000000000

/-- The main rails are up and the data domain is out of reset (Table 02.5 step 4). -/
def dataUp (s : State) : Bool :=
  match s.boot with
  | .loaf | .memory | .proof | .topology | .readyStep | .done => true
  | _ => false

/-- Loaf runs: boot step 5 is complete (Table 02.5). -/
def loafUp (s : State) : Bool :=
  match s.boot with
  | .memory | .proof | .topology | .readyStep | .done => true
  | _ => false

/-- The memories are laid out: boot step 6 is complete. -/
def memUp (s : State) : Bool :=
  match s.boot with
  | .proof | .topology | .readyStep | .done => true
  | _ => false

/-- The data path works: data domain released and no FATAL fault has frozen the module (R366, R367). -/
def live (s : State) : Bool := dataUp s && !s.faults.frozen

/-- Have the effect only where the data path works. -/
def whenLive (s : State) (f : State → State) : State := if live s then f s else s

/-- BootStage (Tables 02.5, 02.9). -/
def bootStage (s : State) : Nat :=
  match s.boot with
  | .held => 1 | .pll => 2 | .starter => 3 | .lanes => 4 | .refWait => 0x0A | .loaf => 5
  | .memory => 6 | .proof => 7 | .topology => 8 | .readyStep => 9 | .done => 9

/-! Table access. -/

/-- One port's state. -/
def portOf (s : State) (p : Nat) : Port := Tab.getD s.ports p {}
/-- Change one port's state. -/
def setPort (s : State) (p : Nat) (q : Port) : State := { s with ports := Tab.set s.ports p q }
/-- One lane's state. -/
def laneOf (s : State) (l : Nat) : Lane := Tab.getD s.lanes l {}
/-- Change one lane's state. -/
def setLane (s : State) (l : Nat) (q : Lane) : State := { s with lanes := Tab.set s.lanes l q }
/-- One lane group's state. -/
def lgOf (s : State) (g : Nat) : LaneGroup := Tab.getD s.laneGroups g {}
/-- Change one lane group's state. -/
def setLg (s : State) (g : Nat) (q : LaneGroup) : State := { s with laneGroups := Tab.set s.laneGroups g q }

/-! Function states (Tables 02.6 to 02.8). -/

/-- The control groups' state entries: they are ON after reset (Table 02.8). -/
def isControlGroup (a : Nat) : Bool := 0x1F2100 ≤ a && a < 0x1F2104

/-- A function by the address of its state entry. -/
def fnOf (s : State) (a : Nat) : Fn :=
  match Tab.find s.fns a with
  | some f => f
  | none => if isControlGroup a then { state := .on } else {}

/-- Its state. -/
def fnState (s : State) (a : Nat) : FnState := (fnOf s a).state

/-- Write a function. -/
def setFn (s : State) (a : Nat) (f : Fn) : State := { s with fns := Tab.set s.fns a f }

/-- Change a function's state, keeping PENDING_ON. -/
def setFnState (s : State) (a : Nat) (st : FnState) : State := setFn s a { fnOf s a with state := st }

/-- The code of a state (Table 02.7). -/
def fnCode : FnState → Nat
  | .off => 0 | .starting => 1 | .on => 2 | .stopping => 3 | .fenced => 4 | .quarantined => 5

/-- The function state word (Table 02.7). -/
def fnWord (f : Fn) : Nat := fnCode f.state + 128 * b2n f.pendingOn

/-- The enable column of Table 02.6. -/
def fnEnable (f : Fn) : Fn :=
  match f.state with
  | .off => { f with state := .starting }
  | .stopping | .quarantined => { f with pendingOn := true }
  | .starting | .on | .fenced => f

/-- The disable column of Table 02.6. -/
def fnDisable (f : Fn) : Fn :=
  match f.state with
  | .starting | .on => { f with state := .stopping }
  | .stopping | .quarantined => { f with pendingOn := false }
  | .off | .fenced => f

/-- STOPPING done, or a release from QUARANTINED: OFF, then at once STARTING if PENDING_ON was set, clearing it. -/
def fnRest (f : Fn) : Fn := if f.pendingOn then { state := .starting, pendingOn := false } else { state := .off, pendingOn := false }

/-- A unit fault (R40): FENCED from any state but QUARANTINED, PENDING_ON cleared. -/
def fnFence (f : Fn) : Fn := if f.state = .quarantined then f else { state := .fenced, pendingOn := false }

/-! What leaves the module. -/

/-- Put something into the record of what left the module. -/
def emit (s : State) (o : Out) : State := { s with outbox := s.outbox ++ [o] }

/-! Events (R406, R407, R414). -/

/-- An event record of Table 17.7. -/
def eventRecord (code seq stamp : Nat) (data : List Byte) : BitVec 1024 :=
  BitVec.ofNat 1024 (code % 2 ^ 16 + data.length * 2 ^ 16 + (seq % 2 ^ 32) * 2 ^ 32 + (stamp % 2 ^ 64) * 2 ^ 64 + leNat data * 2 ^ 128)

/-- The 16-byte header of an MDP message (Table 17.4). -/
def mdpHeader (type status session seq bodyLen : Nat) (response last replay : Bool) : BitVec 128 :=
  BitVec.ofNat 128 (0x444D + 1 * 2 ^ 16 + type * 2 ^ 24 + session % 2 ^ 32 * 2 ^ 32 + seq % 2 ^ 32 * 2 ^ 64 + bodyLen % 2 ^ 16 * 2 ^ 96
    + status * 2 ^ 112 + b2n response * 2 ^ 120 + b2n last * 2 ^ 121 + b2n replay * 2 ^ 122)

/-- The tag that ends a message of a session: the first 16 bytes of the HMAC over header and body (R402). -/
def mdpTag (key : List Byte) (header : BitVec 128) (body : List Byte) : List Byte :=
  (hmac512 key (leBytes 16 header.toNat ++ body)).take 16

/-- Send a message to a session's manager, tagged with the module's key (R402). -/
def sendSession (s : State) (x : Session) (header : BitVec 128) (body : List Byte) : State :=
  emit s (.mdp x.addr header body (mdpTag x.moduleKey header body))

/-- Change the session with an id. -/
def setSession (s : State) (x : Session) : State :=
  { s with mgmt := { s.mgmt with sessions := s.mgmt.sessions.map fun y => if y.id = x.id then x else y } }

/-- Send event records in one EVENT message, which carries the module's own count (R402, R407). -/
def sendEvents (s : State) (x : Session) (recs : List (BitVec 1024)) : State :=
  let body := leBytes 4 recs.length ++ recs.flatMap fun r => leBytes 128 r.toNat
  let s := sendSession s x (mdpHeader 0x15 0 x.id x.eventSeq body.length false false false) body
  setSession s { x with eventSeq := x.eventSeq + 1 }

/-- Queue an event for one session whose mask selects it, and send it; a full queue loses it (R407). -/
def eventToSession (s : State) (code seq : Nat) (er : BitVec 1024) (id : Nat) : State :=
  match s.mgmt.sessions.find? fun x => x.id = id with
  | none => s
  | some x =>
    if !x.isOpen || !x.mask.toNat.testBit code then s
    else if x.queue.length ≥ 256 then
      bump (setSession s { x with lost := x.lost + 1 }) eMdpEventLostCount
    else
      let s := setSession s { x with queue := x.queue ++ [(seq, er, 1)] }
      sendEvents s { x with queue := x.queue ++ [(seq, er, 1)] } [er]

/-- HostEventMask: bit 1, FAULT, always reads 1 (R414). -/
def hostMask (s : State) : Nat := rd s eHostEventMask ||| 2

/-- The host's event ring runs. -/
def hostRing (s : State) : Bool := s.host.linkUp && s.host.enable && decide (0 < s.host.eqSize)

/-- Raise an interrupt of a vector at once. -/
def raiseMsix (s : State) (v : Nat) : State := emit s (.msix v)

/-- Note that a vector must be raised when its 10 µs allow it (R414). -/
def deferMsix (s : State) (v : Nat) : State :=
  if s.host.unraised.contains v then s else { s with host := { s.host with unraised := s.host.unraised ++ [v] } }

/-- Write one record to the event ring; a full ring loses it (R414). -/
def eventToHost (s : State) (code : Nat) (er : BitVec 1024) : State :=
  if !hostRing s || !(hostMask s).testBit code then s
  else
    let next := (s.host.eqTail + 1) % s.host.eqSize
    if next = s.host.eqHead then
      bump { s with host := { s.host with eventLost := s.host.eventLost + 1 } } eHostEventDropCount
    else
      let s := emit s (.hostMem (s.host.eqBase.toNat + 128 * s.host.eqTail) (leBytes 128 er.toNat))
      let s := { s with host := { s.host with eqTail := next } }
      if code = 1 then raiseMsix s (rd s eFaultMsixVector) else deferMsix s (rd s eEventMsixVector)

/-- Raise an event (R406): the next event_seq, to every sink that selects the code. -/
def raiseEvent (s : State) (code : Nat) (data : List Byte) : State :=
  let seq := s.mgmt.eventSeq + 1
  let s := { s with mgmt := { s.mgmt with eventSeq := seq } }
  let er := eventRecord code seq (fcNow s) data
  let s := (s.mgmt.sessions.map (·.id)).foldl (fun s id => eventToSession s code seq er id) s
  eventToHost s code er

/-! Fault records (R363 to R372). -/

/-- The class of a fault code (Table 16.2): 0 CORRECTED, 1 CONTAINED, 2 FATAL. -/
def faultClass (code : Nat) : Nat := if code < 16 then 0 else if code < 32 then 1 else 2

/-- A record as its 64 bytes (Table 16.3). -/
def recordBits (r : Record) : BitVec 512 :=
  BitVec.ofNat 512 (b2n r.reported * 2 ^ 164 + b2n r.opened * 2 ^ 165 + r.cls * 2 ^ 166 + r.lastCode * 2 ^ 168 + r.firstCode * 2 ^ 176
    + r.siteKind * 2 ^ 184 + r.siteIndex % 2 ^ 16 * 2 ^ 192 + min r.merges 65535 * 2 ^ 208 + r.id % 2 ^ 32 * 2 ^ 224
    + r.firstFc * 2 ^ 256 + r.lastFc * 2 ^ 320 + r.context.toNat * 2 ^ 384 + r.causes.toNat * 2 ^ 448)

/-- Some session subscribes to FAULT. -/
def faultSubscribed (s : State) : Bool := s.mgmt.sessions.any fun x => x.isOpen && x.mask.toNat.testBit 1

/-- Report a record by both paths; with no subscriber and no host link it is kept in the ring only (R372). -/
def reportRecord (s : State) (r : Record) : State :=
  let s := if faultSubscribed s || hostRing s then s else bump s eFaultUnreportedCount
  raiseEvent s 1 (leBytes 64 (recordBits { r with reported := true }).toNat)

/-- Replace the record with the same id. -/
def setRecord (s : State) (r : Record) : State :=
  { s with faults := { s.faults with records := s.faults.records.map fun x => if x.id = r.id then r else x } }

/-- An error merges into an open record (R370); a rise of its class is reported. -/
def mergeRecord (s : State) (r : Record) (code : Nat) : State :=
  let up := decide (r.cls < faultClass code)
  let r' := { r with causes := r.causes ||| BitVec.ofNat 64 (2 ^ code), merges := min 65535 (r.merges + 1), lastCode := code,
                     lastFc := fcNow s, cls := max r.cls (faultClass code), reported := r.reported || up }
  let s := setRecord s r'
  if up then reportRecord s r' else s

/-- An error opens a record for its site and is reported (R368, R371, R372). -/
def openRecord (s : State) (code kind index : Nat) (context : Word) : State :=
  let r : Record := { id := cnt s eFaultLogHead, siteKind := kind, siteIndex := index, cls := faultClass code, firstCode := code,
                      lastCode := code, causes := BitVec.ofNat 64 (2 ^ code), firstFc := fcNow s, lastFc := fcNow s,
                      context := context, reported := true }
  let rs := s.faults.records ++ [r]
  let s := { s with faults := { s.faults with records := rs.drop (rs.length - 1024) } }
  reportRecord (bump s eFaultLogHead) r

/-- SAFE_IDLE (R366) and the freeze after it (R367): the fault pair reads FAULT (R23) and MOD_READY is low (R19); every
data-path command, memory write and dictionary write tests `frozen`. -/
def safeIdle (s : State) : State :=
  { s with faults := { s.faults with frozen := true }, pins := { s.pins with fltP := false, fltN := true, ready := false } }

/-- The record an error merges into: any open FATAL record, else its site's open record (R370). -/
def openFor (s : State) (kind index : Nat) : Option Record :=
  match s.faults.records.find? fun r => r.opened && r.cls = 2 with
  | some r => some r
  | none => s.faults.records.find? fun r => r.opened && r.siteKind = kind && r.siteIndex = index

/-- A CORE_FAULT or a start failure in the updating group returns the updated groups to the running image (Table 18.4). -/
def liveRevert (s : State) : State :=
  match s.fw.live with
  | none => s
  | some _ => wr (wr { s with fw := { s.fw with live := none } } eFirmwareResult 8) eFirmwareProgress 0xFF

/-- Raise a fault: record, counts, report, and for a FATAL code SAFE_IDLE (R363). -/
def raiseFault (s : State) (code kind index : Nat) (context : Word) : State :=
  let s := bump64 s (eFaultClassCount (faultClass code)) 1
  let s := match openFor s kind index with
    | some r => mergeRecord s r code
    | none => openRecord s code kind index context
  if faultClass code = 2 then
    let s := { s with faults := { s.faults with fatal := match s.faults.fatal with
      | some f => some f
      | none => some ((openFor s kind index).elim 0 (·.id)) } }
    safeIdle s
  else s

/-! Free values (log entry 4). -/

/-- A fresh string of bytes the spec leaves open, and the draw spent. -/
def drawBytes (s : State) (n : Nat) : List Byte × State :=
  ((Config.freeBytes s.draws n).take n ++ List.replicate (n - (Config.freeBytes s.draws n).length) 0, { s with draws := s.draws + 1 })

end Sys2Proof.Machine
end

