-- ==== Sys2Proof/Machine/Loaf.lean ====
section
/-! DEFINITION. The fields of a Loaf image header (Table 18.1), and the image that runs (R419). -/
namespace Sys2Proof.Machine

/-- Bytes lo to lo + n − 1 of an image header, little-endian. -/
def imgField (img : List Byte) (lo n : Nat) : Nat := leNat (sliceZ img lo n)

abbrev imgRevision (img : List Byte) : Nat := imgField img 8 4
abbrev imgSecurity (img : List Byte) : Nat := imgField img 12 4
abbrev imgLiveFrom (img : List Byte) : Nat := imgField img 16 4
abbrev imgBodyLength (img : List Byte) : Nat := imgField img 20 4
abbrev imgLevelMin (img : List Byte) : Nat := imgField img 24 1
abbrev imgLevelMax (img : List Byte) : Nat := imgField img 25 1
abbrev imgKeySlot (img : List Byte) : Nat := imgField img 26 1
abbrev imgRevoke (img : List Byte) : Nat := imgField img 27 1
abbrev imgHwMin (img : List Byte) : Nat := imgField img 28 2
abbrev imgHwMax (img : List Byte) : Nat := imgField img 30 2

/-- A slot by its number. -/
def fwSlot (s : State) (k : Nat) : LoafSlot := if k = 0 then s.fw.slotA else s.fw.slotB

/-- Change a slot. -/
def setFwSlot (s : State) (k : Nat) (x : LoafSlot) : State :=
  if k = 0 then { s with fw := { s.fw with slotA := x } } else { s with fw := { s.fw with slotB := x } }

/-- LoafRevision of the running image; the image shipped with the part has the factory's (log entry 5). -/
def loafRevision (s : State) : Nat :=
  if (fwSlot s s.fw.running).image.isEmpty then Config.factoryLoafRevision.toNat else imgRevision (fwSlot s s.fw.running).image

/-- Lowest LoafRevision that an image may replace live. -/
def liveFrom (img : List Byte) : Nat := if img.isEmpty then Config.factoryLiveFrom.toNat else imgLiveFrom img

/-- The level range of an image; the shipped image has the defaults of RindLevelMin and RindLevelMax. -/
def levelMin (img : List Byte) : Nat := if img.isEmpty then 1 else imgLevelMin img
def levelMax (img : List Byte) : Nat := if img.isEmpty then 1 else imgLevelMax img

/-- The slot that is not running. -/
def inactiveSlot (s : State) : Nat := 1 - s.fw.running

end Sys2Proof.Machine
end

