-- ==== Sys2Proof/Machine/Image.lean ====
section
/-! DEFINITION. The checks on a Loaf image, Starter's choice of a slot, and the measurement registers (18, R418 to R420, R428). -/
namespace Sys2Proof.Machine

/-- Check 1 of R418: magic, header_version, reserved bytes, and a length that fits the header. -/
def imageShapeOk (img : List Byte) : Bool :=
  imgField img 0 4 = 0x46414F4C && imgField img 4 4 = 1 && imgField img 96 152 = 0 && imgField img 380 132 = 0 && imgRevoke img < 16 &&
  imgBodyLength img ≤ 16776704 && img.length = 512 + imgBodyLength img

/-- Checks 2 to 4: the key's hash and revocation, the signature as found, the digest of the body. -/
def imageSignedOk (s : State) (img : List Byte) (signatureOk : Bool) : Bool :=
  imgKeySlot img < 4 && !(s.fw.revokedFirmware.getLsbD (imgKeySlot img)) &&
  beNat (sha512 (sliceZ img 512 133)) = (Config.otpFirmwareKeyHash (imgKeySlot img)).toNat && signatureOk &&
  sliceZ img 32 64 = sha512 (img.drop 512)

/-- R418 as the FirmwareResult it shows (Table 18.3): 0 OK, 1 BAD_IMAGE, 2 BAD_SIGNATURE, 3 ROLLBACK, 4 HW_MISMATCH. The
image shipped with the part is known by its verdict alone, at security_version 0 (log entry 6). -/
def imageCheck (s : State) (img : List Byte) (signatureOk : Bool) : Nat :=
  if img.isEmpty then (if !signatureOk then 2 else if 0 < s.fw.rollback then 3 else 0)
  else if !imageShapeOk img then 1
  else if !imageSignedOk s img signatureOk then 2
  else if imgSecurity img < s.fw.rollback then 3
  else if !(imgHwMin img ≤ Config.hardwareRevision.toNat && Config.hardwareRevision.toNat ≤ imgHwMax img) then 4
  else 0

/-! Starter (R420). -/

/-- One slot's turn: the slot selected, or rejected. -/
def starterTry (s : State) (k : Nat) (signatureOk : Bool) : Bool × State :=
  let x := fwSlot s k
  if x.state = 3 && 3 ≤ x.trialBoots then (false, setFwSlot s k { x with state := 1 })
  else if 2 ≤ x.state && imageCheck s x.image signatureOk = 0 then
    let x := if x.state = 3 then { x with trialBoots := x.trialBoots + 1 } else x
    if k = s.fw.active then (true, setFwSlot s k x)
    else
      let s := setFwSlot s k { x with state := 4 }
      (true, { s with fw := { s.fw with active := k } })
  else (false, setFwSlot s k { x with state := 1 })

/-- The slot that Starter selects: the active one, else the other. -/
def starterChoice (s : State) (sigA sigB : Bool) : Option Nat × State :=
  let sig (k : Nat) : Bool := if k = 0 then sigA else sigB
  let a := s.fw.active
  let r := starterTry s a (sig a)
  if r.1 then (some a, r.2)
  else
    let q := starterTry r.2 (1 - a) (sig (1 - a))
    if q.1 then (some (1 - a), q.2) else (none, q.2)

/-! Measurement registers (R428). -/

/-- Extend register k with a digest: SHA-512 of the old value followed by it. -/
def extendMeasure (s : State) (k : Nat) (d : List Byte) : State :=
  let old := s.fw.measures.getD k 0
  { s with fw := { s.fw with measures := s.fw.measures.set k (BitVec.ofNat 512 (leNat (sha512 (leBytes 64 old.toNat ++ d)))) } }

/-- The digest of an image, header and body; that of the shipped image is a free value (log entry 4). -/
def loafDigest (s : State) (img : List Byte) : List Byte × State := if img.isEmpty then drawBytes s 64 else (sha512 img, s)

/-- RindLevelMin and RindLevelMax follow the running image (Table 18.1). -/
def showLevels (s : State) : State :=
  let img := (fwSlot s s.fw.running).image
  wr (wr s eRindLevelMin (levelMin img)) eRindLevelMax (levelMax img)

end Sys2Proof.Machine
end

