-- ==== Sys2Proof/Machine/Formats.lean ====
section
/-! DEFINITION. Number formats (09): exact values, the element formats and scales, the four roundings with their status
flags, the A128 anchored word, and the exact real functions the recipes name. -/
namespace Sys2Proof.Machine


/-! Status flags (Table 09.6). -/
abbrev fINVALID : Nat := 1
abbrev fOVERFLOW : Nat := 2
abbrev fUNDERFLOW : Nat := 4
abbrev fSAT : Nat := 8
abbrev fNAN_IN : Nat := 16

/-! Exact arithmetic. -/

/-- The rational `n × 2^k`. -/
def valScaled (neg : Bool) (n : Nat) (k : Int) : Val :=
  if 0 ≤ k then .fin neg (n * 2 ^ k.toNat) 1 else .fin neg n (2 ^ (-k).toNat)

/-- An integer. -/
def valInt (x : Int) : Val := .fin (decide (x < 0)) x.natAbs 1

/-- `m × 2^k` for a signed m. -/
def valDyadic (m : Int) (k : Int) : Val := valScaled (decide (m < 0)) m.natAbs k

/-- The value is zero. -/
def Val.isZero : Val → Bool
  | .fin _ n _ => n = 0
  | _ => false

/-- The value is NaN. -/
def Val.isNan : Val → Bool
  | .nan => true
  | _ => false

/-- Negation. -/
def Val.negate : Val → Val
  | .nan => .nan
  | .inf s => .inf (!s)
  | .fin s n d => .fin (!s) n d

/-- The exact product and its flags (R196): 0 × ∞ is invalid, a NaN propagates. -/
def Val.mul : Val → Val → Val × Nat
  | .nan, _ => (.nan, fNAN_IN)
  | _, .nan => (.nan, fNAN_IN)
  | .inf s, .inf t => (.inf (s != t), 0)
  | .inf s, .fin t n _ => if n = 0 then (.nan, fINVALID) else (.inf (s != t), 0)
  | .fin s n _, .inf t => if n = 0 then (.nan, fINVALID) else (.inf (s != t), 0)
  | .fin s n d, .fin t m e => (.fin (s != t) (n * m) (d * e), 0)

/-- The signed numerator over the product of the denominators. -/
def sumNum (s : Bool) (n d : Nat) (t : Bool) (m e : Nat) : Int :=
  (if s then -((n * e : Nat) : Int) else ((n * e : Nat) : Int)) + (if t then -((m * d : Nat) : Int) else ((m * d : Nat) : Int))

/-- The exact sum and its flags (R196): (+∞) + (−∞) is invalid; a zero sum is −0 only of two negative zeros. -/
def Val.add : Val → Val → Val × Nat
  | .nan, _ => (.nan, fNAN_IN)
  | _, .nan => (.nan, fNAN_IN)
  | .inf s, .inf t => if s = t then (.inf s, 0) else (.nan, fINVALID)
  | .inf s, .fin _ _ _ => (.inf s, 0)
  | .fin _ _ _, .inf t => (.inf t, 0)
  | .fin s n d, .fin t m e =>
    let x := sumNum s n d t m e
    (if x = 0 then .fin (s && t) 0 1 else .fin (decide (x < 0)) x.natAbs (d * e), 0)

/-- The exact difference. -/
def Val.sub (a b : Val) : Val × Nat := a.add b.negate

/-- The exact quotient by a finite non-zero value or an infinity; a quotient by zero, which the spec does not state, is
the free value `divByZero` of the numerator's FP32 encoding, given by the caller (log entry 4). -/
def Val.div (a b : Val) (byZero : Val) : Val × Nat :=
  match a, b with
  | .nan, _ => (.nan, fNAN_IN)
  | _, .nan => (.nan, fNAN_IN)
  | .inf _, .inf _ => (.nan, fINVALID)
  | .inf s, .fin t n _ => if n = 0 then (byZero, 0) else (.inf (s != t), 0)
  | .fin s _ _, .inf t => (.fin (s != t) 0 1, 0)
  | .fin s n d, .fin t m e => if m = 0 then (byZero, 0) else (.fin (s != t) (n * e) (d * m), 0)

/-- floor(log2 (n / d)) of a positive rational. -/
def floorLog2 (n d : Nat) : Int :=
  let e : Int := (Nat.log2 n : Int) - (Nat.log2 d : Int)
  let ok := if 0 ≤ e then decide (d * 2 ^ e.toNat ≤ n) else decide (d ≤ n * 2 ^ (-e).toNat)
  if ok then e else e - 1

/-- floor(log2 |v|) of a finite non-zero value. -/
def Val.log2 : Val → Option Int
  | .fin _ n d => if n = 0 then none else some (floorLog2 n d)
  | _ => none

/-- Comparison of finite or infinite values, −0 equal to +0 (R179): a < b. -/
def Val.lt : Val → Val → Bool
  | .nan, _ => false
  | _, .nan => false
  | .inf s, .inf t => s && !t
  | .inf s, .fin _ _ _ => s
  | .fin _ _ _, .inf t => !t
  | .fin s n d, .fin t m e => decide (sumNum s n d (!t) m e < 0)

/-! Element formats (Table 09.1). -/

/-- A floating-point format: exponent and fraction bits, bias, the magnitude encodings of the largest finite value, of
infinity and of the canonical NaN. -/
structure FloatFmt where
  ebits : Nat
  mbits : Nat
  bias : Nat
  maxEnc : Nat
  inf : Option Nat
  nan : Option Nat
deriving DecidableEq, Repr

/-- Codes 0x0 to 0x7. -/
def floatFmt : Nat → Option FloatFmt
  | 0 => some ⟨8, 23, 127, 0x7F7FFFFF, some 0x7F800000, some 0x7FC00000⟩
  | 1 => some ⟨8, 7, 127, 0x7F7F, some 0x7F80, some 0x7FC0⟩
  | 2 => some ⟨5, 10, 15, 0x7BFF, some 0x7C00, some 0x7E00⟩
  | 3 => some ⟨4, 3, 7, 0x7E, none, some 0x7F⟩
  | 4 => some ⟨5, 2, 15, 0x7B, some 0x7C, some 0x7E⟩
  | 5 => some ⟨3, 2, 3, 0x1F, none, none⟩
  | 6 => some ⟨2, 3, 1, 0x1F, none, none⟩
  | 7 => some ⟨2, 1, 1, 0x7, none, none⟩
  | _ => none

/-- Bits of an element of a format (Table 09.1). -/
def fmtBits : Nat → Nat
  | 0 => 32 | 1 => 16 | 2 => 16 | 3 => 8 | 4 => 8 | 5 => 6 | 6 => 6 | 7 => 4 | 8 => 8 | 9 => 4 | 10 => 256 | _ => 8

/-- The exponent of an integer format's grid (R180). -/
def intGrid (code : Nat) (scaled : Bool) : Int := if scaled then (if code = 8 then -6 else -2) else 0

/-- Decode a floating-point encoding (R178, R179). -/
def decodeFloat (f : FloatFmt) (w : Nat) : Val :=
  let neg := w.testBit (f.ebits + f.mbits)
  let mag := w % 2 ^ (f.ebits + f.mbits)
  let e := mag / 2 ^ f.mbits
  let m := mag % 2 ^ f.mbits
  if f.inf = some mag then .inf neg
  else if mag > f.maxEnc then .nan
  else if e = 0 then valScaled neg m (1 - (f.bias : Int) - f.mbits)
  else valScaled neg (2 ^ f.mbits + m) ((e : Int) - f.bias - f.mbits)

/-- Decode an element of format 0x0 to 0x9. -/
def decodeElem (code : Nat) (scaled : Bool) (w : Nat) : Val :=
  match floatFmt code with
  | some f => decodeFloat f w
  | none => valDyadic (signed (fmtBits code) w) (intGrid code scaled)

/-- Rounding modes (R187). -/
abbrev mRNE : Nat := 0
abbrev mRTZ : Nat := 1
abbrev mSR : Nat := 2
abbrev mRNE_SAT : Nat := 3

/-- The magnitude n/d in steps of 2^k, rounded (R187, R190), and whether it was exact. `r` is the SR word. -/
def roundSteps (mode r : Nat) (neg : Bool) (n d : Nat) (k : Int) : Nat × Bool :=
  let n' := if k < 0 then n * 2 ^ (-k).toNat else n
  let d' := if k < 0 then d else d * 2 ^ k.toNat
  let q := n' / d'
  let rem := n' % d'
  let up :=
    if rem = 0 then false
    else if mode = mRTZ then false
    else if mode = mSR then
      (if neg then !decide (r < (d' - rem) * 2 ^ 32 / d') else decide (r < rem * 2 ^ 32 / d'))
    else decide (2 * rem > d') || (decide (2 * rem = d') && q % 2 = 1)
  (if up then q + 1 else q, decide (rem = 0))

/-- The sign bit of an encoding. -/
def signBit (f : FloatFmt) (neg : Bool) : Nat := if neg then 2 ^ (f.ebits + f.mbits) else 0

/-- Encode into a floating-point format with flags (R187, R188, Table 09.5). `clamp` is R185's clamp without a flag. -/
def encodeFloat (f : FloatFmt) (mode r : Nat) (clamp : Bool) : Val → Nat × Nat
  | .nan =>
    match f.nan with
    | some x => (x, 0)
    | none => (0, fINVALID ||| fNAN_IN)
  | .inf neg =>
    if mode = mRNE_SAT then (signBit f neg + f.maxEnc, 0)
    else match f.inf, f.nan with
      | some x, _ => (signBit f neg + x, 0)
      | none, some x => (x, fOVERFLOW)
      | none, none => (signBit f neg + f.maxEnc, fOVERFLOW)
  | .fin neg n d =>
    if n = 0 then (signBit f neg, 0)
    else
      let emin : Int := 1 - (f.bias : Int)
      let e := max (floorLog2 n d) emin
      let q := roundSteps mode r neg n d (e - f.mbits)
      let enc := (e - emin).toNat * 2 ^ f.mbits + q.1
      if enc > f.maxEnc then
        if clamp then (signBit f neg + f.maxEnc, 0)
        else if mode = mRTZ || mode = mRNE_SAT then (signBit f neg + f.maxEnc, fOVERFLOW)
        else match f.inf, f.nan with
          | some x, _ => (signBit f neg + x, fOVERFLOW)
          | none, some x => (x, fOVERFLOW)
          | none, none => (signBit f neg + f.maxEnc, fOVERFLOW)
      else (signBit f neg + enc, if !q.2 && enc < 2 ^ f.mbits then fUNDERFLOW else 0)

/-- Encode into INT8 or INT4 (R180, R187, R188). -/
def encodeInt (code mode r : Nat) (scaled clamp : Bool) : Val → Nat × Nat
  | .nan => (0, fINVALID ||| fNAN_IN)
  | .inf neg =>
    let w := fmtBits code
    (unsigned w (if neg then -(2 ^ (w - 1) : Nat) else (2 ^ (w - 1) - 1 : Nat)), if mode = mRNE_SAT then 0 else fOVERFLOW)
  | .fin neg n d =>
    let w := fmtBits code
    let q := (roundSteps mode r neg n d (intGrid code scaled)).1
    let top := if neg then 2 ^ (w - 1) else 2 ^ (w - 1) - 1
    let q' := min q top
    (unsigned w (if neg then -(q' : Int) else q'), if q > top && !clamp then fOVERFLOW else 0)

/-- Encode an exact value into format 0x0 to 0x9. -/
def encodeElem (code mode r : Nat) (scaled clamp : Bool) (v : Val) : Nat × Nat :=
  match floatFmt code with
  | some f => encodeFloat f mode r clamp v
  | none => encodeInt code mode r scaled clamp v

/-- Round once to FP32 by RNE: the encoding and its flags. -/
def rneF32 (v : Val) : Nat × Nat := encodeElem 0 mRNE 0 false false v

/-- The value of an FP32 encoding. -/
def f32 (w : Nat) : Val := decodeElem 0 false w

/-- The value after one rounding to FP32. -/
def rne32 (v : Val) : Val := f32 (rneF32 v).1

/-- The SR word of an element (R190). -/
def srWord (seed : Word) (step index : Nat) : Nat := (plihotu seed (w64 step) (w64 index) >>> 32).toNat

/-! Packing (R181). -/

/-- Element `i` of a packed string. -/
def elemAt (code : Nat) (l : List Byte) (i : Nat) : Nat :=
  let b := fmtBits code
  let lo := b * i
  bitsAt (leNat ((l.drop (lo / 8)).take ((lo % 8 + b + 7) / 8))) (lo % 8) b

/-- Bytes of `n` packed elements. -/
def packedBytes (code n : Nat) : Nat :=
  if code = 5 || code = 6 then (n + 3) / 4 * 3 else (n * fmtBits code + 7) / 8

/-- Pack elements, padding with zero bits. -/
def packElems (code : Nat) (es : List Nat) : List Byte :=
  leBytes (packedBytes code es.length) ((es.zipIdx).foldl (fun a e => a + e.1 * 2 ^ (fmtBits code * e.2)) 0)

/-! The format word and shared scales (Table 09.3, R182 to R185). -/

/-- elem_fmt of a format word. -/
def fmtElem (w : Nat) : Nat := bitsAt w 0 4
/-- scale_fmt. -/
def fmtScale (w : Nat) : Nat := bitsAt w 4 2
/-- The block size. -/
def fmtBlock (w : Nat) : Nat := 2 ^ (bitsAt w 6 3 + 3)
/-- scale_dir. -/
def fmtDir (w : Nat) : Nat := bitsAt w 9 1

/-- The format word is not refused (R182, Table 09.3). -/
def fmtWordOk (w : Nat) : Bool :=
  bitsAt w 10 6 = 0 && fmtElem w ≤ 10 && fmtScale w ≤ 2 && bitsAt w 6 3 ≤ 5 &&
  (fmtScale w ≠ 0 || (bitsAt w 6 3 = 0 && fmtDir w = 0)) && (fmtScale w = 0 || (fmtElem w ≠ 0 && fmtElem w ≠ 10))

/-- The value of a scale byte (R183): `none` makes the block NaN. -/
def scaleVal (scaleFmt b : Nat) : Option Val :=
  if scaleFmt = 1 then (if b = 0xFF then none else some (valScaled false 1 ((b : Int) - 127)))
  else if b ≥ 128 || b % 128 = 0x7F then none
  else some (decodeElem 3 false b)

/-- An element's value times its scale (R183): a zero scale gives ±0 with the element's sign. -/
def scaledVal (code w : Nat) (scale : Option Val) : Val :=
  match scale with
  | none => .nan
  | some sc =>
    if sc.isZero then .fin (w.testBit (fmtBits code - 1)) 0 1
    else (Val.mul (decodeElem code true w) sc).1

/-- emax of an element format (R185). -/
def fmtEmax : Nat → Int
  | 3 => 8 | 4 => 15 | 5 => 4 | 6 => 2 | 7 => 2 | 8 => 0 | 9 => 0 | 2 => 15 | _ => 127

/-- The largest finite value of an element format in a scaled operand. -/
def fmtMax (code : Nat) : Val :=
  match floatFmt code with
  | some f => decodeFloat f f.maxEnc
  | none => decodeElem code true (2 ^ (fmtBits code - 1) - 1)

/-- The smallest E4M3 encoding at or above a positive rational, capped at 448 (R185). -/
def e4m3Ceil (n d : Nat) : Nat :=
  (((List.range 0x7F).drop 1).find? fun b =>
    match decodeElem 3 false b with
    | .fin _ m e => decide (n * e ≤ m * d)
    | _ => false).getD 0x7E

/-- The larger magnitude of two finite values (`none`: no finite value yet). -/
def amaxStep (a : Option (Nat × Nat)) : Val → Option (Nat × Nat)
  | .fin _ n d =>
    match a with
    | none => some (n, d)
    | some (m, e) => if n * e > m * d then some (n, d) else some (m, e)
  | _ => a

/-- The scale byte of a block written in a scaled format (R185). -/
def blockScale (code scaleFmt : Nat) (vs : List Val) : Nat :=
  match vs.foldl amaxStep none with
  | none => if scaleFmt = 1 then 0 else 1
  | some (n, d) =>
    if n = 0 then (if scaleFmt = 1 then 0 else 1)
    else if scaleFmt = 1 then (max (-127) (min 127 (floorLog2 n d - fmtEmax code)) + 127).toNat
    else match fmtMax code with
      | .fin _ m e => e4m3Ceil (n * e) (d * m)
      | _ => 1

/-- Encode one element of a scaled result (R185): divided by the scale, rounded in the mode, clamped without a flag, except
where an E4M3 scale was capped. -/
def encodeScaled (code scaleFmt mode r scaleByte : Nat) (v : Val) : Nat × Nat :=
  match scaleVal scaleFmt scaleByte with
  | none => encodeElem code mode r true true .nan
  | some sc => encodeElem code mode r true (!(scaleFmt = 2 && scaleByte = 0x7E)) (Val.div v sc .nan).1

/-! The A128 word (R192 to R195). -/

/-- Tag bits of an A128 word (Table 09.7 bits 143–140). -/
abbrev tNAN : BitVec 4 := 1
abbrev tPINF : BitVec 4 := 2
abbrev tNINF : BitVec 4 := 4
abbrev tSAT : BitVec 4 := 8

/-- A contribution to a word with anchor `A` (R193). -/
def contribute (v : Val) (A : Int) : AWord :=
  match v with
  | .nan => { tag := tNAN }
  | .inf false => { tag := tPINF }
  | .inf true => { tag := tNINF }
  | .fin neg n d =>
    let big := if 0 ≤ A + 1 then decide (d * 2 ^ (A + 1).toNat ≤ n) else decide (d ≤ n * 2 ^ (-(A + 1)).toNat)
    if big then { m := if neg then -(2 ^ 76) else 2 ^ 76, tag := tSAT }
    else
      let q := (roundSteps mRNE 0 neg n d (A - 75)).1
      { m := if neg then -(q : Int) else q }

/-- An invalid operation's contribution (R194). -/
def aInvalid : AWord := { tag := tPINF ||| tNINF }

/-- The sum of two words of one anchor (R194). -/
def AWord.add (a b : AWord) : AWord := { m := a.m + b.m, tag := a.tag ||| b.tag }

/-- The exact value of a product entered into a word: 0 × ∞ enters as an invalid operation (R197). -/
def contributeProduct (a b : Val) (A : Int) : AWord :=
  match Val.mul a b with
  | (.nan, f) => if f = fINVALID then aInvalid else { tag := tNAN }
  | (v, _) => contribute v A

/-- What a word's tags say before conversion (R195 steps 1 to 3): the value and its flags. -/
def aValue (w : AWord) (A : Int) : Val × Nat :=
  if w.tag &&& (tPINF ||| tNINF) = tPINF ||| tNINF then (.nan, fINVALID ||| (if w.tag &&& tNAN ≠ 0 then fNAN_IN else 0))
  else if w.tag &&& tNAN ≠ 0 then (.nan, fNAN_IN)
  else if w.tag &&& tPINF ≠ 0 then (.inf false, 0)
  else if w.tag &&& tNINF ≠ 0 then (.inf true, 0)
  else (valDyadic w.m (A - 75), if w.tag &&& tSAT ≠ 0 then fSAT else 0)

/-- An encoding of an A128 word's value with its own flags beside those of the encoding. A NaN that is INVALID only and meets a target
without NaN is +0 with INVALID (R195). -/
def outFlags (vf : Val × Nat) (e : Nat × Nat) : Nat × Nat :=
  match vf.1 with
  | .nan => if vf.2 = fINVALID then (e.1, fINVALID) else (e.1, e.2 ||| vf.2)
  | _ => (e.1, e.2 ||| vf.2)

/-- A value with the flags it already carries, rounded once into a format (R187, R188, R195). -/
def outElem (code mode r : Nat) (vf : Val × Nat) : Nat × Nat := outFlags vf (encodeElem code mode r false false vf.1)

/-- Convert an A128 word (R195). -/
def aConvert (code mode r : Nat) (w : AWord) (A : Int) : Nat × Nat := outElem code mode r (aValue w A)

/-- An A128 word as stored (Table 09.7). -/
def aBits (w : AWord) (A : Int) : Nat := unsigned 128 w.m + 2 ^ 128 * unsigned 12 A + 2 ^ 140 * w.tag.toNat

/-- The word of a stored element, and its anchor. -/
def aOfBits (n : Nat) : AWord × Int := ({ m := signed 128 n, tag := BitVec.ofNat 4 (bitsAt n 140 4) }, signed 12 (bitsAt n 128 12))

/-- Align a word to another anchor by R255's rule: its exact value enters by R193 and its tags OR in. -/
def aRealign (w : AWord) (A B : Int) : AWord :=
  let x := contribute (valDyadic w.m (A - 75)) B
  { x with tag := x.tag ||| w.tag }

/-- The sum of values at an anchor. -/
def aSum (A : Int) (vs : List Val) : AWord := vs.foldl (fun w v => w.add (contribute v A)) {}

/-- max floor(log2 |v|) over finite non-zero values, or −2,048 (R317). -/
def maxLog2 (vs : List Val) : Int := vs.foldl (fun a v => match v.log2 with | some e => max a e | none => a) (-2048)

/-! Real functions rounded once (R311, R312, R313, R318). -/

/-- e^x for x = n/d in fixed point of 320 bits: (x/256)'s series, squared eight times. -/
def expFix (n d : Nat) : Nat :=
  let P := 2 ^ 320
  let y := n * P / (d * 256)
  let s := (List.range 48).foldl (fun (acc : Nat × Nat) i => (acc.1 + acc.2, acc.2 * y / (P * (i + 2)))) (P, y)
  (List.range 8).foldl (fun r _ => r * r / P) s.1

/-- e^v, rounded once to FP32 (R311). The 320-bit value lies on the right side of every rounding boundary (log entry 17). -/
def expF32 : Val → Nat × Nat
  | .nan => (0x7FC00000, fNAN_IN)
  | .inf false => (0x7F800000, 0)
  | .inf true => (0, 0)
  | .fin neg n d =>
    if n = 0 then rneF32 (.fin false 1 1)
    else if n ≥ 200 * d then (if neg then rneF32 (.fin false 1 (2 ^ 200)) else rneF32 (.fin false (2 ^ 200) 1))
    else if neg then rneF32 (.fin false (2 ^ 320) (expFix n d)) else rneF32 (.fin false (expFix n d) (2 ^ 320))

/-- An approximation of sqrt(n/d) from which one rounding to FP32 is right: 200 further bits and a sticky bit. -/
def sqrtFrac (n d : Nat) : Val :=
  let s := 200 + Nat.log2 d
  let x := n * 2 ^ (2 * s) / d
  let root := iroot 2 x (Nat.log2 x / 2 + 1) 0
  let exact := decide (root * root * d = n * 2 ^ (2 * s))
  .fin false (2 * root + (if exact then 0 else 1)) (2 ^ (s + 1))

/-- sqrt, rounded once to FP32; of a negative or non-finite value the spec states no result (log entry 4). -/
def sqrtF32 (v : Val) : Nat :=
  match v with
  | .fin neg n d => if n = 0 then (rneF32 v).1 else if neg then (Config.sqrtOpen (BitVec.ofNat 32 (rneF32 v).1)).toNat else (rneF32 (sqrtFrac n d)).1
  | .nan => 0x7FC00000
  | .inf _ => (Config.sqrtOpen (BitVec.ofNat 32 (rneF32 v).1)).toNat

/-- 1/sqrt, rounded once to FP32; of zero, a negative or a non-finite value the spec states no result (log entry 4). -/
def rsqrtF32 (v : Val) : Nat :=
  match v with
  | .fin neg n d => if n = 0 || neg then (Config.rsqrtOpen (BitVec.ofNat 32 (rneF32 v).1)).toNat else (rneF32 (sqrtFrac d n)).1
  | .nan => 0x7FC00000
  | .inf _ => (Config.rsqrtOpen (BitVec.ofNat 32 (rneF32 v).1)).toNat

/-- A quotient; by zero, the free value of the numerator (log entry 4). -/
def quot (a b : Val) : Val × Nat :=
  Val.div a b (f32 (Config.divByZero (BitVec.ofNat 32 (rneF32 a).1)).toNat)

end Sys2Proof.Machine
end

