-- ==== Sys2Proof/Machine/Packets.lean ====
section
/-! DEFINITION. Packets and frames as bits: header and trailer (Table 04.6, R86), link frames (R69 to R72), identity
frames (Table 04.5), lane control blocks (Table 03.2), the opcode table (Table 04.7) and endpoint IDs (R99). -/
namespace Sys2Proof.Machine

/-! Headers. -/

/-- The header's 256 bits (Table 04.6). -/
def headerBits (h : Header) : Nat :=
  h.opcode.toNat + h.cls.toNat * 2 ^ 8 + b2n h.dateline * 2 ^ 10 + b2n h.poison * 2 ^ 11 + b2n h.last * 2 ^ 12
    + b2n h.ackReq * 2 ^ 13 + b2n h.sprayed * 2 ^ 14 + b2n h.retx * 2 ^ 15 + h.dst.toNat * 2 ^ 16 + h.src.toNat * 2 ^ 40
    + h.sequence.toNat * 2 ^ 64 + h.payloadLength.toNat * 2 ^ 88 + h.slice.toNat * 2 ^ 104 + h.loc.toNat * 2 ^ 128 + h.aux.toNat * 2 ^ 192

/-- The header those bits spell; reserved bits are ignored (R4), and leave a forwarding module as zero (DESIGN CHOICE, log entry 121). -/
def headerOf (v : Nat) : Header :=
  { opcode := BitVec.ofNat 8 v, cls := BitVec.ofNat 2 (v >>> 8), dateline := bitAt v 10, poison := bitAt v 11, last := bitAt v 12,
    ackReq := bitAt v 13, sprayed := bitAt v 14, retx := bitAt v 15, dst := BitVec.ofNat 23 (v >>> 16), src := BitVec.ofNat 23 (v >>> 40),
    sequence := BitVec.ofNat 24 (v >>> 64), payloadLength := BitVec.ofNat 13 (v >>> 88), slice := BitVec.ofNat 10 (v >>> 104),
    loc := BitVec.ofNat 64 (v >>> 128), aux := BitVec.ofNat 64 (v >>> 192) }

/-- Header and payload as bytes, byte 0 first. -/
def packetBody (p : Packet) : List Byte := leBytes 32 (headerBits p.h) ++ p.payload

/-- The packet's CRC-32C trailer (R86). -/
def packetCrc (p : Packet) : BitVec 32 := crc32c (packetBody p)

/-- The bytes of a packet with its trailer, stomped (R93) or not, padded to whole flits. -/
def packetBytes (p : Packet) (stomped : Bool) : List Byte :=
  let c := packetCrc p
  let l := packetBody p ++ leBytes 4 (if stomped then (~~~c).toNat else c.toNat)
  l ++ List.replicate ((64 - l.length % 64) % 64) 0

/-- Frames of a packet with `n` payload bytes (R72). -/
def frameCount (n : Nat) : Nat := (36 + n + 63) / 64

/-- Flit `i` of a packet. -/
def flitAt (p : Packet) (stomped : Bool) (i : Nat) : BitVec 512 := BitVec.ofNat 512 (leNat (sliceZ (packetBytes p stomped) (64 * i) 64))

/-! Fields of the header's bits 191 to 128. -/

/-- group (bits 143–128). -/
def hGroup (h : Header) : Nat := bitsAt h.loc.toNat 0 16
/-- epoch, or invocation tag (bits 159–144). -/
def hEpoch (h : Header) : Nat := bitsAt h.loc.toNat 16 16
/-- chunk_index, or token position (bits 191–160). -/
def hChunk (h : Header) : Nat := bitsAt h.loc.toNat 32 32
/-- The alternative layout of bits 191 to 128. -/
def locOf (group epoch chunk : Nat) : BitVec 64 := BitVec.ofNat 64 (group % 2 ^ 16 + epoch % 2 ^ 16 * 2 ^ 16 + chunk % 2 ^ 32 * 2 ^ 32)

/-! Endpoint IDs (R99). -/

/-- The coordinate bits of an ID. -/
def idCoord (i : BitVec 23) : Nat := bitsAt i.toNat 0 15
/-- The port of an ID. -/
def idPort (i : BitVec 23) : Nat := bitsAt i.toNat 15 8
/-- x, y, z of a coordinate. -/
def coordX (c : Nat) : Nat := bitsAt c 0 5
def coordY (c : Nat) : Nat := bitsAt c 5 5
def coordZ (c : Nat) : Nat := bitsAt c 10 5
/-- A coordinate of x, y, z. -/
def coordOf (x y z : Nat) : Nat := x + y * 32 + z * 1024
/-- An ID of coordinate and port. -/
def idOf (coord port : Nat) : BitVec 23 := BitVec.ofNat 23 (coord % 2 ^ 15 + port * 2 ^ 15)

/-! Opcodes (Table 04.7). -/

/-- Who sends or takes a packet: endpoint, module or either. -/
inductive Side where
  | endpoint | module | either
deriving DecidableEq, Repr

/-- A row of Table 04.7: sender, receiver, classes, least and most payload bytes. -/
structure OpcodeRow where
  sender : Side
  receiver : Side
  classes : List Nat
  lo : Nat
  hi : Nat
deriving DecidableEq, Repr

abbrev opWRITE : BitVec 8 := 0x00
abbrev opWRITE_NOTIFY : BitVec 8 := 0x01
abbrev opREAD_REQ : BitVec 8 := 0x02
abbrev opACCEPT : BitVec 8 := 0x10
abbrev opDELIVERED : BitVec 8 := 0x11
abbrev opWINDOW_UPD : BitVec 8 := 0x12
abbrev opDROP_NOTICE : BitVec 8 := 0x13
abbrev opJOIN : BitVec 8 := 0x20
abbrev opANCHOR : BitVec 8 := 0x21
abbrev opDATA : BitVec 8 := 0x22
abbrev opCOLL_RESULT : BitVec 8 := 0x23
abbrev opCOLL_DONE : BitVec 8 := 0x24
abbrev opABORT : BitVec 8 := 0x25
abbrev opPOISON : BitVec 8 := 0x26
abbrev opINVOKE : BitVec 8 := 0x30
abbrev opDISPATCH : BitVec 8 := 0x31
abbrev opCOMBINE_DATA : BitVec 8 := 0x32
abbrev opRECIPE_RESULT : BitVec 8 := 0x33
abbrev opMGMT : BitVec 8 := 0x41
abbrev opFENCE_NOTICE : BitVec 8 := 0x42

/-- The row of an opcode; every value not listed, and 0x40, is refused as a packet (R88). -/
def opcodeRow (op : BitVec 8) : Option OpcodeRow :=
  match op.toNat with
  | 0x00 => some ⟨.endpoint, .endpoint, [1, 3], 0, 4096⟩
  | 0x01 => some ⟨.endpoint, .endpoint, [1, 3], 0, 4096⟩
  | 0x02 => some ⟨.endpoint, .endpoint, [1, 3], 8, 8⟩
  | 0x10 => some ⟨.module, .endpoint, [1], 0, 0⟩
  | 0x11 => some ⟨.endpoint, .endpoint, [1], 0, 0⟩
  | 0x12 => some ⟨.module, .endpoint, [1], 0, 0⟩
  | 0x13 => some ⟨.module, .endpoint, [1], 0, 0⟩
  | 0x20 => some ⟨.endpoint, .module, [2], 64, 64⟩
  | 0x21 => some ⟨.either, .module, [2], 8, 1024⟩
  | 0x22 => some ⟨.either, .module, [2], 1, 4096⟩
  | 0x23 => some ⟨.module, .either, [2], 1, 4096⟩
  | 0x24 => some ⟨.module, .endpoint, [2], 64, 64⟩
  | 0x25 => some ⟨.either, .either, [2], 16, 16⟩
  | 0x26 => some ⟨.module, .either, [2], 0, 0⟩
  | 0x30 => some ⟨.endpoint, .module, [1], 16, 4096⟩
  | 0x31 => some ⟨.module, .endpoint, [1], 1, 4096⟩
  | 0x32 => some ⟨.endpoint, .module, [1], 1, 4096⟩
  | 0x33 => some ⟨.module, .endpoint, [1], 1, 4096⟩
  | 0x41 => some ⟨.module, .module, [0], 1, 4096⟩
  | 0x42 => some ⟨.module, .either, [0], 16, 16⟩
  | _ => none

/-! Link trailers (Table 04.1). -/

/-- The frame's CRC input: flit bytes, then trailer bytes 64 and 65 (R70). -/
def frameCrc (flit : BitVec 512) (low : Nat) : BitVec 16 := crc16 (leBytes 64 flit.toNat ++ leBytes 2 low)

/-- The link trailer of a frame. -/
def frameTrailer (flit : BitVec 512) (isLink : Bool) (vc : Nat) (sop : Bool) (seq : Nat) : BitVec 32 :=
  let low := seq % 1024 + b2n sop * 2 ^ 10 + vc % 8 * 2 ^ 11 + b2n isLink * 2 ^ 15
  BitVec.ofNat 32 (low + (frameCrc flit low).toNat * 2 ^ 16)

/-- The frame passes R70. -/
def frameOk (flit : BitVec 512) (trailer : BitVec 32) : Bool :=
  frameCrc flit (bitsAt trailer.toNat 0 16) = BitVec.ofNat 16 (trailer.toNat >>> 16)

/-- frame_seq, sop, vc and kind of a trailer. -/
def trSeq (t : BitVec 32) : Nat := bitsAt t.toNat 0 10
def trSop (t : BitVec 32) : Bool := bitAt t.toNat 10
def trVc (t : BitVec 32) : Nat := bitsAt t.toNat 11 3
def trLink (t : BitVec 32) : Bool := bitAt t.toNat 15

/-! Identity frames (Table 04.5). -/

/-- A field of an ID_FRAME flit. -/
def idf (flit : BitVec 512) (lo w : Nat) : Nat := bitsAt flit.toNat lo w

def idRole (f : BitVec 512) : Nat := idf f 8 8
def idState (f : BitVec 512) : Nat := idf f 16 8
def idLevelMin (f : BitVec 512) : Nat := idf f 32 8
def idLevelMax (f : BitVec 512) : Nat := idf f 40 8
def idIdent (f : BitVec 512) : Nat := idf f 64 64
def idRevision (f : BitVec 512) : Nat := idf f 128 32
def idGrant (f : BitVec 512) (v : Nat) : Nat := idf f (160 + 12 * v) 12
def idAckSeq (f : BitVec 512) : Nat := idf f 256 10
def idNak (f : BitVec 512) : Bool := bitAt f.toNat 270
def idAckValid (f : BitVec 512) : Bool := bitAt f.toNat 271
def idRet (f : BitVec 512) (v : Nat) : Nat := idf f (288 + 12 * v) 12
def idEchoTag (f : BitVec 512) : Nat := idf f 384 8
def idEchoSeen (f : BitVec 512) : Nat := idf f 392 8
def idEchoDelay (f : BitVec 512) : Nat := idf f 400 16
/-- The identity content (R84): bits 255–0. -/
def idContent (f : BitVec 512) : BitVec 256 := BitVec.ofNat 256 f.toNat
/-- The far endpoint ID of a module's ident. -/
def idFarId (f : BitVec 512) : BitVec 23 := BitVec.ofNat 23 (idIdent f)

/-- The frame is recorded (R84). -/
def idRecordable (f : BitVec 512) : Bool := idf f 0 8 = 0x40 && idRole f ≤ 1 && idState f ≤ 5

/-! Lane control blocks (Table 03.2). -/

abbrev lcbSync : Nat := 0x5A0FC369A5F03C96

/-- lane_index, type, carried_lane and marker_seq. -/
def lcbLane (b : BitVec 136) : Nat := bitsAt b.toNat 64 5
def lcbType (b : BitVec 136) : Nat := bitsAt b.toNat 69 3
def lcbCarried (b : BitVec 136) : Nat := bitsAt b.toNat 72 5
def lcbSeq (b : BitVec 136) : Nat := bitsAt b.toNat 80 16

/-- The block as received on an inverted lane: level k becomes −k, which flips the upper bit of every pair (R48). -/
def lcbInvert (b : BitVec 136) : BitVec 136 := b ^^^ BitVec.ofNat 136 (0xAA * ((2 ^ 136 - 1) / 255))

/-- The sync pattern is there. -/
def lcbSynced (b : BitVec 136) : Bool := bitsAt b.toNat 0 64 = lcbSync

/-- The CRC and the type are right (R48). -/
def lcbGood (b : BitVec 136) : Bool := (crc8Block (bitsAt b.toNat 0 128)).toNat = bitsAt b.toNat 128 8 && lcbType b ≤ 1

/-- A control block to send. -/
def lcbMake (lane type carried seq : Nat) : BitVec 136 :=
  let v := lcbSync + lane * 2 ^ 64 + type * 2 ^ 69 + carried * 2 ^ 72 + seq % 2 ^ 16 * 2 ^ 80
  BitVec.ofNat 136 (v + (crc8Block v).toNat * 2 ^ 128)

end Sys2Proof.Machine
end

