-- ==== Sys2Proof/Machine/Net.lean ====
section
/-! DEFINITION. Where packets go and where they wait (05, 06, 07): topology, bonds, slices, hop choice, curd and whey
blocks, egress queues, notices, windows and reordering; and how the module sends packets of its own. -/
namespace Sys2Proof.Machine

/-! Place in the torus (R94 to R99). -/

/-- The module's coordinate: the sampled straps (R94). -/
def myCoord (s : State) : Nat := rd s eStrapSample % 2 ^ 15

/-- The module's own ID with a port. -/
def myId (s : State) (port : Nat) : BitVec 23 := idOf (myCoord s) port

/-- A coordinate lies within sizes. -/
def inSizes (z : Nat × Nat × Nat) (c : Nat) : Bool := coordX c < z.1 && coordY c < z.2.1 && coordZ c < z.2.2

/-- The module number of a coordinate (R99). -/
def moduleNum (z : Nat × Nat × Nat) (c : Nat) : Nat := coordX c + z.1 * (coordY c + z.2.1 * coordZ c)

/-- The coordinate of a module number. -/
def coordOfNum (z : Nat × Nat × Nat) (m : Nat) : Nat := coordOf (m % z.1) (m / z.1 % z.2.1) (m / (z.1 * z.2.1))

/-- This module's number; 0 while not sized (Table 05.4). -/
def myNum (s : State) : Nat :=
  match s.topo.sizes with
  | some z => moduleNum z (myCoord s)
  | none => 0

/-! Ports and bonds (R102 to R105). -/

/-- The port is an edge port. -/
def isEdge (p : Nat) : Bool := p < 104

/-- The port is ON. -/
def portOn (s : State) (p : Nat) : Bool := fnState s (ePortState p) = .on

/-- Ports of the same bond as p, itself included. -/
def bondPorts (s : State) (p : Nat) : List Nat :=
  let l := rd s (ePortBondLeader p)
  if l = 0xFF then [p] else (List.range 104).filter fun q => rd s (ePortBondLeader q) = l

/-- An active port of its bond: ON and not excluded (R103). -/
def portActive (s : State) (p : Nat) : Bool := portOn s p && !(portOf s p).excluded

/-- The port a packet to edge port d leaves on (R105); an excluded port serves as an unbonded one (R103). -/
def exitPort (s : State) (d : Nat) : Option Nat :=
  if portOn s d then some d
  else if rd s (ePortBondLeader d) = 0xFF then none
  else (bondPorts s d).find? fun q => portActive s q

/-- The src a packet arriving on edge port p may carry (R104). -/
def sourceOk (s : State) (p : Nat) (src : BitVec 23) : Bool :=
  idCoord src = myCoord s &&
  (idPort src = p || (rd s (ePortBondLeader p) ≠ 0xFF && portActive s p && (bondPorts s p).contains (idPort src)))

/-- PortRoutable (Table 06.3): an edge port when ON. -/
def portRoutable (s : State) (p : Nat) : Bool := if isEdge p then portOn s p else rd s (ePortRoutable p) = 1

/-! Slices (R106 to R114). -/

/-- The active tables of a slice that is ON. -/
def sliceOn (s : State) (k : Nat) : Option SliceActive :=
  if fnState s (eSliceState k) = .on then Tab.find s.topo.slices k else none

/-- The port is in a link set. -/
def linkIn (a : SliceActive) (p : Nat) : Bool := a.links.toNat.testBit p

/-- A TABLE slice's entry for module m (Table 05.2). -/
def tableEntry (a : SliceActive) (m : Nat) : Nat := leNat (sliceZ a.table (2 * m) 2)
def teValid (e : Nat) : Bool := bitAt e 15
def teMask (e : Nat) : Nat := bitsAt e 6 6
def teNext (e : Nat) : Nat := bitsAt e 0 3

/-- The box's extent along an axis (0 X, 1 Y, 2 Z): fields hold n − 1. -/
def boxExtent (a : SliceActive) (ax : Nat) : Nat := bitsAt a.extent (5 * ax) 5 + 1
def boxOrigin (a : SliceActive) (ax : Nat) : Nat := bitsAt a.origin (5 * ax) 5
def boxWrap (a : SliceActive) (ax : Nat) : Bool := bitAt a.wrap ax
/-- A coordinate's position on an axis. -/
def axisOf (c ax : Nat) : Nat := bitsAt c (5 * ax) 5
/-- The size of an axis. -/
def axisSize (z : Nat × Nat × Nat) (ax : Nat) : Nat := if ax = 0 then z.1 else if ax = 1 then z.2.1 else z.2.2

/-- A coordinate lies inside the box. -/
def inBox (a : SliceActive) (c : Nat) : Bool :=
  (List.range 3).all fun ax => boxOrigin a ax ≤ axisOf c ax && axisOf c ax < boxOrigin a ax + boxExtent a ax

/-- The dst module belongs to the slice (Table 05.3, DESTINATION). -/
def sliceHas (s : State) (a : SliceActive) (c : Nat) : Bool :=
  if a.kind = 1 then (match s.topo.sizes with | some z => teValid (tableEntry a (moduleNum z c)) | none => false) else inBox a c

/-! Bundles (R107, R115 to R118). -/

/-- The ports of bundle d. -/
def bundlePorts (d : Nat) : List Nat := [104 + 4 * d, 105 + 4 * d, 106 + 4 * d, 107 + 4 * d]
/-- The bundle of a trunk port. -/
def bundleOf (p : Nat) : Nat := (p - 104) / 4

/-- A trunk port is usable for a packet of a class on a slice (R115, R126: only CTRL crosses while not routable). -/
def portUsable (s : State) (a : SliceActive) (ctrl : Bool) (p : Nat) : Bool :=
  portOn s p && linkIn a p && (ctrl || portRoutable s p)

/-- The usable ports of a bundle, ascending. -/
def usablePorts (s : State) (a : SliceActive) (ctrl : Bool) (d : Nat) : List Nat := (bundlePorts d).filter (portUsable s a ctrl)

/-- A bundle is usable. -/
def bundleUsable (s : State) (a : SliceActive) (ctrl : Bool) (d : Nat) : Bool := !(usablePorts s a ctrl d).isEmpty

/-- The minimal directions on one axis (R117): the first is dimension order's; both where d = S − d on a wrapped axis. -/
def axisBundles (s : State) (a : SliceActive) (tgt ax : Nat) : List Nat :=
  match s.topo.sizes with
  | none => []
  | some z =>
    let cur := axisOf (myCoord s) ax
    let t := axisOf tgt ax
    if cur = t then []
    else if boxWrap a ax then
      let S := axisSize z ax
      let d := (t + S - cur) % S
      if d < S - d then [2 * ax] else if S - d < d then [2 * ax + 1] else [2 * ax, 2 * ax + 1]
    else if cur < t then [2 * ax] else [2 * ax + 1]

/-- The bundle a packet follows outside adaptive BULK (Table 06.1). -/
def fixedBundle (s : State) (a : SliceActive) (tgt : Nat) : Option Nat :=
  if a.kind = 1 then
    match s.topo.sizes with
    | some z => if teNext (tableEntry a (moduleNum z tgt)) < 6 then some (teNext (tableEntry a (moduleNum z tgt))) else none
    | none => none
  else ((List.range 3).flatMap fun ax => (axisBundles s a tgt ax).take 1).head?

/-- That bundle, or where it is unusable its detour (R124). -/
def fixedOrDetour (s : State) (a : SliceActive) (ctrl : Bool) (tgt : Nat) : Option Nat :=
  match fixedBundle s a tgt with
  | none => none
  | some b =>
    if bundleUsable s a ctrl b then some b
    else match s.topo.sizes with
      | none => none
      | some z => match Tab.find s.topo.detours (moduleNum z tgt) with
        | some d => if bundleUsable s a ctrl d then some d else none
        | none => none

/-- The candidate bundles of a first-transmission BULK packet (Table 06.1). -/
def sprayBundles (s : State) (a : SliceActive) (tgt : Nat) : List Nat :=
  if a.kind = 1 then
    match s.topo.sizes with
    | some z =>
      let e := tableEntry a (moduleNum z tgt)
      if teMask e = 0 then (if teNext e < 6 then [teNext e] else []) else (List.range 6).filter fun d => (teMask e).testBit d
    | none => []
  else (List.range 3).flatMap fun ax => axisBundles s a tgt ax

/-- The port within a bundle (R118). -/
def pickPort (s : State) (a : SliceActive) (ctrl : Bool) (h : Header) (b : Nat) : Option Nat :=
  let u := usablePorts s a ctrl b
  u[(h.src ^^^ h.dst).toNat % u.length]?

/-- Hop credit left on a VC of an output (R79). -/
def credit (s : State) (p vc : Nat) : Nat :=
  let l := (portOf s p).link
  Tab.getD l.farGrant vc 0 - Tab.getD l.used vc 0 - (if l.lateAt = fcNow s then Tab.getD l.late vc 0 else 0)

/-- The usable port with the most VC 6 credit that covers the packet, the lowest number on a tie (R119). -/
def sprayPort (s : State) (a : SliceActive) (tgt frames : Nat) : Option Nat :=
  (((sprayBundles s a tgt).flatMap (usablePorts s a false)).filter fun p => decide (frames ≤ credit s p 6)).foldl
    (fun best p => match best with
      | none => some p
      | some q => if credit s q 6 < credit s p 6 || (credit s q 6 = credit s p 6 && p < q) then some p else some q) none

/-- The hop out of port p crosses the dateline of its axis (R120). -/
def crosses (s : State) (p : Nat) : Bool :=
  match s.topo.sizes with
  | none => false
  | some z =>
    let ax := bundleOf p / 2
    let c := axisOf (myCoord s) ax
    if bundleOf p % 2 = 0 then c + 1 = axisSize z ax else c = 0

/-- The dateline bit on the hop from arrival port `arr` to output `p` (R120), for CTRL, EXPRESS and COLL. -/
def datelineOut (s : State) (arr p : Nat) (dateline : Bool) : Bool :=
  if isEdge p then false
  else if 104 ≤ arr && arr < 128 && bundleOf arr / 2 = bundleOf p / 2 then dateline || crosses s p
  else crosses s p

/-- Where a packet to another module goes: an output port and VC; `hold 255` waits for VC 6 credit, `hold 254` for VC 7
credit (R119). -/
inductive Hop where
  | none
  | out (port vc : Nat)
  | hold (mark vc : Nat)
deriving DecidableEq, Repr

/-- VC 7 credit the escape hop needs (R119): 130 flits where it joins a ring, else the packet's own frames. -/
def escapeNeed (arr p : Nat) (onEscape : Bool) (frames : Nat) : Nat :=
  if onEscape && 104 ≤ arr && arr < 128 && bundleOf arr / 2 = bundleOf p / 2 then frames else 130

/-- The escape hop of a BULK packet (R119, R124). -/
def escapeHop (s : State) (a : SliceActive) (h : Header) (arr : Nat) : Hop :=
  match fixedOrDetour s a false (idCoord h.dst) with
  | none => .none
  | some b => match pickPort s a false h b with
    | none => .none
    | some p =>
      if escapeNeed arr p h.dateline (frameCount h.payloadLength.toNat) ≤ credit s p 7 then .out p 7 else .hold 254 7

/-- The hop of a packet toward another module (R116). -/
def hopOf (s : State) (a : SliceActive) (h : Header) (arr : Nat) : Hop :=
  let tgt := idCoord h.dst
  if h.cls = 3 then
    if h.dateline || (h.retx && (isEdge arr || arr = 255)) then escapeHop s a h arr
    else match sprayPort s a tgt (frameCount h.payloadLength.toNat) with
      | some p => .out p 6
      | none =>
        if ((sprayBundles s a tgt).flatMap (usablePorts s a false)).isEmpty then escapeHop s a h arr else .hold 255 6
  else
    let ctrl := h.cls = 0
    match fixedOrDetour s a ctrl tgt with
    | none => .none
    | some b => match pickPort s a ctrl h b with
      | none => .none
      | some p => .out p (2 * h.cls.toNat + b2n (datelineOut s arr p h.dateline))

/-- The neighbour's coordinate in a trunk port's direction. -/
def neighbour (s : State) (z : Nat × Nat × Nat) (d : Nat) : Nat :=
  let c := myCoord s
  let ax := d / 2
  let S := axisSize z ax
  let v := if d % 2 = 0 then (axisOf c ax + 1) % S else (axisOf c ax + S - 1) % S
  if ax = 0 then coordOf v (coordY c) (coordZ c) else if ax = 1 then coordOf (coordX c) v (coordZ c) else coordOf (coordX c) (coordY c) v

/-- The packet goes on VC 7 from here on: it is on escape, or a RETX packet at its source edge module (R119). -/
def onEscape (h : Header) (arr : Nat) : Bool := h.dateline || (h.retx && (isEdge arr || arr = 255))

/-- A slice has a way to a module for a packet from port `arr` (R125): Table 06.1 or R124 yields a usable bundle. -/
def hasRoute (s : State) (a : SliceActive) (h : Header) (arr : Nat) : Bool :=
  let tgt := idCoord h.dst
  (fixedOrDetour s a (h.cls = 0) tgt).isSome ||
  (h.cls = 3 && !onEscape h arr && !((sprayBundles s a tgt).flatMap (usablePorts s a false)).isEmpty)

/-! Hop credits and frames on a link (R79). -/

/-- Change a port's link state. -/
def setLink (s : State) (p : Nat) (l : Link) : State := setPort s p { portOf s p with link := l }

/-- Return hop credits of a VC to the far end of an arrival port. A flit that came before the port last entered ON and leaves the input
buffer now counts like any other (DESIGN CHOICE, log entry 117). -/
def returnCredits (s : State) (p vc n : Nat) : State :=
  if n = 0 || 128 ≤ p then s
  else
    let l := (portOf s p).link
    setLink s p { l with ret := Tab.set l.ret vc ((Tab.getD l.ret vc 0 + n) % 4096),
                         farUsed := Tab.set l.farUsed vc (Tab.getD l.farUsed vc 0 - n),
                         stateDue := true, sinceState := if l.stateDue then l.sinceState else 0 }

/-! Pools (R142 to R150). -/

/-- The smallest curd pool for a payload (R143). -/
def poolFor (n : Nat) : Nat := if n ≤ 256 then 0 else if n ≤ 1024 then 1 else 2

/-- Shared blocks of a pool; the whey pool's 65,536. -/
def poolTotal (s : State) (k : Nat) : Nat := if k = 3 then 65536 else Tab.getD s.pools.shared k 0

/-- Shared blocks in use in a pool, leaked ones included. -/
def poolUsed (s : State) (k : Nat) : Nat :=
  s.pools.blocks.foldl (fun n b => if b.2.pool = k && b.2.reserveVc.isNone then n + (if k = 3 then b.2.chain.length else 1) else n) 0

/-- Reserve blocks of a VC in use. -/
def reserveUsed (s : State) (vc : Nat) : Nat := s.pools.blocks.foldl (fun n b => if b.2.reserveVc = some vc then n + 1 else n) 0

/-- Blocks freed in this very cycle, which it cannot grant (R145). -/
def freedList (s : State) : List (Option Nat × Nat × Nat) := if s.pools.freedAt = fcNow s then s.pools.freed else []

/-- Shared blocks of a pool freed in this very cycle. -/
def freedNow (s : State) (k : Nat) : Nat := ((freedList s).filter fun f => f.1.isNone && f.2.1 = k).length

/-- Reserve blocks of a VC freed in this very cycle. -/
def freedReserve (s : State) (vc : Nat) : Nat := ((freedList s).filter fun f => f.1 = some vc).length

/-- Shared blocks a pool can grant now. -/
def poolFree (s : State) (k : Nat) : Nat := poolTotal s k - poolUsed s k - freedNow s k

/-- The numbers of a block, in its pool. -/
def blockNumbers (b : Block) : List Nat := if b.pool = 3 then b.chain else [b.index]

/-- The lowest free block of a pool from `base` on (R145). -/
def lowestFrom (s : State) (k base : Nat) : Nat :=
  let used := (s.pools.blocks.flatMap fun b => if b.2.pool = k then blockNumbers b.2 else []) ++
    (freedList s).filterMap fun f => if f.2.1 = k then some f.2.2 else none
  ((List.range (used.length + 1)).find? fun i => !used.contains (base + i)).getD 0 + base

/-- The block that a pool grants: its lowest free shared one, or the lowest free one of the VC's reserve, which lies behind the shared
blocks of the 4 KiB pool (R144, R145; DESIGN CHOICE, log entry 123). -/
def lowestIndex (s : State) (k : Nat) (reserve : Option Nat) : Nat :=
  match reserve with
  | none => lowestFrom s k 0
  | some vc => lowestFrom s k (poolTotal s 2 + (vc - 2) * s.pools.reserve)

/-- Re-evaluate a pool's pressure (R149): HIGH at PoolHighMark, left below PoolLowMark. -/
def pressure (s : State) (k : Nat) : State :=
  let st := rd s ePoolPressureState
  let u := 256 * poolUsed s k
  let t := poolTotal s k
  let high := st.testBit k
  if !high && decide (t * rd s ePoolHighMark ≤ u) && decide (0 < t) then
    raiseEvent (wr s ePoolPressureState (st ||| 2 ^ k)) 13 [BitVec.ofNat 8 k, 1]
  else if high && decide (u < t * rd s ePoolLowMark) then
    raiseEvent (wr s ePoolPressureState (st - 2 ^ k)) 13 [BitVec.ofNat 8 k, 0]
  else s

/-- Note a freed block. -/
def noteFreed (s : State) (b : Block) : State :=
  { s with pools := { s.pools with freed := (blockNumbers b).map (fun i => (b.reserveVc, b.pool, i)) ++ freedList s, freedAt := fcNow s } }

/-- A copy has finished sending or is dropped (R148): decrement; a count already 0 leaks the block and raises
POOL_REFCOUNT. -/
def releaseBlock (s : State) (key : Nat) : State :=
  match Tab.find s.pools.blocks key with
  | none => s
  | some b =>
    if b.refs = 0 then
      let s := { s with pools := { s.pools with blocks := Tab.set s.pools.blocks key { b with leaked := true } } }
      raiseFault (bump (bump s ePoolRefcountErrorCount) ePoolLeakedBlocks) 22 12 b.pool 0
    else if 1 < b.refs then
      { s with pools := { s.pools with blocks := Tab.set s.pools.blocks key { b with refs := b.refs - 1 } } }
    else
      pressure (noteFreed { s with pools := { s.pools with blocks := Tab.erase s.pools.blocks key } } b) b.pool

/-- Release what an egress packet holds: its block, and its flits in the input buffer. -/
def releaseOut (s : State) (o : OutPacket) : State :=
  let s := match o.block with | some k => releaseBlock s k | none => s
  if o.inBuf then returnCredits s o.arrival o.arrivalVc (frameCount o.pkt.h.payloadLength.toNat - max o.sent o.back) else s

/-! Egress queues (R154, R155). -/

/-- Put a notice in front of the EXPRESS packets that have not begun (R155). -/
def insertFront (q : List OutPacket) (o : OutPacket) : List OutPacket :=
  match q with
  | [] => [o]
  | x :: t => if x.sent = 0 && !x.express0 && x.pkt.h.cls = 1 then o :: x :: t else x :: insertFront t o

/-- Two packets of the module's own for one destination on one output VC, the first sent first (R227). -/
def sentBefore (a b : OutPacket) : Bool :=
  a.arrival = 255 && b.arrival = 255 && a.vc = b.vc && a.pkt.h.dst = b.pkt.h.dst && decide (a.order < b.order)

/-- Put a packet at the end of a queue, but before packets of the module's own that were sent after it (R227). -/
def insertOwn (q : List OutPacket) (o : OutPacket) : List OutPacket :=
  match q with
  | [] => [o]
  | x :: t => if x.sent = 0 && sentBefore o x then o :: x :: t else x :: insertOwn t o

/-- Queue a packet on an output. -/
def enqueue (s : State) (p : Nat) (o : OutPacket) : State :=
  let q := portOf s p
  setPort s p { q with queue := if o.express0 then insertFront q.queue o else insertOwn q.queue o }

/-- The header as it leaves on a VC (R71, R87, R119, R120). The source edge module sets SPRAYED on the BULK packets that it sends on VC 6,
to an endpoint of its own too, RETX packets apart (DEDUCED, log entry 124). -/
def headerOut (h : Header) (arr vc : Nat) : Header :=
  { h with dateline := vc % 2 = 1,
           sprayed := if isEdge arr || arr = 255 then decide (h.cls = 3) && decide (vc = 6) && !h.retx else h.sprayed }

/-- The packet needs a block (R142): its output VC is busy, lacks credit for the first frame, or it has more copies. -/
def needsBlock (s : State) (p vc copies : Nat) : Bool :=
  decide (1 < copies) || credit s p vc = 0 || (portOf s p).queue.any fun o => o.vc = vc

/-- What a waiting packet waits for, in the place of its output: another packet at the head of its input VC (R146), a block in which the
destination edge holds it (R140), or a block in which it stands until its unit takes it (R143). -/
abbrev waitHead : Nat := 251
abbrev waitHeld : Nat := 252
abbrev waitUnit : Nat := 253

/-- A header that waits for a block. -/
def blockWaiter (w : Waiter) : Bool := w.outPort < 128 || w.outPort = waitHeld || w.outPort = waitUnit

/-- Every copy that a waiting header has, with its output. -/
def waiterCopies (w : Waiter) : List (Nat × OutPacket) := (w.outPort, w.out) :: w.more

/-- A packet of the module's own stays behind one for the same destination that was sent before it and still waits for a block (R227;
DEDUCED, log entry 136). -/
def ownWaits (s : State) (p : Nat) (o : OutPacket) : Bool :=
  s.pools.waiting.any fun w => (waiterCopies w).any fun c => c.1 = p && sentBefore c.2 o

/-- One more packet waits. -/
def addWaiter (s : State) (w : Waiter) : State := { s with pools := { s.pools with waiting := s.pools.waiting ++ [w] } }

/-- Blocks that a packet takes: a CTRL packet 128 B blocks by its payload, other packets one for their copies (R143, R148). -/
def blocksFor (o : OutPacket) (copies : Nat) : Nat :=
  if o.pkt.h.cls = 0 then (max o.pkt.h.payloadLength.toNat 1 + 127) / 128 else copies

/-- A packet of payload 0 leaves the input buffer for its descriptor (R142). -/
def toDescriptor (s : State) (o : OutPacket) : State :=
  if o.inBuf then returnCredits s o.arrival o.arrivalVc (frameCount o.pkt.h.payloadLength.toNat - o.back) else s

/-- Place a packet on output p: payload 0 never takes a curd block, CTRL waits for whey blocks, a packet that `needs` a curd block waits
for one, and the rest, with its block or from the input buffer, is queued. -/
def placeAs (needs : Bool) (s : State) (p vc copies stamp : Nat) (loaf : Bool) (o : OutPacket) : State :=
  let o := { o with vc := vc, pkt := { o.pkt with h := headerOut o.pkt.h o.arrival vc } }
  if o.block.isSome then enqueue s p o
  else if o.pkt.h.cls = 0 then addWaiter s { out := o, outPort := p, copies := blocksFor o copies, stamp := stamp, loaf := loaf }
  else if o.pkt.h.payloadLength = 0 then enqueue (toDescriptor s o) p { o with inBuf := false }
  else if needs then addWaiter s { out := o, outPort := p, copies := copies, stamp := stamp, loaf := loaf }
  else enqueue s p o

/-- The same where the need of a block is decided now (R142). -/
def placeOut (s : State) (p vc copies stamp : Nat) (loaf : Bool) (o : OutPacket) : State :=
  placeAs (needsBlock s p vc copies) s p vc copies stamp loaf o

/-- Hold a packet that waits for trunk credit (R119), with the tables that its header passed under (R113). -/
def holdOut (s : State) (a : SliceActive) (mark vc stamp : Nat) (o : OutPacket) : State :=
  addWaiter s { out := { o with vc := vc }, outPort := mark, copies := 1, stamp := stamp, slice := some a }

/-- A header that waits holds its packet at the head of its input VC (R146): this packet stands behind one. -/
def waitsBehind (s : State) (o : OutPacket) : Bool :=
  s.pools.waiting.any fun w => w.out.inBuf && w.out.arrival = o.arrival && w.out.arrivalVc = o.arrivalVc

/-- A packet for the module itself: held in a block until its unit takes it, without one where its payload is 0 (R142, R143). -/
def toUnit (s : State) (stamp : Nat) (o : OutPacket) : State :=
  if o.pkt.h.cls ≠ 0 && o.pkt.h.payloadLength = 0 then
    { toDescriptor s o with inbox := s.inbox ++ [{ port := o.arrival, pkt := o.pkt, stamp := stamp }] }
  else addWaiter s { out := o, outPort := waitUnit, copies := blocksFor o 1, stamp := stamp }

/-! Packets of the module's own. -/

/-- Send a packet toward its dst: an own edge port (R105), or the next hop of its slice (R116). -/
def sendRouted (s : State) (o : OutPacket) : State :=
  let h := o.pkt.h
  if idCoord h.dst = myCoord s then
    if idPort h.dst = 0xFF then toUnit s (fcNow s) o
    else match exitPort s (idPort h.dst) with
      | some p => placeOut s p (2 * h.cls.toNat) 1 (fcNow s) (h.cls = 0) o
      | none => bump s eDestPortDownDropCount
  else match sliceOn s h.slice.toNat with
    | none => bump s eRouteDropCount
    | some a => match hopOf s a h 255 with
      | .none => bump s eRouteDropCount
      | .out p vc => placeOut s p vc 1 (fcNow s) (h.cls = 0) o
      | .hold m vc => holdOut s a m vc (fcNow s) o

/-- The whey pool keeps its last blocks from Loaf (R150). -/
def wheyShort (s : State) : Bool := decide (poolFree s 3 < rd s eWheyLoafReserve)

/-- A CTRL send of Loaf is refused back to Loaf, which sends the packet again later (R150). -/
def refuseLoaf (s : State) (o : OutPacket) (p : Option Nat) : State :=
  { s with pools := { s.pools with loafQueue := s.pools.loafQueue ++ [(o, p)] } }

/-- The next packet of the module's own has its place in their order (R227). -/
def nextOwn (s : State) : State := { s with pools := { s.pools with nextIn := s.pools.nextIn + 1 } }

/-- Send a packet of the module's own. -/
def sendPacket (s : State) (h : Header) (payload : List Byte) : State :=
  let h := { h with payloadLength := BitVec.ofNat 13 payload.length }
  let e := payload.isEmpty && (h.opcode = opACCEPT || h.opcode = opWINDOW_UPD || h.opcode = opDROP_NOTICE)
  let o : OutPacket := { pkt := ⟨h, payload⟩, vc := 2 * h.cls.toNat, express0 := e, order := if e then 0 else s.pools.nextIn }
  if h.cls = 0 && wheyShort s then refuseLoaf s o none else sendRouted (nextOwn s) o

/-- Loaf sends a packet on a port of its choice. -/
def loafOn (s : State) (p : Nat) (o : OutPacket) : State :=
  if wheyShort s then refuseLoaf s o (some p) else placeOut s p o.vc 1 (fcNow s) true o

/-- Where a packet of the module's own leaves: an output and VC, a hold mark, or nowhere (R105, R116). -/
def ownHop (s : State) (h : Header) : Hop :=
  if idCoord h.dst = myCoord s then
    match exitPort s (idPort h.dst) with
    | some p => .out p (2 * h.cls.toNat)
    | none => .none
  else match sliceOn s h.slice.toNat with
    | none => .none
    | some a => hopOf s a h 255

/-- The same over a bundle of choice where it is usable (R203). -/
def bundleHop (s : State) (h : Header) (b : Nat) : Hop :=
  match sliceOn s h.slice.toNat with
  | none => .none
  | some a => match pickPort s a (h.cls = 0) h b with
    | some p => .out p (2 * h.cls.toNat + b2n (datelineOut s 255 p false))
    | none => hopOf s a h 255

/-- Send one payload to several destinations from one block (R142, R148): the copies that have an output share it, and a place in the
order of the module's own packets (R227). -/
def sendHops (s : State) (stomp : Bool) (hs : List (Header × Hop)) (payload : List Byte) : State :=
  let outs := hs.filterMap fun x =>
    match x.2 with
    | .out p vc => some (p, ({ pkt := ⟨{ headerOut x.1 255 vc with payloadLength := BitVec.ofNat 13 payload.length }, payload⟩, vc := vc, stomped := stomp, order := s.pools.nextIn } : OutPacket))
    | _ => none
  let s := bumpBy 4 (nextOwn s) eRouteDropCount (hs.length - outs.length)
  match outs with
  | [] => s
  | [(p, o)] => placeOut s p o.vc 1 (fcNow s) false o
  | (p, o) :: more =>
    if payload.isEmpty then outs.foldl (fun s x => placeOut s x.1 x.2.vc 1 (fcNow s) false x.2) s
    else addWaiter s { out := o, outPort := p, copies := 1 + more.length, stamp := fcNow s, more := more }

/-- A notice to the endpoint on an arrival port (R92, R128). -/
def sendNotice (s : State) (p : Nat) (op : BitVec 8) (h : Header) (aux : Nat) : State :=
  let dst := if sourceOk s p h.src then h.src else myId s p
  let n : Header := { opcode := op, cls := 1, dst := dst, src := myId s 0xFF, sequence := h.sequence, payloadLength := 0,
                      slice := h.slice, aux := BitVec.ofNat 64 aux }
  enqueue s p { pkt := ⟨n, []⟩, vc := 2, express0 := true }

/-- orig_class and orig_dst (Table 04.8). -/
def origAux (h : Header) : Nat := h.dst.toNat + h.cls.toNat * 2 ^ 24

/-- ACCEPT (R128). -/
def sendAccept (s : State) (p : Nat) (h : Header) : State := sendNotice (bump64 s eAcceptSentCount 1) p opACCEPT h (origAux h)

/-- DROP_NOTICE with a cause of Table 04.10 (R92, R151). -/
def sendDrop (s : State) (p : Nat) (h : Header) (cause : Nat) : State :=
  let s := if cause = 1 then bump s (ePolicerDropCount p (h.cls.toNat - 1)) else if cause = 11 then bump s eWindowDropCount else s
  sendNotice (bump s (eDropNoticeSentCount p)) p opDROP_NOTICE h (origAux h + cause * 2 ^ 32)

/-! Admission windows (R130 to R132). -/

/-- The packet is windowed. -/
def windowed (s : State) (h : Header) : Bool :=
  (h.cls = 1 || h.cls = 3) && h.opcode ≠ opDELIVERED && idPort h.dst ≠ 0xFF && idCoord h.dst ≠ myCoord s

/-- Bytes in flight in a window. -/
def windowBytes (s : State) (src : BitVec 23) (m : Nat) (c : BitVec 2) : Nat :=
  match s.e2e.windows.find? fun w => w.src = src && w.module = m && w.cls = c with
  | some w => w.bytes
  | none => 0

/-- Set a window; a window at 0 is not listed. -/
def setWindow (s : State) (src : BitVec 23) (m : Nat) (c : BitVec 2) (n : Nat) : State :=
  let ws := s.e2e.windows.filter fun w => !(w.src = src && w.module = m && w.cls = c)
  { s with e2e := { s.e2e with windows := if n = 0 then ws else ws ++ [⟨src, m, c, n⟩] } }

/-- The limit of a class's windows. -/
def windowLimit (s : State) (c : BitVec 2) : Nat := if c = 1 then rd s eAdmissionWindowExpress else rd s eAdmissionWindowBulk

/-- A WINDOW_UPD to a source endpoint (Table 04.8). -/
def sendWindowUpd (s : State) (src : BitVec 23) (bytes module : Nat) (c : BitVec 2) (slice : BitVec 10) : State :=
  sendPacket (bump64 s eWindowUpdSentCount 1)
    { opcode := opWINDOW_UPD, cls := 1, dst := src, src := myId s 0xFF, payloadLength := 0, slice := slice,
      aux := BitVec.ofNat 64 (module % 2 ^ 15 + c.toNat * 2 ^ 16 + bytes * 2 ^ 32) } []

/-- The destination edge counts a windowed packet's bytes; at 65,536 unreported it sends WINDOW_UPD (R131). -/
def countReturn (s : State) (h : Header) : State :=
  if (h.cls = 1 || h.cls = 3) && h.opcode ≠ opDELIVERED && idCoord h.src ≠ myCoord s && idPort h.src ≤ 103 && idPort h.dst ≤ 103 then
    let old := match s.e2e.returns.find? fun r => r.src = h.src && r.cls = h.cls with | some r => r.bytes | none => 0
    let n := old + 36 + h.payloadLength.toNat
    let rest := s.e2e.returns.filter fun r => !(r.src = h.src && r.cls = h.cls)
    if rd s eWindowUpdThreshold ≤ n then
      sendWindowUpd { s with e2e := { s.e2e with returns := rest } } h.src n (myCoord s) h.cls h.slice
    else { s with e2e := { s.e2e with returns := rest ++ [⟨h.src, h.cls, n, h.slice⟩] } }
  else s

/-- A packet without a route after its header check is dropped and counted in RouteDropCount only (R125); at its destination module its
bytes are reported too (R131). -/
def loseRoute (s : State) (o : OutPacket) : State :=
  let s := releaseOut (bump s eRouteDropCount) o
  if idCoord o.pkt.h.dst = myCoord s then countReturn s o.pkt.h else s

/-! Reordering at the destination edge (R140). -/

/-- The sequence cycle of R134: the value after s. -/
def seqNext (x : Nat) : Nat := if x = 0xFFFFFF then 1 else x + 1

/-- R140's `ahead`. -/
def seqAhead (x e : Nat) : Bool :=
  if x = e then false
  else if e = 0 then 1 ≤ x && x ≤ 4194303
  else if x = 0 then false
  else
    let d := (x + 0xFFFFFF - e) % 0xFFFFFF
    1 ≤ d && d ≤ 4194303

/-- A BULK stream packet (R133). -/
def isStream (h : Header) : Bool := h.cls = 3 && h.ackReq && h.opcode.toNat ≤ 2

/-- Forward a packet on the exit port of its dst; with none it is dropped at the destination module (R125). -/
def deliverEdge (needs : Bool) (s : State) (stamp : Nat) (o : OutPacket) : State :=
  match exitPort s (idPort o.pkt.h.dst) with
  | some p => placeAs needs s p (2 * o.pkt.h.cls.toNat) 1 stamp false o
  | none => countReturn (releaseOut (bump s eDestPortDownDropCount) o) o.pkt.h

/-- The context of a pair. -/
def reorderOf (s : State) (src dst : BitVec 23) : Option Reorder := s.e2e.reorder.find? fun r => r.src = src && r.dst = dst

/-- Write a context. -/
def setReorder (s : State) (r : Reorder) : State :=
  { s with e2e := { s.e2e with reorder := s.e2e.reorder.filter (fun x => !(x.src = r.src && x.dst = r.dst)) ++ [r] } }

/-- Insert a held packet in sequence order: before the first one that is ahead of it. -/
def insertHeld (l : List OutPacket) (o : OutPacket) : List OutPacket :=
  match l with
  | [] => [o]
  | x :: t => if seqAhead x.pkt.h.sequence.toNat o.pkt.h.sequence.toNat then o :: x :: t else x :: insertHeld t o

/-- Forward the held packets that now follow in order, at most as many as are held. -/
def releaseFollowing : Nat → State → Reorder → State × Reorder
  | 0, s, r => (s, r)
  | n + 1, s, r =>
    match r.held with
    | [] => (s, r)
    | x :: t =>
      if x.pkt.h.sequence.toNat = r.e then
        releaseFollowing n (deliverEdge false s (fcNow s) x) { r with held := t, e := seqNext r.e }
      else (s, r)

/-- Release every held packet, in order. -/
def releaseAll (s : State) (r : Reorder) : State := r.held.foldl (fun s x => deliverEdge false s (fcNow s) x) s

/-- A stream packet equal to e is forwarded with those that follow, and ends a gap state. -/
def reorderEqual (s : State) (r : Reorder) (stamp : Nat) (o : OutPacket) : State :=
  let s := deliverEdge false s stamp o
  let x := releaseFollowing r.held.length s { r with e := seqNext r.e, gap := false }
  setReorder x.1 x.2

/-- A packet is held in its pair's context (R140). -/
def holdReorder (s : State) (r : Reorder) (o : OutPacket) : State :=
  setReorder (bump64 (toDescriptor s o) eReorderHeldCount 1) { r with held := insertHeld r.held { o with inBuf := false } }

/-- The destination edge has to hold the packet: it is sprayed and its sequence is ahead (R140). -/
def aheadNow (s : State) (o : OutPacket) : Bool :=
  let h := o.pkt.h
  isStream h && !o.stomped && h.sprayed && !(h.sequence = 0 && !h.retx) &&
  (match reorderOf s h.src h.dst with
   | some r => !r.gap && seqAhead h.sequence.toNat r.e
   | none => false)

/-- A packet for an edge port of this module, with its block or without need of one, through the reorder context of its pair where it
is a BULK stream packet from another module (R140). -/
def reorderNow (s : State) (stamp : Nat) (o : OutPacket) : State :=
  let h := o.pkt.h
  let x := h.sequence.toNat
  if !isStream h || o.stomped then deliverEdge false s stamp o
  else match reorderOf s h.src h.dst with
    | none =>
      if !h.sprayed then deliverEdge false s stamp o
      else if 16384 ≤ s.e2e.reorder.length then deliverEdge false (bump s eReorderNoContextCount) stamp o
      else reorderEqual s ⟨h.src, h.dst, x, [], false⟩ stamp o
    | some r =>
      if x = 0 && !h.retx then reorderEqual (releaseAll s r) { r with e := 0, held := [], gap := false } stamp o
      else if x = r.e then reorderEqual s r stamp o
      else if aheadNow s o then holdReorder s r o
      else deliverEdge false s stamp o

/-- The same for a packet that comes: one that takes a block, to wait for its output or for a gap in its stream, waits for the block
first (R140, R142). -/
def reorderIn (needs : Bool) (s : State) (stamp : Nat) (o : OutPacket) : State :=
  if o.pkt.h.cls = 3 && o.block.isNone && o.pkt.h.payloadLength ≠ 0 && isStream o.pkt.h && (needs || aheadNow s o) then
    addWaiter s { out := o, outPort := waitHeld, copies := 1, stamp := stamp }
  else if isStream o.pkt.h then reorderNow s stamp o
  else deliverEdge needs s stamp o

end Sys2Proof.Machine
end

