-- ==== Sys2Proof/Machine/Topo.lean ====
section
/-! DEFINITION. The topology state (Table 05.1), slice 0, and how a slice is checked, started, committed and drained
(R95 to R113). -/
namespace Sys2Proof.Machine

/-- The straps' odd parity holds (R22): the number of ones over all sixteen inputs is odd. -/
def strapParityGood (v : Nat) : Bool := ((List.range 16).filter fun i => v.testBit i).length % 2 = 1

/-- Sizes that TorusSizeCommit accepts (R95). -/
def sizesValid (z : Nat × Nat × Nat) : Bool :=
  2 ≤ z.1 && z.1 ≤ 32 && 2 ≤ z.2.1 && z.2.1 ≤ 32 && 2 ≤ z.2.2 && z.2.2 ≤ 32 && z.1 * z.2.1 * z.2.2 ≤ 4096

/-- A bundle holds a port QUARANTINED with cause SELF or WRONG_MODULE (R98). -/
def bundleSuspect (s : State) (d : Nat) : Bool :=
  (bundlePorts d).any fun p => fnState s (ePortState p) = .quarantined && (rd s (ePortQuarantineCause p) = 2 || rd s (ePortQuarantineCause p) = 3)

/-- The condition of R98. -/
def suspect (s : State) : Bool :=
  2 ≤ ((List.range 6).filter (bundleSuspect s)).length && !((List.range 24).any fun i => portOn s (104 + i))

/-- The topology state the module is in now (Table 05.1). -/
def topoNow (s : State) : TopoState :=
  if !strapParityGood (rd s eStrapSample) then .coordParity
  else match s.topo.sizes with
    | none => .unsized
    | some z => if !inSizes z (myCoord s) then .coordRange else if suspect s then .coordSuspect else .ready

/-- The code of a topology state (Table 05.1). -/
def topoCode : TopoState → Nat
  | .unsized => 0 | .ready => 1 | .coordParity => 2 | .coordRange => 3 | .coordSuspect => 4

/-- READY or COORD_SUSPECT. -/
def topoReady (s : State) : Bool := s.topo.state = .ready || s.topo.state = .coordSuspect

/-- The coordinates forbid ports and slices (R97). -/
def coordInvalid (s : State) : Bool := s.topo.state = .coordParity || s.topo.state = .coordRange

/-- Slice 0 (R106): a box over the whole torus, every axis wrapped, every port in its link set. -/
def slice0 (z : Nat × Nat × Nat) : SliceActive :=
  { kind := 2, links := BitVec.ofNat 128 (2 ^ 128 - 1), table := [], origin := 0, extent := coordOf (z.1 - 1) (z.2.1 - 1) (z.2.2 - 1), wrap := 7 }

/-- Install slice 0 where the topology state allows it, and remove it where not (R106, Table 05.1). -/
def installSlice0 (s : State) : State :=
  match s.topo.sizes with
  | some z =>
    if topoReady s then setFn { s with topo := { s.topo with slices := Tab.set s.topo.slices 0 (slice0 z) } } (eSliceState 0) { state := .on }
    else setFn { s with topo := { s.topo with slices := Tab.erase s.topo.slices 0 } } (eSliceState 0) {}
  | none => s

/-- Evaluate the topology state (R96, R97, R98): COORD_SUSPECT is raised once on entry. Before boot step 8 has run there
is nothing to evaluate. -/
def topoEval (s : State) : State :=
  match s.boot with
  | .readyStep | .done =>
    let n := topoNow s
    let old := s.topo.state
    let s := { s with topo := { s.topo with state := n } }
    if n = .coordSuspect && old ≠ .coordSuspect then raiseEvent s 11 [] else s
  | _ => s

/-- The event COORD_INVALID with the state code (R97). -/
def coordInvalidEvent (s : State) : State :=
  if coordInvalid s then raiseEvent s 10 [BitVec.ofNat 8 (topoCode s.topo.state)] else s

/-! Starting a slice (R107 to R112). -/

/-- The staged link mask as a number. -/
def stagedMask (s : State) (k : Nat) : Nat := leNat (sliceZ (blob s (eSliceLinkMask k)) 0 16)

/-- The box of the staged fields. -/
def stagedBox (s : State) (k : Nat) : SliceActive :=
  { kind := 2, links := 0, table := [], origin := rd s (eSliceBoxOrigin k), extent := rd s (eSliceBoxExtent k), wrap := rd s (eSliceBoxWrap k) }

/-- One axis of a box satisfies R109. -/
def boxAxisOk (z : Nat × Nat × Nat) (a : SliceActive) (ax : Nat) : Bool :=
  boxOrigin a ax + boxExtent a ax ≤ axisSize z ax && (!boxWrap a ax || boxExtent a ax = axisSize z ax)

/-- The trunk part of a box's link set on this module (R109). -/
def boxTrunk (s : State) (a : SliceActive) : Nat :=
  (List.range 6).foldl (fun m d =>
    let ax := d / 2
    let c := axisOf (myCoord s) ax
    let inn := boxWrap a ax || (if d % 2 = 0 then decide (c + 1 < boxOrigin a ax + boxExtent a ax) else decide (boxOrigin a ax < c))
    if inn then m + 0xF * 2 ^ (104 + 4 * d) else m) 0

/-- A TABLE slice keeps R108. -/
def tableOk (s : State) (z : Nat × Nat × Nat) (table : List Byte) (links : Nat) : Bool :=
  let own := moduleNum z (myCoord s)
  let used (d : Nat) : Bool := links >>> (104 + 4 * d) % 16 ≠ 0
  (List.range 4096).all fun m =>
    let e := leNat ((table.drop (2 * m)).take 2)
    let n := teNext e
    bitsAt e 12 3 = 0 && bitsAt e 3 3 = 0 && n ≠ 7 &&
    (if m = own then teValid e && n = 6 && teMask e = 0 else n ≠ 6) &&
    (m < z.1 * z.2.1 * z.2.2 || !teValid e) &&
    (!teValid e || n = 6 || used n) && ((List.range 6).all fun d => !(teMask e).testBit d || used d)

/-- The link set overlaps another slice that is STARTING, ON or STOPPING here, slice 0 aside (R110). -/
def overlaps (s : State) (k links : Nat) : Bool :=
  s.topo.slices.any fun x =>
    x.1 ≠ k && x.1 ≠ 0 && (match fnState s (eSliceState x.1) with | .starting | .on | .stopping => true | _ => false) &&
    (x.2.links.toNat &&& links) ≠ 0

/-- TABLE slices not OFF (R107). -/
def tableSlices (s : State) : Nat := (s.topo.slices.filter fun x => x.2.kind = 1).length

/-- What a slice would run with, or the result that refuses it (R107 to R111, SliceInstallResult of Table 05.5). -/
def sliceBuild (s : State) (k : Nat) : Except Nat SliceActive :=
  let kind := rd s (eSliceKind k)
  if coordInvalid s then .error 8
  else match s.topo.sizes with
    | none => .error 4
    | some z =>
      if kind = 0 then .error 7
      else if kind = 1 then
        let table := sliceZ (blob s (eSliceRouteTable k)) 0 8192
        let links := stagedMask s k
        if 256 ≤ tableSlices s then .error 6
        else if !tableOk s z table links then .error 3
        else if overlaps s k links then .error 1
        else .ok { kind := 1, links := BitVec.ofNat 128 links, table := table, origin := 0, extent := 0, wrap := 0 }
      else
        let a := stagedBox s k
        let mask := stagedMask s k
        if mask / 2 ^ 104 ≠ 0 || !((List.range 3).all (boxAxisOk z a)) || !inBox a (myCoord s) then .error 2
        else
          let links := mask + boxTrunk s a
          if overlaps s k links then .error 1 else .ok { a with links := BitVec.ofNat 128 links }

/-- START_FAIL (R39): OFF, with the event naming the state entry. -/
def startFail (s : State) (a : Nat) : State :=
  raiseEvent (setFn s a {}) 5 [BitVec.ofNat 8 (a / 256), BitVec.ofNat 8 (a / 65536), BitVec.ofNat 8 a]

/-- A slice that has entered STARTING is built, or fails with its result (R111). -/
def sliceBegin (s : State) (k : Nat) : State :=
  match sliceBuild s k with
  | .ok a => wr { s with topo := { s.topo with slices := Tab.set s.topo.slices k a } } (eSliceInstallResult k) 0
  | .error r => startFail (wr s (eSliceInstallResult k) r) (eSliceState k)

/-- STOPPING of a slice is done: OFF, its tables out of force, then STARTING again if PENDING_ON was set. -/
def sliceStopped (s : State) (k : Nat) : State :=
  let f := fnRest (fnOf s (eSliceState k))
  let s := setFn { s with topo := { s.topo with slices := Tab.erase s.topo.slices k } } (eSliceState k) f
  if f.state = .starting then sliceBegin s k else s

/-- SLICE_COMMIT (R113). -/
def sliceCommit (s : State) (k : Nat) : State :=
  if rd s (eSliceKind k) ≠ 1 then s
  else match fnState s (eSliceState k) with
    | .on =>
      match s.topo.sizes with
      | none => wr s (eSliceInstallResult k) 4
      | some z =>
        let table := sliceZ (blob s (eSliceRouteTable k)) 0 8192
        let links := stagedMask s k
        if !tableOk s z table links then wr s (eSliceInstallResult k) 3
        else if overlaps s k links then wr s (eSliceInstallResult k) 1
        else
          let a : SliceActive := { kind := 1, links := BitVec.ofNat 128 links, table := table, origin := 0, extent := 0, wrap := 0 }
          wr { s with topo := { s.topo with slices := Tab.set s.topo.slices k a } } (eSliceInstallResult k) 0
    | .starting | .stopping => wr s (eSliceInstallResult k) 5
    | _ => s

/-- The packet is of slice k and has not begun on an output. -/
def drainable (k : Nat) (o : OutPacket) : Bool := o.pkt.h.slice.toNat = k && o.sent = 0

/-- The module still holds packets of slice k that have not begun, so its STOPPING is not done (R113). -/
def sliceHolds (s : State) (k : Nat) : Bool :=
  (s.ports.any fun x => x.2.queue.any (drainable k)) || (s.pools.waiting.any fun w => decide (w.out.pkt.h.slice.toNat = k)) ||
  s.e2e.reorder.any fun r => r.held.any (drainable k)

/-- Drop packets at the end of STOPPING and count each (R113). -/
def drainDrop (s : State) (k : Nat) (os : List OutPacket) : State :=
  os.foldl (fun s o => bump (releaseOut s o) (eSliceDrainDropCount k)) s

/-- SLICE_DRAIN_TIMEOUT (R113): what has not begun is dropped; STOPPING completes. -/
def sliceDrain (s : State) (k : Nat) : State :=
  let queued := s.ports.flatMap fun x => x.2.queue.filter (drainable k)
  let waiting := (s.pools.waiting.filter fun w => w.out.pkt.h.slice.toNat = k).map (·.out)
  let held := s.e2e.reorder.flatMap fun r => r.held.filter (drainable k)
  let s := { s with ports := s.ports.map fun x => (x.1, { x.2 with queue := x.2.queue.filter fun o => !drainable k o }),
                    pools := { s.pools with waiting := s.pools.waiting.filter fun w => w.out.pkt.h.slice.toNat ≠ k },
                    e2e := { s.e2e with reorder := s.e2e.reorder.map fun r => { r with held := r.held.filter fun o => !drainable k o } } }
  sliceStopped (drainDrop s k (queued ++ waiting ++ held)) k

end Sys2Proof.Machine
end

