-- ==== Sys2Proof/Machine/Groups.lean ====
section
/-! DEFINITION. Groups, their canonical trees, join descriptors, completion records and group packets as bits (R199 to R214,
R229, R238). -/
namespace Sys2Proof.Machine

/-! Group entries. -/

/-- A group's entry at this module. -/
def groupOf (s : State) (g : Nat) : Option Group := Tab.find s.groups g

/-- Change a group's entry. -/
def setGroup (s : State) (g : Nat) (x : Group) : State := { s with groups := Tab.set s.groups g x }

/-- The open instance of a group. -/
def instOf (s : State) (g : Nat) : Option Inst := (groupOf s g).bind (·.inst)

/-- Change the open instance of a group. -/
def setInst (s : State) (g : Nat) (i : Inst) : State :=
  match groupOf s g with
  | some x => setGroup s g { x with inst := some i }
  | none => s

/-- N. -/
def memberCount (d : GroupDef) : Nat := d.members.length
/-- The ID of a rank. -/
def memberId (d : GroupDef) (r : Nat) : BitVec 23 := BitVec.ofNat 23 (d.members.getD r 0)
/-- A rank's ID as a record names it; nobody is 0xFFFF_FFFF. -/
def rankIdNum (d : GroupDef) (r : Nat) : Nat := if r < memberCount d then d.members.getD r 0 else 0xFFFFFFFF
/-- The rank of an ID. -/
def rankOf (d : GroupDef) (i : BitVec 23) : Option Nat := d.members.findIdx? fun m => m = i.toNat
/-- The members are modules. -/
def moduleGroup (d : GroupDef) : Bool := idPort (memberId d 0) = 0xFF
/-- A rank is attached to this module. -/
def isLocal (s : State) (d : GroupDef) (r : Nat) : Bool := r < memberCount d && idCoord (memberId d r) = myCoord s
/-- Ranks of the members on this module, ascending. -/
def localRanks (s : State) (d : GroupDef) : List Nat := (List.range (memberCount d)).filter (isLocal s d)
/-- Child bundles, ascending. -/
def childBundles (d : GroupDef) : List Nat := (List.range 6).filter fun b => d.childMask.testBit b
/-- This module is the root. -/
def isRoot (d : GroupDef) : Bool := d.parentBundle = 6
/-- A relay with one child (R216). -/
def plainRelay (s : State) (d : GroupDef) : Bool := (localRanks s d).isEmpty && (childBundles d).length = 1

/-- The epoch after one (R205). -/
def nextEpoch (e : Nat) : Nat := if e = 65535 then 1 else e + 1

/-- The coordinate behind a bundle. -/
def behind (s : State) (b : Nat) : Nat :=
  match s.topo.sizes with
  | some z => neighbour s z b
  | none => 0

/-- The place in the tree of a module that sends. -/
inductive Place where
  | parent
  | child (bundle : Nat)
  | far
deriving DecidableEq, Repr

/-- The sender's place: a module's packets carry its own ID (R99). -/
def placeIn (s : State) (d : GroupDef) (src : BitVec 23) : Place :=
  if d.parentBundle < 6 && idCoord src = behind s d.parentBundle then .parent
  else match (childBundles d).find? fun b => idCoord src = behind s b with
    | some b => .child b
    | none => .far

/-- The child bundle toward a member module, if it lies below this one. -/
def bundleTo (d : GroupDef) (coord : Nat) : Option Nat := (d.below.find? fun x => x.1 = coord).map (·.2)

/-- Members in the subtree behind a child bundle. -/
def ranksBelow (d : GroupDef) (b : Nat) : List Nat :=
  (List.range (memberCount d)).filter fun r => bundleTo d (idCoord (memberId d r)) = some b

/-! The canonical tree (R202). -/

/-- One axis of a step inside a box: the first minimal direction (R117). -/
def boxStep (z : Nat × Nat × Nat) (a : SliceActive) (cur tgt ax : Nat) : Option Nat :=
  let c := axisOf cur ax
  let t := axisOf tgt ax
  if c = t then none
  else if boxWrap a ax then
    let S := axisSize z ax
    let d := (t + S - c) % S
    some (if d ≤ S - d then 2 * ax else 2 * ax + 1)
  else some (if c < t then 2 * ax else 2 * ax + 1)

/-- The coordinate one hop along a bundle. -/
def coordStep (z : Nat × Nat × Nat) (c b : Nat) : Nat :=
  let ax := b / 2
  let S := axisSize z ax
  let v := if b % 2 = 0 then (axisOf c ax + 1) % S else (axisOf c ax + S - 1) % S
  if ax = 0 then coordOf v (coordY c) (coordZ c) else if ax = 1 then coordOf (coordX c) v (coordZ c) else coordOf (coordX c) (coordY c) v

/-- The tables of a slice as this module knows them: active, or staged. -/
def sliceShape (s : State) (k : Nat) : SliceActive :=
  match Tab.find s.topo.slices k with
  | some a => a
  | none => if rd s (eSliceKind k) = 2 then stagedBox s k
            else { kind := 1, links := 0, table := sliceZ (blob s (eSliceRouteTable k)) 0 8192, origin := 0, extent := 0, wrap := 0 }

/-- The bundle a COLL packet of a slice leaves a module on (R116, R117); `now` asks for the routes in force here, detours included
(R204). Another module's route bank is not held here: its entry is a free value (log entry 4). -/
def treeHop (s : State) (z : Nat × Nat × Nat) (now : Bool) (k : Nat) (cur tgt : Nat) : Option Nat :=
  let a := sliceShape s k
  if cur = tgt then none
  else if now && cur = myCoord s then fixedOrDetour s a false tgt
  else if a.kind = 2 then ((List.range 3).filterMap (boxStep z a cur tgt)).head?
  else if cur = myCoord s then some (teNext (tableEntry a (moduleNum z tgt)))
  else some (Config.farNextBundle k cur tgt % 6)

/-- The route between two coordinates: (module, bundle it leaves on), at most 4,096 hops. -/
def treeRoute (s : State) (z : Nat × Nat × Nat) (now : Bool) (k tgt : Nat) : Nat → Nat → List (Nat × Nat)
  | 0, _ => []
  | n + 1, cur =>
    match treeHop s z now k cur tgt with
    | none => []
    | some b => (cur, b) :: treeRoute s z now k tgt n (coordStep z cur b)

/-- H(a, b). -/
def treeDist (s : State) (z : Nat × Nat × Nat) (now : Bool) (k a b : Nat) : Nat := (treeRoute s z now k b 4096 a).length

/-- Coordinates of the member modules. -/
def memberModules (members : List Nat) : List Nat := (members.map fun m => m % 2 ^ 15).dedup

/-- Largest distance to a root candidate. -/
def worstDist (s : State) (z : Nat × Nat × Nat) (now : Bool) (k : Nat) (mods : List Nat) (b : Nat) : Nat :=
  mods.foldl (fun w a => max w (treeDist s z now k a b)) 0

/-- The root: the smallest largest distance, the lowest module number on a tie. -/
def treeRoot (s : State) (z : Nat × Nat × Nat) (k : Nat) (mods : List Nat) : Nat :=
  (mods.foldl (fun best b =>
    let key := (worstDist s z false k mods b, moduleNum z b)
    match best with
    | none => some (key, b)
    | some (k0, b0) => if key.1 < k0.1 || (key.1 = k0.1 && key.2 < k0.2) then some (key, b) else some (k0, b0)) none).elim 0 (·.2)

/-- The hops of every member module's route to a root. -/
def treeEdges (s : State) (z : Nat × Nat × Nat) (now : Bool) (k : Nat) (mods : List Nat) (root : Nat) : List (Nat × List (Nat × Nat)) :=
  mods.map fun a => (a, treeRoute s z now k root 4096 a)

/-- The tree modules, as coordinates, of the tree with a root. -/
def treeWith (s : State) (z : Nat × Nat × Nat) (now : Bool) (k : Nat) (mods : List Nat) (root : Nat) : List Nat :=
  ((treeEdges s z now k mods root).flatMap fun x => x.2.map (·.1)) ++ [root] |>.dedup

/-- The tree modules of a group that is installed (R202). -/
def treeModules (s : State) (z : Nat × Nat × Nat) (k : Nat) (mods : List Nat) : List Nat := treeWith s z false k mods (treeRoot s z k mods)

/-- The entry of one tree module in the tree with a root (R203). -/
def entryWith (s : State) (z : Nat × Nat × Nat) (now : Bool) (k : Nat) (members : List Nat) (permute : List (BitVec 64)) (root me : Nat) : GroupDef :=
  let mods := memberModules members
  let edges := treeEdges s z now k mods root
  let hops := edges.flatMap (·.2)
  let kids := (hops.filter fun h => h.1 ≠ root && coordStep z h.1 h.2 = me).dedup
  let below := edges.filterMap fun e => (e.2.find? fun h => coordStep z h.1 h.2 = me).map fun h => (e.1, h.2 ^^^ 1)
  let through (a : Nat) : Bool := a = me || below.any fun x => x.1 = a
  { slice := k, members := members, permute := permute, root := root,
    parentBundle := if me = root then 6 else ((hops.find? fun h => h.1 = me).map (·.2)).getD 6,
    childMask := ((List.range 6).filter fun b => kids.any fun h => h.2 ^^^ 1 = b).foldl (fun m b => m + 2 ^ b) 0,
    subtreeMembers := (members.filter fun m => through (m % 2 ^ 15)).length,
    depth := worstDist s z now k mods root, below := below }

/-- The entry of one tree module of a group that is installed (R202). -/
def treeEntry (s : State) (z : Nat × Nat × Nat) (k : Nat) (members : List Nat) (permute : List (BitVec 64)) (me : Nat) : GroupDef :=
  entryWith s z false k members permute (treeRoot s z k (memberModules members)) me

/-! PERMUTE entries (Table 10.9). -/

def pmSrcRank (e : BitVec 64) : Nat := bitsAt e.toNat 45 19
def pmDstRank (e : BitVec 64) : Nat := bitsAt e.toNat 26 19
def pmSrcChunk (e : BitVec 64) : Nat := bitsAt e.toNat 13 13
def pmDstChunk (e : BitVec 64) : Nat := bitsAt e.toNat 0 13

/-! Join descriptors (Table 10.2). -/

def dOp (d : BitVec 512) : Nat := bitsAt d.toNat 0 8
def dReduce (d : BitVec 512) : Nat := bitsAt d.toNat 8 8
def dIn (d : BitVec 512) : Nat := bitsAt d.toNat 16 16
def dOut (d : BitVec 512) : Nat := bitsAt d.toNat 32 16
def dRound (d : BitVec 512) : Nat := bitsAt d.toNat 48 2
def dStatic (d : BitVec 512) : Bool := bitAt d.toNat 50
def dCount (d : BitVec 512) : Nat := bitsAt d.toNat 64 64
def dAnchor (d : BitVec 512) : Nat := bitsAt d.toNat 128 12
def dSparse (d : BitVec 512) : Nat := bitsAt d.toNat 144 16
def dRoot (d : BitVec 512) : Nat := bitsAt d.toNat 160 32
def dShift (d : BitVec 512) : Nat := bitsAt d.toNat 192 32
def dRank (d : BitVec 512) : Nat := bitsAt d.toNat 256 32
def dWeight (d : BitVec 512) : Nat := bitsAt d.toNat 288 32
def dCrumb (d : BitVec 512) : Nat := bitsAt d.toNat 320 64
def dStation (d : BitVec 512) : Nat := bitsAt d.toNat 384 16
def dHash (d : BitVec 512) : Nat := bitsAt d.toNat 448 64
/-- The reserved fields: bits 63–51, 143–140, 255–224 and 447–400. -/
def dReserved (d : BitVec 512) : Bool :=
  bitsAt d.toNat 51 13 ≠ 0 || bitsAt d.toNat 140 4 ≠ 0 || bitsAt d.toNat 224 32 ≠ 0 || bitsAt d.toNat 400 48 ≠ 0

/-- desc_hash of bytes 0 to 31 (R208). -/
def descHash (d : BitVec 512) : Word :=
  let w (i : Nat) : Word := w64 (d.toNat >>> (64 * i))
  plihotu (plihotu (w 0) (w 1) (w 2)) (w 3) 0

/-- Element formats of contributions and results. -/
def inCode (d : BitVec 512) : Nat := fmtElem (dIn d)
def outCode (d : BitVec 512) : Nat := fmtElem (dOut d)

/-- Elements of a chunk (Table 10.3). -/
def chunkElems : Nat → Nat
  | 0 => 1024 | 1 => 2048 | 2 => 2048 | 5 => 5460 | 6 => 5460 | 7 => 8192 | 9 => 8192 | 10 => 128 | _ => 4096

/-- Ceiling of a quotient. -/
def ceilDiv (a b : Nat) : Nat := (a + b - 1) / b

/-- Chunks of a contribution, and of a whole result. -/
def inChunks (d : BitVec 512) : Nat := ceilDiv (dCount d) (chunkElems (inCode d))
def outChunks (d : BitVec 512) : Nat := ceilDiv (dCount d) (chunkElems (outCode d))

/-- A reduction. -/
def isReduction (d : BitVec 512) : Bool := 1 ≤ dOp d && dOp d ≤ 3
/-- The SUM family: SUM, WSUM, SPARSE_SUM. -/
def sumFamily (d : BitVec 512) : Bool := isReduction d && (dReduce d = 1 || dReduce d = 4 || dReduce d = 5)
/-- A dynamic anchor (R247). -/
def dynamicAnchor (d : BitVec 512) : Bool := sumFamily d && !dStatic d

/-- Result chunks in one part of REDUCE_SCATTER (R217): P / Eo. -/
def partChunks (d : BitVec 512) (n : Nat) : Nat := ceilDiv (ceilDiv (dCount d) n) (chunkElems (outCode d))

/-- Sources of the chunks a member sends in a PERMUTE, ascending (R220). -/
def permuteSources (g : GroupDef) (r : Nat) : List Nat :=
  sortBy (· ≤ ·) (((g.permute.filter fun e => pmSrcRank e = r).map pmSrcChunk).dedup)

/-- Chunks that a member sends (Table 10.5). -/
def chunksSent (g : GroupDef) (d : BitVec 512) (r : Nat) : Nat :=
  if dOp d = 7 then (permuteSources g r).length
  else if dOp d = 5 then (if r = dRoot d then inChunks d else 0)
  else if dOp d ≤ 6 then inChunks d else 0

/-- The index of a member's n-th chunk. -/
def chunkIndex (g : GroupDef) (d : BitVec 512) (r n : Nat) : Nat :=
  if dOp d = 7 then
    let l := permuteSources g r
    if n < l.length then l.getD n 0 else (l.getLast?.elim 0 (· + 1))
  else n

/-- Result chunks owed to a member (Table 10.5, R217, R220). -/
def chunksOwed (g : GroupDef) (d : BitVec 512) (r : Nat) : Nat :=
  match dOp d with
  | 1 => outChunks d
  | 2 => if r = dRoot d then outChunks d else 0
  | 3 => min (outChunks d - min (outChunks d) (r * partChunks d (memberCount g))) (partChunks d (memberCount g))
  | 4 => memberCount g * inChunks d
  | 5 => inChunks d
  | 6 => inChunks d
  | 7 => (g.permute.filter fun e => pmDstRank e = r).length
  | _ => 0

/-- Table 11.1 and R237, R238 for a reduction. -/
def reductionOk (d : BitVec 512) : Bool :=
  let ie := inCode d
  let oe := outCode d
  let ro := dReduce d
  let sparse := ie ≠ 5 && ie ≠ 6 && ie ≠ 10 && oe ≠ 5 && oe ≠ 6 && oe ≠ 10
  let sb := dSparse d
  fmtScale (dIn d) = 0 && fmtScale (dOut d) = 0 && dRound d ≠ 2 && (oe ≠ 10 || dRound d = 0) &&
  (if ro = 1 || ro = 4 then ie ≤ 10 && oe ≤ 10
   else if ro = 5 then sparse && 256 ≤ sb && sb ≤ 32768 && sb = 2 ^ Nat.log2 sb && sb ≤ chunkElems ie && sb ≤ chunkElems oe &&
     chunkElems ie / sb ≤ 16 && chunkElems oe / sb ≤ 16
   else ie ≤ 9 && oe ≤ 9 && !dStatic d)

/-- Every field the operation does not use is zero (R207). -/
def unusedZero (d : BitVec 512) : Bool :=
  let op := dOp d
  let red := isReduction d
  (op ≤ 7 || (dIn d = 0 && dOut d = 0 && dCount d = 0)) &&
  (red || (dRound d = 0 && !dStatic d)) && ((red && dStatic d) || dAnchor d = 0) && ((red && dReduce d = 5) || dSparse d = 0) &&
  (op = 2 || op = 5 || dRoot d = 0) && (op = 6 || dShift d = 0) && (dReduce d = 4 || dWeight d = 0) &&
  (op = 9 || (dStation d = 0 && dCrumb d = 0)) && !dReserved d

/-- The checks of R209 that do not depend on STRICT, for the member of a rank. -/
def descOk (g : GroupDef) (r : Nat) (d : BitVec 512) : Bool :=
  let op := dOp d
  let n := memberCount g
  let k := signed 32 (dShift d)
  dHash d = (descHash d).toNat && dRank d = r && 1 ≤ op && op ≤ 9 &&
  (if op ≤ 3 then 1 ≤ dReduce d && dReduce d ≤ 6 else dReduce d = 0) &&
  (op ≠ 9 || moduleGroup g) && unusedZero d && dRoot d < n &&
  (8 ≤ op || (fmtWordOk (dIn d) && fmtWordOk (dOut d))) &&
  (3 < op || reductionOk d) &&
  (op < 4 || 8 ≤ op || (dIn d = dOut d && fmtScale (dIn d) = 0)) &&
  (8 ≤ op || (dCount d ≤ 2 ^ 40 && (op = 7 || 1 ≤ dCount d))) &&
  (8 ≤ op || (inChunks d ≤ 2 ^ 32 && outChunks d * (if op = 4 then n else 1) ≤ 2 ^ 32)) &&
  (op ≠ 6 || (k ≠ 0 && k.natAbs < n)) &&
  (op ≠ 7 || (!g.permute.isEmpty && (dCount d = 0 || !(permuteSources g r).isEmpty) &&
    g.permute.all fun e => pmSrcRank e ≠ r || pmSrcChunk e < inChunks d))

/-! Join summaries (R222). -/

/-- What one member's descriptor adds. -/
def joinOne (r : Nat) (d : BitVec 512) : JoinSummary :=
  { joined := 1, lowRank := r, lowHash := w64 (dHash d), diffRank := 0xFFFFFFFF, diffId := 0xFFFFFFFF, lowCrumb := w64 (dCrumb d),
    crumbDiffRank := 0xFFFFFFFF, crumbDiffId := 0xFFFFFFFF }

/-- The merge of R222; an ID follows the rank it belongs to. -/
def joinMerge (g : GroupDef) (x y : JoinSummary) : JoinSummary :=
  let a := if y.lowRank < x.lowRank then y else x
  let b := if y.lowRank < x.lowRank then x else y
  let diff := min a.diffRank (if b.lowHash ≠ a.lowHash then b.lowRank else b.diffRank)
  let cdiff := min a.crumbDiffRank (if b.lowCrumb ≠ a.lowCrumb then b.lowRank else b.crumbDiffRank)
  { joined := a.joined + b.joined, lowRank := a.lowRank, lowHash := a.lowHash, diffRank := diff, diffId := rankIdNum g diff,
    lowCrumb := a.lowCrumb, crumbDiffRank := cdiff, crumbDiffId := rankIdNum g cdiff }

/-- The 40 bytes of JOIN_UP. -/
def joinBytes (x : JoinSummary) : List Byte :=
  leBytes 4 x.joined ++ leBytes 4 x.lowRank ++ leBytes 8 x.lowHash.toNat ++ leBytes 4 x.diffRank ++ leBytes 4 x.diffId ++
  leBytes 8 x.lowCrumb.toNat ++ leBytes 4 x.crumbDiffRank ++ leBytes 4 x.crumbDiffId

/-- n bytes of a payload at an offset, as a number. -/
def payNum (l : List Byte) (o n : Nat) : Nat := leNat (sliceZ l o n)

/-- The summary those bytes spell. -/
def joinOf (l : List Byte) : JoinSummary :=
  { joined := payNum l 0 4, lowRank := payNum l 4 4, lowHash := w64 (payNum l 8 8), diffRank := payNum l 16 4, diffId := payNum l 20 4,
    lowCrumb := w64 (payNum l 24 8), crumbDiffRank := payNum l 32 4, crumbDiffId := payNum l 36 4 }

/-- The 16 bytes of DONE_UP. -/
def doneBytes (x : DoneSummary) : List Byte :=
  leBytes 4 x.poisoned ++ leBytes 4 x.unreachedCount ++ leBytes 4 x.unreachedRank ++ leBytes 4 x.unreachedId

/-- The summary those bytes spell. -/
def doneOf (l : List Byte) : DoneSummary :=
  { poisoned := payNum l 0 4, unreachedCount := payNum l 4 4, unreachedRank := payNum l 8 4, unreachedId := payNum l 12 4 }

/-- The sum of two. -/
def doneMerge (x y : DoneSummary) : DoneSummary :=
  { poisoned := x.poisoned + y.poisoned, unreachedCount := x.unreachedCount + y.unreachedCount,
    unreachedRank := min x.unreachedRank y.unreachedRank,
    unreachedId := if y.unreachedRank < x.unreachedRank then y.unreachedId else x.unreachedId }

/-! ABORT (Table 10.6) and the completion record (Table 10.7). -/

abbrev caEND : Nat := 1
abbrev caRERUN : Nat := 2
abbrev caSTALE_EPOCH : Nat := 3
abbrev caNOT_MEMBER : Nat := 4
abbrev caMEMBER_ABORT : Nat := 5
abbrev caREPORT : Nat := 6

abbrev csOK : Nat := 0
abbrev csPOISONED : Nat := 1
abbrev csMISMATCH : Nat := 2
abbrev csJOIN_TIMEOUT : Nat := 3
abbrev csBAD_DESCRIPTOR : Nat := 4
abbrev csMEMBER_ABORT : Nat := 5
abbrev csMEMBER_LOST : Nat := 6
abbrev csSTALL : Nat := 7
abbrev csRERUN_LIMIT : Nat := 8
abbrev csDIVERGED : Nat := 9
abbrev csREMOVED : Nat := 10

/-- Poison reasons (Table 10.4). -/
abbrev prSTOMPED : Nat := 1
abbrev prVAT_POISON : Nat := 2
abbrev prCHECK : Nat := 3
abbrev prSOURCE_POISON : Nat := 4

/-- An ABORT's 16 bytes. -/
def abortBytes (cause status epoch rank id : Nat) : List Byte :=
  leBytes 16 (cause + status * 2 ^ 8 + epoch * 2 ^ 32 + rank * 2 ^ 64 + id * 2 ^ 96)
def abCause (l : List Byte) : Nat := payNum l 0 1
def abStatus (l : List Byte) : Nat := payNum l 1 1
def abRank (l : List Byte) : Nat := payNum l 8 4
def abId (l : List Byte) : Nat := payNum l 12 4

/-- The fields of a completion record. -/
structure Rec where
  hash : Nat := 0
  rank : Nat := 0
  digest : Nat := 0
  chunks : Nat := 0
  runs : Nat := 1
  unreached : Nat := 0
  poisoned : Nat := 0
  culpritId : Nat := 0xFFFFFFFF
  culpritRank : Nat := 0xFFFFFFFF
  firstInvalid : Nat := 0xFFFFFFFFFFFFFFFF
  invalid : Nat := 0
  nextEpoch : Nat := 0
  flags : Nat := 0
  status : Nat := 0
deriving DecidableEq, Repr

/-- The record's 512 bits. -/
def recBits (r : Rec) : BitVec 512 :=
  BitVec.ofNat 512 (r.status % 2 ^ 8 + r.flags % 2 ^ 8 * 2 ^ 8 + r.nextEpoch % 2 ^ 16 * 2 ^ 16 + min r.invalid 0xFFFFFFFF * 2 ^ 32
    + r.firstInvalid % 2 ^ 64 * 2 ^ 64 + r.culpritRank % 2 ^ 32 * 2 ^ 128 + r.culpritId % 2 ^ 32 * 2 ^ 160 + r.poisoned % 2 ^ 32 * 2 ^ 192
    + r.unreached % 2 ^ 32 * 2 ^ 224 + r.runs % 2 ^ 8 * 2 ^ 256 + r.chunks % 2 ^ 32 * 2 ^ 288 + r.digest % 2 ^ 64 * 2 ^ 320
    + r.rank % 2 ^ 32 * 2 ^ 384 + r.hash % 2 ^ 64 * 2 ^ 448)

/-- The fields those bits spell. -/
def recOf (v : Nat) : Rec :=
  { hash := bitsAt v 448 64, rank := bitsAt v 384 32, digest := bitsAt v 320 64, chunks := bitsAt v 288 32, runs := bitsAt v 256 8,
    unreached := bitsAt v 224 32, poisoned := bitsAt v 192 32, culpritId := bitsAt v 160 32, culpritRank := bitsAt v 128 32,
    firstInvalid := bitsAt v 64 64, invalid := bitsAt v 32 32, nextEpoch := bitsAt v 16 16, flags := bitsAt v 8 8, status := bitsAt v 0 8 }

/-! Group packets (R203, R213). -/

abbrev kCONTRIB : Nat := 0
abbrev kJOIN_UP : Nat := 1
abbrev kDONE_UP : Nat := 2
abbrev kRESULT : Nat := 0
abbrev kCOMMIT : Nat := 1

/-- kind, reason, present_mask and src_rank of an aux (Tables 10.4 and 11.2). -/
def auxKind (h : Header) : Nat := bitsAt h.aux.toNat 56 8
def auxReason (h : Header) : Nat := bitsAt h.aux.toNat 48 8
def auxPresent (h : Header) : Nat := bitsAt h.aux.toNat 20 16
def auxRank (h : Header) : Nat := bitsAt h.aux.toNat 0 19
/-- An aux. -/
def auxOf (kind reason present rank : Nat) : Nat := kind * 2 ^ 56 + reason * 2 ^ 48 + present * 2 ^ 20 + rank

/-- The header of a packet of a group's current instance. -/
def groupHeader (s : State) (gid : Nat) (g : Group) (op : BitVec 8) (dst : BitVec 23) (chunk aux : Nat) (poison : Bool) (len : Nat) : Header :=
  { opcode := op, cls := 2, poison := poison, dst := dst, src := myId s 0xFF, payloadLength := BitVec.ofNat 13 len,
    slice := BitVec.ofNat 10 g.gdef.slice, loc := locOf gid g.epoch chunk, aux := BitVec.ofNat 64 aux }

/-- Send a packet along a tree edge: over its bundle, else by the routes in force (R203, R204). -/
def sendEdge (s : State) (gid : Nat) (g : Group) (b : Nat) (op : BitVec 8) (chunk aux : Nat) (poison : Bool) (pay : List Byte) : State :=
  let h := groupHeader s gid g op (idOf (behind s b) 0xFF) chunk aux poison pay.length
  sendHops s false [(h, bundleHop s h b)] pay

/-- To the parent; the root has none. -/
def sendUp (s : State) (gid : Nat) (g : Group) (op : BitVec 8) (chunk aux : Nat) (poison : Bool) (pay : List Byte) : State :=
  if isRoot g.gdef then s else sendEdge s gid g g.gdef.parentBundle op chunk aux poison pay

/-- To every child. -/
def sendKids (s : State) (gid : Nat) (g : Group) (op : BitVec 8) (chunk aux : Nat) (pay : List Byte) : State :=
  (childBundles g.gdef).foldl (fun s b => sendEdge s gid g b op chunk aux false pay) s

/-- To a local member (R105); to one without a way out it is dropped at the destination module (R125). -/
def sendMember (s : State) (gid : Nat) (g : Group) (r : Nat) (op : BitVec 8) (chunk aux : Nat) (pay : List Byte) : State :=
  if moduleGroup g.gdef then s
  else
    let h := groupHeader s gid g op (memberId g.gdef r) chunk aux false pay.length
    match ownHop s h with
    | .out p vc => sendHops s false [(h, .out p vc)] pay
    | _ => bump s eDestPortDownDropCount

/-- An ABORT to an endpoint with a group and epoch of the caller's (R206, R209). -/
def sendAbort (s : State) (gid epoch slice : Nat) (dst : BitVec 23) (pay : List Byte) : State :=
  sendPacket s { opcode := opABORT, cls := 2, dst := dst, src := myId s 0xFF, payloadLength := 16, slice := BitVec.ofNat 10 slice,
                 loc := locOf gid epoch 0 } pay

/-- A MGMT message of Loaf to another module: its content is not published, a free byte (log entry 13). -/
def sendMgmt (s : State) (coord : Nat) : State :=
  let b := drawBytes s 1
  sendPacket b.2 { opcode := opMGMT, cls := 0, dst := idOf coord 0xFF, src := myId s 0xFF, payloadLength := 1, slice := 0 } b.1

end Sys2Proof.Machine
end

