-- ==== Sys2Proof/Machine/Ring.lean ====
section
/-! DEFINITION. Writing the Cellar (R175) and the crumb ring in it (R356). -/
namespace Sys2Proof.Machine

/-- CRC-32C of a unit of zero bytes. -/
def zeroCrc (mode : Nat) : BitVec 32 := BitVec.ofNat 32 (if mode = 2 then 3094524304 else if mode = 1 then 4004437628 else 2566472073)

/-- The slabs that n bytes from address a touch. -/
def slabsOf (a n : Nat) : List Nat := if n = 0 then [] else (List.range ((a + n - 1) / 4096 - a / 4096 + 1)).map (· + a / 4096)

/-- A Cellar slab's bytes, and its stored CRC. -/
def cellarBytes (s : State) (c : Nat) : List Byte := Memory.read s.cellar.mem (4096 * c) 4096
def cellarGood (s : State) (c : Nat) : Bool := crc32c (cellarBytes s c) = Tab.getD s.cellar.crc c (zeroCrc 0)

/-- Write a range of the Cellar; each slab's CRC is stored anew (R175). -/
def cellarPut (s : State) (a : Nat) (b : List Byte) : State :=
  let s := { s with cellar := { s.cellar with mem := Memory.write s.cellar.mem a b } }
  (slabsOf a b.length).foldl (fun s c =>
    { s with cellar := { s.cellar with crc := Tab.set s.cellar.crc c (crc32c (cellarBytes s c)) } }) s

/-! The crumb ring (R356). -/

/-- A 32-byte entry of the ring (Table 15.5): `marks` holds bits 11 flagged, 10 timing_dependent, 9 poisoned. -/
def crumbEntry (s : State) (kind keyA keyB marks : Nat) (tid crumb : Word) : BitVec 256 :=
  BitVec.ofNat 256 (kind % 16 + marks % 2 ^ 12 + keyB % 2 ^ 32 * 2 ^ 16 + keyA % 2 ^ 16 * 2 ^ 48 + crumb.toNat * 2 ^ 64 + tid.toNat * 2 ^ 128
    + fcNow s * 2 ^ 192)

/-- The staged entries are written at their places, oldest first. -/
def drainCrumbs (s : State) : State :=
  s.save.crumbQueue.foldl (fun s e =>
    let n := rd s eCrumbLogHead
    bump64 (cellarPut s (rd s eCrumbLogBase + 32 * (n % 2097152)) (leBytes 32 e.toNat)) eCrumbLogHead 1)
    { s with save := { s.save with crumbQueue := [] } }

/-- Append an entry: staged where the queue of 4,096 has room, else dropped and counted; the queue then drains. -/
def appendCrumb (s : State) (e : BitVec 256) : State :=
  if 4096 ≤ s.save.crumbQueue.length then bump s eCrumbLogDropCount
  else drainCrumbs { s with save := { s.save with crumbQueue := s.save.crumbQueue ++ [e] } }

/-- Log a crumb of kind 1 to 3 where its bit of CrumbLogMask is set. -/
def logCrumb (s : State) (kind keyA keyB marks : Nat) (tid crumb : Word) : State :=
  if (rd s eCrumbLogMask).testBit kind then appendCrumb s (crumbEntry s kind keyA keyB marks tid crumb) else s

end Sys2Proof.Machine
end

