-- ==== Sys2Proof/Machine/Coll.lean ====
section
/-! DEFINITION. Collective instances (10): opening and closing, the join phase, anchors on their way through the tree (R251),
result copies, completion, ends and re-runs. -/
namespace Sys2Proof.Machine

/-! Opening and closing (R205). -/

/-- Instances resident in the Churn (R236). -/
def residentCount (s : State) : Nat :=
  (s.groups.filter fun x => match x.2.inst with | some i => i.resident | none => false).length

/-- Open an instance where none is open. -/
def openInst (s : State) (gid : Nat) : State :=
  match groupOf s gid with
  | none => s
  | some g =>
    if g.inst.isSome then s
    else setGroup s gid { g with inst := some { runs := g.runs + 1, resident := decide (residentCount s < 4096), lastPacket := fcNow s,
                                                waiting := g.early }, early := [] }

/-- A packet of the instance was taken. -/
def touchInst (s : State) (gid : Nat) : State :=
  match instOf s gid with
  | some i => setInst s gid { i with lastPacket := fcNow s }
  | none => s

/-- An answer to a JOIN that is not of the instance (R206, R209). -/
def joinAnswer (k : Packet) : Bool := k.h.opcode = opABORT && (abCause k.payload = caSTALE_EPOCH || abCause k.payload = caNOT_MEMBER)

/-- A packet of an instance that is queued here and has not begun on an output (R226 item 2). -/
def ofInst (gid epoch : Nat) (o : OutPacket) : Bool :=
  o.pkt.h.cls = 2 && !joinAnswer o.pkt && hGroup o.pkt.h = gid && hEpoch o.pkt.h = epoch && o.sent = 0

/-- Drop an instance's packets that have not begun on an output, and release what they hold. -/
def dropInst (s : State) (gid epoch : Nat) : State :=
  let qs := s.ports.flatMap fun x => x.2.queue.filter (ofInst gid epoch)
  let ws := (s.pools.waiting.filter fun w => ofInst gid epoch w.out).map (·.out)
  let s := { s with ports := s.ports.map fun x => (x.1, { x.2 with queue := x.2.queue.filter fun o => !ofInst gid epoch o }),
                    pools := { s.pools with waiting := s.pools.waiting.filter fun w => !ofInst gid epoch w.out } }
  (qs ++ ws).foldl releaseOut s

/-- Close the instance: the epoch advances, a recomputed tree comes into use, churn slabs are freed (R204, R205). -/
def closeInst (s : State) (gid : Nat) (rerun : Bool) : State :=
  match groupOf s gid with
  | none => s
  | some g => match g.inst with
    | none => s
    | some i =>
      let slabs := i.accs.filterMap (·.2.slab)
      let s := { s with vat := { s.vat with churnUsed := s.vat.churnUsed.filter fun n => !slabs.contains n } }
      if g.leaving then { s with groups := Tab.erase s.groups gid }
      else
        setGroup s gid { g with inst := none, epoch := nextEpoch g.epoch, gdef := g.nextDef.getD g.gdef, nextDef := none,
                                runs := if rerun then i.runs else 0, rerunOf := if rerun then some g.epoch else none }

/-! Records. -/

/-- What this module knows of the joins: its own members' and its children's. -/
def knownJoins (g : Group) (i : Inst) : Option JoinSummary :=
  ((i.joins.map fun j => joinOne j.1 j.2) ++ i.joinUps.map (·.2)).foldl (fun a x => match a with
    | none => some x
    | some y => some (joinMerge g.gdef y x)) none

/-- This module's own part of DONE_UP. -/
def ownDone (g : Group) (i : Inst) : DoneSummary :=
  let low := i.unreached.foldl min 0xFFFFFFFF
  { poisoned := i.poisoned.length, unreachedCount := i.unreached.length, unreachedRank := low, unreachedId := rankIdNum g.gdef low }

/-- With its children's. -/
def subtreeDone (g : Group) (i : Inst) : DoneSummary := i.doneUps.foldl (fun a x => doneMerge a x.2) (ownDone g i)

/-- A record from what this module knows (R229). -/
def ownRecord (g : Group) (i : Inst) (status rank id : Nat) : Rec :=
  let d := subtreeDone g i
  { hash := (knownJoins g i).elim 0 (·.lowHash.toNat), runs := min i.runs 255, unreached := d.unreachedCount, poisoned := d.poisoned,
    culpritId := id, culpritRank := rank, firstInvalid := i.firstInvalid, invalid := i.invalidCount, nextEpoch := nextEpoch g.epoch,
    flags := i.flags.toNat, status := status }

/-- The record of an END: at the root from what it knows; at any other module the fields that END does not carry are free, since every
member of the instance receives the same record (R214, R229, log entry 21). -/
def endRecord (gid : Nat) (g : Group) (i : Inst) (status rank id : Nat) : Rec :=
  let r := ownRecord g i status rank id
  if isRoot g.gdef then r
  else
    let f := recOf (Config.endRecord gid g.epoch).toNat
    { r with hash := f.hash, unreached := f.unreached, poisoned := f.poisoned, firstInvalid := f.firstInvalid, invalid := f.invalid, flags := f.flags }

/-- The COLL_END event (R223). -/
def collEndEvent (s : State) (gid : Nat) (r : Rec) : State :=
  raiseEvent s 16 (leBytes 2 gid ++ leBytes 1 r.status ++ leBytes 4 r.culpritRank ++ leBytes 4 r.culpritId)

/-- COLL_DONE to members, the last record, the counts and the event; then the instance closes (R226, R227). -/
def finishInst (s : State) (gid : Nat) (g : Group) (i : Inst) (r : Rec) (ranks : List Nat) : State :=
  let s := ranks.foldl (fun s k =>
    sendMember s gid g k opCOLL_DONE 0 0 (leBytes 64 (recBits { r with rank := k, chunks := Tab.getD i.acked k 0 }).toNat)) s
  let s := setGroup s gid { g with lastRecord := some (recBits { r with rank := 0xFFFFFFFF, chunks := 0 }) }
  let s := if r.status = csOK then bump64 s eCollCompletedCount 1 else collEndEvent (bump s (eCollEndCount (r.status - 1))) gid r
  closeInst s gid false

/-- The lowest-ranked local member that has not joined (R223). -/
def firstAbsent (s : State) (g : Group) (i : Inst) : Nat :=
  ((localRanks s g.gdef).find? fun r => !(i.joins.any fun j => j.1 = r)).getD 0xFFFFFFFF

/-- END (R226): to the children, the queued packets dropped, COLL_DONE to the members that joined or whose JOIN failed. -/
def endInst (s : State) (gid status rank id : Nat) : State :=
  match groupOf s gid with
  | none => s
  | some g => match g.inst with
    | none => s
    | some i =>
      let s := dropInst s gid g.epoch
      let s := sendKids s gid g opABORT 0 0 (abortBytes caEND status 0 rank id)
      let own := firstAbsent s g i
      let r := if status = csJOIN_TIMEOUT then endRecord gid g i status own (rankIdNum g.gdef own) else endRecord gid g i status rank id
      finishInst s gid g i r (i.joins.map (·.1) ++ i.failedJoins.filter fun k => !(i.joins.any fun j => j.1 = k))

/-- RERUN (R232): the queued packets dropped, RERUN to members and children, the instance closed. -/
def rerunLocal (s : State) (gid : Nat) : State :=
  match groupOf s gid with
  | none => s
  | some g =>
    let s := dropInst s gid g.epoch
    let pay := abortBytes caRERUN 0 (nextEpoch g.epoch) 0xFFFFFFFF 0xFFFFFFFF
    let s := (localRanks s g.gdef).foldl (fun s r => sendMember s gid g r opABORT 0 0 pay) s
    let s := sendKids s gid g opABORT 0 0 pay
    closeInst (bump s eCollRerunCount) gid true

/-- The root re-runs, or ends the instance where the limit is reached (R232). -/
def rerunRoot (s : State) (gid why : Nat) : State :=
  match instOf s gid with
  | none => s
  | some i => if rd s eCollRerunLimit < i.runs then endInst s gid why 0xFFFFFFFF 0xFFFFFFFF else rerunLocal s gid

/-- A report at the root (R225, R232). -/
def rootReport (s : State) (gid status rank id : Nat) : State :=
  if status = csSTALL then rerunRoot s gid csSTALL else endInst s gid status rank id

/-- Report to the root (R214): here, or up the tree. -/
def report (s : State) (gid status rank id : Nat) : State :=
  match groupOf s gid with
  | none => s
  | some g =>
    if isRoot g.gdef then rootReport s gid status rank id
    else sendUp s gid g opABORT 0 0 false (abortBytes caREPORT status 0 rank id)

/-! Commit (R227). -/

/-- COMMIT at a module: forwarded, COLL_DONE to the members reached, the ordinal advanced (R355), the instance closed. -/
def commitLocal (s : State) (gid : Nat) (r : Rec) : State :=
  match groupOf s gid with
  | none => s
  | some g => match g.inst with
    | none => s
    | some i =>
      let s := sendKids s gid g opCOLL_RESULT 0 (auxOf kCOMMIT 0 0 0) (leBytes 64 (recBits { r with rank := 0, chunks := 0 }).toNat)
      let g := { g with ordinal := if r.status = csOK then (g.ordinal + 1) % 2 ^ 32 else g.ordinal, sums := i.sums }
      finishInst (setGroup s gid g) gid g i r ((localRanks s g.gdef).filter fun k => !i.unreached.contains k)

/-- A committed reduction at the root: the chain and the log (R354 to R356). -/
def chainCrumb (s : State) (gid : Nat) (g : Group) (i : Inst) : State :=
  let ord := w64 g.ordinal
  let s := setGroup s gid { g with chain := plihotu g.chain i.crumb ord }
  let marks := b2n (decide (i.flags ≠ 0)) * 2 ^ 11 + b2n i.timing * 2 ^ 10 + b2n (!i.poisoned.isEmpty) * 2 ^ 9
  logCrumb s 2 gid g.ordinal marks (plihotu 2 (w64 gid) ord) i.crumb

/-- The root commits with a status and, for DIVERGED, its culprit. -/
def commitRoot (s : State) (gid status rank id digest : Nat) : State :=
  match groupOf s gid with
  | none => s
  | some g => match g.inst with
    | none => s
    | some i =>
      let s := match i.desc with
        | some d => if isReduction d && status = csOK then chainCrumb s gid g i else s
        | none => s
      commitLocal s gid { ownRecord g i status rank id with digest := digest }

/-! Result copies (R216, R227, R230). -/

/-- COLL_RESULT copies of an instance to a member that are still queued here. -/
def copiesHere (s : State) (gid epoch : Nat) (dst : BitVec 23) : Nat :=
  let mine (o : OutPacket) : Bool := o.pkt.h.opcode = opCOLL_RESULT && hGroup o.pkt.h = gid && hEpoch o.pkt.h = epoch && o.pkt.h.dst = dst
  s.ports.foldl (fun n x => n + (x.2.queue.filter mine).length) 0 +
  s.pools.waiting.foldl (fun n w => n + (if mine w.out then 1 else 0) + (w.more.filter fun m => mine m.2).length) 0

/-- Copies to a rank that were sent and not yet acknowledged. -/
def unackedTo (i : Inst) (r : Nat) : Nat := (i.unacked.filter fun u => u.2.2 = r).length

/-- Queue copies of a chunk, as the references of one block (R148): to local members as (rank, chunk in its buffer), over child
bundles, and to other modules. -/
def copyChunk (s : State) (gid : Nat) (locals : List (Nat × Nat)) (kids : List Nat) (others : List (Header × Hop)) (k present srcRank : Nat)
    (poison stomp : Bool) (pay : List Byte) : State :=
  match groupOf s gid with
  | none => s
  | some g => match g.inst with
    | none => s
    | some i =>
      if moduleGroup g.gdef then
        let i := locals.foldl (fun (i : Inst) x =>
          { i with sums := Tab.set i.sums x.2 pay, queued := Tab.set i.queued x.1 (Tab.getD i.queued x.1 0 + 1),
                   acked := Tab.set i.acked x.1 (Tab.getD i.acked x.1 0 + 1) }) i
        let s := setInst s gid i
        let hs := kids.map fun b => groupHeader s gid g opCOLL_RESULT (idOf (behind s b) 0xFF) k (auxOf kRESULT 0 present srcRank) poison pay.length
        sendHops s stomp ((hs.zip kids).map fun x => (x.1, bundleHop s x.1 x.2)) pay
      else
        let i := locals.foldl (fun (i : Inst) x => { i with queued := Tab.set i.queued x.1 (Tab.getD i.queued x.1 0 + 1) }) i
        let s := setInst s gid i
        let down := kids.map fun b =>
          let h := groupHeader s gid g opCOLL_RESULT (idOf (behind s b) 0xFF) k (auxOf kRESULT 0 present srcRank) poison pay.length
          (h, bundleHop s h b)
        let mem := locals.map fun x =>
          let h := groupHeader s gid g opCOLL_RESULT (memberId g.gdef x.1) x.2 (auxOf kRESULT 0 present srcRank) poison pay.length
          (h, ownHop s h)
        let reached := mem.filter fun x => x.2 ≠ .none
        sendHops (bumpBy 4 s eDestPortDownDropCount (mem.length - reached.length)) stomp (reached ++ down ++ others) pay

/-- Queue result copies of a chunk to local members and over child bundles. -/
def copyResult (s : State) (gid : Nat) (locals : List (Nat × Nat)) (kids : List Nat) (k present srcRank : Nat) (poison stomp : Bool)
    (pay : List Byte) : State := copyChunk s gid locals kids [] k present srcRank poison stomp pay

/-- The members and child bundles that a result chunk goes to from here (Table 10.5, R217); `k` counts over the whole
result. -/
def resultTargets (s : State) (g : GroupDef) (d : BitVec 512) (k : Nat) : List (Nat × Nat) × List Nat :=
  let one (r c : Nat) : List (Nat × Nat) × List Nat :=
    if isLocal s g r then ([(r, c)], []) else ([], (bundleTo g (idCoord (memberId g r))).toList)
  if dOp d = 2 then one (dRoot d) k
  else if dOp d = 3 then one (k / max 1 (partChunks d (memberCount g))) (k % max 1 (partChunks d (memberCount g)))
  else ((localRanks s g).map fun r => (r, k), childBundles g)

/-- A POISON packet to each local member and child that a poisoned chunk names, each counted (R231). -/
def poisonOut (s : State) (gid : Nat) (g : Group) (reason : Nat) (locals : List (Nat × Nat)) (kids : List Nat) (k : Nat) : State :=
  let aux := auxOf 0 reason 0 0
  let s := locals.foldl (fun s x => sendMember (bump s eCollPoisonSentCount) gid g x.1 opPOISON x.2 aux []) s
  kids.foldl (fun s b => sendEdge (bump s eCollPoisonSentCount) gid g b opPOISON k aux false []) s

/-- The notices for a chunk poisoned here, to all of this subtree that was sent or is owed it (R231). -/
def sendNotices (s : State) (gid : Nat) (g : Group) (i : Inst) (key reason : Nat) : State :=
  if plainRelay s g.gdef then poisonOut s gid g reason [] (childBundles g.gdef) key
  else match i.desc with
    | none => s
    | some d =>
      if 6 ≤ dOp d then poisonOut s gid g reason [(key / 2 ^ 32, key % 2 ^ 32)] [] (key % 2 ^ 32)
      else
        let t := resultTargets s g.gdef d key
        poisonOut s gid g reason t.1 t.2 key

/-- A result chunk is marked poisoned, once, and its notices are sent (R231; DEDUCED, log entry 137); the first reason stays. -/
def notePoison (s : State) (gid key reason : Nat) : State :=
  match groupOf s gid with
  | none => s
  | some g => match g.inst with
    | none => s
    | some i =>
      if reason = 0 || (Tab.find i.poisoned key).isSome then s
      else sendNotices (setInst s gid { i with poisoned := Tab.set i.poisoned key reason }) gid g i key reason

/-- Send a result chunk on from here. -/
def passResult (s : State) (gid k present srcRank : Nat) (poison stomp : Bool) (pay : List Byte) : State :=
  match groupOf s gid with
  | none => s
  | some g => match g.inst.bind (·.desc) with
    | none => s
    | some d =>
      let t := resultTargets s g.gdef d k
      copyResult s gid t.1 t.2 k present srcRank poison stomp pay


/-- The chunk that a result copy of this module's carries, as its poison is noted: copies to members name their own buffer's chunk
(R217, R219). -/
def copyKey (g : GroupDef) (d : BitVec 512) (h : Header) : Nat :=
  match (if idPort h.dst ≤ 103 then rankOf g h.dst else none) with
  | some r => if 6 ≤ dOp d then r * 2 ^ 32 + hChunk h else if dOp d = 3 then r * partChunks d (memberCount g) + hChunk h else hChunk h
  | none => hChunk h

/-- A queued result copy turned out to stand in a poisoned block or one whose check fails: its chunk is poisoned here (R170, R231). -/
def noteCopyPoison (s : State) (h : Header) : State :=
  if h.opcode ≠ opCOLL_RESULT || auxKind h ≠ kRESULT || h.src ≠ myId s 0xFF then s
  else match groupOf s (hGroup h) with
    | none => s
    | some g =>
      if g.epoch ≠ hEpoch h then s
      else notePoison s (hGroup h) ((g.inst.bind (·.desc)).elim (hChunk h) fun d => copyKey g.gdef d h) prVAT_POISON

/-! When a subtree is done (R227, R230, R232). -/

/-- Ranks whose copies went missing: dropped, or discarded with their port (R230). -/
def newlyLost (s : State) (gid : Nat) (g : Group) (i : Inst) : List Nat :=
  if moduleGroup g.gdef then []
  else (localRanks s g.gdef).filter fun r =>
    !i.unreached.contains r &&
    copiesHere s gid g.epoch (memberId g.gdef r) + unackedTo i r + Tab.getD i.acked r 0 < Tab.getD i.queued r 0

/-- The copies owed to the local members, all of them acknowledged or dropped; a relay owes none. -/
def localsReady (s : State) (gid : Nat) (g : Group) (i : Inst) : Bool :=
  match localRanks s g.gdef, i.desc with
  | [], _ => true
  | _, none => false
  | rs, some d =>
    1 ≤ dOp d && dOp d ≤ 7 &&
    rs.all fun r => decide (chunksOwed g.gdef d r ≤ Tab.getD i.queued r 0) && copiesHere s gid g.epoch (memberId g.gdef r) = 0 && unackedTo i r = 0

/-- This module is done, and every child is. -/
def subtreeReady (s : State) (gid : Nat) (g : Group) (i : Inst) : Bool :=
  !i.doneUpSent && (if isRoot g.gdef then i.joinDone else i.joinUpSent) && localsReady s gid g i &&
  (childBundles g.gdef).all fun b => (Tab.find i.doneUps b).isSome

/-- The root: a commit, or an end or a re-run for poison. -/
def rootDone (s : State) (gid : Nat) (g : Group) (i : Inst) : State :=
  let d := subtreeDone g i
  let moved := (match i.desc with | some d => decide (6 ≤ dOp d) | none => false) && i.doneUps.any fun x => x.2.poisoned ≠ 0
  if d.poisoned = 0 then commitRoot s gid csOK d.unreachedRank d.unreachedId 0
  else if (i.poisoned.any fun x => x.2 = prSOURCE_POISON) || (moved && Config.sourceBelow gid g.epoch) then
    endInst s gid csPOISONED 0xFFFFFFFF 0xFFFFFFFF
  else rerunRoot s gid csPOISONED

/-- Look whether a group's instance is done here. -/
def settleGroup (s : State) (gid : Nat) : State :=
  match groupOf s gid with
  | none => s
  | some g => match g.inst with
    | none => s
    | some i =>
      let lost := newlyLost s gid g i
      let i := { i with unreached := i.unreached ++ lost }
      let s := bumpBy 4 (setInst s gid i) eCollUnreachedCount lost.length
      if !subtreeReady s gid g i then s
      else
        let i := { i with doneUpSent := true }
        let s := setInst s gid i
        if isRoot g.gdef then rootDone s gid g i
        else sendUp s gid g opDATA 0 (auxOf kDONE_UP 0 0 0) false (doneBytes (subtreeDone g i))

/-- Every group. -/
def settleAll (s : State) : State := (s.groups.map (·.1)).foldl settleGroup s

/-! Anchors on their way (R248 to R251). -/

/-- NONE among entries; below every entry. -/
abbrev anchorNone : Int := -32768

/-- Spans of an instance, and blocks of a span (R247). -/
def spanCount (d : BitVec 512) : Nat := ceilDiv (dCount d) 65536
def spanBlocks (d : BitVec 512) (sp : Nat) : Nat := min 512 (ceilDiv (dCount d - 65536 * sp) 128)

/-- Entries of an ANCHOR's payload for the blocks of its span. -/
def anchorEntries (d : BitVec 512) (sp : Nat) (pay : List Byte) : List Int :=
  (List.range (spanBlocks d sp)).map fun b => signed 16 (payNum pay (2 * b) 2)

/-- The payload of an ANCHOR: padded with NONE to a multiple of four entries. -/
def anchorBytes (es : List Int) : List Byte :=
  (es ++ List.replicate ((4 - es.length % 4) % 4) anchorNone).flatMap fun e => leBytes 2 (unsigned 16 (max (-32768) (min 32767 e)))

/-- The sources that must report a span: local members and children (R251). -/
def anchorSources (s : State) (g : GroupDef) : List Nat := localRanks s g ++ (childBundles g).map (· + 2 ^ 20)

/-- The first accumulator that has not been emitted; emitted ones stay listed. -/
def firstUnemitted : Nat → Tab Acc → Nat
  | n, [] => n
  | n, (k, a) :: t => if k = n && a.emitted then firstUnemitted (n + 1) t else n

/-- The lowest span that still has an unemitted accumulator (R251). -/
def lowSpan (i : Inst) : Nat := firstUnemitted 0 i.accs / 256

/-- FINAL entries for a span are held: installed, and within the eight spans. -/
def finalsHeld (i : Inst) (sp : Nat) : Bool := (Tab.find i.finals sp).isSome && sp < lowSpan i + 8

/-- The root fixes and sends FINAL in ascending span order (R251). -/
def sendFinals (gid : Nat) : Nat → State → State
  | 0, s => s
  | n + 1, s =>
    match groupOf s gid with
    | none => s
    | some g => match g.inst with
      | none => s
      | some i => match i.desc with
        | none => s
        | some d =>
          let sp := i.finalsSent
          if !(isRoot g.gdef && i.joinDone && dynamicAnchor d && sp < spanCount d && sp < lowSpan i + 8 &&
               (anchorSources s g.gdef).all fun x => i.reported.contains (x, sp)) then s
          else
            let all := Tab.getD i.maxima sp []
            let es := (List.range (spanBlocks d sp)).map fun b =>
              let e := all.getD b anchorNone
              if e = anchorNone then -2048 else max (-2048) (min e 2047)
            let s := setInst s gid { i with finals := Tab.set i.finals sp es, finalAt := Tab.set i.finalAt sp (fcNow s), finalsSent := sp + 1,
                                            maxima := Tab.erase i.maxima sp }
            sendFinals gid n (sendKids s gid g opANCHOR sp 1 (anchorBytes es))

/-- At most eight spans at a time. -/
def releaseFinals (s : State) (gid : Nat) : State := sendFinals gid 8 s

/-- Combine two lists of entries. -/
def maxEntries : List Int → List Int → List Int
  | [], l => l
  | l, [] => l
  | a :: t, b :: u => max a b :: maxEntries t u

/-- A source's entries for a span: combined, and sent up once every source has reported it. -/
def noteMaxima (s : State) (gid source sp : Nat) (es : List Int) : State :=
  match groupOf s gid with
  | none => s
  | some g => match g.inst with
    | none => s
    | some i =>
      let all := maxEntries (Tab.getD i.maxima sp []) es
      let i := { i with maxima := Tab.set i.maxima sp all, reported := (source, sp) :: i.reported }
      let s := setInst s gid i
      if isRoot g.gdef then releaseFinals s gid
      else if (anchorSources s g.gdef).all fun x => i.reported.contains (x, sp) then
        sendUp (setInst s gid { i with maximaSent := i.maximaSent + 1, maxima := Tab.erase i.maxima sp }) gid g opANCHOR sp 0 false (anchorBytes all)
      else s

/-! Data-moving operations (R216 to R220). -/

/-- A local member has joined the instance. -/
def hasJoined (i : Inst) (r : Nat) : Bool := i.joins.any fun j => j.1 = r

/-- Hold a chunk. -/
def holdChunk (s : State) (gid : Nat) (x : Contribution) : State :=
  match instOf s gid with
  | none => s
  | some i => setInst s gid { i with held := i.held ++ [x] }

/-- Why a chunk with the POISON flag is poisoned: as it was marked here, at a member's SOURCE_POISON; a CONTRIB of another module
carries no reason, which is a free value (R212, R213, log entry 22). -/
def chunkReason (h : Header) : Nat :=
  if !h.poison then 0
  else if auxReason h ≠ 0 then auxReason h
  else if idPort h.src ≤ 103 then prSOURCE_POISON
  else 1 + Config.farReason (hGroup h) (hEpoch h) (hChunk h) % 4

/-- A CONTRIB to the edge module of another member. -/
def farCopy (s : State) (gid : Nat) (g : Group) (coord chunk srcRank : Nat) (pkt : Packet) : Header × Hop :=
  let h := groupHeader s gid g opDATA (idOf coord 0xFF) chunk (auxOf kCONTRIB 0 0 srcRank) pkt.h.poison pkt.payload.length
  (h, ownHop s h)

/-- Deliver one chunk to local members as (rank, chunk), and to the edge modules of others (R219, R220). -/
def deliverChunk (s : State) (gid : Nat) (near : List (Nat × Nat)) (far : List (Header × Hop)) (c srcRank : Nat) (pkt : Packet) : State :=
  let why := chunkReason pkt.h
  near.foldl (fun s t => notePoison s gid (t.1 * 2 ^ 32 + t.2) why) (copyChunk s gid near [] far c 0 srcRank (why ≠ 0) false pkt.payload)

/-- The local destinations of a chunk of SHIFT or PERMUTE: (rank, chunk). -/
def moveTargets (g : GroupDef) (d : BitVec 512) (src c : Nat) : List (Nat × Nat) :=
  if dOp d = 6 then [((((src : Int) + signed 32 (dShift d)) % (memberCount g : Int)).toNat, c)]
  else (g.permute.filter fun e => pmSrcRank e = src && pmSrcChunk e = c).map fun e => (pmDstRank e, pmDstChunk e)

/-- Move one chunk (R216, R218 to R220). `x.source`: a local rank, 2^20 and above for another module's packet, 2^21 + rank for
what is left to deliver here of a local member's chunk. The root emits nothing before the join phase has completed. -/
def moveChunk (s : State) (gid : Nat) (x : Contribution) : State :=
  match groupOf s gid with
  | none => s
  | some g => match g.inst with
    | none => s
    | some i => match i.desc with
      | none => holdChunk s gid x
      | some d =>
        let src := if x.source < 2 ^ 20 then x.source else if x.source < 2 ^ 21 then auxRank x.pkt.h else x.source - 2 ^ 21
        let why := chunkReason x.pkt.h
        let gate := isRoot g.gdef && !i.joinDone
        if dOp d ≤ 5 then
          if isRoot g.gdef then
            if gate then holdChunk s gid x
            else
              let k := if dOp d = 4 then src * inChunks d + x.chunk else x.chunk
              notePoison (passResult s gid k 0 src (why ≠ 0) false x.pkt.payload) gid k why
          else sendUp s gid g opDATA x.chunk (auxOf kCONTRIB 0 0 src) (why ≠ 0) x.pkt.payload
        else
          let ts := moveTargets g.gdef d src x.chunk
          let near := ts.filter fun t => isLocal s g.gdef t.1
          let far := if x.source < 2 ^ 20 then ((ts.filter fun t => !isLocal s g.gdef t.1).map fun t => idCoord (memberId g.gdef t.1)).dedup else []
          let fs := far.map fun c => farCopy s gid g c x.chunk src x.pkt
          if !near.isEmpty && (gate || !(near.all fun t => hasJoined i t.1)) then
            holdChunk (deliverChunk s gid [] fs x.chunk src x.pkt) gid { x with source := 2 ^ 21 + src }
          else deliverChunk s gid near fs x.chunk src x.pkt

/-- Try the held chunks again. -/
def flushHeld (s : State) (gid : Nat) : State :=
  match instOf s gid with
  | none => s
  | some i => i.held.foldl (fun s x => moveChunk s gid x) (setInst s gid { i with held := [] })

/-! The join phase (R209, R222). -/

/-- The join phase is complete at the root: mismatch, commit of a BARRIER or a compare, or the data phase. -/
def joinComplete (s : State) (gid : Nat) (j : JoinSummary) : State :=
  match groupOf s gid with
  | none => s
  | some g => match g.inst with
    | none => s
    | some i =>
      if j.diffRank ≠ 0xFFFFFFFF then endInst s gid csMISMATCH j.diffRank j.diffId
      else
        let s := setInst s gid { i with joinDone := true }
        match i.op with
        | 8 => commitRoot s gid csOK 0xFFFFFFFF 0xFFFFFFFF 0
        | 9 =>
          if j.crumbDiffRank = 0xFFFFFFFF then commitRoot s gid csOK 0xFFFFFFFF 0xFFFFFFFF j.lowCrumb.toNat
          else commitRoot s gid csDIVERGED j.crumbDiffRank j.crumbDiffId j.lowCrumb.toNat
        | _ => settleGroup (flushHeld (releaseFinals s gid) gid) gid

/-- Send JOIN_UP, or complete the phase, once every member of the subtree has joined. -/
def tryJoinUp (s : State) (gid : Nat) : State :=
  match groupOf s gid with
  | none => s
  | some g => match g.inst with
    | none => s
    | some i => match knownJoins g i with
      | none => s
      | some j =>
        if i.joinUpSent || j.joined ≠ g.gdef.subtreeMembers || !((childBundles g.gdef).all fun b => (Tab.find i.joinUps b).isSome) then s
        else
          let s := setInst s gid { i with joinUpSent := true }
          if isRoot g.gdef then joinComplete s gid j
          else settleGroup (sendUp s gid g opDATA 0 (auxOf kJOIN_UP 0 0 0) false (joinBytes j)) gid

/-- A join of a member of this module by its descriptor (R209). -/
def joinMember (s : State) (gid r : Nat) (d : BitVec 512) (ok : Bool) : State :=
  match groupOf s gid with
  | none => s
  | some g => match g.inst with
    | none => s
    | some i =>
      if hasJoined i r then bump64 s eCollDuplicateCount 1
      else
        if !ok then
          report (setInst s gid { i with failedJoins := i.failedJoins.filter (· ≠ r) ++ [r] }) gid csBAD_DESCRIPTOR r (rankIdNum g.gdef r)
        else
          let i := { i with joins := i.joins ++ [(r, d)], desc := some (i.desc.getD d), op := dOp (i.desc.getD d) }
          tryJoinUp (flushHeld (setInst s gid i) gid) gid

/-- The check of a member's descriptor under STRICT (R209, R349): a JOIN that only STRICT refuses is counted. -/
def checkedJoin (s : State) (gid : Nat) (g : Group) (r : Nat) (d : BitVec 512) : State :=
  let ok := descOk g.gdef r d
  let strict := rd s eDeterminismStrict = 1 && dOp d ≤ 3 && dReduce d = 6
  let again := match g.inst with | some i => hasJoined i r | none => false
  joinMember (if ok && strict && !again then bump s eStrictRefusedCount else s) gid r d (ok && !strict)

/-- A JOIN packet of a member (R206, R209). -/
def takeJoin (s : State) (p : Nat) (pkt : Packet) : State :=
  let h := pkt.h
  let gid := hGroup h
  let none_ : BitVec 23 → State := fun dst =>
    sendAbort (bump s eCollNotMemberCount) gid (hEpoch h) h.slice.toNat dst (abortBytes caNOT_MEMBER 0 0 0xFFFFFFFF 0xFFFFFFFF)
  match groupOf s gid with
  | none => none_ h.src
  | some g =>
    if (match s.groupCommit with | some c => c.install && c.group = gid | none => false) then none_ h.src
    else match rankOf g.gdef h.src with
      | none => none_ h.src
      | some r =>
        if !(isEdge p && sourceOk s p h.src) then none_ h.src
        else if hEpoch h = g.epoch then
          let s := touchInst (openInst s gid) gid
          match groupOf s gid with
          | none => s
          | some g => match g.inst with
            | none => s
            | some i =>
              if i.resident then checkedJoin s gid g r (BitVec.ofNat 512 (leNat pkt.payload))
              else setInst s gid { i with parked := i.parked ++ [(p, pkt)] }
        else if hEpoch h = nextEpoch g.epoch && g.inst.isSome then
          if g.heldJoins.any fun x => x.2.h.src = h.src then bump64 s eCollDuplicateCount 1
          else setGroup s gid { g with heldJoins := g.heldJoins ++ [(p, pkt)] }
        else
          sendAbort (bump s eCollStaleDiscardCount) gid g.epoch g.gdef.slice h.src
            (abortBytes caSTALE_EPOCH 0 g.epoch 0xFFFFFFFF 0xFFFFFFFF)

/-- The JOINs that a closed instance held back count for the new one (R206). -/
def heldPass (s : State) (gid : Nat) : State :=
  match groupOf s gid with
  | none => s
  | some g =>
    if g.inst.isSome || g.heldJoins.isEmpty then s
    else g.heldJoins.foldl (fun s x => takeJoin s x.1 x.2) (setGroup s gid { g with heldJoins := [] })

/-- After anything that may have closed an instance. -/
def afterColl (s : State) : State := (s.groups.map (·.1)).foldl heldPass s

/-! Removal (R201). -/

/-- Delete a group here; an open instance ends with REMOVED first. -/
def dropGroup (s : State) (gid : Nat) : State :=
  let s := endInst s gid csREMOVED 0xFFFFFFFF 0xFFFFFFFF
  { s with groups := Tab.erase s.groups gid }

/-- The other modules of a group's tree on the routes in force, its root kept (R204), but for the relays reported lost. -/
def otherTree (s : State) (g : Group) : List Nat :=
  match s.topo.sizes with
  | none => []
  | some z => (treeWith s z true g.gdef.slice (memberModules g.gdef.members) g.gdef.root).filter fun c => c ≠ myCoord s && !g.lost.contains c

/-- A group's tree is computed again on the routes in force here, with its root (R204): the entry here is replaced, at once or from the
next epoch; the root's Loaf tells the modules that join the tree and those that leave it. -/
def retreeGroup (s : State) (gid : Nat) : State :=
  match groupOf s gid, s.topo.sizes with
  | some g, some z =>
    let k := g.gdef.slice
    let root := g.gdef.root
    let me := myCoord s
    let tree := treeWith s z true k (memberModules g.gdef.members) root
    let d := entryWith s z true k g.gdef.members g.gdef.permute root me
    if me ≠ root && (treeHop s z true k me root).isNone then s
    else
      let t := if !tree.contains me then
          (if g.inst.isSome then setGroup s gid { g with leaving := true } else { s with groups := Tab.erase s.groups gid })
        else if g.inst.isSome then setGroup s gid { g with nextDef := some d, leaving := false, lost := [] }
        else setGroup s gid { g with gdef := d, lost := [] }
      if me = root then (tree.filter fun c => c ≠ me).foldl sendMgmt t else t
  | _, _ => s

/-- The groups of a list, each on its new tree. -/
def retree (s : State) (gs : List Nat) : State := gs.foldl retreeGroup s

/-- A commit of new tables of a slice that took effect recomputes the trees of its groups (R113, R204). -/
def commitTables (s : State) (k : Nat) : State :=
  let on := fnState s (eSliceState k) = .on && rd s (eSliceKind k) = 1
  let s := sliceCommit s k
  if on && rd s (eSliceInstallResult k) = 0 then retree s ((s.groups.filter fun x => x.2.gdef.slice = k).map (·.1)) else s

/-- Loaf removes the groups of a slice that leaves ON here, on every tree module. -/
def groupsSliceOff (s : State) (k : Nat) : State :=
  ((s.groups.filter fun x => x.2.gdef.slice = k).map (·.1)).foldl (fun s gid =>
    match groupOf s gid with
    | none => s
    | some g => (otherTree s g).foldl sendMgmt (dropGroup s gid)) s

/-! What the links report (R227, R230). -/

/-- The last frame of a result copy went out. -/
def collSent (s : State) (p : Nat) (h : Header) : State :=
  if h.opcode ≠ opCOLL_RESULT || !isEdge p then s
  else match groupOf s (hGroup h) with
    | none => s
    | some g => match g.inst, rankOf g.gdef h.dst with
      | some i, some r =>
        if hEpoch h = g.epoch && h.src = myId s 0xFF then
          setInst s (hGroup h) { i with unacked := i.unacked ++ [(p, (portOf s p).link.lastSent, r)] }
        else s
      | _, _ => s

/-- Copies whose last frame has left the retry buffer of port p are acknowledged. -/
def ackGroup (p : Nat) (s : State) (gid : Nat) : State :=
  match instOf s gid with
  | none => s
  | some i =>
    let still (u : Nat × Nat × Nat) : Bool := u.1 ≠ p || (portOf s p).link.retry.any fun f => f.seq = u.2.1
    let gone := i.unacked.filter fun u => !still u
    if gone.isEmpty then s
    else settleGroup (setInst s gid { i with unacked := i.unacked.filter still,
                                             acked := gone.foldl (fun t u => Tab.set t u.2.2 (Tab.getD t u.2.2 0 + 1)) i.acked }) gid

/-- After an acknowledgement on an edge port. -/
def collAcked (s : State) (p : Nat) : State :=
  if !isEdge p then s else afterColl ((s.groups.map (·.1)).foldl (ackGroup p) s)

/-- A result copy queued toward port p whose member has no active port (R230). -/
def stranded (s : State) (p q : Nat) (o : OutPacket) : Bool :=
  q = p && o.sent = 0 && o.pkt.h.opcode = opCOLL_RESULT && o.pkt.h.src = myId s 0xFF && (match ownHop s o.pkt.h with | .out _ _ => false | _ => true)

/-- A waiting packet without its stranded copies: none are left, or the others wait on. -/
def unstranded (s : State) (p : Nat) (w : Waiter) : Option Waiter :=
  match (waiterCopies w).filter fun c => !stranded s p c.1 c.2 with
  | [] => none
  | (q, o) :: more => some { w with outPort := q, out := { o with inBuf := w.out.inBuf, back := w.out.back, block := w.out.block }, more := more,
                                    copies := if w.more.isEmpty then w.copies else 1 + more.length }

/-- Stranded copies are dropped at once, and counted (R125, R230). -/
def dropStranded (s : State) (p : Nat) : State :=
  let x := portOf s p
  let gone := x.queue.filter (stranded s p p)
  let lost := s.pools.waiting.filter fun w => (unstranded s p w).isNone
  let n := gone.length + (s.pools.waiting.flatMap waiterCopies |>.filter fun c => stranded s p c.1 c.2).length
  let t := setPort { s with pools := { s.pools with waiting := s.pools.waiting.filterMap (unstranded s p) } } p
    { x with queue := x.queue.filter fun o => !stranded s p p o }
  (gone ++ lost.map (·.out)).foldl releaseOut (bumpBy 4 t eDestPortDownDropCount n)

/-- An edge port left ON: the copies it had sent without an acknowledgement are lost, and so are those still queued to members that it
leaves without a port (R230). -/
def memberPortLost (s : State) (p : Nat) : State :=
  if !isEdge p then s
  else
    let s := dropStranded s p
    let s := { s with groups := s.groups.map fun x => (x.1, { x.2 with inst := x.2.inst.map fun i => { i with unacked := i.unacked.filter fun u => u.1 ≠ p } }) }
    afterColl (settleAll s)

end Sys2Proof.Machine
end

