-- ==== Sys2Proof/Machine/Access.lean ====
section
/-! DEFINITION. The checks that every dictionary write passes before its owner's own (R391, R392, R395, R403, R405), and
the storing of a written value (R393). A status is a code of Table 17.3. -/
namespace Sys2Proof.Machine

abbrev stOK : Nat := 0
abbrev stNO_ENTRY : Nat := 1
abbrev stACCESS : Nat := 2
abbrev stRANGE : Nat := 3
abbrev stTYPE : Nat := 4
abbrev stSTATE : Nat := 5
abbrev stLENGTH : Nat := 6
abbrev stAUTH : Nat := 7
abbrev stBUSY : Nat := 8
abbrev stFROZEN : Nat := 9
abbrev stNOT_READY : Nat := 10
abbrev stPOISONED : Nat := 11
abbrev stABORTED : Nat := 12
abbrev stNOT_APPLIED : Nat := 13

/-- What the writer may do: nothing before boot step 5 or after a FATAL fault; the mailbox and an ADMIN session write
(R395, R403, R405). -/
def sourceStatus (s : State) (src : Source) : Nat :=
  if !loafUp s then stNOT_READY
  else if s.faults.frozen then stFROZEN
  else match src with
    | .mailbox => stOK
    | .session i => if s.mgmt.sessions.any fun x => x.id = i && x.isOpen && x.role = 2 then stOK else stACCESS

/-- The number a value's bytes spell in an entry of a type: two's complement for I8 to I64 (Table 17.1). -/
def valueInt (ty : Nat) (v : List Byte) : Int :=
  if 6 ≤ ty && ty ≤ 9 then signed (8 * v.length) (leNat v) else leNat v

/-- Type, length and range of a value (R391): TYPE for a wrong length, LENGTH for a DOMAIN content too long or of a wrong
fixed size (R404), RANGE outside the stated range. -/
def valueStatus (r : EntryRow) (v : List Byte) : Nat :=
  if r.ty = 13 then
    if v.length > r.len || (r.exact && v.length ≠ r.len) || v.length % r.mult ≠ 0 then stLENGTH else stOK
  else if r.exact && v.length ≠ r.len || r.len < v.length then stTYPE
  else if r.ty ≤ 9 && !(r.lo ≤ valueInt r.ty v && valueInt r.ty v ≤ r.hi && valueInt r.ty v % r.mult = 0) then stRANGE
  else stOK

/-- The function an RWL entry belongs to: the port for 0x2400 + p, the slice for 0x4100 + s. DEDUCED: the Nunor sheet's
column is not part of the spec (log entry 19). -/
def rwlFunction (index : Nat) : Nat := if index < 0x4000 then ePortState (index - 0x2400) else eSliceState (index - 0x4100)

/-- SliceLinkMask of a BOX slice is RWL (Table 05.5). -/
def isRwl (s : State) (r : EntryRow) (index sub : Nat) : Bool :=
  r.acc = .rwl || (0x4100 ≤ index && index < 0x4500 && sub = 2 && rd s (eSliceKind (index - 0x4100)) = 2)

/-- An entry of slice 0, which only the module writes (R106). -/
def slice0Entry (index sub : Nat) : Bool := index = 0x4100 || (index = 0x1F30 && sub = 0)

/-- The checks before the owner's: the writer, a live update of group 3 (R425), the entry, its access right and the value. -/
def entryStatus (s : State) (src : Source) (index sub : Nat) (v : List Byte) : Nat :=
  if sourceStatus s src ≠ stOK then sourceStatus s src
  else if s.fw.live = some 3 && !(index * 256 + sub = eFirmwareCommand && v = [5]) then stBUSY
  else match entryRow index sub with
    | none => stNO_ENTRY
    | some r =>
      if r.acc = .ro || r.acc = .const || slice0Entry index sub then stACCESS
      else if valueStatus r v ≠ stOK then valueStatus r v
      else if isRwl s r index sub && fnState s (rwlFunction index) ≠ .off then stSTATE
      else stOK

/-- The same, by address. -/
def addrStatus (s : State) (src : Source) (a : Nat) (v : List Byte) : Nat := entryStatus s src (a / 256) (a % 256) v

/-- Note that a persistent value waits for flash (R393). -/
def markPersist (s : State) (a : Nat) : State :=
  match entryRow (a / 256) (a % 256) with
  | some r => if r.persist && !s.mgmt.waiting.contains a then { s with mgmt := { s.mgmt with waiting := s.mgmt.waiting ++ [a] } } else s
  | none => s

/-- Store a written scalar value. -/
def writeReg (s : State) (a v : Nat) : State := markPersist (wr s a v) a

/-- Store a written byte-string value. -/
def writeBlob (s : State) (a : Nat) (v : List Byte) : State := markPersist (setBlob s a v) a

/-- A dedicated write command: its effect where the checks and the owner's own pass; a rejected write changes nothing
(R395). -/
def whenWritten (s : State) (src : Source) (a : Nat) (v : List Byte) (owner : Bool) (f : State → State) : State :=
  if addrStatus s src a v = stOK && owner then f s else s

end Sys2Proof.Machine
end

