-- ==== Sys2Proof/WellFormed.lean ====
section
/-! DEFINITION. Which commands name a unit the part has: ports 0–127, lanes 0–543, lane groups 0–31, slabs, banks, cages
and the other units of Tables 00.2, 01.4, 02.8 and 16.3. A command that names another stops with `Fault.noSuchUnit`. -/
namespace Sys2Proof

/-- The address is a function state entry of Table 02.8. -/
def isStateEntry (index sub : Nat) : Bool :=
  (index = 0x1F01 && 1 ≤ sub && sub ≤ 0x80) || (0x1F10 ≤ index && index < 0x1F12 && sub < 256) || (index = 0x1F12 && sub < 0x20) ||
  (index = 0x1F20 && sub < 9) || (index = 0x1F21 && sub < 4) || (0x1F30 ≤ index && index < 0x1F34 && sub < 256) || (index = 0x1F40 && sub < 6)

/-- The command's operands name units of the part. -/
def Instr.wellFormed : Instr → Bool
  | .alwaysOnStart _ => true
  | .mainPowerStart _ => true
  | .supplyLow _ => true
  | .supplyHigh _ => true
  | .supplyUv => true
  | .supplyOv => true
  | .mainRailsShutdown => true
  | .inputLost => true
  | .alwaysOnLoss => true
  | .mateNChange _ => true
  | .modReset => true
  | .modResetRelease _ _ => true
  | .perstNAssert => true
  | .perstNRelease _ _ => true
  | .functionLevelReset => true
  | .refclkLost => true
  | .fallbackRelock => true
  | .refclkRestored => true
  | .pllLoss => true
  | .bootPllLock => true
  | .starterSelect _ _ => true
  | .bootLanes _ => true
  | .bootLoaf => true
  | .bootMemory _ => true
  | .bootProof _ _ _ => true
  | .bootTopology => true
  | .bootReady _ => true
  | .enableRequest index sub => isStateEntry index sub
  | .disableRequest index sub => isStateEntry index sub
  | .functionStartDone index sub _ => isStateEntry index sub
  | .functionStopDone index sub => isStateEntry index sub
  | .stopTimeout index sub => isStateEntry index sub
  | .thermalLevelChange _ => true
  | .thermalTrip _ => true
  | .powerWindow10us _ => true
  | .powerWindow1ms _ _ _ => true
  | .supplyPeakPowerRead _ => true
  | .frameSlot port => port < 128
  | .markerSlot group => group < 32
  | .signalDetect lane => lane < 544
  | .cdrLock lane => lane < 544
  | .markerReceived lane _ _ _ => lane < 544
  | .idFrameReceived port _ _ _ => port < 128
  | .quarantineRelease port => port < 128
  | .portExpectedEndpointWrite _ port _ => port < 128
  | .lossOfSignal lane => lane < 544
  | .cdrLossOfLock lane => lane < 544
  | .markerLoss lane => lane < 544
  | .marginWindowEnd lane _ => lane < 544
  | .lossClassify port => port < 128
  | .switchReceived group _ => group < 32
  | .laneUserCalWrite _ group _ _ => group < 32
  | .pktFrameReceived port _ _ => port < 128
  | .retryTimerExpiry port => port < 128
  | .roundTripFixed port => port < 128
  | .torusSizeCommit _ => true
  | .portBondLeaderWrite _ port _ => port < 104
  | .sliceCommit _ slice => slice < 1024
  | .sliceDrainTimeout slice => slice < 1024
  | .bulkEscapeWait port vc => (port < 128 || port = 255) && vc < 8
  | .escapeProceed port vc => (port < 128 || port = 255) && vc < 8
  | .stallTimeout port vc => port < 128 && vc < 8
  | .localFailover port => port < 128
  | .egressRequeue port => port < 128
  | .detourInstall _ => true
  | .detourRemove _ => true
  | .fabricAdmit _ => true
  | .routeAdmission port => port < 128
  | .windowUpdDelay _ _ => true
  | .windowLeakTimeout _ module _ => module < 32768
  | .reorderHoldTimeout _ _ => true
  | .reorderContextIdle _ _ => true
  | .curdGrant pool => pool < 3
  | .wheyGrant => true
  | .policerRefill => true
  | .policerRateWrite _ port cls _ => port < 104 && cls < 3
  | .policerBurstWrite _ port cls _ => port < 104 && cls < 3
  | .policerEnableWrite _ port _ => port < 104
  | .policerWindowWrite _ _ => true
  | .shaperConfigWrite _ port _ _ => port < 128
  | .ctrlCeilingFill port => port < 128
  | .vatAccess slab unit _ _ => slab < 524288 && unit < 16
  | .vatRefetchDone slab _ => slab < 524288
  | .vatReadbackDone slab _ => slab < 524288
  | .vatRemapDone slab => slab < 524288
  | .vatBankMoveDone bank => bank < 256
  | .tbufParityError cluster half => cluster < 9 && half < 2
  | .tbufReload cluster half => cluster < 9 && half < 2
  | .cellarSlabReadDone cslab slab _ => cslab < 33554432 && slab < 524288
  | .cellarRefresh _ _ _ => true
  | .cellarChannel channel => channel < 32
  | .fabricState => true
  | .plihotuProbeWrite _ _ => true
  | .groupInstall _ => true
  | .groupRemove _ => true
  | .groupEntryMsg group _ _ => group < 65536
  | .groupEntryAck group module _ => group < 65536 && module < 4096
  | .joinReceived port _ => (port < 128 || port = 255)
  | .dataReceived port _ => (port < 128 || port = 255)
  | .contribReceived port _ => (port < 128 || port = 255)
  | .joinUpReceived port _ => (port < 128 || port = 255)
  | .doneUpReceived port _ => (port < 128 || port = 255)
  | .commitReceived port _ => (port < 128 || port = 255)
  | .collResultReceived port _ => (port < 128 || port = 255)
  | .endReceived port _ => (port < 128 || port = 255)
  | .rerunReceived port _ => (port < 128 || port = 255)
  | .reportReceived port _ => (port < 128 || port = 255)
  | .memberAbortReceived port _ => (port < 128 || port = 255)
  | .poisonNoticeReceived port _ => (port < 128 || port = 255)
  | .joinTimeout group => group < 65536
  | .progressTimeout group => group < 65536
  | .treeLossReport group lostModule _ => group < 65536 && lostModule < 4096
  | .treeRecompute group _ => group < 65536
  | .contextSwap group => group < 65536
  | .maximaReceived port _ => (port < 128 || port = 255)
  | .finalReceived port _ => (port < 128 || port = 255)
  | .churnTake group _ => group < 65536
  | .skewWindowEnd group _ => group < 65536
  | .accumulatorComplete group _ lane _ _ => group < 65536 && lane < 68
  | .churnSpareTakeover lane => lane < 68
  | .kneadTileLoaded _ => true
  | .kneadPassDone _ array _ => array < 27
  | .kneadUnitDone _ _ => true
  | .kneadRepairApply array => array < 27
  | .clusterTakeover cluster _ => cluster < 9
  | .recipeInstall _ => true
  | .recipeRemove _ => true
  | .invokeReceived port _ => (port < 128 || port = 255)
  | .invokePacketReceived port _ => (port < 128 || port = 255)
  | .recipeInputTimeout _ => true
  | .invocationStart _ => true
  | .matmulForward _ => true
  | .matmulBackwardPair _ => true
  | .topk _ => true
  | .softmax _ => true
  | .normRms _ => true
  | .normLayer _ => true
  | .scaleMul _ => true
  | .scaleRowvec _ => true
  | .scaleColvec _ => true
  | .scaleRelu _ => true
  | .scaleSilu _ => true
  | .addStep _ => true
  | .subStep _ => true
  | .mulStep _ => true
  | .convert _ => true
  | .stageIn _ => true
  | .stageOut _ => true
  | .dispatch _ => true
  | .returnBufferAllocated _ => true
  | .combine _ => true
  | .reduceInit _ => true
  | .reduceAccumulate _ => true
  | .reduceRows _ => true
  | .updateSgdM _ => true
  | .updateAdamw _ => true
  | .updateSlotTaken _ => true
  | .digestCompute _ => true
  | .digestCompare _ => true
  | .digestAuto _ => true
  | .barrier _ => true
  | .stepComplete _ => true
  | .recipeStepTimeout _ => true
  | .stationInstall _ => true
  | .stationRemove _ => true
  | .stationReady _ => true
  | .stationReload _ => true
  | .combineDataReceived port _ => (port < 128 || port = 255)
  | .ownerWindowFree _ _ _ => true
  | .expertRetry _ _ _ => true
  | .expertReturnTimeout _ _ _ => true
  | .strictWrite _ _ => true
  | .save _ => true
  | .saveComplete => true
  | .restore _ => true
  | .restoreVerifyDone _ => true
  | .restoreApplyDone _ => true
  | .fatalRecordFlash => true
  | .faultRecordClose _ => true
  | .faultUnfence _ _ => true
  | .coreFault core => core < 16
  | .coreEcc core => core < 16
  | .coreRestartDone core => core < 16
  | .fenceNoticeDelay port => port < 128
  | .fenceRefresh => true
  | .fenceNoticeReceived port _ => (port < 128 || port = 255)
  | .fenceBitExpiry module port => module < 4096 && port < 104
  | .proofDue unit => unit < 893
  | .proofNow _ _ => true
  | .proofPeriodWrite _ _ => true
  | .proofTakeoverDone => true
  | .proofTestDone _ _ => true
  | .proofDeferralEnd => true
  | .discover _ => true
  | .mdpOpen _ => true
  | .prove _ _ => true
  | .mdpClose _ => true
  | .ping _ => true
  | .mdpRead _ => true
  | .mdpWrite _ => true
  | .readBlock _ => true
  | .writeBlock _ => true
  | .subscribe _ => true
  | .eventAck _ => true
  | .eventResend _ _ => true
  | .watchCheck _ _ => true
  | .proveTimeout _ => true
  | .openLockoutExpiry _ => true
  | .sessionTimeout _ => true
  | .blockTransferTimeout _ => true
  | .managerKeyWrite _ _ => true
  | .persistStore => true
  | .persistFlush _ => true
  | .persistReset _ _ => true
  | .sqDoorbell _ _ => true
  | .dict _ _ => true
  | .vatWrite _ _ => true
  | .vatRead _ => true
  | .cellarWrite _ _ => true
  | .cellarRead _ => true
  | .setSaveBuffer _ => true
  | .nop _ => true
  | .mailboxCommandComplete => true
  | .cqHeadWrite _ => true
  | .eqHeadWrite _ => true
  | .mbControlWrite _ _ _ _ _ _ _ => true
  | .eventMsixTimer _ => true
  | .loafImageWrite _ _ => true
  | .loafProgramDone _ => true
  | .verify _ _ => true
  | .activateLive _ => true
  | .liveUpdateGroupDone _ => true
  | .activateAtReset _ => true
  | .confirm _ => true
  | .reject _ => true
  | .attestNonceWrite _ _ => true
  | .insertSeated cage _ => cage < 6
  | .insertRemoved cage => cage < 6
  | .engineFault cage _ => cage < 6
  | .laserHoursTick cage => cage < 6
  | .registerWrite _ _ => true
  | .icmpv6Echo _ _ _ => true
  | .neighborDiscovery _ _ => true
  | .mdpFrameError _ => true

end Sys2Proof
end

