-- ==== Sys2Proof/Machine/Vat.lean ====
section
/-! DEFINITION. The Vat and the Cellar (08): slab tags and CRCs, failed checks, refetch, spare rows, bank fencing, stages,
and the commands over them. -/
namespace Sys2Proof.Machine

/-! Layout (R162 to R164). -/

/-- A slab's tag. -/
def tagOf (s : State) (n : Nat) : Tag := Tab.getD s.vat.tags n {}
/-- Change a slab's tag. -/
def setTag (s : State) (n : Nat) (t : Tag) : State := { s with vat := { s.vat with tags := Tab.set s.vat.tags n t } }

/-- A number lies in one of some runs (first, count). -/
def inRuns (l : List (Nat × Nat)) (n : Nat) : Bool := l.any fun r => r.1 ≤ n && n < r.1 + r.2

/-- Partition of a logical slab: 0 packet, 1 churn, 2 stations, 3 headroom. -/
def partitionOf (s : State) (n : Nat) : Nat :=
  if n < s.vat.packetSlabs then 0 else if n < s.vat.packetSlabs + s.vat.churnSlabs then 1 else if inRuns s.vat.headroom n then 3 else 2

/-- Slabs of the 256 B and 1 KiB curd pools: the pools lie in the packet partition in ascending block size
(DEDUCED, log entry 20). -/
def smallSlabs (s : State) : Nat := Tab.getD s.pools.shared 0 0 / 16
def midSlabs (s : State) : Nat := Tab.getD s.pools.shared 1 0 / 4

/-- crc_mode of a slab (R164). -/
def crcModeOf (s : State) (n : Nat) : Nat :=
  if n < smallSlabs s then 2 else if n < smallSlabs s + midSlabs s then 1 else 0

/-- Bytes of a CRC unit, and units in a slab. -/
def unitSize (mode : Nat) : Nat := if mode = 2 then 256 else if mode = 1 then 1024 else 4096
def unitCount (mode : Nat) : Nat := 4096 / unitSize mode

/-- The CRC word stored for a unit. -/
def storedCrc (s : State) (n unit : Nat) : BitVec 32 := Tab.getD (tagOf s n).crc unit (zeroCrc (crcModeOf s n))

/-- The curd block a unit of the packet partition holds: pool and index. -/
def blockOfUnit (s : State) (n unit : Nat) : Nat × Nat :=
  if n < smallSlabs s then (0, 16 * n + unit)
  else if n < smallSlabs s + midSlabs s then (1, 4 * (n - smallSlabs s) + unit)
  else (2, n - smallSlabs s - midSlabs s)

/-- Physical position of a slab: bank × 4,096 + row (R162, R172). -/
def placeOf (s : State) (n : Nat) : Nat := Tab.getD s.vat.place n (n % 256 * 4096 + n / 256)
/-- Bank of a slab. -/
def bankOf (s : State) (n : Nat) : Nat := placeOf s n / 4096

/-- The pending bit: a stage, a refetch, a remap, or a bank move writes the slab (R164). -/
def slabPending (s : State) (n : Nat) : Bool :=
  (tagOf s n).pend ≠ .none || (s.vat.remaps.any fun r => r.1 = n) || s.vat.moves.contains (bankOf s n)

/-- A unit is poisoned. -/
def unitPoisoned (s : State) (n unit : Nat) : Bool :=
  if crcModeOf s n = 0 then (tagOf s n).poisoned else (tagOf s n).badUnits.contains unit

/-- The slab holds poison anywhere. -/
def slabPoisoned (s : State) (n : Nat) : Bool := (tagOf s n).poisoned || !(tagOf s n).badUnits.isEmpty

/-! Reading and writing bytes. -/

/-- A unit's stored bytes. -/
def unitBytes (s : State) (n unit : Nat) : List Byte :=
  Memory.read s.vat.mem (4096 * n + unit * unitSize (crcModeOf s n)) (unitSize (crcModeOf s n))

/-- A unit passes its check (R165). -/
def unitGood (s : State) (n unit : Nat) : Bool := crc32c (unitBytes s n unit) = storedCrc s n unit

/-- Write bytes into the Vat without touching tags. -/
def rawPut (s : State) (a : Nat) (b : List Byte) : State := { s with vat := { s.vat with mem := Memory.write s.vat.mem a b } }

/-- Physical corruption of a unit's stored bytes. -/
def corruptUnit (s : State) (n unit : Nat) (flips : List (Nat × Byte)) : State :=
  if flips.isEmpty then s else rawPut s (4096 * n + unit * unitSize (crcModeOf s n)) (flipBytes (unitBytes s n unit) flips)

/-- Store the CRC of a unit's bytes as they stand. -/
def sealUnit (s : State) (n unit : Nat) : State :=
  setTag s n { tagOf s n with crc := Tab.set (tagOf s n).crc unit (crc32c (unitBytes s n unit)) }

/-- Poison cleared by a write that covers the whole unit (R170). -/
def clearPoison (s : State) (n unit : Nat) : State :=
  if crcModeOf s n = 0 then setTag s n { tagOf s n with poisoned := false }
  else setTag s n { tagOf s n with badUnits := (tagOf s n).badUnits.filter (· ≠ unit) }

/-- A write into a unit (R165, R168, R170): new CRC, no source, and poison cleared where the whole unit is covered. -/
def writeUnit (s : State) (n unit off : Nat) (b : List Byte) : State :=
  let s := rawPut s (4096 * n + unit * unitSize (crcModeOf s n) + off) b
  let s := sealUnit s n unit
  let s := setTag s n { tagOf s n with sourceValid := false }
  if off = 0 && b.length = unitSize (crcModeOf s n) then clearPoison s n unit else s

/-- A write of any bytes to slabs in mode 0, each slab sealed anew (R166). -/
def vatPut (s : State) (a : Nat) (b : List Byte) : State :=
  (slabsOf a b.length).foldl (fun s n =>
    let lo := max a (4096 * n)
    let hi := min (a + b.length) (4096 * n + 4096)
    writeUnit s n 0 (lo - 4096 * n) ((b.drop (lo - a)).take (hi - lo))) s

/-- Some slab of a range is poisoned: its reader gets POISON and no data (R170). -/
def rangePoisoned (s : State) (a n : Nat) : Bool := (slabsOf a n).any (slabPoisoned s)

/-- Corruption of a Cellar slab's stored bytes. An error that the devices' ECC corrects is counted and does not reach the slab (R175); which
errors those are, the spec leaves open (log entry 126). -/
def corruptCellar (s : State) (c : Nat) (flips : List (Nat × Byte)) : State :=
  if flips.isEmpty then s
  else if Config.eccCorrects flips then bump64 s eCellarEccCorrectedCount 1
  else { s with cellar := { s.cellar with mem := Memory.write s.cellar.mem (4096 * c) (flipBytes (cellarBytes s c) flips) } }

/-! Poison (Table 08.3). -/

/-- The packets that read a poisoned block are stomped, and counted at their arrival port (R169). -/
def stompBlock (s : State) (key : Nat) (port : Nat) : State :=
  let s := { s with ports := s.ports.map fun x => (x.1, { x.2 with queue := x.2.queue.map fun o => if o.block = some key then { o with stomped := true } else o }) }
  if port < 128 then bump s (ePacketCrcErrorCount port) else s

/-- The unit becomes poisoned: counted, VAT_POISON raised, and a packet's block stomped. -/
def poisonUnit (s : State) (n unit : Nat) : State :=
  let t := tagOf s n
  let s := setTag s n (if crcModeOf s n = 0 then { t with poisoned := true, pend := .none }
    else { t with badUnits := if t.badUnits.contains unit then t.badUnits else unit :: t.badUnits })
  let s := bump s eVatPoisonCount
  let s := if partitionOf s n = 0 then
      match s.pools.blocks.find? fun b => (b.2.pool, b.2.index) = blockOfUnit s n unit with
      | some b => stompBlock s b.1 b.2.port
      | none => s
    else s
  raiseFault s 16 3 (bankOf s n) (w64 n)

/-! Spare rows and banks (R172, R173). -/

/-- A bank begins to be moved (R173): its status and count. -/
def fenceBank (s : State) (b : Nat) : State :=
  if rd s (eVatBankStatus b) = 1 then s
  else
    let s := bumpBy 2 (wr s (eVatBankStatus b) 1) eVatBanksFenced 1
    { s with vat := { s.vat with moves := s.vat.moves ++ [b] } }

/-- A slab's position needs a spare row: its copy starts, or with none left the bank is fenced. -/
def startRemap (s : State) (n : Nat) : State :=
  let p := placeOf s n
  if (s.vat.remaps.any fun r => r.2 = p) || rd s (eVatBankStatus (p / 4096)) = 1 then s
  else if 128 ≤ rd s (eVatBankSpareRowsUsed (p / 4096)) + (s.vat.remaps.filter fun r => r.2 / 4096 = p / 4096).length then fenceBank s (p / 4096)
  else { s with vat := { s.vat with remaps := s.vat.remaps ++ [(n, p)] } }

/-- Count a failed check; the second at one position within the window remaps the slab (R172). -/
def countFailure (s : State) (n : Nat) : State :=
  let s := bump64 s eVatCrcErrorCount 1
  let s := wr (bump s (eVatBankCrcErrorCount (bankOf s n))) eVatLastErrorSlab n
  let pos := placeOf s n
  let w := rd s eVatRowFailWindow * fcPerHour
  match Tab.find s.vat.failedAt pos with
  | some t =>
    if t / w = fcNow s / w then startRemap { s with vat := { s.vat with failedAt := Tab.erase s.vat.failedAt pos } } n
    else { s with vat := { s.vat with failedAt := Tab.set s.vat.failedAt pos (fcNow s) } }
  | none => { s with vat := { s.vat with failedAt := Tab.set s.vat.failedAt pos (fcNow s) } }

/-- A Cellar read is asked for: oldest first, and of those that arrive in one fc a refetch goes before a stage (R176). -/
def askCellar (s : State) (r : CellarReq) : State :=
  let q := s.cellar.queue
  let i := if r.refetch then q.findIdx fun x => x.at_ = r.at_ && !x.refetch else q.length
  { s with cellar := { s.cellar with queue := q.take i ++ [r] ++ q.drop i } }

/-- It is the read that the Cellar completes next. -/
def cellarServes (s : State) (refetch : Bool) (c n : Nat) : Bool :=
  match s.cellar.queue with
  | r :: _ => r.refetch = refetch && r.cslab = c && r.slab = n
  | [] => false

/-- A read of the Cellar is over. -/
def cellarServed (s : State) : State := { s with cellar := { s.cellar with queue := s.cellar.queue.drop 1 } }

/-- A unit failed its check (Table 08.3): refetched where its source is valid, else poisoned. -/
def failUnit (s : State) (n unit : Nat) : State :=
  let s := countFailure s n
  if (tagOf s n).sourceValid && crcModeOf s n = 0 then
    askCellar (setTag s n { tagOf s n with pend := .refetch }) { refetch := true, cslab := (tagOf s n).sourceSlab, slab := n, at_ := fcNow s }
  else poisonUnit s n unit

/-! Commands. -/

/-- An access that waits for a pending slab takes its place behind those before it (R167). -/
def queueAccess (s : State) (q : VatReq) : State := { s with vat := { s.vat with queue := s.vat.queue ++ [q] } }

/-- VAT_ACCESS (R165 to R170): a read, or a write of part or all of a CRC unit. An access to a pending slab waits (R167), and so does the
write behind a read that starts a refetch. -/
def vatAccess (s : State) (n unit : Nat) (w : Option (Nat × List Byte)) (flips : List (Nat × Byte)) : State :=
  let size := unitSize (crcModeOf s n)
  if unitCount (crcModeOf s n) ≤ unit then s
  else if slabPending s n then queueAccess s ⟨n, unit, w, flips⟩
  else
    let s := corruptUnit s n unit flips
    match w with
    | none => if unitPoisoned s n unit || unitGood s n unit then s else failUnit s n unit
    | some (off, b) =>
      if size < off + b.length then s
      else if off = 0 && b.length = size then writeUnit s n unit 0 b
      else if unitPoisoned s n unit || unitGood s n unit then writeUnit s n unit off b
      else
        let s := failUnit s n unit
        if slabPending s n then queueAccess s ⟨n, unit, w, []⟩ else writeUnit s n unit off b

def execVatAccess (slab unit : Nat) (write : Option (Nat × List Byte)) (flips : List (Nat × Byte)) (s : State) : Out1 :=
  onUnit (Instr.wellFormed (.vatAccess slab unit write flips)) (whenLive s fun s => vatAccess s slab unit write flips)

/-- The accesses whose slabs are pending no more are served in their order; the rest go on waiting (R167). -/
def serveWaiting (s : State) : State :=
  s.vat.queue.foldl (fun s q => vatAccess s q.slab q.unit q.write q.flips) { s with vat := { s.vat with queue := [] } }

/-- The readers that wait for a refetched slab are served from it (R169). -/
def serveReaders (s : State) (n : Nat) : State :=
  { s with vat := { s.vat with queue := s.vat.queue.filter fun q => !(q.slab = n && q.write.isNone) } }

/-- The refetch of a slab is in progress, and the Cellar completes it next. -/
def refetching (s : State) (n : Nat) : Bool := (tagOf s n).pend = .refetch && cellarServes s true (tagOf s n).sourceSlab n

/-- VAT_REFETCH_DONE (R169): the Cellar copy is checked, written and delivered; pending stays until the read-back. -/
def vatRefetchDone (s : State) (n : Nat) (flips : List (Nat × Byte)) : State :=
  let t := tagOf s n
  let s := corruptCellar (cellarServed s) t.sourceSlab flips
  if cellarGood s t.sourceSlab then
    let s := sealUnit (rawPut s (4096 * n) (cellarBytes s t.sourceSlab)) n 0
    let s := setTag s n { tagOf s n with pend := .readback }
    raiseFault (bump64 (serveReaders s n) eVatRefetchCount 1) 3 3 (bankOf s n) (w64 n)
  else serveWaiting (poisonUnit (bump (setTag s n { tagOf s n with sourceValid := false }) eCellarCrcErrorCount) n 0)

/-- VAT_READBACK_DONE (R169, R172): pending clears, or the position is remapped. -/
def vatReadbackDone (s : State) (n : Nat) (flips : List (Nat × Byte)) : State :=
  let s := corruptUnit s n 0 flips
  let ok := unitGood s n 0
  let s := setTag s n { tagOf s n with pend := .none }
  if ok then serveWaiting s
  else
    let s := bump (bump64 s eVatCrcErrorCount 1) (eVatBankCrcErrorCount (bankOf s n))
    startRemap (wr s eVatLastErrorSlab n) n

/-- The slab that lies at a position of the Vat: Proof's exchange of banks may have moved slabs (R382). -/
def slabAt (s : State) (pos : Nat) : Option Nat :=
  match s.vat.place.find? fun x => x.2 = pos with
  | some x => some x.1
  | none =>
    let n := pos % 4096 * 256 + pos / 4096
    if pos % 4096 < 2048 && placeOf s n = pos then some n else none

/-- VAT_REMAP_DONE (R172): what lies at the failing position now lies in the next spare row of its bank; with none left the bank is fenced. -/
def vatRemapDone (s : State) (n : Nat) : State :=
  match s.vat.remaps.find? fun r => r.1 = n with
  | none => s
  | some r =>
    let b := r.2 / 4096
    let used := rd s (eVatBankSpareRowsUsed b)
    let s := { s with vat := { s.vat with remaps := s.vat.remaps.filter (· ≠ r) } }
    if 128 ≤ used then fenceBank s b
    else
      let s := { s with vat := { s.vat with place := Tab.set s.vat.place ((slabAt s r.2).getD n) (b * 4096 + 2048 + used) } }
      serveWaiting (bump (wr s (eVatBankSpareRowsUsed b) (used + 1)) eVatRowRemapCount)

/-! Packets in curd blocks (R143, R165, R166, R170). -/

/-- Slab and unit of a curd block (R144, R164). -/
def unitOfBlock (s : State) (b : Block) : Nat × Nat :=
  if b.pool = 0 then (b.index / 16, b.index % 16)
  else if b.pool = 1 then (smallSlabs s + b.index / 4, b.index % 4)
  else (smallSlabs s + midSlabs s + b.index, 0)

/-- A payload is written into its block, the rest of the block as zero bytes: the whole unit (DESIGN CHOICE, log entry 125). -/
def curdWrite (s : State) (b : Block) (payload : List Byte) : State :=
  let u := unitOfBlock s b
  vatAccess s u.1 u.2 (some (0, sliceZ payload 0 (unitSize (crcModeOf s u.1)))) []

/-- The block's slab is pending, so its reader waits (R167). -/
def curdWaits (s : State) (key : Option Nat) : Bool :=
  match key.bind (Tab.find s.pools.blocks) with
  | some b => b.pool < 3 && slabPending s (unitOfBlock s b).1
  | none => false

/-- A copy reads its block before its first frame (R165): a failed check is handled by Table 08.3, and a poisoned block gives a stomped copy. -/
def curdRead (s : State) (o : OutPacket) : State × OutPacket :=
  match o.block.bind (Tab.find s.pools.blocks) with
  | none => (s, o)
  | some b =>
    if 3 ≤ b.pool then (s, o)
    else
      let u := unitOfBlock s b
      if unitPoisoned s u.1 u.2 then (s, { o with stomped := true })
      else if unitGood s u.1 u.2 then
        (s, { o with pkt := { o.pkt with payload := (unitBytes s u.1 u.2).take o.pkt.h.payloadLength.toNat } })
      else (failUnit s u.1 u.2, { o with stomped := true })

/-! Allocation of station slabs: the lowest run that fits (log entry 11). -/

/-- First station slab. -/
def stationBase (s : State) : Nat := s.vat.packetSlabs + s.vat.churnSlabs

/-- Runs of the stations partition that cannot be allocated now. -/
def takenRuns (s : State) : List (Nat × Nat) := s.vat.allocs ++ s.vat.headroom ++ s.vat.dead

/-- Number of free allocatable station slabs. -/
def stationFree (s : State) : Nat :=
  (524288 - stationBase s) - (takenRuns s).foldl (fun n r => n + r.2) 0

/-- Insert a run in ascending order. -/
def insertRun (l : List (Nat × Nat)) (r : Nat × Nat) : List (Nat × Nat) :=
  match l with
  | [] => [r]
  | x :: t => if r.1 < x.1 then r :: x :: t else x :: insertRun t r

/-- The free runs from slab `a`, given the taken runs in ascending order. -/
def freeRuns (a : Nat) : List (Nat × Nat) → List (Nat × Nat)
  | [] => if a < 524288 then [(a, 524288 - a)] else []
  | r :: t => (if a < r.1 then [(a, r.1 - a)] else []) ++ freeRuns (max a (r.1 + r.2)) t

/-- The free runs of the stations partition. -/
def stationRuns (s : State) : List (Nat × Nat) := freeRuns (stationBase s) ((takenRuns s).foldl insertRun [])

/-- The base of an empty run: past the last slab, where no run starts. -/
def noBase : Nat := 524288

/-- Allocate n slabs: the base, where a run fits. A refill still owed (R173) refuses every allocation. -/
def allocSlabs (s : State) (n : Nat) : Option (Nat × State) :=
  if (s.vat.headroom.foldl (fun k r => k + r.2) 0) < 2048 then none
  else if n = 0 then some (noBase, s)
  else match (stationRuns s).find? fun r => n ≤ r.2 with
    | some r => some (r.1, { s with vat := { s.vat with allocs := s.vat.allocs ++ [(r.1, n)] } })
    | none => none

/-- Headroom slabs now free. -/
def headroomFree (s : State) : Nat := s.vat.headroom.foldl (fun k r => k + r.2) 0

/-- Take up to n slabs from the top of the free runs (given from the highest down). -/
def takeTop : Nat → List (Nat × Nat) → List (Nat × Nat)
  | _, [] => []
  | n, r :: t => if n = 0 then [] else if r.2 ≤ n then r :: takeTop (n - r.2) t else [(r.1 + r.2 - n, n)]

/-- Refill the headroom from free station slabs; where too few are free, VAT_CAPACITY_LOW is raised (R173). -/
def refillHeadroom (s : State) (announce : Bool) : State :=
  let need := 2048 - headroomFree s
  let got := takeTop need (stationRuns s).reverse
  let s := { s with vat := { s.vat with headroom := s.vat.headroom ++ got } }
  if headroomFree s < 2048 && announce then raiseEvent s 15 (leBytes 4 (stationFree s)) else s

/-- Free a run of slabs; a headroom still short takes from it. -/
def freeSlabs (s : State) (base : Nat) : State :=
  let s := { s with vat := { s.vat with allocs := s.vat.allocs.filter fun r => r.1 ≠ base } }
  if headroomFree s < 2048 then refillHeadroom s false else s

/-! Bank moves (R173). -/

/-- The numbers of runs. -/
def runList (l : List (Nat × Nat)) : List Nat := l.flatMap fun r => (List.range r.2).map (· + r.1)

/-- The slab holds something: a packet's block, a Churn spill, or station or work area slabs (R173). -/
def slabLive (s : State) (n : Nat) : Bool :=
  match partitionOf s n with
  | 0 => s.pools.blocks.any fun b => b.2.pool < 3 && (unitOfBlock s b.2).1 = n
  | 1 => s.vat.churnUsed.contains n
  | _ => inRuns s.vat.allocs n

/-- The logical slabs of a bank outside the headroom, in partition order. -/
def bankSlabs (s : State) (b : Nat) : List Nat :=
  let own := (List.range 2048).map fun r => r * 256 + b
  let moved := (s.vat.place.filter fun x => x.2 / 4096 = b).map (·.1)
  sortBy (· ≤ ·) ((own ++ moved.filter fun n => n % 256 ≠ b).filter fun n =>
    bankOf s n = b && partitionOf s n ≠ 3 && !inRuns s.vat.dead n)

/-- A unit that fails during the move is handled by Table 08.3; a slab that is being written is not read. -/
def checkSlab (s : State) (n : Nat) : State :=
  match Tab.find s.vat.tags n with
  | none => s
  | some t => if t.pend ≠ .none then s else (List.range (unitCount (crcModeOf s n))).foldl (fun s u =>
      if unitPoisoned s n u || unitGood s n u then s else failUnit s n u) s

/-- Move one slab to a headroom slab's place; a live one is poisoned where none is left. -/
def moveSlab (s : State) (n : Nat) (dest : Option Nat) : State :=
  match dest with
  | some h => let s := checkSlab s n; { s with vat := { s.vat with place := Tab.set s.vat.place n (placeOf s h) } }
  | none =>
    if slabLive s n then
      (List.range (unitCount (crcModeOf s n))).foldl (fun s u => if unitPoisoned s n u then s else poisonUnit s n u) (checkSlab s n)
    else s

/-- VAT_BANK_MOVE_DONE: live packet, churn and station slabs move in that order, and what room is left takes the bank's empty slabs
(DESIGN CHOICE, log entry 127); the partition shrinks by 8 MiB and the headroom is refilled. -/
def vatBankMoveDone (s : State) (b : Nat) : State :=
  if !s.vat.moves.contains b then s
  else
    let room := (runList s.vat.headroom).filter fun h => bankOf s h ≠ b
    let slabs := (bankSlabs s b).filter (slabLive s) ++ (bankSlabs s b).filter fun n => !slabLive s n
    let lost := (runList s.vat.headroom).filter fun h => bankOf s h = b
    let s := { s with vat := { s.vat with moves := s.vat.moves.filter (· ≠ b), remaps := s.vat.remaps.filter fun r => r.2 / 4096 ≠ b } }
    let s := (slabs.zipIdx).foldl (fun s x => moveSlab s x.1 (room[x.2]?)) s
    let used := (room.take slabs.length) ++ lost
    let left := room.drop slabs.length
    let s := { s with vat := { s.vat with dead := s.vat.dead ++ used.map fun n => (n, 1), headroom := left.map fun n => (n, 1),
                                          stationSlabs := s.vat.stationSlabs - 2048 } }
    serveWaiting (refillHeadroom s true)

/-- A half of a cluster's transposing buffer, and a change of it (R174). -/
def halfOf (s : State) (c h : Nat) : TbufHalf := Tab.getD s.tbuf.halves (2 * c + h) {}
def setHalf (s : State) (c h : Nat) (x : TbufHalf) : State := { s with tbuf := { s.tbuf with halves := Tab.set s.tbuf.halves (2 * c + h) x } }
/-- The half that a cluster fills next while the other feeds. -/
def fillOf (s : State) (c : Nat) : Nat := Tab.getD s.tbuf.fill c 0 % 2

/-- TBUF_PARITY_ERROR (R174): the half is discarded and its reload starts. -/
def tbufParityError (s : State) (c h : Nat) : State := setHalf s c h { halfOf s c h with reloading := true }

def execTbufParityError (cluster half : Nat) (s : State) : Out1 :=
  onUnit (Instr.wellFormed (.tbufParityError cluster half)) (whenLive s fun s => tbufParityError s cluster half)

/-- First channel of the sixteen a Cellar slab spans (Table 08.5). -/
def channelOf (c : Nat) : Nat := 16 * (c % 2)

/-- A stage of one slab completes (R168, R175, R177): the Vat slab is written with its source, or poisoned. -/
def stageSlab (s : State) (c n : Nat) (flips : List (Nat × Byte)) : State :=
  let s := corruptCellar (cellarServed s) c flips
  if cellarGood s c then
    let s := writeUnit s n 0 0 (cellarBytes s c)
    serveWaiting (setTag s n { tagOf s n with sourceValid := true, sourceSlab := c, pend := .none })
  else
    let t := tagOf s n
    let s := setTag s n { t with poisoned := true, sourceValid := false, pend := .none }
    serveWaiting (raiseFault (bump (bump s eCellarCrcErrorCount) eVatPoisonCount) 17 4 (channelOf c) (w64 c))

/-- CELLAR_REFRESH (R176): the wait is counted; the rate and the hottest device are shown. -/
def cellarRefresh (s : State) (waited rate : Nat) (milliC : Int) : State :=
  wr (wr (bump64 s eCellarRefreshStallTime waited) eCellarRefreshRate (rate % 4)) eCellarTempMax (unsigned 32 milliC)

def execCellarRefresh (waited rate : Nat) (milliC : Int) (s : State) : Out1 := .next (whenLive s fun s => cellarRefresh s waited rate milliC)

/-- CELLAR_CHANNEL (R365): FATAL. -/
def execCellarChannel (channel : Nat) (s : State) : Out1 :=
  onUnit (Instr.wellFormed (.cellarChannel channel)) (whenLive s fun s => raiseFault s 38 4 channel 0)

/-- FABRIC_STATE (R365): FATAL. -/
def execFabricState (s : State) : Out1 := .next (whenLive s fun s => raiseFault s 37 0 0 0)

end Sys2Proof.Machine
end

