-- ==== Sys2Proof/Machine/ProofQueue.lean ====
section
/-! DEFINITION. Proof's units, its queue, and how a due unit's test starts (R381, R382, R384, R386). -/
namespace Sys2Proof.Machine

/-! Units (R381). -/

/-- Kind of unit u: the bit of ProofEnable that selects it (Table 16.14). -/
def proofKind (u : Nat) : Nat := if u < 9 then 0 else if u < 77 then 1 else if u < 93 then 2 else if u < 349 then 3 else 4

/-- Its number within the kind. -/
def proofIndex (u : Nat) : Nat :=
  match proofKind u with
  | 0 => u | 1 => u - 9 | 2 => u - 77 | 3 => u - 93 | _ => u - 349

/-- Its fault site (Table 16.3). -/
def proofSite (u : Nat) : Nat × Nat :=
  (match proofKind u with | 0 => 7 | 1 => 5 | 2 => 8 | 3 => 3 | _ => 2, proofIndex u)

/-- It is FENCED. -/
def proofFenced (s : State) (u : Nat) : Bool :=
  match proofKind u with
  | 0 => fnState s (eClusterState u) = .fenced
  | 1 => rd s (eChurnLaneStatus (proofIndex u)) = 3
  | 2 => rd s (eControlCoreState (proofIndex u)) = 2
  | 3 => rd s (eVatBankStatus (proofIndex u)) = 1
  | _ => fnState s (eLaneState (proofIndex u)) = .fenced

/-- A lane carries a position (R382): its own, unless the spare has it, or as a spare another's. -/
def lanePosition (s : State) (l : Nat) : Bool :=
  let g := lgOf s (l / 17)
  if l % 17 = 16 then g.carries.isSome || g.reads.isSome
  else fnState s (eLaneState l) ≠ .off && g.carries ≠ some (l % 17) && g.reads ≠ some (l % 17)

/-- The free spare of a Churn lane group, not itself under test, and of a control group. -/
def spareChurn (s : State) (k : Nat) : Option Nat := ((List.range 17).map (· + 17 * k)).find? fun l =>
  rd s (eChurnLaneStatus l) = 1 && s.proof.active ≠ some (9 + l)
def spareCore (s : State) (g : Nat) : Option Nat := ((List.range 4).map (· + 4 * g)).find? fun c => rd s (eControlCoreState c) = 1

/-- Headroom slabs that can take a bank's slabs. -/
def headroomFor (s : State) (b : Nat) : List Nat := (runList s.vat.headroom).filter fun h => bankOf s h ≠ b

/-- What a unit's takeover needs is free. -/
def spareFree (s : State) (u : Nat) : Bool :=
  match proofKind u with
  | 0 => s.knead.spare.isSome
  | 1 => (spareChurn s (proofIndex u / 17)).isSome
  | 2 => (spareCore s (proofIndex u / 4)).isSome
  | 3 => (bankSlabs s (proofIndex u)).length ≤ (headroomFor s (proofIndex u)).length
  | _ => true

/-- It is tested in place (R382): a spare, a cluster out of service, a lane. -/
def testsInPlace (s : State) (u : Nat) : Bool :=
  match proofKind u with
  | 0 => !s.knead.order.contains u
  | 1 => rd s (eChurnLaneStatus (proofIndex u)) = 1
  | 2 => rd s (eControlCoreState (proofIndex u)) = 1
  | 3 => false
  | _ => true

/-! The running test. -/

/-- No test runs. -/
def proofDrop (s : State) : State :=
  { s with proof := { s.proof with active := none, phase := 0, retried := false, withheld := false, cover := none, unfencing := false } }

/-- Show a unit's result with its stamp (Table 16.14): 1 pass, 2 fail, 3 covered in service, 4 skipped. -/
def proofResult (s : State) (u code : Nat) : State :=
  { s with proof := { s.proof with results := Tab.set s.proof.results u (fcNow s, code) } }

/-- A unit's test enters a phase. -/
def proofPhase (s : State) (u phase : Nat) : State := { s with proof := { s.proof with active := some u, phase := phase } }

/-- No spare is free: PROOF_DEFERRED for a cluster, Churn lane or control core, and the wait of R384. -/
def proofDefer (s : State) (u : Nat) : State :=
  let s := proofPhase s u 3
  if proofKind u = 3 then s else raiseEvent (bump s eProofDeferCount) 17 (leBytes 2 u)

/-- A spare under test is no spare. -/
def takeSpareOut (s : State) (u : Nat) : State :=
  match proofKind u with
  | 0 => if s.knead.spare = some u then { s with knead := { s.knead with spare := none } } else s
  | 2 => wr s (eControlCoreState (proofIndex u)) 3
  | _ => s

/-- A due unit's turn (R382, R384, R386): skipped while FENCED, covered in service, tested in place, taken over, or
deferred. `unfence` names a test before unfencing (R377). -/
def proofStart (s : State) (u : Nat) (unfence : Bool) : State :=
  if unfence && !proofFenced s u then s
  else if unfence then
    let s := proofPhase s u 2
    { s with proof := { s.proof with unfencing := true } }
  else if proofFenced s u then proofResult s u 4
  else if proofKind u = 4 && lanePosition s (proofIndex u) then proofResult s u 3
  else if testsInPlace s u then proofPhase (takeSpareOut s u) u 2
  else if spareFree s u then proofPhase s u 1
  else proofDefer s u

/-- A test of a control core waits for the end of a live update (R425). -/
def proofHeld (s : State) (u : Nat) : Bool := proofKind u = 2 && s.fw.live.isSome

/-- Start the first unit of a list that can start; those passed over stay in `kept`. -/
def proofNextFrom (kept : List (Nat × Bool)) : List (Nat × Bool) → State → State
  | [], s => { s with proof := { s.proof with queue := kept.reverse } }
  | x :: t, s =>
    if proofHeld s x.1 then proofNextFrom (x :: kept) t s
    else
      let s := proofStart s x.1 x.2
      if s.proof.active.isSome then { s with proof := { s.proof with queue := kept.reverse ++ t } } else proofNextFrom kept t s

/-- One test at a time: the next due unit starts when none runs (R381). -/
def proofNext (s : State) : State := if s.proof.active.isSome then s else proofNextFrom [] s.proof.queue s

/-- Queue a unit behind those already due. -/
def proofEnqueue (s : State) (u : Nat) (unfence : Bool) : State :=
  proofNext { s with proof := { s.proof with queue := s.proof.queue ++ [(u, unfence)] } }

/-- A fault in, or a disable request to, the unit under test abandons the test (R386). -/
def proofAbandon (s : State) (u : Nat) : State := if s.proof.active = some u then proofNext (proofDrop s) else s

end Sys2Proof.Machine
end

