-- ==== Sys2Proof/Machine/Churn.lean ====
section
/-! DEFINITION. The Churn (11): contributions, accumulators, spills, checks, conversion at the root, lanes. A contribution that
arrives stands in its staging row until its trailer; its terms are added in the command that takes the whole packet (log entry 10). -/
namespace Sys2Proof.Machine

/-! Accumulators and their terms (R240, R243). -/

/-- Elements of an accumulator: a partial chunk. -/
def accElems (d : BitVec 512) : Nat := if sumFamily d then 256 else if dReduce d = 6 then 1024 else chunkElems (inCode d)
/-- Accumulators of an instance. -/
def accCount (d : BitVec 512) : Nat := ceilDiv (dCount d) (accElems d)
/-- First element of chunk c of E elements, and the one after its last. -/
def chunkLo (E c : Nat) : Nat := c * E
def chunkHi (d : BitVec 512) (E c : Nat) : Nat := min ((c + 1) * E) (dCount d)

/-- The indices of the pieces of A elements that a range touches. -/
def piecesOf (A lo hi : Nat) : List Nat := if hi ≤ lo then [] else (List.range ((hi - 1) / A - lo / A + 1)).map (· + lo / A)

/-- The terms an accumulator expects (R243). -/
def accTerms (s : State) (g : GroupDef) (d : BitVec 512) (a : Nat) : List (Nat × Nat) :=
  let cs := piecesOf (chunkElems (inCode d)) (chunkLo (accElems d) a) (chunkHi d (accElems d) a)
  ((localRanks s g).flatMap fun r => cs.map fun c => (r, c)) ++ (childBundles g).map fun b => (2 ^ 20 + b, a)

/-- An accumulator. -/
def accOf (i : Inst) (a : Nat) : Acc := Tab.getD i.accs a {}

/-- Every expected term has been added. -/
def accFull (s : State) (g : GroupDef) (d : BitVec 512) (i : Inst) (a : Nat) : Bool :=
  (accTerms s g d a).all fun t => (accOf i a).added.contains t

/-- The anchor of an element (R247, R254). -/
def anchorOf (d : BitVec 512) (i : Inst) (e : Nat) : Int :=
  if dStatic d then signed 12 (dAnchor d) else (Tab.getD i.finals (e / 65536) []).getD (e % 65536 / 128) (-2048)

/-! Lengths (R239 to R241). -/

/-- Bytes of `n` elements of a format (Table 09.1, R181). -/
def elemBytes (code n : Nat) : Nat := packedBytes code n

/-- Portions of a chunk that holds `n` elements (R238). -/
def portionCount (d : BitVec 512) (n : Nat) : Nat := ceilDiv n (dSparse d)
/-- Elements of portion q. -/
def portionLen (d : BitVec 512) (n q : Nat) : Nat := min (dSparse d) (n - q * dSparse d)

/-- The bytes a chunk of `n` elements has with a present_mask. -/
def chunkBytes (d : BitVec 512) (code n present : Nat) : Nat :=
  if dReduce d = 5 then
    let b := ((List.range (portionCount d n)).filter present.testBit).foldl (fun t q => t + elemBytes code (portionLen d n q)) 0
    if b = 0 then 1 else b
  else elemBytes code n

/-- A member's chunk keeps R241. -/
def memberLengthOk (d : BitVec 512) (c : Nat) (pkt : Packet) : Bool :=
  let E := chunkElems (inCode d)
  let n := chunkHi d E c - chunkLo E c
  let pm := auxPresent pkt.h
  (if isReduction d && dReduce d = 5 then pm < 2 ^ portionCount d n else pm = 0) &&
  pkt.payload.length = (if isReduction d then chunkBytes d (inCode d) n pm else elemBytes (inCode d) n)

/-- Bytes of a partial chunk of n elements. -/
def partialBytes (d : BitVec 512) (n present : Nat) : Nat :=
  if sumFamily d then (if dReduce d = 5 && present = 0 then 1 else 16 * n) else if dReduce d = 6 then 4 * n else elemBytes (inCode d) n

/-- A child's partial keeps R241. -/
def partialLengthOk (d : BitVec 512) (a : Nat) (pkt : Packet) : Bool :=
  let n := chunkHi d (accElems d) a - chunkLo (accElems d) a
  let pm := auxPresent pkt.h
  (if dReduce d = 5 && sumFamily d then pm ≤ 1 else pm = 0) && pkt.payload.length = partialBytes d n pm

/-! Terms (R255 to R257). -/

/-- A term of a SUM: what it adds, or nothing for an absent portion; and 1 where it clamped (R252, R254). -/
def sumTerm (d : BitVec 512) (A : Int) (weight : Nat) (enc : Nat) : AWord × Nat :=
  let w := if dReduce d = 4 then f32 weight else .fin false 1 1
  let enter (v : Val) (tag : BitVec 4) : AWord × Nat :=
    let x := if dReduce d = 4 then contributeProduct v w A else contribute v A
    ({ x with tag := x.tag ||| tag }, b2n (x.tag &&& tSAT ≠ 0))
  if inCode d = 10 then
    let x := aOfBits enc
    let t := x.1.tag
    if t &&& tNAN ≠ 0 || t &&& (tPINF ||| tNINF) = tPINF ||| tNINF then ({ tag := t &&& (tNAN ||| tPINF ||| tNINF) }, 0)
    else if t &&& tPINF ≠ 0 then enter (.inf false) 0
    else if t &&& tNINF ≠ 0 then enter (.inf true) 0
    else enter (valDyadic x.1.m (x.2 - 75)) (t &&& tSAT)
  else enter (decodeElem (inCode d) false enc) 0

/-- The canonical NaN of a format. -/
def canonNan (code : Nat) : Nat := (floatFmt code).elim 0 fun f => f.nan.getD 0

/-- MAX or MIN of two encodings (R256). -/
def pickElem (d : BitVec 512) (x y : Nat) : Nat :=
  let c := inCode d
  let a := decodeElem c false x
  let b := decodeElem c false y
  if a.isNan || b.isNan then canonNan c
  else if a.isZero && b.isZero then
    let neg (v : Val) : Bool := match v with | .fin s _ _ => s | _ => false
    if dReduce d = 2 then (if neg a then y else x) else (if neg a then x else y)
  else if dReduce d = 2 then (if Val.lt a b then y else x) else (if Val.lt b a then y else x)

/-- A term of FAST_FLOAT_SUM as FP32, with its flags. -/
def fastTerm (code enc : Nat) : Nat × Nat :=
  let v := decodeElem code false enc
  ((rneF32 v).1, if v.isNan then fNAN_IN else 0)

/-- One FP32 addition (R257). -/
def fastAdd (x y : Nat) : Nat × Nat :=
  let r := Val.add (f32 x) (f32 y)
  let e := rneF32 r.1
  (e.1, e.2 ||| r.2)

/-- Add encodings to the elements of a MAX, MIN or FAST_FLOAT_SUM accumulator from position `o`. -/
def addElems (d : BitVec 512) (x : Acc) (o : Nat) (code : Nat) (encs : List Nat) : Acc :=
  encs.zipIdx.foldl (fun (x : Acc) en =>
    let k := o + en.2
    if dReduce d = 6 then
      let t := fastTerm code en.1
      match x.elems.getD k none with
      | none => { x with elems := x.elems.set k (some t.1), eflags := x.eflags.set k (x.eflags.getD k 0 ||| t.2) }
      | some old =>
        let r := fastAdd old t.1
        { x with elems := x.elems.set k (some r.1), eflags := x.eflags.set k (x.eflags.getD k 0 ||| t.2 ||| r.2) }
    else
      { x with elems := x.elems.set k (some (match x.elems.getD k none with
          | none => if (decodeElem code false en.1).isNan then canonNan code else en.1
          | some old => pickElem d old en.1)) }) x

/-- A FAST_FLOAT_SUM term among those of its fc: by the fc of its trailer, then by ascending arrival port (R257). -/
def insertFast (t : FastTerms) : List FastTerms → List FastTerms
  | [] => [t]
  | x :: l => if t.passed < x.passed || (t.passed = x.passed && t.port < x.port) then t :: x :: l else x :: insertFast t l

/-- Add one term's encodings in the fc `now`: those of FAST_FLOAT_SUM that are added in one fc take their order (R257). -/
def addOrdered (d : BitVec 512) (now : Nat) (x : Acc) (t : FastTerms) : Acc :=
  if dReduce d ≠ 6 then addElems d x t.first t.code t.encs
  else
    let x := if x.sumTerms.isEmpty || x.sumFc ≠ now then
        { x with sumFc := now, sumTerms := [], baseElems := x.elems, baseFlags := x.eflags } else x
    let ts := insertFast t x.sumTerms
    ts.foldl (fun x t => addElems d x t.first t.code t.encs) { x with sumTerms := ts, elems := x.baseElems, eflags := x.baseFlags }

/-- Add words from position `o`. -/
def addWords (x : Acc) (o : Nat) (ws : List AWord) : Acc :=
  { x with words := ws.zipIdx.foldl (fun l w => l.set (o + w.2) ((l.getD (o + w.2) {}).add w.1)) x.words }

/-- Where element e of a member's chunk stands in its payload: byte offset and index of its portion's packing; `none` in an
absent portion (R239). -/
def elemPlace (d : BitVec 512) (n present k : Nat) : Option (Nat × Nat) :=
  if dReduce d = 5 then
    let q := k / dSparse d
    if !present.testBit q then none
    else some (((List.range q).filter present.testBit).foldl (fun t j => t + elemBytes (inCode d) (portionLen d n j)) 0, k % dSparse d)
  else some (0, k)

/-- The encodings of elements lo to hi − 1 (over the whole contribution) that a member's chunk holds; none of an absent
portion. The accumulator lies in one portion (R240). -/
def memberElems (d : BitVec 512) (c : Nat) (pkt : Packet) (lo hi : Nat) : Option (List Nat) :=
  let E := chunkElems (inCode d)
  let n := chunkHi d E c - chunkLo E c
  match elemPlace d n (auxPresent pkt.h) (lo - chunkLo E c) with
  | none => none
  | some (off, k) => some ((List.range (hi - lo)).map fun j => elemAt (inCode d) (pkt.payload.drop off) (k + j))

/-- An empty accumulator of n elements, opened at its first term's stamp. -/
def newAcc (stamp : Nat) (d : BitVec 512) (n : Nat) (slab : Option Nat) : Acc :=
  { words := if sumFamily d then List.replicate n {} else [],
    elems := if sumFamily d then [] else List.replicate n none, eflags := if sumFamily d then [] else List.replicate n 0,
    openAt := stamp, slab := slab }

/-- A term poisons its accumulator (R241, R244); the first reason stays. -/
def poisonAcc (x : Acc) (why : Nat) : Acc := if why = 0 || x.poison.isSome then x else { x with poison := some why }

/-- A member's chunk enters one accumulator; the second part is the number of clamped terms. -/
def addMember (d : BitVec 512) (now : Nat) (i : Inst) (weight : Nat) (x : Acc) (a : Nat) (t : Contribution) (why : Nat) : Acc × Nat :=
  let E := chunkElems (inCode d)
  let lo := max (chunkLo (accElems d) a) (chunkLo E t.chunk)
  let hi := min (chunkHi d (accElems d) a) (chunkHi d E t.chunk)
  let x := { poisonAcc x why with added := x.added ++ [(t.source, t.chunk)] }
  match memberElems d t.chunk t.pkt lo hi with
  | none => (x, 0)
  | some es =>
    let x := { x with present := true }
    if sumFamily d then
      let ts := es.zipIdx.map fun en => sumTerm d (anchorOf d i (lo + en.2)) weight en.1
      (addWords x (lo - chunkLo (accElems d) a) (ts.map (·.1)), ts.foldl (fun n t => n + t.2) 0)
    else (addOrdered d now x { passed := t.passed, port := t.port, first := lo - chunkLo (accElems d) a, code := inCode d, encs := es }, 0)

/-- A partial word of a payload (Table 11.3). -/
def partialWord (pay : List Byte) (j : Nat) : AWord :=
  let v := payNum pay (16 * j) 16
  { m := signed 96 v, tag := BitVec.ofNat 4 (v / 2 ^ 124) }

/-- A child's partial enters its accumulator; one whose trailer failed counts as arrived, and its terms are discarded (R244). -/
def addPartial (d : BitVec 512) (now : Nat) (x : Acc) (a : Nat) (t : Contribution) (why : Nat) : Acc :=
  let n := chunkHi d (accElems d) a - chunkLo (accElems d) a
  let x := { poisonAcc x why with added := x.added ++ [(t.source, t.chunk)] }
  if why = prSTOMPED then x
  else if sumFamily d then
    if dReduce d = 5 && auxPresent t.pkt.h = 0 then x
    else addWords { x with present := true } 0 ((List.range n).map (partialWord t.pkt.payload))
  else
    let code := if dReduce d = 6 then 0 else inCode d
    addOrdered d now { x with present := true }
      { passed := t.passed, port := t.port, first := 0, code := code, encs := (List.range n).map (elemAt code t.pkt.payload) }

/-! Gather buffer and churn slabs (R245). -/

/-- On-die accumulators open. -/
def gatherInUse (s : State) : Nat :=
  s.groups.foldl (fun n g => match g.2.inst with
    | some i => n + (i.accs.filter fun a => a.2.slab.isNone && !a.2.emitted).length
    | none => n) 0

/-- The lowest free slab of the churn partition. -/
def freeChurnSlab (s : State) : Option Nat :=
  ((List.range s.vat.churnSlabs).map (· + s.vat.packetSlabs)).find? fun n => !s.vat.churnUsed.contains n

/-- An accumulator's 4 KiB as its slab holds it (R240). -/
def accImage (d : BitVec 512) (x : Acc) : List Byte :=
  let b := if sumFamily d then x.words.flatMap fun w => leBytes 16 (unsigned 96 w.m + w.tag.toNat * 2 ^ 124)
    else packElems (if dReduce d = 6 then 0 else inCode d) (x.elems.map (·.getD 0))
  b ++ List.replicate (4096 - b.length) 0

/-- Write an accumulator to its slab. -/
def storeAcc (s : State) (d : BitVec 512) (x : Acc) : State :=
  match x.slab with
  | some n => writeUnit s n 0 0 (accImage d x)
  | none => s

/-- Read and check an accumulator's slab: poison or a failed check poisons the accumulator (R170, R246). -/
def checkAcc (s : State) (x : Acc) : State × Acc :=
  match x.slab with
  | none => (s, x)
  | some n =>
    if slabPoisoned s n then (s, poisonAcc x prVAT_POISON)
    else if unitGood s n 0 then (s, x)
    else (failUnit s n 0, poisonAcc x prVAT_POISON)

/-- The accumulators a contribution feeds. -/
def accsOf (d : BitVec 512) (t : Contribution) : List Nat :=
  if t.source < 2 ^ 20 then
    let E := chunkElems (inCode d)
    piecesOf (accElems d) (chunkLo E t.chunk) (chunkHi d E t.chunk)
  else [t.chunk]

/-- The staging rows that contributions on their way into the Churn hold: one to each input VC that receives one (R244). -/
def stagingInUse (s : State) : Nat :=
  (s.ports.flatMap fun x => x.2.rx.filter fun r =>
    r.2.cause.isNone && r.2.fate = .consume && r.2.h.opcode = opDATA && auxKind r.2.h = kCONTRIB).length

/-- The spans that accumulators touch. -/
def spansOf (d : BitVec 512) (as : List Nat) : List Nat :=
  as.flatMap fun a => piecesOf 65536 (chunkLo (accElems d) a) (chunkHi d (accElems d) a)

/-- The FINAL anchors of every span that accumulators touch are held. -/
def anchorsHeld (d : BitVec 512) (i : Inst) (as : List Nat) : Bool := !dynamicAnchor d || (spansOf d as).all (finalsHeld i)

/-- A contribution can be taken now: a staging row is free, its anchors are held, its accumulators have room, and no slab of theirs
is pending (R244 to R246). -/
def takeable (s : State) (d : BitVec 512) (i : Inst) (t : Contribution) : Bool :=
  let as := accsOf d t
  let new := as.filter fun a => (Tab.find i.accs a).isNone
  let room := (4096 - gatherInUse s) + (s.vat.churnSlabs - s.vat.churnUsed.length)
  decide (stagingInUse s < 256) && anchorsHeld d i as && decide (new.length ≤ room) &&
  as.all fun a => match (accOf i a).slab with | some n => !slabPending s n | none => true

/-- The weight of a rank's descriptor. -/
def weightOf (i : Inst) (r : Nat) : Nat := match i.joins.find? fun j => j.1 = r with | some j => dWeight j.2 | none => 0

/-- Open an accumulator: on-die, or directly in a slab where the gather buffer is full. -/
def openAcc (s : State) (stamp : Nat) (d : BitVec 512) (a : Nat) : State × Acc :=
  let n := chunkHi d (accElems d) a - chunkLo (accElems d) a
  if gatherInUse s < 4096 then (s, newAcc stamp d n none)
  else match freeChurnSlab s with
    | none => (s, newAcc stamp d n none)
    | some k => (bump { s with vat := { s.vat with churnUsed := k :: s.vat.churnUsed } } eChurnGatherFullCount, newAcc stamp d n (some k))

/-! Terms that have begun (R245). -/

/-- A packet's header is that of an expected term. -/
def termHeader (s : State) (gid : Nat) (g : Group) (t : Nat × Nat) (h : Header) : Bool :=
  hGroup h = gid && hEpoch h = g.epoch && h.opcode = opDATA && auxKind h = kCONTRIB && hChunk h = t.2 &&
  (if t.1 < 2 ^ 20 then rankOf g.gdef h.src = some t.1 else idPort h.src = 0xFF && placeIn s g.gdef h.src = .child (t.1 - 2 ^ 20))

/-- An expected term has begun and is not added: its packet is arriving, or has arrived for the unit to take. -/
def inFlight (s : State) (gid : Nat) (g : Group) (t : Nat × Nat) : Bool :=
  (s.ports.any fun x => x.2.rx.any fun r => r.2.cause.isNone && r.2.fate = .consume && termHeader s gid g t r.2.h) ||
  (s.inbox.any fun x => !x.taken && termHeader s gid g t x.pkt.h) ||
  s.pools.waiting.any fun w => !w.taken && (w.outPort = waitUnit || w.outPort = waitHead) && termHeader s gid g t w.out.pkt.h

/-- The expected terms of an accumulator that have not been added. -/
def termsMissing (s : State) (g : Group) (d : BitVec 512) (i : Inst) (a : Nat) : List (Nat × Nat) :=
  (accTerms s g.gdef d a).filter fun t => !(accOf i a).added.contains t

/-- An accumulator spills where a churn slab is free; where none is it stays on-die (R245). -/
def spillAcc (s : State) (gid : Nat) (d : BitVec 512) (a : Nat) (x : Acc) : State :=
  match instOf s gid with
  | none => s
  | some i =>
    let x := { x with spillDue := false }
    match freeChurnSlab s with
    | none => setInst s gid { i with accs := Tab.set i.accs a x }
    | some n =>
      let x := { x with slab := some n }
      let s := { s with vat := { s.vat with churnUsed := n :: s.vat.churnUsed } }
      storeAcc (bump64 (setInst s gid { i with accs := Tab.set i.accs a x }) eChurnSpillCount 1) d x

/-- The accumulator spills once the last term in progress is added. -/
def spillNow (s : State) (gid : Nat) (d : BitVec 512) (a : Nat) : State :=
  match groupOf s gid with
  | none => s
  | some g => match g.inst with
    | none => s
    | some i =>
      if (accOf i a).spillDue && !((termsMissing s g d i a).any (inFlight s gid g)) then spillAcc s gid d a (accOf i a) else s

/-- A term's stamp (R245): the fc of its first flit, or of the last FINAL it waited for; the present fc where it waited otherwise. -/
def termStamp (s : State) (d : BitVec 512) (i : Inst) (t : Contribution) : Nat :=
  match t.stamp with
  | none => fcNow s
  | some n => if dynamicAnchor d then (spansOf d (accsOf d t)).foldl (fun m sp => max m (Tab.getD i.finalAt sp 0)) n else n

/-- A stamp at or past the end of the window. -/
def lateFor (s : State) (x : Acc) (stamp : Nat) : Bool :=
  (x.closed && decide (x.closedAt ≤ stamp)) || decide (x.openAt + rd s eChurnSkewWindow ≤ stamp)

/-- One term into one accumulator, with the counts of R245 and R252. -/
def addTerm (s : State) (gid : Nat) (d : BitVec 512) (t : Contribution) (why stamp a : Nat) : State :=
  match instOf s gid with
  | none => s
  | some i =>
    let o := match Tab.find i.accs a with | some x => (s, x) | none => openAcc s stamp d a
    let c := checkAcc o.1 o.2
    let s := c.1
    let s := if lateFor s c.2 stamp then bump64 s eChurnLateTermCount 1 else s
    let r := if t.source < 2 ^ 20 then addMember d (fcNow s) i (weightOf i t.source) c.2 a t why else (addPartial d (fcNow s) c.2 a t why, 0)
    let s := bump64 s eChurnSatCount r.2
    let s := if dynamicAnchor d then bumpBy 4 s eChurnAnchorUnderReportCount r.2 else s
    match instOf s gid with
    | none => s
    | some i => spillNow (storeAcc (setInst s gid { i with accs := Tab.set i.accs a r.1 }) d r.1) gid d a

/-- Take a contribution: its terms enter every accumulator they touch (R244). -/
def takeTerms (s : State) (gid : Nat) (d : BitVec 512) (t : Contribution) : State :=
  match instOf s gid with
  | none => s
  | some i => (accsOf d t).foldl (fun s a => addTerm s gid d t (chunkReason t.pkt.h) (termStamp s d i t) a) s

/-- Put a contribution back among those that wait; while it waits it has no stamp (R245). -/
def waitTerm (s : State) (gid : Nat) (t : Contribution) : State :=
  match instOf s gid with
  | none => s
  | some i => setInst s gid { i with waiting := i.waiting ++ [{ t with stamp := none }] }

/-- Mark a chunk poisoned at its source (R231, R241). -/
def markSource (pkt : Packet) : Packet :=
  { pkt with h := { pkt.h with poison := true, aux := BitVec.ofNat 64 (auxOf (auxKind pkt.h) prSOURCE_POISON (auxPresent pkt.h) (auxRank pkt.h)) } }

/-- The length and present_mask of a packet's chunk are looked at once (R241): a wrong one is counted and marks its chunk. A packet whose
trailer failed is marked already (R244). -/
def checkTerm (s : State) (d : BitVec 512) (t : Contribution) : State × Contribution :=
  let t' := { t with checked := true }
  if t.checked || (t.pkt.h.poison && auxReason t.pkt.h = prSTOMPED) then (s, t')
  else if (if t.source < 2 ^ 20 || !isReduction d then memberLengthOk d t.chunk t.pkt else partialLengthOk d t.chunk t.pkt) then (s, t')
  else (bump s eChurnLengthErrorCount, { t' with pkt := markSource t.pkt })

/-- Place one contribution: with no descriptor yet it waits; a reduction takes it when it can; any other operation moves it. -/
def offerTerm (s : State) (gid : Nat) (t : Contribution) : State :=
  match instOf s gid with
  | none => s
  | some i => match i.desc with
    | none => waitTerm s gid t
    | some d =>
      let c := checkTerm s d t
      if !isReduction d then moveChunk c.1 gid c.2
      else if takeable c.1 d i c.2 then takeTerms c.1 gid d c.2
      else waitTerm c.1 gid c.2

/-- Try every waiting contribution again, oldest first. -/
def flushWaiting (s : State) (gid : Nat) : State :=
  match instOf s gid with
  | none => s
  | some i => i.waiting.foldl (fun s t => offerTerm s gid t) (setInst s gid { i with waiting := [] })

/-- CHURN_TAKE: the oldest waiting contribution that feeds an accumulator is taken, where it can be. -/
def churnTake (s : State) (gid a : Nat) : State :=
  match instOf s gid with
  | none => s
  | some i => match i.desc with
    | none => s
    | some d =>
      if !isReduction d then s
      else match i.waiting.findIdx? fun t => (accsOf d t).contains a && takeable s d i t with
        | none => s
        | some k => match i.waiting[k]? with
          | none => s
          | some t => takeTerms (setInst s gid { i with waiting := i.waiting.eraseIdx k }) gid d t

/-- SKEW_WINDOW_END (R245): where every expected term has begun the accumulator stays on-die; otherwise it spills, once the terms in
progress are added. -/
def skewWindowEnd (s : State) (gid a : Nat) : State :=
  match groupOf s gid with
  | none => s
  | some g => match g.inst with
    | none => s
    | some i => match i.desc, Tab.find i.accs a with
      | some d, some x =>
        if x.emitted || x.closed then s
        else
          let x := { x with closed := true, closedAt := fcNow s }
          let missing := termsMissing s g d i a
          if x.slab.isSome || missing.all (inFlight s gid g) then setInst s gid { i with accs := Tab.set i.accs a x }
          else if missing.any (inFlight s gid g) then setInst s gid { i with accs := Tab.set i.accs a { x with spillDue := true } }
          else spillAcc s gid d a x
      | _, _ => s

/-! Lanes (R261). -/

/-- Lanes of a group of 17 that are in service. -/
def lanesServing (s : State) (k : Nat) : Nat :=
  ((List.range 17).filter fun j => rd s (eChurnLaneStatus (17 * k + j)) = 0 || rd s (eChurnLaneStatus (17 * k + j)) = 2).length

/-- The lane is out of service for its own test. -/
def laneUnderTest (s : State) (l : Nat) : Bool :=
  s.proof.active = some (9 + l) && s.proof.phase = 2 && (s.proof.cover.isSome || s.proof.withheld)

/-- A lane is fenced and leaves service; a test of it is abandoned, and a lane whose cover it was returns (R386). -/
def churnLaneFence (s : State) (l : Nat) : State :=
  let st := rd s (eChurnLaneStatus l)
  if st = 3 then s
  else
    let s := if st = 1 then wr s eChurnSparesFree (rd s eChurnSparesFree - 1)
      else if laneUnderTest s l then s
      else wr s eChurnLanesActive (rd s eChurnLanesActive - 1)
    let s := wr s (eChurnLaneStatus l) 3
    if s.proof.cover = some (9 + l) then proofNext (proofDrop (wr s eChurnLanesActive (rd s eChurnLanesActive + 1)))
    else proofAbandon s (9 + l)

/-- The key under which a unit's errors of one 24 h window are counted (Table 16.5). -/
def dayKey (s : State) (unit : Nat) : Nat := unit * 2 ^ 48 + fcNow s / fcPerDay

/-- A fault on a lane: counted, and at ChurnLaneErrorLimit within a 24 h window the lane is fenced. -/
def laneFault (s : State) (l code : Nat) (context : Word) : State :=
  let s := raiseFault (bump s (eChurnLaneErrorCount l)) code 5 l context
  let key := dayKey s (0x5810 + l)
  let n := Tab.getD s.faults.counted key 0 + 1
  let s := { s with faults := { s.faults with counted := Tab.set s.faults.counted key n } }
  if rd s eChurnLaneErrorLimit ≤ n then churnLaneFence s l else s

/-- CHURN_SPARE_TAKEOVER: the spare of the lane's group takes the place of a lane that is out of service. -/
def churnSpareTakeover (s : State) (l : Nat) : State :=
  match spareChurn s (l / 17) with
  | none => s
  | some j =>
    if 16 ≤ lanesServing s (l / 17) then s
    else
      let s := wr (wr s (eChurnLaneStatus j) 2) eChurnSparesFree (rd s eChurnSparesFree - 1)
      wr s eChurnLanesActive (rd s eChurnLanesActive + 1)

/-! Emission (R245, R258 to R260). -/

/-- One result element: encoding and flags. -/
def resultElem (d : BitVec 512) (i : Inst) (e : Nat) : Nat × Nat :=
  let x := accOf i (e / accElems d)
  let k := e % accElems d
  if sumFamily d then
    let w := x.words.getD k {}
    let A := anchorOf d i e
    if outCode d = 10 then
      (aBits w A, (if w.tag &&& tSAT ≠ 0 then fSAT else 0) ||| (if w.tag &&& tNAN ≠ 0 then fNAN_IN else 0) |||
        (if w.tag &&& (tPINF ||| tNINF) = tPINF ||| tNINF then fINVALID else 0))
    else aConvert (outCode d) (dRound d) 0 w A
  else if dReduce d = 6 then
    let r := encodeElem (outCode d) (dRound d) 0 false false (f32 ((x.elems.getD k none).getD 0))
    (r.1, r.2 ||| x.eflags.getD k 0)
  else
    let v := decodeElem (inCode d) false ((x.elems.getD k none).getD 0)
    outElem (outCode d) (dRound d) 0 (v, if v.isNan then fNAN_IN else 0)

/-- The portions of a result chunk that are present (R242, R255). -/
def resultPresent (d : BitVec 512) (i : Inst) (lo n : Nat) : Nat :=
  ((List.range (portionCount d n)).filter fun q =>
    (piecesOf (accElems d) (lo + q * dSparse d) (lo + q * dSparse d + portionLen d n q)).any fun a => (accOf i a).present).foldl
    (fun m q => m + 2 ^ q) 0

/-- The elements of a result chunk that are sent, by packed run. -/
def resultRuns (d : BitVec 512) (lo n present : Nat) : List (List Nat) :=
  if dReduce d = 5 then
    ((List.range (portionCount d n)).filter present.testBit).map fun q => (List.range (portionLen d n q)).map (· + lo + q * dSparse d)
  else [(List.range n).map (· + lo)]

/-- The accumulators of a result chunk. -/
def resultAccs (d : BitVec 512) (k : Nat) : List Nat :=
  piecesOf (accElems d) (chunkLo (chunkElems (outCode d)) k) (chunkHi d (chunkElems (outCode d)) k)

/-- The result's flags and counts with one more element (R198). -/
def noteFlags (i : Inst) (e fl : Nat) : Inst :=
  { i with flags := i.flags ||| BitVec.ofNat 8 fl, invalidCount := if fl.testBit 0 then min 0xFFFFFFFF (i.invalidCount + 1) else i.invalidCount,
           firstInvalid := if fl.testBit 0 then min i.firstInvalid e else i.firstInvalid }

/-- The root converts and emits a result chunk whose accumulators are all released. -/
def emitChunk (s : State) (gid : Nat) (d : BitVec 512) (k : Nat) : State :=
  match groupOf s gid with
  | none => s
  | some g => match g.inst with
    | none => s
    | some i =>
      if i.sentChunks.contains k || !((resultAccs d k).all fun a => (accOf i a).emitted) then s
      else
        let lo := chunkLo (chunkElems (outCode d)) k
        let n := chunkHi d (chunkElems (outCode d)) k - lo
        let present := if dReduce d = 5 then resultPresent d i lo n else 0
        let runs := (resultRuns d lo n present).map fun es => es.map fun e => (e, resultElem d i e)
        let pay := runs.flatMap fun r => packElems (outCode d) (r.map fun x => x.2.1)
        let pay := if pay.isEmpty then [0] else pay
        let i' := runs.foldl (fun i r => r.foldl (fun i x => noteFlags i x.1 x.2.2) i) i
        let tid := plihotu 2 (w64 gid) (w64 g.ordinal)
        let data := (if dReduce d = 5 then leBytes 2 present else []) ++ pay
        let i' := { i' with crumb := i'.crumb + crumbChunk tid k data, sentChunks := k :: i'.sentChunks }
        let why := ((resultAccs d k).filterMap fun a => (accOf i a).poison).headD 0
        let stomp := (resultAccs d k).any fun a => (accOf i a).convertBad
        let s := passResult (setInst s gid i') gid k present 0 (why ≠ 0) stomp pay
        notePoison s gid k (if why = 0 && stomp then prCHECK else why)

/-- A non-root module sends an accumulator up as a partial chunk (R240). -/
def emitPartial (s : State) (gid : Nat) (g : Group) (d : BitVec 512) (a : Nat) (x : Acc) : State :=
  let absent := dReduce d = 5 && !x.present
  let pay := if absent then [0]
    else if sumFamily d then x.words.flatMap fun w => leBytes 16 (unsigned 96 w.m + w.tag.toNat * 2 ^ 124)
    else packElems (if dReduce d = 6 then 0 else inCode d) (x.elems.map (·.getD 0))
  let why := x.poison.getD 0
  sendUp s gid g opDATA a (auxOf kCONTRIB 0 (if dReduce d = 5 && x.present then 1 else 0) 0) (why ≠ 0) pay

/-! ANCHOR packets of the spans that a module holds (R251). -/

/-- The entries of a packet between modules. -/
def packetEntries (pay : List Byte) : List Int := (List.range (min 512 (pay.length / 2))).map fun b => signed 16 (payNum pay (2 * b) 2)

/-- The entries of a MAXIMA: a child's as they are, a member's as its weight raises them. -/
def maximaOf (i : Inst) (source : Nat) (pkt : Packet) : List Int :=
  if 2 ^ 20 ≤ source then packetEntries pkt.payload
  else match i.joins.find? fun j => j.1 = source with
    | none => []
    | some j =>
      let es := anchorEntries j.2 (hChunk pkt.h) pkt.payload
      if dReduce j.2 ≠ 4 then es
      else match (f32 (dWeight j.2)).log2 with
        | some k => es.map fun e => if e = anchorNone then e else e + k + 1
        | none => es.map fun _ => anchorNone

/-- An ANCHOR of a span within the eight that are held is noted, or installed and passed on; one for a later span waits in its block.
`source`: a rank, 2^20 + child bundle, or 2^21, the parent. -/
def takeAnchor (s : State) (gid source port : Nat) (pkt : Packet) : State :=
  match groupOf s gid with
  | none => s
  | some g => match g.inst with
    | none => s
    | some i =>
      let sp := hChunk pkt.h
      if lowSpan i + 8 ≤ sp then setInst s gid { i with anchors := i.anchors ++ [(source, port, pkt)] }
      else if source = 2 ^ 21 then
        sendKids (setInst s gid { i with finals := Tab.set i.finals sp (packetEntries pkt.payload), finalAt := Tab.set i.finalAt sp (fcNow s) })
          gid g opANCHOR sp 1 pkt.payload
      else noteMaxima s gid source sp (maximaOf i source pkt)

/-- Try the waiting ANCHORs again, in their order. -/
def flushAnchors (s : State) (gid : Nat) : State :=
  match instOf s gid with
  | none => s
  | some i => i.anchors.foldl (fun s x => takeAnchor s gid x.1 x.2.1 x.2.2) (setInst s gid { i with anchors := [] })

/-- Something of the span is still to be emitted here. -/
def spanOpen (g : GroupDef) (d : BitVec 512) (i : Inst) (sp : Nat) : Bool :=
  let hi := min ((sp + 1) * 65536) (dCount d)
  ((piecesOf (accElems d) (sp * 65536) hi).any fun a => !(accOf i a).emitted) ||
  (isRoot g && (piecesOf (chunkElems (outCode d)) (sp * 65536) hi).any fun k => !i.sentChunks.contains k)

/-- A span's anchors are released once every accumulator that touches it has been emitted (R251). -/
def releaseSpans (s : State) (gid : Nat) : State :=
  match groupOf s gid with
  | none => s
  | some g => match g.inst with
    | none => s
    | some i => match i.desc with
      | none => s
      | some d => setInst s gid { i with finals := i.finals.filter fun x => spanOpen g.gdef d i x.1,
                                         finalAt := i.finalAt.filter fun x => spanOpen g.gdef d i x.1 }

/-- ACCUMULATOR_COMPLETE (R245, R258 to R260): the checks are judged, then the partial goes up or, at the root once the join
phase is complete, the result chunks it fills go down. -/
def accumulatorComplete (s : State) (gid a lane : Nat) (residueOk convertOk : Bool) : State :=
  match groupOf s gid with
  | none => s
  | some g => match g.inst with
    | none => s
    | some i => match i.desc with
      | none => s
      | some d =>
        if !(isReduction d && a < accCount d && accFull s g.gdef d i a) || (accOf i a).emitted || (isRoot g.gdef && !i.joinDone) ||
           plainRelay s g.gdef || ((accOf i a).slab.any (slabPending s)) then s
        else
          let c := checkAcc s (accOf i a)
          let ctx := w64 (gid * 65536 + g.epoch)
          let s := if residueOk then c.1 else laneFault (bump c.1 eChurnResidueErrorCount) lane 18 ctx
          let bad := isRoot g.gdef && !convertOk
          let s := if bad then laneFault (bump s eChurnConvertMismatchCount) lane 19 ctx else s
          let x := poisonAcc c.2 (if residueOk then 0 else prCHECK)
          let s := if x.slab.isNone then bump64 s eChurnOnDieCount 1 else s
          let s := { s with vat := { s.vat with churnUsed := s.vat.churnUsed.filter fun n => x.slab ≠ some n } }
          let fast := isRoot g.gdef && dReduce d = 6 && 3 ≤ memberCount g.gdef
          let s := if fast then timingChoice (bump64 s eChurnFastFloatCount 1) else s
          let x := { x with emitted := true, slab := none, convertBad := bad }
          let s := setInst s gid { i with accs := Tab.set i.accs a x, timing := i.timing || fast }
          let s := if isRoot g.gdef then
              (piecesOf (chunkElems (outCode d)) (chunkLo (accElems d) a) (chunkHi d (accElems d) a)).foldl (fun s k => emitChunk s gid d k) s
            else emitPartial s gid g d a x
          afterColl (settleGroup (flushWaiting (releaseFinals (flushAnchors (releaseSpans s gid) gid) gid) gid) gid)

end Sys2Proof.Machine
end

