-- ==== Sys2Proof/Machine/Collectives.lean ====
section
/-! DEFINITION. What each collective command does (10, 11): group commits and entries, group packets as they are placed
(R206, R446, R447), timers, losses, recomputed trees, contexts and anchors. -/
namespace Sys2Proof.Machine

/-! Installing and removing (R200, R201). -/

/-- The members a source has staged: 4-byte entries. -/
def stagedMembers (s : State) (src : Source) : List Nat :=
  let b := (scopedReg s src eGroupStageMembers).getD []
  (List.range ((b.length + 3) / 4)).map fun i => payNum b (4 * i) 4

/-- The staged PERMUTE entries. -/
def stagedPermute (s : State) (src : Source) : List (BitVec 64) :=
  let b := (scopedReg s src eGroupStagePermute).getD []
  (List.range (b.length / 8)).map fun i => w64 (payNum b (8 * i) 8)

/-- Every member entry names a distinct ID inside the sizes with a port a member may have. -/
def membersOk (z : Nat × Nat × Nat) (ms : List Nat) : Bool :=
  !ms.isEmpty && ms.length ≤ 425984 && decide ms.Nodup &&
  ms.all fun m => m < 2 ^ 23 && (m / 2 ^ 15 < 104 || m / 2 ^ 15 = 0xFF) && inSizes z (m % 2 ^ 15)

/-- Endpoint and module members do not mix. -/
def unmixed (ms : List Nat) : Bool := ms.all (fun m => m / 2 ^ 15 = 0xFF) || ms.all fun m => m / 2 ^ 15 ≠ 0xFF

/-- The table keeps R220. -/
def permuteOk (n : Nat) (es : List (BitVec 64)) : Bool :=
  es.length ≤ 65536 && es.all (fun e => pmSrcRank e < n && pmDstRank e < n) && decide (es.map fun e => (pmDstRank e, pmDstChunk e)).Nodup

/-- What refuses a definition before any module is asked, in R200's order; 0 passes. -/
def stageRefusal (s : State) (src : Source) : Nat :=
  let ms := stagedMembers s src
  let k := scopedNum s src eGroupStageSlice
  match s.topo.sizes with
  | none => 6
  | some z =>
    if !topoReady s then 6
    else if ((scopedReg s src eGroupStageMembers).getD []).length % 4 ≠ 0 || !membersOk z ms then 1
    else if !unmixed ms then 2
    else if ((scopedReg s src eGroupStagePermute).getD []).length % 8 ≠ 0 || !permuteOk ms.length (stagedPermute s src) then 5
    else if k = 0 || 1024 ≤ k then 3
    else if (sliceShape s k).kind = 2 && !(memberModules ms).all (inBox (sliceShape s k)) then 3
    else 0

/-- What this module answers to an entry (R200): BAD_SLICE, GROUP_IN_USE, BUSY, or 0. -/
def entryRefusal (s : State) (gid slice : Nat) : Nat :=
  if (sliceOn s slice).isNone then 3
  else if (groupOf s gid).isSome then 4
  else if (match s.groupCommit with | some c => decide (c.group = gid) | none => false) then 7
  else 0

/-- A new entry. -/
def installEntry (s : State) (gid : Nat) (d : GroupDef) : State := setGroup s gid { gdef := d }

/-- Combine refusals: the first in R200's order; 0 is none. -/
def worseOf (a b : Nat) : Nat := if a = 0 then b else if b = 0 then a else min a b

/-- Every tree module has answered: the outcome; a failed install leaves no entry anywhere. -/
def commitOutcome (s : State) (c : GroupCommit) : State :=
  let s := wr { s with groupCommit := none } eGroupInstallResult c.refusal
  if !c.install || c.refusal = 0 then s
  else c.accepted.foldl (fun s m => if m = myCoord s then { s with groups := Tab.erase s.groups c.group } else sendMgmt s m) s

/-- Begin an install. -/
def beginInstall (s : State) (src : Source) : State :=
  let r := stageRefusal s src
  if r ≠ 0 then wr s eGroupInstallResult r
  else match s.topo.sizes with
    | none => s
    | some z =>
      let gid := scopedNum s src eGroupStageId
      let k := scopedNum s src eGroupStageSlice
      let ms := stagedMembers s src
      let mods := treeModules s z k (memberModules ms)
      let others := mods.filter (· ≠ myCoord s)
      let own := mods.contains (myCoord s)
      let r := if own then entryRefusal s gid k else 0
      let s := if own && r = 0 then installEntry s gid (treeEntry s z k ms (stagedPermute s src) (myCoord s)) else s
      let c : GroupCommit := { group := gid, install := true, awaiting := others, accepted := if own && r = 0 then [myCoord s] else [], refusal := r }
      let s := others.foldl sendMgmt s
      if others.isEmpty then commitOutcome s c else { s with groupCommit := some c }

/-- Begin a removal: the entry here goes at once. -/
def beginRemove (s : State) (src : Source) : State :=
  let gid := scopedNum s src eGroupStageId
  match groupOf s gid with
  | none => wr s eGroupInstallResult 8
  | some g =>
    let others := otherTree s g
    let s := others.foldl sendMgmt (dropGroup s gid)
    let c : GroupCommit := { group := gid, install := false, awaiting := others }
    if others.isEmpty then commitOutcome s c else { s with groupCommit := some c }

/-- GROUP_ENTRY_MSG (R200, R201): an entry, or a deletion, arrives from the module of the commit and is acknowledged. -/
def groupEntryMsg (s : State) (gid origin : Nat) (entry : Option GroupDef) : State :=
  let s := match entry with
    | none => dropGroup s gid
    | some d => if entryRefusal s gid d.slice = 0 then installEntry s gid d else s
  match s.topo.sizes with
  | some z => sendMgmt s (coordOfNum z origin)
  | none => s

/-- GROUP_ENTRY_ACK (R200): one tree module's answer. -/
def groupEntryAck (s : State) (gid module refusal : Nat) : State :=
  match s.groupCommit, s.topo.sizes with
  | some c, some z =>
    let m := coordOfNum z module
    if c.group ≠ gid || !c.awaiting.contains m then s
    else
      let c := { c with awaiting := c.awaiting.filter (· ≠ m), accepted := if refusal = 0 then c.accepted ++ [m] else c.accepted,
                        refusal := worseOf c.refusal refusal }
      if c.awaiting.isEmpty then commitOutcome s c else { s with groupCommit := some c }
  | _, _ => s

/-! Placing group packets (R206, R446, R447). -/

/-- A packet for the module itself that still stands in its input buffer. -/
def unitWaiter (p : Nat) (pkt : Packet) (w : Waiter) : Bool :=
  (w.outPort = waitUnit || w.outPort = waitHead) && w.out.arrival = p && w.out.pkt = pkt

/-- Its unit takes a command's packet, if it stands in the inbox or in its input buffer; what the unit does not keep leaves at the end of
the command (`clearTaken`). -/
def takeInbox (s : State) (p : Nat) (pkt : Packet) : State :=
  match s.inbox.findIdx? fun x => !x.taken && x.port = p && x.pkt = pkt with
  | some i => { s with inbox := s.inbox.modify i fun x => { x with taken := true } }
  | none => match s.pools.waiting.findIdx? fun w => !w.taken && unitWaiter p pkt w with
    | some i => { s with pools := { s.pools with waiting := s.pools.waiting.modify i fun w => { w with taken := true } } }
    | none => s

/-- The packets that units hold on to: contributions, chunks and packets that wait, each in its input buffer or block (R143, R206, R236, R244). -/
def unitKeeps (s : State) : List (Nat × Packet) :=
  s.groups.flatMap fun g => g.2.heldJoins ++ (g.2.early.map fun t => (t.port, t.pkt)) ++ (match g.2.inst with
    | some i => ((i.waiting ++ i.held).map fun t => (t.port, t.pkt)) ++ i.parked ++ i.anchors.map (·.2)
    | none => [])

/-- The fc of the first flit of a packet that its unit has taken. -/
def arrivedAt (s : State) (p : Nat) (pkt : Packet) : Nat :=
  match s.inbox.find? fun x => x.taken && x.port = p && x.pkt = pkt with
  | some x => x.stamp
  | none => match s.pools.waiting.find? fun w => w.taken && unitWaiter p pkt w with
    | some w => w.stamp
    | none => fcNow s

/-- A contribution as it comes from the link. -/
def fromLink (s : State) (source p : Nat) (pkt : Packet) : Contribution :=
  { source := source, chunk := hChunk pkt.h, pkt := pkt, port := p, stamp := some (arrivedAt s p pkt), passed := fcNow s }

/-- Those of a list that a unit took and no longer keeps, those that stay, and what is still kept of `keep`. -/
def partTaken {α : Type} (key : α → Option (Nat × Packet)) (keep : List (Nat × Packet)) : List α → List α × List α × List (Nat × Packet)
  | [] => ([], [], keep)
  | x :: t =>
    match key x with
    | none => let r := partTaken key keep t; (r.1, x :: r.2.1, r.2.2)
    | some k =>
      if keep.contains k then let r := partTaken key (keep.erase k) t; (r.1, x :: r.2.1, r.2.2)
      else let r := partTaken key keep t; (x :: r.1, r.2.1, r.2.2)

/-- The space of the packets that their units are done with is free again: blocks and hop credits (R79, R143). -/
def clearTaken (s : State) : State :=
  let a := partTaken (fun x : InPacket => if x.taken then some (x.port, x.pkt) else none) (unitKeeps s) s.inbox
  let b := partTaken (fun w : Waiter => if w.taken then some (w.out.arrival, w.out.pkt) else none) a.2.2 s.pools.waiting
  let s := { s with inbox := a.2.1, pools := { s.pools with waiting := b.2.1 } }
  let s := a.1.foldl (fun s x => match x.block with | some k => releaseBlock s k | none => s) s
  b.1.foldl (fun s w => releaseOut s w.out) s

/-- Counted in CollStaleDiscardCount. -/
def staleDiscard (s : State) : State := bump s eCollStaleDiscardCount

/-- The group may not be used here yet: its install is still running. -/
def installing (s : State) (gid : Nat) : Bool :=
  match s.groupCommit with
  | some c => c.install && c.group = gid
  | none => false

/-- A recomputed entry on a module new to the tree takes the epoch of its first packet (R204; log entry 23). -/
def adoptEpoch (s : State) (gid e : Nat) : State :=
  match groupOf s gid with
  | some g => if g.epoch = 0 then setGroup s gid { g with epoch := e } else s
  | none => s

/-- Hold a packet of an instance that is not resident (R236). -/
def parkPacket (s : State) (gid p : Nat) (pkt : Packet) : State :=
  match instOf s gid with
  | some i => setInst s gid { i with parked := i.parked ++ [(p, pkt)] }
  | none => s

/-- Have an effect with a group packet that this module takes from its sender: `ok` is R447's second condition, `opens` says
that the packet opens an instance. -/
def placed (s : State) (p : Nat) (pkt : Packet) (ok : Group → Bool) (opens : Bool) (f : State → Nat → Group → State) : State :=
  let h := pkt.h
  let gid := hGroup h
  if idPort h.src ≤ 103 && !(isEdge p && sourceOk s p h.src) then bump s eCollNotMemberCount
  else match groupOf s gid with
    | none => staleDiscard s
    | some g =>
      if installing s gid || !ok g then staleDiscard s
      else
        let s := adoptEpoch s gid (hEpoch h)
        if g.epoch ≠ 0 && hEpoch h ≠ g.epoch then staleDiscard s
        else
          let s := touchInst (if opens then openInst s gid else s) gid
          match groupOf s gid with
          | none => s
          | some g => match g.inst with
            | none => f s gid g
            | some i => if i.resident then f s gid g else parkPacket s gid p pkt

/-- The sender is a member of this module (R203). -/
def fromMember (s : State) (h : Header) (g : Group) : Bool :=
  idPort h.src ≤ 103 && (match rankOf g.gdef h.src with | some r => isLocal s g.gdef r | none => false)

/-- The sender is the parent, or a child. -/
def fromParent (s : State) (h : Header) (g : Group) : Bool := idPort h.src = 0xFF && placeIn s g.gdef h.src = .parent
def fromChild (s : State) (h : Header) (g : Group) : Option Nat :=
  if idPort h.src ≠ 0xFF then none else match placeIn s g.gdef h.src with | .child b => some b | _ => none

/-- The sender is the edge module of the rank whose data the packet carries (R219). -/
def fromEdgeOf (h : Header) (g : Group) : Bool :=
  idPort h.src = 0xFF && auxRank h < memberCount g.gdef && idCoord (memberId g.gdef (auxRank h)) = idCoord h.src

/-- Open instance data after a packet: waiting contributions are tried again. -/
def afterPacket (s : State) (gid : Nat) : State := afterColl (flushWaiting s gid)

/-! Member packets. -/


/-- The spans that a chunk holds elements of are all reported by the member (R250). -/
def spansSent (d : BitVec 512) (i : Inst) (r c : Nat) : Bool :=
  let E := chunkElems (inCode d)
  (piecesOf 65536 (chunkLo E c) (chunkHi d E c)).all fun sp => sp < Tab.getD i.nextSpan r 0

/-- A member's DATA (R212, R241, R250). -/
def memberData (s : State) (p : Nat) (pkt : Packet) (gid : Nat) (g : Group) : State :=
  match g.inst, rankOf g.gdef pkt.h.src with
  | some i, some r =>
    match i.joins.find? fun j => j.1 = r with
    | none => bump s eCollGapDiscardCount
    | some j =>
      let d := j.2
      let n := Tab.getD i.nextChunk r 0
      let c := hChunk pkt.h
      let e := chunkIndex g.gdef d r n
      if c < e then bump64 s eCollDuplicateCount 1
      else if c ≠ e || chunksSent g.gdef d r ≤ n then bump s eCollGapDiscardCount
      else if dynamicAnchor d && !spansSent d i r c then bump s eCollGapDiscardCount
      else
        let ok := memberLengthOk d c pkt
        let s := if ok then s else bump s eChurnLengthErrorCount

        let t := { fromLink s r p pkt with pkt := if ok && !pkt.h.poison then pkt else markSource pkt, checked := true }
        offerTerm (setInst s gid { i with nextChunk := Tab.set i.nextChunk r (n + 1) }) gid t
  | none, _ => bump s eCollGapDiscardCount
  | _, none => s

/-- DATA_RECEIVED. -/
def dataReceived (s : State) (p : Nat) (pkt : Packet) : State :=
  placed (takeInbox s p pkt) p pkt (fun g => fromMember s pkt.h g && pkt.h.opcode = opDATA && auxKind pkt.h = kCONTRIB) false fun s gid g =>
    afterPacket (memberData s p pkt gid g) gid

/-- A member's MAXIMA, weighted by its descriptor (R250, R251). -/
def memberMaxima (s : State) (p : Nat) (pkt : Packet) (gid : Nat) (g : Group) : State :=
  match g.inst, rankOf g.gdef pkt.h.src with
  | some i, some r =>
    match i.joins.find? fun j => j.1 = r with
    | none => bump s eCollGapDiscardCount
    | some j =>
      let d := j.2
      let sp := hChunk pkt.h
      let n := Tab.getD i.nextSpan r 0
      if !dynamicAnchor d then bump s eChurnAnchorDiscardCount
      else if sp < n then bump64 s eCollDuplicateCount 1
      else if n < sp || spanCount d ≤ sp then bump s eCollGapDiscardCount
      else
        takeAnchor (setInst s gid { i with nextSpan := Tab.set i.nextSpan r (n + 1) }) gid r p pkt
  | none, _ => bump s eCollGapDiscardCount
  | _, none => s

/-- A child's MAXIMA; a relay with one child passes it on. -/
def childMaxima (s : State) (b p : Nat) (pkt : Packet) (gid : Nat) (g : Group) : State :=
  match g.inst with
  | none => s
  | some i =>
    let sp := hChunk pkt.h
    if plainRelay s g.gdef then sendUp s gid g opANCHOR sp 0 false pkt.payload
    else if (match i.desc with | some d => !dynamicAnchor d | none => false) then bump s eChurnAnchorDiscardCount
    else if i.reported.contains (2 ^ 20 + b, sp) || i.anchors.any (fun x => x.1 = 2 ^ 20 + b && hChunk x.2.2.h = sp) then
      bump64 s eCollDuplicateCount 1
    else takeAnchor s gid (2 ^ 20 + b) p pkt

/-- MAXIMA_RECEIVED. -/
def maximaReceived (s : State) (p : Nat) (pkt : Packet) : State :=
  let kind := bitsAt pkt.h.aux.toNat 0 8
  placed (takeInbox s p pkt) p pkt
    (fun g => pkt.h.opcode = opANCHOR && kind = 0 && (fromMember s pkt.h g || (fromChild s pkt.h g).isSome)) (103 < idPort pkt.h.src) fun s gid g =>
      afterPacket (match fromChild s pkt.h g with
        | some b => childMaxima s b p pkt gid g
        | none => memberMaxima s p pkt gid g) gid

/-- FINAL anchors: installed and passed on (R251); discarded where the instance has no anchor pass (R250). -/
def noteFinal (s : State) (p : Nat) (pkt : Packet) (gid : Nat) (g : Group) : State :=
  match g.inst with
  | none => s
  | some i =>
    if plainRelay s g.gdef then sendKids s gid g opANCHOR (hChunk pkt.h) 1 pkt.payload
    else if (match i.desc with | some d => !dynamicAnchor d | none => false) then bump s eChurnAnchorDiscardCount
    else takeAnchor s gid (2 ^ 21) p pkt

/-- FINAL_RECEIVED: the contributions that wait for the span are taken. -/
def finalReceived (s : State) (p : Nat) (pkt : Packet) : State :=
  placed (takeInbox s p pkt) p pkt
    (fun g => pkt.h.opcode = opANCHOR && bitsAt pkt.h.aux.toNat 0 8 = 1 && fromParent s pkt.h g) true fun s gid g =>
      afterPacket (noteFinal s p pkt gid g) gid

/-- MEMBER_ABORT (R214, R225). -/
def memberAbortReceived (s : State) (p : Nat) (pkt : Packet) : State :=
  placed (takeInbox s p pkt) p pkt
    (fun g => pkt.h.opcode = opABORT && abCause pkt.payload = caMEMBER_ABORT && fromMember s pkt.h g) false fun s gid g =>
      match g.inst, rankOf g.gdef pkt.h.src with
      | some _, some r => afterColl (report s gid csMEMBER_ABORT r (rankIdNum g.gdef r))
      | _, _ => s

/-- JOIN_RECEIVED. -/
def joinReceived (s : State) (p : Nat) (pkt : Packet) : State :=
  let s := takeInbox s p pkt
  if pkt.h.opcode ≠ opJOIN then staleDiscard s else afterPacket (takeJoin s p pkt) (hGroup pkt.h)

/-! Packets of modules. -/

/-- A CONTRIB may come from a child, or for SHIFT and PERMUTE from the edge module of its rank; before the operation is known
either may stand; a relay takes it from a child (R216, R219). -/
def contribOk (s : State) (h : Header) (g : Group) : Bool :=
  h.opcode = opDATA && auxKind h = kCONTRIB &&
  (if (localRanks s g.gdef).isEmpty then (fromChild s h g).isSome
   else match g.inst.bind (·.desc) with
   | some d => if dOp d = 6 || dOp d = 7 then fromEdgeOf h g else (fromChild s h g).isSome
   | none => (fromChild s h g).isSome || fromEdgeOf h g)

/-- A CONTRIB (R216, R219, R241, R244). One of another edge module opens no instance, and waits for the one that it is of (R205). -/
def takeContrib (s : State) (p : Nat) (pkt : Packet) (gid : Nat) (g : Group) : State :=
  match g.inst with
  | none => setGroup s gid { g with early := g.early ++ [fromLink s (2 ^ 20 + 63) p pkt] }
  | some i =>
    match fromChild s pkt.h g with
    | some b =>
      let s := setInst s gid { i with up := Tab.set i.up b (Tab.getD i.up b 0 + 1) }
      if plainRelay s g.gdef then sendUp s gid g opDATA (hChunk pkt.h) pkt.h.aux.toNat pkt.h.poison pkt.payload
      else offerTerm s gid (fromLink s (2 ^ 20 + b) p pkt)
    | none => offerTerm s gid (fromLink s (2 ^ 20 + 63) p pkt)

/-- The packet comes from the parent or a child of its group, so it opens an instance (R205). -/
def fromTree (s : State) (h : Header) : Bool :=
  match groupOf s (hGroup h) with
  | some g => fromParent s h g || (fromChild s h g).isSome
  | none => false

/-- CONTRIB_RECEIVED. -/
def contribReceived (s : State) (p : Nat) (pkt : Packet) : State :=
  placed (takeInbox s p pkt) p pkt (contribOk s pkt.h) (fromTree s pkt.h) fun s gid g => afterPacket (takeContrib s p pkt gid g) gid

/-- A child's JOIN_UP (R222). A relay learns its context with it (log entry 24). -/
def takeJoinUp (s : State) (pkt : Packet) (gid : Nat) (g : Group) : State :=
  match g.inst, fromChild s pkt.h g with
  | some i, some b =>
    let x := joinOf pkt.payload
    let i := { i with joinUps := Tab.set i.joinUps b x }
    let i := if (localRanks s g.gdef).isEmpty && i.desc.isNone then
        { i with desc := some (Config.relayDescriptor x.lowHash) } else i
    tryJoinUp (setInst s gid i) gid
  | _, _ => s

/-- JOIN_UP_RECEIVED. -/
def joinUpReceived (s : State) (p : Nat) (pkt : Packet) : State :=
  placed (takeInbox s p pkt) p pkt
    (fun g => pkt.h.opcode = opDATA && auxKind pkt.h = kJOIN_UP && (fromChild s pkt.h g).isSome) true fun s gid g =>
      afterPacket (takeJoinUp s pkt gid g) gid

/-- DONE_UP_RECEIVED (R227). -/
def doneUpReceived (s : State) (p : Nat) (pkt : Packet) : State :=
  placed (takeInbox s p pkt) p pkt
    (fun g => pkt.h.opcode = opDATA && auxKind pkt.h = kDONE_UP && (fromChild s pkt.h g).isSome) true fun s gid g =>
      match g.inst, fromChild s pkt.h g with
      | some i, some b => afterColl (settleGroup (setInst s gid { i with doneUps := Tab.set i.doneUps b (doneOf pkt.payload) }) gid)
      | _, _ => s

/-- COMMIT_RECEIVED (R227). -/
def commitReceived (s : State) (p : Nat) (pkt : Packet) : State :=
  placed (takeInbox s p pkt) p pkt
    (fun g => pkt.h.opcode = opCOLL_RESULT && auxKind pkt.h = kCOMMIT && fromParent s pkt.h g) true fun s gid _ =>
      afterColl (commitLocal s gid (recOf (leNat pkt.payload)))

/-- A result chunk from the parent (R216); a stomped one poisons its chunk here (R231). -/
def takeResult (s : State) (pkt : Packet) (gid : Nat) (g : Group) : State :=
  match g.inst with
  | none => s
  | some i =>
    let k := hChunk pkt.h
    let why := if pkt.h.poison then auxReason pkt.h else 0
    let s := setInst s gid { i with down := i.down + 1 }
    let s := if plainRelay s g.gdef then
        copyResult s gid [] (childBundles g.gdef) k (auxPresent pkt.h) (auxRank pkt.h) pkt.h.poison (why = prSTOMPED) pkt.payload
      else passResult s gid k (auxPresent pkt.h) (auxRank pkt.h) pkt.h.poison (why = prSTOMPED) pkt.payload
    settleGroup (notePoison s gid k why) gid

/-- COLL_RESULT_RECEIVED. -/
def collResultReceived (s : State) (p : Nat) (pkt : Packet) : State :=
  placed (takeInbox s p pkt) p pkt
    (fun g => pkt.h.opcode = opCOLL_RESULT && auxKind pkt.h = kRESULT && fromParent s pkt.h g) true fun s gid g =>
      afterColl (takeResult s pkt gid g)

/-- END_RECEIVED (R226). -/
def endReceived (s : State) (p : Nat) (pkt : Packet) : State :=
  placed (takeInbox s p pkt) p pkt
    (fun g => pkt.h.opcode = opABORT && abCause pkt.payload = caEND && fromParent s pkt.h g) true fun s gid _ =>
      afterColl (endInst s gid (abStatus pkt.payload) (abRank pkt.payload) (abId pkt.payload))

/-- RERUN_RECEIVED (R232). -/
def rerunReceived (s : State) (p : Nat) (pkt : Packet) : State :=
  placed (takeInbox s p pkt) p pkt
    (fun g => pkt.h.opcode = opABORT && abCause pkt.payload = caRERUN && fromParent s pkt.h g) true fun s gid _ =>
      afterColl (rerunLocal s gid)

/-- REPORT_RECEIVED (R225): passed toward the root, or acted on there. -/
def reportReceived (s : State) (p : Nat) (pkt : Packet) : State :=
  placed (takeInbox s p pkt) p pkt
    (fun g => pkt.h.opcode = opABORT && abCause pkt.payload = caREPORT && (fromChild s pkt.h g).isSome) true fun s gid _ =>
      afterColl (report s gid (abStatus pkt.payload) (abRank pkt.payload) (abId pkt.payload))

/-- A POISON notice goes on to the members and children that its chunk names (R231). -/
def passPoison (s : State) (pkt : Packet) (gid : Nat) (g : Group) : State :=
  let k := hChunk pkt.h
  if plainRelay s g.gdef then poisonOut s gid g (auxReason pkt.h) [] (childBundles g.gdef) k
  else match g.inst.bind (·.desc) with
    | none => s
    | some d =>
      let t := resultTargets s g.gdef d k
      poisonOut s gid g (auxReason pkt.h) t.1 t.2 k

/-- POISON_NOTICE_RECEIVED. -/
def poisonNoticeReceived (s : State) (p : Nat) (pkt : Packet) : State :=
  placed (takeInbox s p pkt) p pkt (fun g => pkt.h.opcode = opPOISON && fromParent s pkt.h g) true fun s gid g => passPoison s pkt gid g

/-! Timers (R223, R224). -/

/-- JOIN_TIMEOUT, at the root. -/
def joinTimeout (s : State) (gid : Nat) : State :=
  match groupOf s gid with
  | none => s
  | some g => match g.inst with
    | none => s
    | some i =>
      if !isRoot g.gdef || i.joinDone then s
      else
        let r := firstAbsent s g i
        afterColl (endInst s gid csJOIN_TIMEOUT r (rankIdNum g.gdef r))

/-- CONTRIB packets that a child sends in all. -/
def contribsFrom (g : GroupDef) (d : BitVec 512) (b : Nat) : Nat :=
  if isReduction d then accCount d
  else if dOp d = 4 then (ranksBelow g b).length * inChunks d
  else if dOp d = 5 then (if (ranksBelow g b).contains (dRoot d) then inChunks d else 0)
  else 0

/-- COLL_RESULT packets that come from the parent in all. -/
def resultsDown (s : State) (g : GroupDef) (d : BitVec 512) : Nat :=
  let mine := localRanks s g ++ (childBundles g).flatMap (ranksBelow g)
  if isRoot g then 0
  else match dOp d with
    | 1 => outChunks d
    | 2 => if mine.contains (dRoot d) then outChunks d else 0
    | 3 => mine.foldl (fun n r => n + chunksOwed g d r) 0
    | 4 => memberCount g * inChunks d
    | 5 => inChunks d
    | _ => 0

/-- The module is owed data (R224). -/
def owedData (s : State) (g : Group) (i : Inst) : Bool :=
  match i.desc with
  | none => false
  | some d =>
    (localRanks s g.gdef).any (fun r => Tab.getD i.nextChunk r 0 < chunksSent g.gdef d r ||
      (dynamicAnchor d && chunksSent g.gdef d r ≠ 0 && Tab.getD i.nextSpan r 0 < spanCount d)) ||
    (childBundles g.gdef).any (fun b => Tab.getD i.up b 0 < contribsFrom g.gdef d b) ||
    i.down < resultsDown s g.gdef d ||
    ((dOp d = 6 || dOp d = 7) && (localRanks s g.gdef).any fun r => Tab.getD i.queued r 0 < chunksOwed g.gdef d r)

/-- PROGRESS_TIMEOUT. -/
def progressTimeout (s : State) (gid : Nat) : State :=
  match groupOf s gid with
  | none => s
  | some g => match g.inst with
    | none => s
    | some i => if owedData s g i then afterColl (report s gid csSTALL 0xFFFFFFFF 0xFFFFFFFF) else s

/-! Losses and recomputed trees (R204, R232, R233). -/

/-- TREE_LOSS_REPORT: the root re-runs, or ends the instance for a lost member module; a module whose parent, the root, is lost
ends its own subtree; any other tells the root. -/
def treeLossReport (s : State) (gid lost : Nat) (isMember : Bool) : State :=
  match groupOf s gid, s.topo.sizes with
  | some g, some z =>
    let c := coordOfNum z lost
    let id := (idOf c 0xFF).toNat
    let s := if isMember || g.lost.contains c then s else setGroup s gid { g with lost := g.lost ++ [c] }
    if isRoot g.gdef then
      afterColl (if isMember then endInst s gid csMEMBER_LOST 0xFFFFFFFF id else rerunRoot s gid csRERUN_LIMIT)
    else if isMember && c = g.gdef.root then afterColl (endInst s gid csMEMBER_LOST 0xFFFFFFFF id)
    else sendMgmt s g.gdef.root
  | _, _ => s

/-- An entry is one of the group's recomputed tree: group, members and root are kept, and the parent is the next module on this one's
route in force to the root (R202, R204). -/
def recomputed (s : State) (gid : Nat) (d : GroupDef) : Bool :=
  (match groupOf s gid with
   | some g => d.slice = g.gdef.slice && d.members = g.gdef.members && d.permute = g.gdef.permute && d.root = g.gdef.root
   | none => true) &&
  (match s.topo.sizes with
   | some z => if d.root = myCoord s then d.parentBundle = 6 else treeHop s z true d.slice (myCoord s) d.root = some d.parentBundle
   | none => false)

/-- TREE_RECOMPUTE (R204): the entry of this module in the recomputed tree, or its deletion; an open instance keeps its tree. -/
def treeRecompute (s : State) (gid : Nat) (entry : Option GroupDef) : State :=
  match groupOf s gid, entry with
  | none, none => s
  | none, some d => if recomputed s gid d then setGroup s gid { gdef := d, epoch := 0 } else s
  | some g, none => if g.inst.isSome then setGroup s gid { g with leaving := true } else { s with groups := Tab.erase s.groups gid }
  | some g, some d =>
    if !recomputed s gid d then s
    else if g.inst.isSome then setGroup s gid { g with nextDef := some d, leaving := false, lost := [] }
    else setGroup s gid { g with gdef := d, lost := [] }

/-! Contexts (R236). -/

/-- The resident instance that has gone longest without a packet. -/
def longestIdle (s : State) : Option Nat :=
  (s.groups.foldl (fun best x => match x.2.inst with
    | some i =>
      if !i.resident then best
      else match best with
        | none => some (i.lastPacket, x.1)
        | some b => if i.lastPacket < b.1 then some (i.lastPacket, x.1) else some b
    | none => best) (none : Option (Nat × Nat))).map (·.2)

/-- Change residence. -/
def setResident (s : State) (gid : Nat) (r : Bool) : State :=
  match instOf s gid with
  | some i => setInst s gid { i with resident := r }
  | none => s

/-- A packet that waited for its record is placed by what it is. -/
def replayPacket (s : State) (x : Nat × Packet) : State :=
  let p := x.1
  let k := x.2
  if k.h.opcode = opJOIN then joinReceived s p k
  else if k.h.opcode = opANCHOR then (if bitsAt k.h.aux.toNat 0 8 = 1 then finalReceived s p k else maximaReceived s p k)
  else if k.h.opcode = opCOLL_RESULT then (if auxKind k.h = kCOMMIT then commitReceived s p k else collResultReceived s p k)
  else if k.h.opcode = opPOISON then poisonNoticeReceived s p k
  else if k.h.opcode = opABORT then
    (if abCause k.payload = caEND then endReceived s p k
     else if abCause k.payload = caRERUN then rerunReceived s p k
     else if abCause k.payload = caREPORT then reportReceived s p k
     else memberAbortReceived s p k)
  else if auxKind k.h = kJOIN_UP then joinUpReceived s p k
  else if auxKind k.h = kDONE_UP then doneUpReceived s p k
  else if idPort k.h.src ≤ 103 then dataReceived s p k
  else contribReceived s p k

/-- CONTEXT_SWAP: the record comes in, the longest idle one goes out where all 4,096 are taken, and what waited for it is
placed. -/
def contextSwap (s : State) (gid : Nat) : State :=
  match instOf s gid with
  | none => s
  | some i =>
    if i.resident then s
    else
      let s := if residentCount s < 4096 then s else match longestIdle s with | some o => setResident s o false | none => s
      let s := bump64 (setInst s gid { i with resident := true, parked := [] }) eCollContextSwapCount 1
      i.parked.foldl replayPacket s

end Sys2Proof.Machine
end

