-- ==== Sys2Proof/Machine/Tensor.lean ====
section
/-! DEFINITION. Recipes, stations, tensor descriptors and step words as bits (Tables 13.1, 13.3 to 13.5, 13.8, 13.9), and the
tensors they name as bytes of the Vat: reading, checking, writing in through mode or not (R165 to R170, R181 to R185, R305). -/
namespace Sys2Proof.Machine

/-! Recipe header (Table 13.1). -/

def rhSeed (h : BitVec 256) : Word := w64 (bitsAt h.toNat 192 64)
def rhPerToken (h : BitVec 256) : Nat := bitsAt h.toNat 160 32
def rhFixed (h : BitVec 256) : Nat := bitsAt h.toNat 128 32
def rhOut (h : BitVec 256) : Nat := bitsAt h.toNat 112 16
def rhScratch (h : BitVec 256) : Nat := bitsAt h.toNat 96 16
def rhIn (h : BitVec 256) : Nat := bitsAt h.toNat 80 16
def rhSlice (h : BitVec 256) : Nat := bitsAt h.toNat 64 10
def rhMaxTokens (h : BitVec 256) : Nat := bitsAt h.toNat 48 16
def rhSteps (h : BitVec 256) : Nat := bitsAt h.toNat 32 11
def rhTensors (h : BitVec 256) : Nat := bitsAt h.toNat 16 8

/-! Step word (Table 13.4, Table 13.5). -/

def swOp (w : BitVec 128) : Nat := bitsAt w.toNat 0 8
def swSub (w : BitVec 128) : Nat := bitsAt w.toNat 8 4
def swRound (w : BitVec 128) : Nat := bitsAt w.toNat 12 2
def swD (w : BitVec 128) : Nat := bitsAt w.toNat 16 8
def swA (w : BitVec 128) : Nat := bitsAt w.toNat 24 8
def swB (w : BitVec 128) : Nat := bitsAt w.toNat 32 8
def swC (w : BitVec 128) : Nat := bitsAt w.toNat 40 8
def swParam (w : BitVec 128) : Nat := bitsAt w.toNat 48 16
def swOpx (w : BitVec 128) : Nat := bitsAt w.toNat 64 64
/-- MATMUL: 2:4 sparse B, anchor mode, ANCHOR. -/
def mmSparse (w : BitVec 128) : Bool := bitAt w.toNat 11
def mmAnchorMode (w : BitVec 128) : Nat := bitsAt w.toNat 9 2
def mmAnchored (w : BitVec 128) : Bool := bitAt w.toNat 8
/-- MATMUL: metadata and zero-tile descriptors, anchor, transposes, kind, second destination, stash. -/
def mmMeta (w : BitVec 128) : Nat := bitsAt w.toNat 56 8
def mmZero (w : BitVec 128) : Nat := bitsAt w.toNat 48 8
def mmAnchor (w : BitVec 128) : Nat := bitsAt w.toNat 116 12
def mmTransA (w : BitVec 128) : Bool := bitAt w.toNat 115
def mmTransB (w : BitVec 128) : Bool := bitAt w.toNat 114
def mmKind (w : BitVec 128) : Nat := bitsAt w.toNat 112 2
def mmSecond (w : BitVec 128) : Nat := bitsAt w.toNat 104 8
def mmStash (w : BitVec 128) : Nat := bitsAt w.toNat 96 8
/-- A scalar in opx bits 95–64: t, eps or s. -/
def swScalar (w : BitVec 128) : Nat := bitsAt w.toNat 64 32
/-- k, renorm and backup bits of param. -/
def swK (w : BitVec 128) : Nat := bitsAt w.toNat 48 4
def swBit52 (w : BitVec 128) : Bool := bitAt w.toNat 52

/-! Tensor descriptor (Table 13.3). -/

def tdStation (t : BitVec 256) : Nat := bitsAt t.toNat 240 16
def tdField (t : BitVec 256) : Nat := bitsAt t.toNat 236 4
def tdVersion (t : BitVec 256) : Nat := bitsAt t.toNat 234 2
def tdSpace (t : BitVec 256) : Nat := bitsAt t.toNat 228 4
def tdKind (t : BitVec 256) : Nat := bitsAt t.toNat 224 4
def tdOffset (t : BitVec 256) : Nat := bitsAt t.toNat 192 32
def tdScale (t : BitVec 256) : Nat := bitsAt t.toNat 160 32
def tdPerToken (t : BitVec 256) : Bool := bitAt t.toNat 128
def tdCols (t : BitVec 256) : Nat := bitsAt t.toNat 96 32
def tdRows (t : BitVec 256) : Nat := bitsAt t.toNat 64 32
def tdFmt (t : BitVec 256) : Nat := bitsAt t.toNat 48 16
/-- Rows for a token count. -/
def tdRowsAt (t : BitVec 256) (tokens : Nat) : Nat := tdRows t * (if tdPerToken t then tokens else 1)

/-! Station header and fields (Tables 13.8, 13.9). -/

def shSeed (h : BitVec 128) : Word := w64 (bitsAt h.toNat 64 64)
def shGroup (h : BitVec 128) : Nat := bitsAt h.toNat 48 16
def shPipe (h : BitVec 128) : Nat := bitsAt h.toNat 32 16
def shDigest (h : BitVec 128) : Nat := if bitsAt h.toNat 24 8 = 0 then 16 else bitsAt h.toNat 24 8
def shSlots (h : BitVec 128) : Nat := if bitsAt h.toNat 16 8 = 0 then 2 else bitsAt h.toNat 16 8
def sfHomeSlabs (f : BitVec 256) : Nat := bitsAt f.toNat 224 32
def sfHome (f : BitVec 256) : Nat := bitsAt f.toNat 192 32
def sfSlabs (f : BitVec 256) : Nat := bitsAt f.toNat 160 32
def sfCols (f : BitVec 256) : Nat := bitsAt f.toNat 96 32
def sfRows (f : BitVec 256) : Nat := bitsAt f.toNat 64 32
def sfFmt (f : BitVec 256) : Nat := bitsAt f.toNat 48 16
def sfThrough (f : BitVec 256) : Bool := bitAt f.toNat 9
def sfVersioned (f : BitVec 256) : Bool := bitAt f.toNat 8
def sfKind (f : BitVec 256) : Nat := bitsAt f.toNat 0 8

abbrev kiUNUSED : Nat := 0
abbrev kiWEIGHT : Nat := 1
abbrev kiSTASH : Nat := 2
abbrev kiOPT_STATE : Nat := 3
abbrev kiGRAD_ACC : Nat := 4
abbrev kiMAP : Nat := 5
abbrev kiCOLMAX : Nat := 6
abbrev kiOTHER : Nat := 7

/-- An installed station, and its field. -/
def stationOf (s : State) (k : Nat) : Option Station := Tab.find s.stations.installed k
def setStation (s : State) (k : Nat) (x : Station) : State :=
  { s with stations := { s.stations with installed := Tab.set s.stations.installed k x } }
def fieldOf (x : Station) (f : Nat) : BitVec 256 := x.fields.getD f 0
/-- Copies of a field. -/
def copyCount (x : Station) (f : Nat) : Nat := if sfVersioned (fieldOf x f) then shSlots x.header else 1
/-- First Vat slab of a copy, and first Cellar slab of its home (copies lie one after another; log entry 25). -/
def copySlab (x : Station) (f slot : Nat) : Nat := x.bases.getD f 0 + slot * sfSlabs (fieldOf x f)
def homeSlab (x : Station) (f slot : Nat) : Nat := sfHome (fieldOf x f) + slot * sfSlabs (fieldOf x f)

/-! Bytes of a shape. -/

/-- Bits of an element of a kind and format word. -/
def kindBits (kind fmt : Nat) : Nat := if kind = 1 then 16 else if kind = 2 then 8 else fmtBits (fmtElem fmt)

/-- Bytes of n elements, FP6 in whole groups (R181). -/
def kindBytes (kind fmt n : Nat) : Nat := if kind = 0 then packedBytes (fmtElem fmt) n else (n * kindBits kind fmt + 7) / 8

/-- Scales of a tensor of rows × cols: blocks along the columns, or along the rows (R184). -/
def scaleCount (fmt rows cols : Nat) (alongCols : Bool) : Nat :=
  let B := fmtBlock fmt
  if fmtScale fmt = 0 then 0
  else if alongCols then rows * ((cols + B - 1) / B) else cols * ((rows + B - 1) / B)

/-- A tensor as the Vat holds it: byte address of element 0 of its area or copy and of its scales, the rows it covers from
`row0`, and the station field copy it lies in: (station, field, slot). -/
structure View where
  base : Nat
  scale : Nat
  rows : Nat
  cols : Nat
  row0 : Nat := 0
  total : Nat
  fmt : Nat
  kind : Nat
  own : Option (Nat × Nat × Nat) := none
deriving DecidableEq, Repr

/-- Element format code. -/
def View.code (v : View) : Nat := fmtElem v.fmt
/-- Bits of an element. -/
def View.bits (v : View) : Nat := kindBits v.kind v.fmt
/-- A numeric view in A128. -/
def View.isA128 (v : View) : Bool := v.kind = 0 && v.code = 10
/-- Byte offset of element n, and the byte after element n − 1 (in whole groups for FP6). -/
def View.lo (v : View) (n : Nat) : Nat := v.bits * n / 8
def View.hi (v : View) (n : Nat) : Nat := kindBytes v.kind v.fmt n

/-- Index of the scale of element (r, c). -/
def View.scaleIndex (v : View) (alongCols : Bool) (r c : Nat) : Nat :=
  let B := fmtBlock v.fmt
  if alongCols then (v.row0 + r) * ((v.cols + B - 1) / B) + c / B else c * ((v.total + B - 1) / B) + (v.row0 + r) / B

/-- The slabs that a view's elements and scales lie in. -/
def View.slabs (v : View) : List Nat :=
  let a := v.lo (v.row0 * v.cols)
  slabsOf (v.base + a) (v.hi ((v.row0 + v.rows) * v.cols) - a) ++
  (if fmtScale v.fmt = 0 then [] else slabsOf v.scale (max (scaleCount v.fmt v.total v.cols true) (scaleCount v.fmt v.total v.cols false)))

/-- The slabs that a write of all of a view's elements covers wholly. -/
def View.whole (v : View) : List Nat :=
  let a := (v.base + v.lo (v.row0 * v.cols) + 4095) / 4096
  (List.range ((v.base + v.hi ((v.row0 + v.rows) * v.cols)) / 4096 - a)).map (· + a)

/-- The slabs of some rows' elements. -/
def View.rowSlabs (v : View) (r0 r1 c0 c1 : Nat) : List Nat :=
  ((List.range (r1 - r0)).flatMap fun i =>
    let e := (v.row0 + r0 + i) * v.cols
    slabsOf (v.base + v.lo (e + c0)) (v.hi (e + c1) - v.lo (e + c0))).dedup

/-! Reading. -/

/-- The encoding of element (r, c). -/
def View.raw (s : State) (v : View) (r c : Nat) : Nat :=
  let e := (v.row0 + r) * v.cols + c
  let bit := v.bits * e
  bitsAt (leNat (Memory.read s.vat.mem (v.base + bit / 8) ((bit % 8 + v.bits + 7) / 8))) (bit % 8) v.bits

/-- The value of element (r, c) with the flags its use brings: NAN_IN for a NaN, an A128 word's own (R183, R195, R313). -/
def View.val (s : State) (v : View) (alongCols : Bool) (r c : Nat) : Val × Nat :=
  let w := v.raw s r c
  if v.isA128 then (let x := aOfBits w; aValue x.1 x.2)
  else
    let x := if fmtScale v.fmt = 0 then decodeElem v.code false w
      else scaledVal v.code w (scaleVal (fmtScale v.fmt) (Memory.get s.vat.mem (v.scale + v.scaleIndex alongCols r c)).toNat)
    (x, if x.isNan then fNAN_IN else 0)

/-- Blocks of an element-wise operand lie along its columns where scale_dir is 0 (R276, R314). -/
def View.along (v : View) : Bool := fmtDir v.fmt = 0

/-- One row of values. -/
def View.row (s : State) (v : View) (r : Nat) : List (Val × Nat) := (List.range v.cols).map (v.val s v.along r)

/-- All values, row-major. -/
def View.vals (s : State) (v : View) : List (Val × Nat) := (List.range v.rows).flatMap (v.row s)

/-- The word of element (r, c) of an A128 view, and its anchor. -/
def View.word (s : State) (v : View) (r c : Nat) : AWord × Int := aOfBits (v.raw s r c)

/-- Bytes of a view of kind BYTES. -/
def View.bytes (s : State) (v : View) : List Byte := Memory.read s.vat.mem (v.base + v.row0 * v.cols) (v.rows * v.cols)

/-! Checks before use (R165, R169, R170, R177). -/

/-- What a step finds on the slabs it touches. -/
inductive Ready where
  | go
  | wait
  | poison
deriving DecidableEq, Repr

/-- Combine: waiting first, then poison. -/
def Ready.and : Ready → Ready → Ready
  | .wait, _ => .wait
  | _, .wait => .wait
  | .poison, _ => .poison
  | _, .poison => .poison
  | .go, .go => .go

/-- Read one slab: a pending one makes its reader wait, a failed check is handled by Table 08.3. -/
def readSlab (s : State) (n : Nat) : State × Ready :=
  if slabPending s n && s.vat.delivered ≠ some n then (s, .wait)
  else if slabPoisoned s n then (s, .poison)
  else if unitGood s n 0 then (s, .go)
  else
    let s := failUnit s n 0
    (s, if slabPending s n then .wait else .poison)

/-- Read many. -/
def readSlabs (s : State) (ns : List Nat) : State × Ready :=
  ns.foldl (fun x n => let y := readSlab x.1 n; (y.1, x.2.and y.2)) (s, .go)

/-- Before a write of slabs, those of `whole` wholly: a pending slab makes it wait (R167), and one written in part is read and checked
before the merge (R166). -/
def writeSlabs (s : State) (whole ns : List Nat) : State × Ready :=
  let x := readSlabs s (ns.filter fun n => !whole.contains n)
  (x.1, if x.2 = .wait || whole.any (slabPending x.1) then .wait else .go)

/-! Writing. -/

/-- The Cellar copy of a slab written in through mode is issued (R168). -/
def throughCopy (s : State) (n c : Nat) : State :=
  { s with vat := { s.vat with copies := s.vat.copies.filter (fun x => x.1 ≠ n) ++ [(n, c)] } }

/-- The copy is complete: the Vat slab is read and checked, the home follows, and the source is valid again. A slab whose check fails has
no source and is poisoned (R168, R171). -/
def throughDone (s : State) (n c : Nat) : State :=
  let r := readSlab s n
  if r.2 = .go then
    let s := cellarPut r.1 (4096 * c) (Memory.read r.1.vat.mem (4096 * n) 4096)
    setTag s n { tagOf s n with sourceValid := true, sourceSlab := c }
  else r.1

/-- Every copy whose slab is not pending completes. -/
def throughCopies (s : State) : State :=
  s.vat.copies.foldl (fun s x => if slabPending s x.1 then throughCopy s x.1 x.2 else throughDone s x.1 x.2)
    { s with vat := { s.vat with copies := [] } }

/-- A step's write of bytes into a view: through to the home where the field asks for it (R326). -/
def stepPut (s : State) (v : View) (a : Nat) (b : List Byte) : State :=
  let s := vatPut s a b
  match v.own with
  | none => s
  | some (k, f, slot) => match stationOf s k with
    | none => s
    | some x =>
      if sfThrough (fieldOf x f) then
        (slabsOf a b.length).foldl (fun s n => throughCopy s n (homeSlab x f slot + (n - copySlab x f slot))) s
      else s

/-- Write encodings to consecutive elements from element `e` of a view's storage; bits of neighbours in a shared byte stay, and
the padding after the last element is zero (R181). -/
def putRun (s : State) (v : View) (e : Nat) (encs : List Nat) : State :=
  if encs.isEmpty then s
  else
    let b := v.bits
    let n := encs.length
    let lo := v.lo e
    let last := decide (v.total * v.cols ≤ e + n)
    let hi := if last then v.hi (e + n) else (b * (e + n) + 7) / 8
    let lead := b * e % 8
    let old := leNat (Memory.read s.vat.mem (v.base + lo) (hi - lo))
    let mid := encs.zipIdx.foldl (fun a x => a + x.1 % 2 ^ b * 2 ^ (lead + b * x.2)) 0
    let tail := if last then 0 else old / 2 ^ (lead + b * n) * 2 ^ (lead + b * n)
    stepPut s v (v.base + lo) (leBytes (hi - lo) (old % 2 ^ lead + mid + tail))

/-- Write a row-major rectangle of a view from (r0, c0), `w` elements wide. -/
def putRect (s : State) (v : View) (r0 c0 w : Nat) (encs : List Nat) : State :=
  if w = v.cols then putRun s v ((v.row0 + r0) * v.cols) encs
  else (List.range ((encs.length + w - 1) / w)).foldl (fun s i =>
    putRun s v ((v.row0 + r0 + i) * v.cols + c0) ((encs.drop (i * w)).take w)) s

/-- Write scale bytes: (index, byte). -/
def putScales (s : State) (v : View) (xs : List (Nat × Nat)) : State :=
  xs.foldl (fun s x => stepPut s v (v.scale + x.1) [BitVec.ofNat 8 x.2]) s

/-- Every slab of a list gets poisoned set (R283). -/
def poisonSlabs (s : State) (ns : List Nat) : State := ns.foldl (fun s n => setTag s n { tagOf s n with poisoned := true, sourceValid := false }) s

/-! Results (R187, R188, R198, R276, R308). -/

/-- What a result tensor reports: OR of the flags, number of INVALID elements, lowest index among them. -/
structure Report where
  flags : Nat := 0
  invalid : Nat := 0
  first : Nat := 0xFFFF_FFFF_FFFF_FFFF
deriving DecidableEq, Repr

/-- Add one element. -/
def Report.elem (p : Report) (index flags : Nat) : Report :=
  { flags := p.flags ||| flags, invalid := if flags.testBit 0 then min 0xFFFFFFFF (p.invalid + 1) else p.invalid,
    first := if flags.testBit 0 then min p.first index else p.first }

/-- Add another report. -/
def Report.and (p q : Report) : Report :=
  { flags := p.flags ||| q.flags, invalid := min 0xFFFFFFFF (p.invalid + q.invalid), first := min p.first q.first }

/-- The rounding of a step: mode, seed and step of the SR key (R190, R308). -/
structure Rounding where
  mode : Nat
  seed : Word
  step : Nat
  /-- the values come from A128 words, which convert by R195 -/
  anchored : Bool := false
deriving DecidableEq, Repr

/-- The SR word of an element index. -/
def Rounding.word (k : Rounding) (index : Nat) : Nat := srWord k.seed k.step index

/-- Encode and write a rectangle of unscaled results from (r0, c0), given as values with their flags. -/
def putPlain (s : State) (v : View) (k : Rounding) (r0 c0 w : Nat) (vals : List (Val × Nat)) : State × Report :=
  let es := vals.zipIdx.map fun x =>
    let i := (r0 + x.2 / w) * v.cols + c0 + x.2 % w
    let e := encodeElem v.code k.mode (k.word i) false false x.1.1
    (i, if k.anchored then outElem v.code k.mode (k.word i) x.1 else (e.1, e.2 ||| x.1.2))
  (putRect s v r0 c0 w (es.map (·.2.1)), es.foldl (fun p e => p.elem e.1 e.2.2) {})

/-- The blocks of a rectangle in a scaled view: for each scale, its index and the rectangle positions it serves. -/
def blockList (v : View) (r0 c0 h w : Nat) : List (Nat × List Nat) :=
  let B := fmtBlock v.fmt
  if v.along then
    (List.range h).flatMap fun i => (List.range ((w + B - 1) / B)).map fun b =>
      (v.scaleIndex true (r0 + i) (c0 + b * B), (List.range (min B (w - b * B))).map fun j => i * w + b * B + j)
  else
    (List.range w).flatMap fun j => (List.range ((h + B - 1) / B)).map fun b =>
      (v.scaleIndex false (r0 + b * B) (c0 + j), (List.range (min B (h - b * B))).map fun i => (b * B + i) * w + j)

/-- Encode and write a rectangle of scaled results (R185). -/
def putScaled (s : State) (v : View) (k : Rounding) (r0 c0 h w : Nat) (vals : List (Val × Nat)) : State × Report :=
  let sf := fmtScale v.fmt
  let blocks := (blockList v r0 c0 h w).map fun b => (b.1, blockScale v.code sf (b.2.map fun p => (vals.getD p (.nan, 0)).1), b.2)
  let es := blocks.flatMap fun b => b.2.2.map fun p =>
    let x := vals.getD p (.nan, 0)
    let i := (r0 + p / w) * v.cols + c0 + p % w
    let e := encodeScaled v.code sf k.mode (k.word i) b.2.1 x.1
    (p, i, if k.anchored then outFlags x e else (e.1, e.2 ||| x.2))
  let encs := (es.foldl (fun (t : Tab Nat) e => Tab.set t e.1 e.2.2.1) []).map (·.2)
  let s := putScales (putRect s v r0 c0 w encs) v (blocks.map fun b => (b.1, b.2.1))
  (s, es.foldl (fun p e => p.elem e.2.1 e.2.2.2) {})

/-- Write a rectangle of results in a view's format. -/
def putVals (s : State) (v : View) (k : Rounding) (r0 c0 h w : Nat) (vals : List (Val × Nat)) : State × Report :=
  if fmtScale v.fmt = 0 then putPlain s v k r0 c0 w vals else putScaled s v k r0 c0 h w vals

/-- Write a whole view of results. -/
def putAll (s : State) (v : View) (k : Rounding) (vals : List (Val × Nat)) : State × Report := putVals s v k 0 0 v.rows v.cols vals

/-- Flags of a stored A128 word as a result (R276): its tags. -/
def wordFlags (w : AWord) : Nat :=
  (if w.tag &&& tSAT ≠ 0 then fSAT else 0) ||| (if w.tag &&& tNAN ≠ 0 then fNAN_IN else 0) |||
  (if w.tag &&& (tPINF ||| tNINF) = tPINF ||| tNINF then fINVALID else 0)

/-- Write a rectangle of A128 words. -/
def putWords (s : State) (v : View) (r0 c0 w : Nat) (ws : List (AWord × Int)) : State × Report :=
  (putRect s v r0 c0 w (ws.map fun x => aBits x.1 x.2),
   ws.zipIdx.foldl (fun p x => p.elem ((r0 + x.2 / w) * v.cols + c0 + x.2 % w) (wordFlags x.1.1)) {})

end Sys2Proof.Machine
end

