-- ==== Sys2Proof/Machine/Runs.lean ====
section
/-! DEFINITION. Running invocations (13): the current step and its operands, station states, version slots (R324, R325), field
locks (R302, R341), and how a step starts, waits and ends (R301, R322). -/
namespace Sys2Proof.Machine

/-! Invocation statuses (Table 13.7). -/

abbrev isOK : Nat := 0
abbrev isBUSY : Nat := 1
abbrev isNOT_INSTALLED : Nat := 2
abbrev isNOT_LOCAL : Nat := 3
abbrev isBAD_INPUT : Nat := 4
abbrev isFORMAT : Nat := 5
abbrev isMODE : Nat := 6
abbrev isNOT_READY : Nat := 7
abbrev isSTALE_VERSION : Nat := 8
abbrev isVERSION_ORDER : Nat := 9
abbrev isPOISONED : Nat := 10
abbrev isINCONSISTENT : Nat := 11
abbrev isTIMEOUT : Nat := 12
abbrev isNO_CLUSTER : Nat := 13
abbrev isDIVERGED : Nat := 14
abbrev isCOLL_FAIL : Nat := 15
abbrev isUNREACHED : Nat := 16

/-! Step operations (Table 13.5). -/

abbrev soMATMUL : Nat := 1
abbrev soTOPK : Nat := 2
abbrev soSOFTMAX : Nat := 3
abbrev soNORM : Nat := 4
abbrev soSCALE : Nat := 5
abbrev soADD : Nat := 6
abbrev soCONVERT : Nat := 7
abbrev soSTAGE : Nat := 8
abbrev soDISPATCH : Nat := 9
abbrev soCOMBINE : Nat := 10
abbrev soREDUCE : Nat := 11
abbrev soUPDATE : Nat := 12
abbrev soDIGEST : Nat := 13
abbrev soBARRIER : Nat := 14

/-! Access. -/

/-- An open invocation, and a change of it. -/
def invOf (s : State) (i : Nat) : Option Inv := Tab.find s.recipes.invs i
def setInv (s : State) (i : Nat) (v : Inv) : State := { s with recipes := { s.recipes with invs := Tab.set s.recipes.invs i v } }
def modInv (s : State) (i : Nat) (f : Inv → Inv) : State :=
  match invOf s i with
  | some v => setInv s i (f v)
  | none => s

/-- An installed recipe. -/
def recipeOf (s : State) (k : Nat) : Option Recipe := Tab.find s.recipes.installed k

/-- An invocation at its current step. -/
structure Run where
  i : Nat
  v : Inv
  r : Recipe
  w : BitVec 128
deriving DecidableEq, Repr

/-- The step an invocation is to start, or waits in: it holds a context, no step has ended it, and the step has not run. -/
def runOf (s : State) (i : Nat) : Option Run :=
  match invOf s i with
  | none => none
  | some v =>
    if !v.started || v.status.isSome || v.phase = .running || v.phase = .done then none
    else match recipeOf s v.recipe with
      | none => none
      | some r => match r.steps[v.step]? with
        | some w => some ⟨i, v, r, w⟩
        | none => none

/-- A descriptor of the recipe; 0xFF names no operand. -/
def Run.desc (x : Run) (n : Nat) : Option (BitVec 256) := if n = 0xFF then none else x.r.tensors[n]?

/-- Descriptor indices that name an operand. -/
def named (l : List Nat) : List Nat := l.filter (· ≠ 0xFF)

/-- The source descriptors of a step (Table 13.5). -/
def stepSources (w : BitVec 128) : List Nat :=
  let op := swOp w
  if op = soMATMUL then named [swA w, swB w, swC w, mmMeta w, mmZero w]
  else if op = soSTAGE then (if swSub w = 1 then named [swD w] else [])
  else if op = soTOPK then named [swA w]
  else if op = soREDUCE then (if swSub w = 2 then [] else named [swA w])
  else if op = soUPDATE then named [swA w, bitsAt (swParam w) 0 8]
  else if op = soBARRIER then []
  else named [swA w, swB w, swC w]

/-- The destination descriptors. -/
def stepDests (w : BitVec 128) : List Nat :=
  let op := swOp w
  if op = soMATMUL then named ([swD w] ++ (if mmKind w = 1 then [mmSecond w] else []) ++ [mmStash w])
  else if op = soTOPK then named [swD w, swC w]
  else if op = soSTAGE then (if swSub w = 0 then named [swD w] else [])
  else if op = soUPDATE then named [swD w, swB w, swC w]
  else if op = soDISPATCH || op = soBARRIER then []
  else named [swD w]

/-- UPDATE clears its gradient after reading it (R318). -/
def swClearGrad (w : BitVec 128) : Bool := bitAt w.toNat 64

/-- The step changes its gradient field: cleared, or replaced by the replica sum (R318, R344). -/
def gradWritten (s : State) (w : BitVec 128) (k : Nat) : Bool :=
  swClearGrad w || (match stationOf s k with | some x => shGroup x.header ≠ 0xFFFF | none => false)

/-! Tensors of the current step (R305). -/

/-- First row of a descriptor in its field: a STASH with rows per token starts at the token's rows (R341). -/
def stashRow (kind : Nat) (t : BitVec 256) (tokenBase : Nat) : Nat := if kind = kiSTASH && tdPerToken t then tokenBase * tdRows t else 0

/-- The slot that holds a version for the current step. -/
def slotFor (v : Inv) (station version : Nat) : Nat :=
  match v.readers.find? fun x => x.1 = v.step && x.2.1 = station * 4 + version with
  | some x => x.2.2
  | none => if version = 2 then v.slotTaken.getD 0 else 0

/-- The tensor that a descriptor names for an invocation. -/
def viewOf (s : State) (v : Inv) (t : BitVec 256) : Option View :=
  let rows := tdRowsAt t v.tokenCount
  let mk (base row0 total : Nat) (own : Option (Nat × Nat × Nat)) : View :=
    { base := 4096 * base + tdOffset t, scale := 4096 * base + tdScale t, rows := rows, cols := tdCols t, row0 := row0, total := total,
      fmt := tdFmt t, kind := tdKind t, own := own }
  match tdSpace t with
  | 0 => some (mk v.inputBase 0 rows none)
  | 1 => some (mk v.scratchBase 0 rows none)
  | 2 => some (mk v.outputBase 0 rows none)
  | _ => match stationOf s (tdStation t) with
    | none => none
    | some x =>
      let f := fieldOf x (tdField t)
      let slot := if tdVersion t = 0 then 0 else slotFor v (tdStation t) (tdVersion t)
      let row0 := stashRow (sfKind f) t v.tokenBase
      some (mk (copySlab x (tdField t) slot) row0 (if sfKind f = kiSTASH then sfRows f else rows) (some (tdStation t, tdField t, slot)))

/-- The tensor of a descriptor index of the step. -/
def Run.view (s : State) (x : Run) (n : Nat) : Option View := (x.desc n).bind (viewOf s x.v)

/-- The tensors of some descriptor indices. -/
def Run.views (s : State) (x : Run) (ns : List Nat) : List View := ns.filterMap (x.view s)

/-- The rounding of a step's output conversion into a tensor (R187, R308). -/
def Run.rounding (s : State) (x : Run) (d : View) : Rounding :=
  { mode := swRound x.w, step := x.v.stepTag,
    seed := match d.own with
      | some (k, _) => (stationOf s k).elim 0 fun y => shSeed y.header
      | none => rhSeed x.r.header }

/-! Station states (R323, R326). -/

/-- The stations a step names, in operand order. -/
def Run.stations (x : Run) : List Nat :=
  ((stepDests x.w ++ stepSources x.w).filterMap fun n => (x.desc n).bind fun t => if tdSpace t = 3 then some (tdStation t) else none).dedup

/-- What a station's state makes of a step: a status, or nothing. -/
def stationStatus (s : State) (x : Run) (k : Nat) : Option Nat :=
  match stationOf s k with
  | none => some isNOT_READY
  | some y =>
    let stage := swOp x.w = soSTAGE
    let staged := stage && swSub x.w = 0 && (match x.desc (swD x.w) with | some t => tdVersion t ≠ 0 | none => false)
    if y.state = 3 then some isINCONSISTENT
    else if y.state = 1 && !stage && !(swOp x.w = soDIGEST && swSub x.w = 0) then some isNOT_READY
    else if y.state ≠ 1 && staged then some isNOT_READY
    else none

/-- The first station whose state ends the step. -/
def Run.problem (s : State) (x : Run) : Option (Nat × Nat) :=
  x.stations.findSome? fun k => (stationStatus s x k).map fun st => (st, k)

/-! Ending a step (R322). -/

/-- A step ends with a status other than OK, at a station or none. -/
def endStep (s : State) (i status station : Nat) : State :=
  modInv s i fun v => { v with status := some status, phase := .done, station := station }

/-- A step has run: its report joins the invocation's. -/
def doneStep (s : State) (i : Nat) (p : Report) : State :=
  modInv s i fun v => { v with phase := .done, stepFlags := v.stepFlags ||| BitVec.ofNat 8 p.flags,
                               stepInvalid := min 0xFFFFFFFF (v.stepInvalid + p.invalid), stepFirst := min v.stepFirst p.first }

/-- A step waits: for locks, a slot, a version or slabs; or for something that RecipeStepTimeout does not bound. -/
def waitStep (s : State) (i : Nat) : State := modInv s i fun v => { v with phase := .waiting }
def blockStep (s : State) (i : Nat) : State := modInv s i fun v => { v with phase := .blocked }

/-! Versions (R324, R325). -/

/-- The newest kept tag of a station. -/
def newestTag (y : Station) : Option Nat :=
  y.slots.foldl (fun m x => if x.state = 1 then some (max (m.getD 0) x.tag) else m) none

/-- The kept slot with the largest tag at or below `t`. -/
def readSlot (y : Station) (t : Nat) : Option Nat :=
  (y.slots.zipIdx.foldl (fun (m : Option (Nat × Nat)) x =>
    if x.1.state = 1 && x.1.tag ≤ t then
      match m with
      | some b => if b.1 < x.1.tag then some (x.1.tag, x.2) else m
      | none => some (x.1.tag, x.2)
    else m) none).map (·.2)

/-- The kept slot with exactly tag `t`: version NEW outside UPDATE (log entry 26). -/
def exactSlot (y : Station) (t : Nat) : Option Nat := y.slots.findIdx? fun x => x.state = 1 && x.tag = t

/-- An UPDATE of the station admitted earlier waits or runs. -/
def updateAhead (s : State) (y : Station) (v : Inv) : Bool :=
  y.updateQueue.any fun j => match invOf s j with | some u => decide (u.order < v.order) | none => false

/-- How a version request ends. -/
inductive Pick where
  | slot (k : Nat)
  | wait
  | stale
deriving DecidableEq, Repr

/-- The slot a step reads. -/
def pickSlot (s : State) (v : Inv) (station version : Nat) : Pick :=
  match stationOf s station with
  | none => .stale
  | some y =>
    if version = 2 then (match exactSlot y ((v.stepTag + 1) % 2 ^ 32) with | some k => .slot k | none => .stale)
    else if (match newestTag y with | some n => decide (n < v.stepTag) | none => true) && updateAhead s y v then .wait
    else match readSlot y v.stepTag with
      | some k => .slot k
      | none => .stale

/-- The versions a step reads: (station, version); an UPDATE's weight is read when it takes its slot. -/
def Run.versions (x : Run) : List (Nat × Nat) :=
  ((stepSources x.w ++ (if swOp x.w = soUPDATE then [] else stepDests x.w)).filterMap fun n => (x.desc n).bind fun t =>
    if tdSpace t = 3 && tdVersion t ≠ 0 then some (tdStation t, tdVersion t) else none).dedup

/-- Change one slot of a station. -/
def modSlot (s : State) (station k : Nat) (f : VSlot → VSlot) : State :=
  match stationOf s station with
  | some y => setStation s station { y with slots := y.slots.modify k f }
  | none => s

/-- Hold a reader count on a slot for the current step, and note the tag read. -/
def holdSlot (s : State) (i station version k : Nat) : State :=
  match invOf s i, stationOf s station with
  | some v, some y =>
    let tag := (y.slots.getD k {}).tag
    let s := setInv s i { v with readers := v.readers ++ [(v.step, station * 4 + version, k)],
                                 readTag := if v.readTag = 0xFFFFFFFF then tag else max v.readTag tag }
    modSlot s station k fun z => { z with readers := z.readers + 1 }
  | _, _ => s

/-- A read whose tag lies below the oldest kept one (R325). -/
def staleRead (s : State) (i station : Nat) : State :=
  match invOf s i, stationOf s station with
  | some v, some y =>
    let s := setStation s station { y with stale := min 0xFFFFFFFF (y.stale + 1) }
    endStep (raiseFault s 23 10 station (w64 v.stepTag)) i isSTALE_VERSION station
  | _, _ => s

/-- Take every reader count the step needs and does not hold; `none` where one must wait. -/
def takeVersions (s : State) (x : Run) : List (Nat × Nat) → Option State
  | [] => some s
  | (k, ver) :: t =>
    if x.v.readers.any fun h => h.1 = x.v.step && h.2.1 = k * 4 + ver then takeVersions s x t
    else match pickSlot s x.v k ver with
      | .wait => none
      | .stale => some (staleRead s x.i k)
      | .slot n => takeVersions (holdSlot s x.i k ver n) x t

/-! Locks (R302, R341). -/

/-- The lock one operand needs: on a non-versioned station field. -/
def lockFor (s : State) (x : Run) (write : Bool) (n : Nat) : Option Lock :=
  (x.desc n).bind fun t =>
    if tdSpace t ≠ 3 then none
    else match stationOf s (tdStation t) with
      | none => none
      | some y =>
        let f := fieldOf y (tdField t)
        let r0 := stashRow (sfKind f) t x.v.tokenBase
        if sfVersioned f then none
        else some { inv := x.i, step := x.v.step, station := tdStation t, field := tdField t, write := write,
                    rows := if sfKind f = kiSTASH then some (r0, tdRowsAt t x.v.tokenCount) else none }

/-- Every lock the step needs. -/
def Run.locks (s : State) (x : Run) : List Lock :=
  let grad := swOp x.w = soUPDATE && (match x.desc (swA x.w) with | some t => gradWritten s x.w (tdStation t) | none => false)
  (stepDests x.w).filterMap (lockFor s x true) ++ (stepSources x.w).filterMap fun n => lockFor s x (grad && n = swA x.w) n

/-- Row ranges meet; a lock without rows covers the field. -/
def rowsMeet : Option (Nat × Nat) → Option (Nat × Nat) → Bool
  | some a, some b => a.1 < b.1 + b.2 && b.1 < a.1 + a.2
  | _, _ => true

/-- Two locks exclude each other. -/
def lockClash (a b : Lock) : Bool :=
  !(a.inv = b.inv && a.step = b.step) && a.station = b.station && a.field = b.field && (a.write || b.write) && rowsMeet a.rows b.rows

/-- The requests made before those of a step. -/
def queueAhead (q : List Lock) (i step : Nat) : List Lock := q.takeWhile fun l => !(l.inv = i && l.step = step)

/-- Take every lock at once, or wait in the order of the requests. -/
def takeLocks (s : State) (x : Run) : State × Bool :=
  let need := x.locks s
  let q := s.recipes.lockQueue
  let mine (l : Lock) : Bool := l.inv = x.i && l.step = x.v.step
  if need.all fun l => !((s.recipes.locks ++ queueAhead q x.i x.v.step).any (lockClash l)) then
    ({ s with recipes := { s.recipes with locks := s.recipes.locks.filter (fun l => !mine l) ++ need, lockQueue := q.filter fun l => !mine l } }, true)
  else if q.any mine then (s, false)
  else ({ s with recipes := { s.recipes with lockQueue := q ++ need } }, false)

/-- Release what a step holds: locks, requests and reader counts. -/
def releaseStep (s : State) (i step : Nat) : State :=
  match invOf s i with
  | none => s
  | some v =>
    let mine (l : Lock) : Bool := l.inv = i && l.step = step
    let s := { s with recipes := { s.recipes with locks := s.recipes.locks.filter fun l => !mine l,
                                                  lockQueue := s.recipes.lockQueue.filter fun l => !mine l } }
    let s := (v.readers.filter fun h => h.1 = step).foldl (fun s h => modSlot s (h.2.1 / 4) h.2.2 fun z => { z with readers := z.readers - 1 }) s
    modInv s i fun v => { v with readers := v.readers.filter fun h => h.1 ≠ step }

/-! Starting a step. -/

/-- What ends a MATMUL at its issue (R309, Table 13.7). -/
def matmulProblem (s : State) (w : BitVec 128) : Option Nat :=
  if swOp w ≠ soMATMUL then none
  else if !mmAnchored w && rd s eDeterminismStrict = 1 then some isMODE
  else if s.knead.order.isEmpty then some isNO_CLUSTER
  else none

/-- Start the current step, or go on waiting for it: station states, the conditions at issue, versions, locks, then the step
itself. An UPDATE takes its slot first (R324). -/
def startStep (s : State) (i : Nat) (run : State → Run → State) : State :=
  match runOf s i with
  | none => s
  | some x => match x.problem s with
    | some (st, k) => endStep s i st k
    | none => match matmulProblem s x.w with
      | some st => endStep (if st = isMODE then bump s eStrictRefusedCount else s) i st 0xFFFF
      | none => match takeVersions s x x.versions with
        | none => waitStep s i
        | some s => match runOf s i with
          | none => s
          | some x =>
            if swOp x.w = soUPDATE then run s x
            else
              let l := takeLocks s x
              if l.2 then run l.1 x else waitStep l.1 i

/-- Have a step's effect once its slabs can be read and written: a pending one blocks it, a poisoned source ends it. -/
def withData (s : State) (x : Run) (srcs dsts : List View) (f : State → State × Report) : State :=
  let a := readSlabs s (srcs.flatMap View.slabs)
  match a.2 with
  | .wait => blockStep a.1 x.i
  | .poison => endStep a.1 x.i isPOISONED 0xFFFF
  | .go =>
    let b := writeSlabs a.1 (dsts.flatMap View.whole) (dsts.flatMap View.slabs)
    if b.2 = .wait then blockStep b.1 x.i
    else
      let r := f b.1
      doneStep r.1 x.i r.2

end Sys2Proof.Machine
end

