-- ==== Sys2Proof/Machine/Knead.lean ====
section
/-! DEFINITION. The Knead (12): a MATMUL's products, units and passes, both modes, checks, recomputes, repairs, takeovers and
the output stage. -/
namespace Sys2Proof.Machine

/-! Products (R265, R271, R275, R309). -/

/-- One product Y = op(A) · op(B) of a step. -/
structure Product where
  a : View
  transA : Bool
  b : View
  transB : Bool
  d : View
  /-- it belongs to a backward pair -/
  backward : Bool
  anchored : Bool
  /-- 0 SCAN, 1 STATIC, 2 ACCUMULATE -/
  mode : Nat
  static : Int
  colmax : Option View
  /-- 2:4 metadata, zero-tile bitmap -/
  sparse : Option View
  zero : Option View
deriving DecidableEq, Repr

/-- A step's products (R309): Y = op(A) · op(B), or a pair's dX = op(A) · op(B)ᵀ and dW = Xᵀ · op(A). 2:4 sparsity and zero tiles are those of
b (R277, R278). -/
def productsOf (s : State) (x : Run) : List Product :=
  let w := x.w
  let mk (a : View) (ta : Bool) (b : View) (tb : Bool) (d : View) : Product :=
    { a := a, transA := ta, b := b, transB := tb, d := d, backward := decide (mmKind w = 1), anchored := mmAnchored w, mode := mmAnchorMode w,
      static := signed 12 (mmAnchor w), colmax := none, sparse := none, zero := none }
  let main (p : Product) : Product := { p with sparse := if mmSparse w then x.view s (mmMeta w) else none, zero := x.view s (mmZero w) }
  if mmKind w = 0 then
    match x.view s (swA w), x.view s (swB w), x.view s (swD w) with
    | some a, some b, some d => [{ main (mk a (mmTransA w) b (mmTransB w) d) with colmax := x.view s (swC w) }]
    | _, _, _ => []
  else
    match x.view s (swA w), x.view s (swB w), x.view s (swC w), x.view s (swD w), x.view s (mmSecond w) with
    | some dy, some wt, some xs, some dx, some dw => [main (mk dy (mmTransA w) wt (!mmTransB w) dx), mk xs true dy (mmTransA w) dw]
    | _, _, _, _, _ => []

/-- M, N and K. -/
def Product.M (p : Product) : Nat := if p.transA then p.a.cols else p.a.rows
def Product.N (p : Product) : Nat := if p.transB then p.b.rows else p.b.cols
def Product.K (p : Product) : Nat := if p.transA then p.a.rows else p.a.cols

/-- Packing of an element width (Table 12.1). -/
def packing (bits : Nat) : Nat := if 16 ≤ bits then 1 else if 5 ≤ bits then 2 else 4

/-- K positions of a chunk: the wider operand's packing, doubled under 2:4. -/
def Product.Kc (p : Product) : Nat := 128 * packing (max p.a.bits p.b.bits) * (if p.sparse.isSome then 2 else 1)

/-- Tiles and chunks. -/
def upDiv (a b : Nat) : Nat := (a + b - 1) / b
def Product.nM (p : Product) : Nat := upDiv p.M 128
def Product.nN (p : Product) : Nat := upDiv p.N 128
def Product.nK (p : Product) : Nat := upDiv p.K p.Kc

/-- The K groups of a step issued with c clusters in service (R272). -/
def foldGroups (c nN nK : Nat) : Nat := min nK (max 1 (c / nN))
def Product.groups (p : Product) (c : Nat) : Nat := foldGroups c p.nN p.nK

/-! Elements (R183, R184, R277 to R279). -/

/-- Element (m, k) of op(A), scaled. -/
def Product.aVal (s : State) (p : Product) (m k : Nat) : Val :=
  (p.a.val s (decide (fmtDir p.a.fmt = 0) != p.transA) (if p.transA then k else m) (if p.transA then m else k)).1

/-- The stored element at row r of op(B)'s storage and column n. -/
def Product.bStored (s : State) (p : Product) (r n : Nat) : Val :=
  (p.b.val s (decide (fmtDir p.b.fmt = 0) == p.transB) (if p.transB then n else r) (if p.transB then r else n)).1

/-- The tile (kc, nc) is flagged absent (R278). -/
def Product.zeroTile (s : State) (p : Product) (kc nc : Nat) : Bool :=
  match p.zero with
  | none => false
  | some z => let i := kc * p.nN + nc; (Memory.get s.vat.mem (z.base + i / 8)).toNat.testBit (i % 8)

/-- The metadata nibble of group t and column n (Table 12.3): positions of the two kept elements. -/
def Product.nibble (s : State) (p : Product) (z : View) (t n : Nat) : Nat × Nat :=
  let i := t * p.N + n
  let v := bitsAt (Memory.get s.vat.mem (z.base + i / 2)).toNat (4 * (i % 2)) 4
  (v % 4, v / 4)

/-- Element (k, n) of op(B), where it is present. -/
def Product.bVal (s : State) (p : Product) (k n : Nat) : Option Val :=
  if p.zeroTile s (k / p.Kc) (n / 128) then none
  else match p.sparse with
    | none => some (p.bStored s k n)
    | some z =>
      let x := p.nibble s z (k / 4) n
      if k % 4 = x.1 then some (p.bStored s (2 * (k / 4)) n)
      else if k % 4 = x.2 then some (p.bStored s (2 * (k / 4) + 1) n)
      else none

/-- A metadata nibble breaks R277. -/
def Product.badNibble (s : State) (p : Product) : Bool :=
  match p.sparse with
  | none => false
  | some z => (List.range (upDiv p.K 4)).any fun t => (List.range p.N).any fun n =>
      let x := p.nibble s z t n
      x.2 ≤ x.1 || p.K ≤ 4 * t + x.1 || p.K ≤ 4 * t + x.2

/-- K positions of a chunk; row m of A and column n of B over them. -/
def Product.kList (p : Product) (kc : Nat) : List Nat := (List.range (min p.Kc (p.K - p.Kc * kc))).map (· + p.Kc * kc)
def Product.aRow (s : State) (p : Product) (m kc : Nat) : List Val := (p.kList kc).map (p.aVal s m)
def Product.bCol (s : State) (p : Product) (n kc : Nat) : List (Option Val) := (p.kList kc).map fun k => p.bVal s k n
/-- Rows of an M tile, columns of an N chunk. -/
def Product.mList (p : Product) (mt : Nat) : List Nat := (List.range (min 128 (p.M - 128 * mt))).map (· + 128 * mt)
def Product.nList (p : Product) (nc : Nat) : List Nat := (List.range (min 128 (p.N - 128 * nc))).map (· + 128 * nc)

/-- The slabs under a rectangle of a view and its scales. -/
def View.rectSlabs (v : View) (along : Bool) (r0 r1 c0 c1 : Nat) : List Nat :=
  v.rowSlabs r0 r1 c0 c1 ++
  (if fmtScale v.fmt = 0 then []
   else ((List.range (r1 - r0)).flatMap fun i => (List.range (c1 - c0)).map fun j => (v.scale + v.scaleIndex along (r0 + i) (c0 + j)) / 4096).dedup)

/-- The slabs of A that a pass streams, and of B that its tile loads. -/
def Product.aSlabs (p : Product) (mt kc : Nat) : List Nat :=
  let m0 := 128 * mt; let m1 := min p.M (m0 + 128); let k0 := p.Kc * kc; let k1 := min p.K (k0 + p.Kc)
  let al := decide (fmtDir p.a.fmt = 0) != p.transA
  if p.transA then p.a.rectSlabs al k0 k1 m0 m1 else p.a.rectSlabs al m0 m1 k0 k1

def Product.bSlabs (p : Product) (nc kc : Nat) : List Nat :=
  let n0 := 128 * nc; let n1 := min p.N (n0 + 128)
  let per := if p.sparse.isSome then p.Kc / 2 else p.Kc
  let rows := if p.sparse.isSome then 2 * upDiv p.K 4 else p.K
  let k0 := per * kc; let k1 := min rows (k0 + per)
  let al := decide (fmtDir p.b.fmt = 0) == p.transB
  if p.transB then p.b.rectSlabs al n0 n1 k0 k1 else p.b.rectSlabs al k0 k1 n0 n1

/-- Destination slabs of a tile. -/
def Product.dSlabs (p : Product) (mt nc : Nat) : List Nat :=
  p.d.rectSlabs p.d.along (128 * mt) (min p.M (128 * mt + 128)) (128 * nc) (min p.N (128 * nc + 128))

/-! Anchors (R275). -/

/-- E_a(m), E_b(n): the largest floor(log2) of a row of A, a column of B. COLMAX supplies the latter; −32,768 stands for a
column without a finite non-zero element (log entry 27). -/
def maxExp (vs : List Val) : Option Int := vs.foldl (fun a v => match v.log2, a with
  | some e, some b => some (max e b)
  | some e, none => some e
  | none, a => a) none
def Product.expA (s : State) (p : Product) (m : Nat) : Option Int := maxExp ((List.range p.K).map (p.aVal s m))
def Product.expB (s : State) (p : Product) (n : Nat) : Option Int :=
  match p.colmax with
  | some c =>
    let e := signed 16 (leNat (Memory.read s.vat.mem (c.base + 2 * n) 2))
    if e = -32768 then none else some e
  | none => maxExp ((List.range p.K).filterMap fun k => p.bVal s k n)

/-- The anchor of element (m, n); the maxima of SCAN are those that the step read before its first pass. -/
def Product.anchor (s : State) (p : Product) (maxA maxB : List (Option Int)) (m n : Nat) : Int :=
  if p.mode = 1 then p.static
  else if p.mode = 2 then (p.d.word s m n).2
  else match maxA.getD m none, maxB.getD n none with
    | some a, some b => max (-2048) (min (a + b + 1) 2047)
    | _, _ => -2048

/-- The slabs of B under tiles that are not flagged absent (R278). -/
def Product.bPresent (s : State) (p : Product) : List Nat :=
  ((List.range p.nK).flatMap fun kc => (List.range p.nN).flatMap fun nc => if p.zeroTile s kc nc then [] else p.bSlabs nc kc).dedup

/-! Passes (R268, R273, R275). -/

/-- One FLOAT multiply-accumulate: the product rounded once, then the sum (R196); a NaN raises a flag where it arises or enters. -/
def floatMac (acc : Nat × Nat) (a b : Val) : Nat × Nat :=
  let p := Val.mul a b
  let pe := rneF32 p.1
  let y := f32 acc.1
  let t := Val.add y (f32 pe.1)
  let te := rneF32 t.1
  (te.1, acc.2 ||| p.2 ||| pe.2 ||| (if y.isNan || p.1.isNan then 0 else t.2 ||| te.2))

/-- One K chunk of one FLOAT element: a vector of A against a column of the tile; absent elements take no part (R279). -/
def floatCol (acc : Nat × Nat) (row : List Val) (col : List (Option Val)) : Nat × Nat :=
  (row.zip col).foldl (fun acc e => match e.2 with
    | some b => floatMac acc e.1 b
    | none => acc) acc

/-- One K chunk of one ANCHOR element: the word, and the number of clamped products. -/
def anchorCol (A : Int) (acc : AWord) (row : List Val) (col : List (Option Val)) : AWord × Nat :=
  (row.zip col).foldl (fun (acc : AWord × Nat) e => match e.2 with
    | some b =>
      let t := contributeProduct e.1 b A
      (acc.1.add t, acc.2 + b2n (t.tag &&& tSAT ≠ 0))
    | none => acc) (acc, 0)

/-! Residues (R280). -/

/-- p = 2^61 − 1. -/
abbrev resP : Nat := 2 ^ 61 - 1

/-- The residue of an exact dyadic value; a denominator is a power of two, and 2^61 ≡ 1. -/
def res : Val → Nat
  | .fin neg n d =>
    let r := n % resP * 2 ^ ((61 - Nat.log2 d % 61) % 61) % resP
    if neg then (resP - r) % resP else r
  | _ => 0

/-- The residue of what a rounding took away. -/
def resLost (exact rounded : Val) : Nat := (res exact + (resP - res rounded)) % resP

/-- The residue of the exact products of a column with a vector: a_j. -/
def prodRes (row : List Val) (col : List (Option Val)) : Nat :=
  (row.zip col).foldl (fun t e => match e.2 with
    | some b => (t + res (Val.mul e.1 b).1) % resP
    | none => t) 0

/-- The residue of every product and sum rounding of a FLOAT column: l_j. -/
def floatLost (acc : Nat) (row : List Val) (col : List (Option Val)) : Nat :=
  ((row.zip col).foldl (fun (t : Nat × Nat) e => match e.2 with
    | some b =>
      let p := (Val.mul e.1 b).1
      let pe := f32 (rneF32 p).1
      let y := (Val.add (f32 t.1) pe).1
      let te := (rneF32 y).1
      (te, (t.2 + resLost p pe + resLost y (f32 te)) % resP)
    | none => t) (acc, 0)).2

/-- The residue of the roundings of products onto the grid: l_j in ANCHOR mode. -/
def anchorLost (A : Int) (row : List Val) (col : List (Option Val)) : Nat :=
  (row.zip col).foldl (fun t e => match e.2 with
    | some b => (t + resLost (Val.mul e.1 b).1 (valDyadic (contributeProduct e.1 b A).m (A - 75))) % resP
    | none => t) 0

/-- The residue sums of a tile's K positions (column 128). -/
def tileRes (cols : List (List (Option Val))) : List Nat :=
  cols.foldl (fun t c => t.zipWith (fun x b => (x + (b.elim 0 res)) % resP) c) (List.replicate (cols.headD []).length 0)

/-- One element's column comparison: skipped, or whether it passes. -/
structure ColCheck where
  skip : Bool
  ok : Bool
deriving DecidableEq, Repr

/-- col_ok: `fault` is what went wrong in the adder chain. -/
def colCheck (skip : Bool) (sIn sOut lost prods fault : Nat) : ColCheck :=
  { skip := skip, ok := decide ((sOut + fault + lost) % resP = (sIn + prods) % resP) }

/-- sum_ok of one vector: the columns' products against the vector and column 128; `fault` is what went wrong in a multiplier. -/
def sumOk (prods : List Nat) (row : List Val) (rk : List Nat) (fault : Nat) : Bool :=
  decide ((prods.foldl (· + ·) 0 + fault) % resP = ((row.zip rk).foldl (fun t e => t + res e.1 * e.2) 0) % resP)

/-- Elements of a unit's tile: (m, n), row-major. -/
def Product.tileElems (p : Product) (mt nc : Nat) : List (Nat × Nat) :=
  (List.range (min 128 (p.M - 128 * mt))).flatMap fun i => (List.range (min 128 (p.N - 128 * nc))).map fun j => (128 * mt + i, 128 * nc + j)

/-- A value is not finite. -/
def Val.wild : Val → Bool
  | .fin _ _ _ => false
  | _ => true

/-! Units. -/

/-- A unit in flight. -/
def unitOf (s : State) (u : Nat) : Option KUnit := Tab.find s.knead.units u
def setUnit (s : State) (u : Nat) (x : KUnit) : State := { s with knead := { s.knead with units := Tab.set s.knead.units u x } }
def karrayOf (s : State) (a : Nat) : KArray := Tab.getD s.knead.arrays a {}
def setKarray (s : State) (a : Nat) (x : KArray) : State := { s with knead := { s.knead with arrays := Tab.set s.knead.arrays a x } }

/-- The MATMUL that a unit's invocation runs. -/
def runningOf (s : State) (i : Nat) : Option Run :=
  match invOf s i with
  | none => none
  | some v => match recipeOf s v.recipe with
    | none => none
    | some r => match r.steps[v.step]? with
      | some w => if v.phase = .running && swOp w = soMATMUL then some ⟨i, v, r, w⟩ else none
      | none => none

/-- A unit's product, and its invocation's job. -/
def unitProduct (s : State) (x : KUnit) : Option (Product × MatJob) :=
  match runningOf s x.inv with
  | none => none
  | some r => match (productsOf s r)[x.product]?, r.v.job with
    | some p, some j => some (p, j)
    | _, _ => none

/-- First K chunk of a unit, and the one after its last. -/
def unitFirst (p : Product) (j : MatJob) (x : KUnit) : Nat := x.kGroup * p.nK / max 1 (j.groups.getD x.product 1)
def unitEnd (p : Product) (j : MatJob) (x : KUnit) : Nat := (x.kGroup + 1) * p.nK / max 1 (j.groups.getD x.product 1)

/-- Absent tiles ahead of a unit are passed over and counted (R278). -/
def skipZeros (p : Product) (last : Nat) : Nat → State → KUnit → State × KUnit
  | 0, s, x => (s, x)
  | n + 1, s, x =>
    if x.chunk < last && p.zeroTile s x.chunk x.nChunk then
      skipZeros p last n (bump64 s eKneadZeroTileSkipCount 1) { x with chunk := x.chunk + 1 }
    else (s, x)

/-- A unit at its first chunk, its accumulators cleared. -/
def freshUnit (s : State) (p : Product) (j : MatJob) (x : KUnit) : State × KUnit :=
  let n := (p.tileElems x.mTile x.nChunk).length
  let x := { x with chunk := unitFirst p j x, anchors := [], last := none, failing := none, finished := false, floats := if p.anchored then [] else List.replicate n 0,
                    words := if p.anchored then List.replicate n {} else [], flags := List.replicate n 0 }
  skipZeros p (unitEnd p j x) p.nK s x

/-- Units that hold a bank of a cluster (ClusterUnitsInFlight). -/
def banksHeld (s : State) (c : Nat) : Nat := (s.knead.units.filter fun x => x.2.cluster = c && x.2.bank).length

/-- A cluster serves passes: ON, or STOPPING until its takeover. -/
def clusterServes (s : State) (c : Nat) : Bool :=
  s.knead.order.contains c && (fnState s (eClusterState c) = .on || fnState s (eClusterState c) = .stopping)


/-- The array of a cluster that a product's passes belong to (R291): F, or Gx and Gw of a pair. -/
def homeArray (p : Product) (x : KUnit) : Nat := 3 * x.cluster + (if p.backward then 1 + x.product else 0)

/-- A backward pass is queued for an array. -/
def backwardQueued (s : State) (a : Nat) : Bool :=
  s.knead.units.any fun y => decide (y.2.cluster = a / 3) && !y.2.finished && !y.2.poisoned &&
    (match unitProduct s y.2 with
     | some (p, j) => p.backward && decide (homeArray p y.2 = a) && decide (y.2.chunk < unitEnd p j y.2)
     | none => false)

/-- Any array of its cluster may run a forward pass; Gx and Gw only while no backward pass is queued there. -/
def arrayAllowed (s : State) (p : Product) (x : KUnit) (a : Nat) : Bool :=
  a / 3 = x.cluster && (if p.backward then a = homeArray p x else a % 3 = 0 || !backwardQueued s a)

/-! An array's spares are two slots each: rows 128 and 129, columns 129 and 128, in the order in which they are taken. A slot
holds the logical row or column it carries, 254 while it is free, or 255 where it is unusable (R383); a slot beyond the
list is free. -/

/-- Slots taken or unusable. -/
def slotsUsed (l : List Nat) : Nat := (l.filter (· ≠ 254)).length
/-- Logical rows or columns carried. -/
def slotsCarrying (l : List Nat) : Nat := (l.filter (· < 128)).length
/-- Put a value into the first free slot. -/
def fillSlot (l : List Nat) (v : Nat) : List Nat := if l.head? = some 254 then v :: l.drop 1 else l ++ [v]

/-- The array is UNCHECKED: its checksum column carries a logical column or is unusable (R284, R285). -/
def unchecked (k : KArray) : Bool := k.cols.getD 1 254 ≠ 254

/-- It drains for a repair (R286). -/
def draining (k : KArray) : Bool := !(k.dueCols.isEmpty && k.dueRows.isEmpty)

/-! Tiles (R174, R264, R269, R270). -/

/-- The tile is the one that a unit's next pass needs. -/
def isTile (j : MatJob) (x : KUnit) (t : KTile) : Bool :=
  t.job = j.first && t.product = x.product && t.side = 1 && t.index = x.nChunk && t.chunk = x.chunk

/-- The arrays of a cluster. -/
def clusterArrays (c : Nat) : List Nat := [3 * c, 3 * c + 1, 3 * c + 2]

/-- The array of a unit's cluster in whose shadow registers the tile of its next pass stands. -/
def shadowAt (s : State) (j : MatJob) (x : KUnit) : Option Nat := (clusterArrays x.cluster).find? fun a => (karrayOf s a).shadow.any (isTile j x)

/-- An array may run a unit's next pass: the previous pass there used the tile, or it stands in shadow registers. KNEAD_TILE_LOADED does
not say whose; the pass does (log entry 132). -/
def tileReady (s : State) (j : MatJob) (x : KUnit) (a : Nat) : Bool := (karrayOf s a).active.any (isTile j x) || (shadowAt s j x).isSome

/-- A pass that swaps finds its tile in the shadow registers of its array. -/
def bringTile (s : State) (j : MatJob) (x : KUnit) (a : Nat) : State :=
  match shadowAt s j x with
  | none => s
  | some b =>
    if b = a || (karrayOf s a).active.any (isTile j x) then s
    else
      let t := (karrayOf s b).shadow
      let s := setKarray s b { karrayOf s b with shadow := (karrayOf s a).shadow }
      setKarray s a { karrayOf s a with shadow := t }

/-- The stationary tile of a unit's next pass, as the Vat holds it, with the sums of column 128. -/
def loadTile (s : State) (p : Product) (j : MatJob) (u : Nat) (x : KUnit) : KTile :=
  let cols := (p.nList x.nChunk).map fun n => p.bCol s n x.chunk
  { unit := u, job := j.first, product := x.product, side := 1, index := x.nChunk, chunk := x.chunk, cols := cols, rk := tileRes cols }

/-- A streamed operand that is read transposed, as its tile. -/
def streamTile (s : State) (p : Product) (j : MatJob) (x : KUnit) : KTile :=
  { job := j.first, product := x.product, side := 0, index := x.mTile, chunk := x.chunk,
    cols := (p.mList x.mTile).map fun m => (p.aRow s m x.chunk).map some }

/-- A tile and its slabs fill a half of a cluster's buffer; the other half is filled next. -/
def fillHalf (s : State) (c : Nat) (t : KTile) (slabs : List Nat) : State :=
  let h := fillOf s c
  let s := setHalf s c h { tile := some t, slabs := slabs }
  { s with tbuf := { s.tbuf with fill := Tab.set s.tbuf.fill c (1 - h) } }

/-- The unit may not go on yet: its recompute waits for the repair it triggered (R282). -/
def unitWaits (s : State) (x : KUnit) : Bool := match x.waitFor with | some a => draining (karrayOf s a) | none => false

/-- A unit may have its next tile loaded for an array, or its next pass run there. -/
def passOpen (s : State) (p : Product) (j : MatJob) (x : KUnit) (a : Nat) : Bool :=
  !x.finished && !x.poisoned && decide (x.chunk < unitEnd p j x) && clusterServes s x.cluster && (x.bank || decide (banksHeld s x.cluster < 6)) &&
  arrayAllowed s p x a && !(karrayOf s a).fenced && !draining (karrayOf s a) && !unitWaits s x

/-- The tile in an array's shadow registers still waits for its unit's pass. -/
def shadowHeld (s : State) (a : Nat) : Bool :=
  match (karrayOf s a).shadow with
  | none => false
  | some t => match unitOf s t.unit with
    | none => false
    | some x => match unitProduct s x with
      | none => false
      | some (p, j) => isTile j x t && passOpen s p j x a

/-- The unit's tile has been loaded. -/
def ownTile (s : State) (u : Nat) (j : MatJob) (x : KUnit) : Bool :=
  (clusterArrays x.cluster).any fun a => (karrayOf s a).shadow.any fun t => t.unit = u && isTile j x t

/-- The array that a unit's tile is loaded for: its home array or another open one of its cluster, with shadow registers to spare. -/
def loadArray (s : State) (p : Product) (j : MatJob) (x : KUnit) : Option Nat :=
  (homeArray p x :: clusterArrays x.cluster).find? fun a => passOpen s p j x a && !shadowHeld s a

/-- KNEAD_TILE_LOADED: through a half of the transposing buffer, the next pass's tile has come to stand in an array's shadow registers
(R174, R269); a poisoned slab of it poisons the unit (R283). A half that is being loaded again keeps it waiting. -/
def kneadTileLoaded (s : State) (u : Nat) : State :=
  match unitOf s u with
  | none => s
  | some x => match unitProduct s x with
    | none => s
    | some (p, j) => match loadArray s p j x with
      | none => s
      | some a =>
        if ownTile s u j x || (halfOf s x.cluster (fillOf s x.cluster)).reloading then s
        else
          let x := { x with bank := true }
          let r := readSlabs s (p.bSlabs x.nChunk x.chunk)
          match r.2 with
          | .wait => setUnit r.1 u x
          | .poison => setUnit r.1 u { x with poisoned := true }
          | .go =>
            let t := loadTile r.1 p j u x
            let s := fillHalf r.1 x.cluster t (p.bSlabs x.nChunk x.chunk)
            setUnit (setKarray s a { karrayOf s a with shadow := some t }) u x

def execKneadTileLoaded (unit : Nat) (s : State) : Out1 := .next (whenLive s fun s => kneadTileLoaded s unit)

/-- The tile of a half as its slabs now give it, where its step still runs. -/
def tileAgain (s : State) (t : KTile) : Option KTile :=
  (s.knead.units.map (·.2)).findSome? fun x => match unitProduct s x with
    | some (p, j) =>
      if j.first ≠ t.job || x.product ≠ t.product then none
      else if t.side = 1 then some (loadTile s p j t.unit { x with nChunk := t.index, chunk := t.chunk })
      else some (streamTile s p j { x with mTile := t.index, chunk := t.chunk })
    | none => none

/-- TBUF_RELOAD (R174): the half is loaded again from its Vat slabs, once they can be read; counted, and logged as CORRECTED. -/
def tbufReload (s : State) (c h : Nat) : State :=
  let x := halfOf s c h
  if !x.reloading then s
  else
    let r := readSlabs s x.slabs
    if r.2 = .wait then r.1
    else raiseFault (bump (setHalf r.1 c h { x with reloading := false, tile := if r.2 = .poison then none else x.tile.bind (tileAgain r.1) })
      (eTbufReloadCount c)) 4 7 c 0

def execTbufReload (cluster half : Nat) (s : State) : Out1 :=
  onUnit (Instr.wellFormed (.tbufReload cluster half)) (whenLive s fun s => tbufReload s cluster half)

/-! Passes and their checks. -/

/-- Cut a list into rows of w. -/
def splitRows {α : Type} (w : Nat) : Nat → List α → List (List α)
  | 0, _ => []
  | n + 1, l => l.take w :: splitRows w n (l.drop w)

/-- One element of a pass: its new sum, its flags, the products clamped, and its column comparison. -/
structure PassElem where
  float : Nat := 0
  word : AWord := {}
  flags : Nat := 0
  sats : Nat := 0
  prods : Nat := 0
  check : ColCheck
deriving DecidableEq, Repr

/-- An element of a FLOAT pass; `fault` stands in its column's adder chain. -/
def floatElem (acc : Nat × Nat) (row : List Val) (col : List (Option Val)) (fault : Nat) : PassElem :=
  let y := floatCol acc row col
  let pr := prodRes row col
  { float := y.1, flags := y.2, prods := pr,
    check := colCheck (f32 y.1).wild (res (f32 acc.1)) (res (f32 y.1)) (floatLost acc.1 row col) pr fault }

/-- An element of an ANCHOR pass. -/
def anchorElem (A : Int) (acc : AWord) (fl : Nat) (row : List Val) (col : List (Option Val)) (fault : Nat) : PassElem :=
  let y := anchorCol A acc row col
  let pr := prodRes row col
  { word := y.1, flags := fl, sats := y.2, prods := pr,
    check := colCheck (decide (y.1.tag ≠ 0)) (res (valDyadic acc.m (A - 75))) (res (valDyadic y.1.m (A - 75))) (anchorLost A row col) pr fault }

/-- The elements of a pass, by vector. `fault` names what the hardware did wrong in it. -/
def passElems (p : Product) (x : KUnit) (rows : List (List Val)) (t : KTile) (fault : KneadVerdict) : List (List PassElem) :=
  let w := t.cols.length
  let bad (j : Nat) : Nat := if fault = .column j then 1 else 0
  let pairs := rows.flatMap fun r => t.cols.zipIdx.map fun c => (r, c.1, bad c.2)
  splitRows w rows.length (if p.anchored then
      ((x.anchors.zip (x.words.zip x.flags)).zip pairs).map fun e => anchorElem e.1.1 e.1.2.1 e.1.2.2 e.2.1 e.2.2.1 e.2.2.2
    else ((x.floats.zip x.flags).zip pairs).map fun e => floatElem e.1 e.2.1 e.2.2.1 e.2.2.2)

/-- The vectors of a pass whose checksum comparison is made: they and the tile hold finite elements only (R281). -/
def sumCompared (rows : List (List Val)) (t : KTile) : List Bool :=
  let tile := t.cols.any fun c => c.any fun b => b.elim false Val.wild
  rows.map fun r => !(tile || r.any Val.wild)

/-- What a pass's comparisons say (R280, R281): a column whose comparison fails, else a vector whose checksum does. -/
def passVerdict (rows : List (List Val)) (t : KTile) (es : List (List PassElem)) (noSum : Bool) (fault : KneadVerdict) : KneadVerdict :=
  match (List.range t.cols.length).find? fun j => es.any fun r => match r[j]? with | some e => !e.check.skip && !e.check.ok | none => false with
  | some j => .column j
  | none =>
    let f := if fault = .checksum then 1 else 0
    if !noSum && (((rows.zip es).zip (sumCompared rows t)).any fun v => v.2 && !sumOk (v.1.2.map (·.prods)) v.1.1 t.rk f) then .checksum else .pass

/-- The columns with a comparison in a pass. -/
def colsCompared (t : KTile) (es : List (List PassElem)) : List Nat :=
  (List.range t.cols.length).filter fun j => es.any fun r => match r[j]? with | some e => !e.check.skip | none => false

/-- Comparisons skipped by R281 in one pass: elements whose sum is not finite or carries a tag; vectors where they or the tile
hold a non-finite element. -/
def skippedChecks (rows : List (List Val)) (t : KTile) (es : List (List PassElem)) (noSum : Bool) : Nat :=
  (es.flatMap fun r => r.filter (·.check.skip)).length + (if noSum then 0 else ((sumCompared rows t).filter fun b => !b).length)

/-- Count a pass. -/
def countPass (s : State) (p : Product) (a : Nat) : State :=
  let s := bump64 (bump64 s eKneadPassCount 1) (eArrayPassCount a) 1
  let s := if p.sparse.isSome then bump64 s eKneadSparsePassCount 1 else s
  let s := if unchecked (karrayOf s a) then bump64 s eKneadUncheckedPassCount 1 else s
  if !p.backward && a % 3 ≠ 0 then bump64 s eKneadBackwardArrayForwardPassCount 1 else s

/-- The anchors of a unit's elements: those it has, or at its first pass those of its step, of STATIC or of the destination's words
(R275). -/
def unitAnchors (s : State) (p : Product) (j : MatJob) (x : KUnit) : List Int :=
  if !p.anchored then []
  else if !x.anchors.isEmpty then x.anchors
  else (p.tileElems x.mTile x.nChunk).map fun e => p.anchor s (j.maxA.getD x.product []) (j.maxB.getD x.product []) e.1 e.2

/-- The swap (R270): the array's active registers hold the tile of the unit's pass; a pass that reuses the previous tile swaps nothing. -/
def swapTile (k : KArray) (j : MatJob) (x : KUnit) : KArray :=
  if k.active.any (isTile j x) then k else { k with active := k.shadow, shadow := none }

/-- One pass of a unit over its current chunk, against the active tile of its array. `fault` names what the hardware did wrong in it. -/
def runPass (s : State) (u : Nat) (x : KUnit) (p : Product) (j : MatJob) (a : Nat) (fault : KneadVerdict) : State :=
  let k := swapTile (karrayOf s a) j x
  let t := k.active.getD { job := 0, product := 0, side := 1, index := 0, chunk := 0 }
  let x := { x with anchors := unitAnchors s p j x }
  let rows := (p.mList x.mTile).map fun m => p.aRow s m x.chunk
  let es := passElems p x rows t fault
  let noSum := unchecked k
  let verdict := passVerdict rows t es noSum fault
  let s := if p.transA then fillHalf s x.cluster (streamTile s p j x) (p.aSlabs x.mTile x.chunk) else s
  let s := bump64 (countPass (setKarray s a k) p a) eKneadCheckSkipCount (skippedChecks rows t es noSum)
  let s := if p.anchored && p.mode ≠ 0 then bump64 s eKneadAnchorSatCount (es.foldl (fun n r => r.foldl (fun n e => n + e.sats) n) 0) else s
  let fs := es.flatten
  let x := { x with chunk := x.chunk + 1, floats := if p.anchored then [] else fs.map (·.float), words := if p.anchored then fs.map (·.word) else [],
                    flags := fs.map (·.flags), last := some (a, colsCompared t es, !noSum && (sumCompared rows t).any id),
                    failing := match x.failing with | some f => some f | none => if verdict = .pass then none else some (verdict, a) }
  let r := skipZeros p (unitEnd p j x) p.nK s x
  setUnit r.1 u r.2

/-- The Vat slabs that a pass reads: those of A, and under ACCUMULATE those of its destination words (R275, R283). -/
def passReads (p : Product) (x : KUnit) : List Nat :=
  p.aSlabs x.mTile x.chunk ++ (if p.anchored && p.mode = 2 then p.dSlabs x.mTile x.nChunk else [])

/-- KNEAD_PASS_DONE: a pass whose tile is loaded runs on an allowed array; a poisoned slab that it reads poisons the unit (R283). -/
def kneadPassDone (s : State) (u a : Nat) (verdict : KneadVerdict) : State :=
  match unitOf s u with
  | none => s
  | some x => match unitProduct s x with
    | none => s
    | some (p, j) =>
      if !passOpen s p j x a || !tileReady s j x a || (p.transA && (halfOf s x.cluster (fillOf s x.cluster)).reloading) then s
      else
        let x := { x with bank := true }
        let r := readSlabs s (passReads p x)
        match r.2 with
        | .wait => r.1
        | .poison => setUnit r.1 u { x with poisoned := true }
        | .go => runPass (bringTile r.1 j x a) u x p j a verdict

def execKneadPassDone (unit array : Nat) (verdict : KneadVerdict) (s : State) : Out1 :=
  onUnit (Instr.wellFormed (.kneadPassDone unit array verdict)) (whenLive s fun s => kneadPassDone s unit array verdict)

/-! Strikes, repairs and fences (R282 to R286). -/

/-- A fenced array fences its cluster (R287); the spare is then no spare, and a test of it is abandoned (R386). -/
def fenceArray (s : State) (a : Nat) : State :=
  let s := setKarray s a { karrayOf s a with fenced := true }
  let c := a / 3
  let s := setFn s (eClusterState c) (fnFence (fnOf s (eClusterState c)))
  proofAbandon (if s.knead.spare = some c then { s with knead := { s.knead with spare := none } } else s) c

/-- The strikes of the 24 h window now running. -/
def strikesNow (s : State) (k : KArray) : KArray :=
  let w := fcNow s / (rd s eKneadStrikeWindow * fcPerHour)
  if k.window = w then k else { k with window := w, columnStrikes := [], checksumStrikes := 0 }

/-- A repair of a column becomes due. -/
def dueColumn (s : State) (a j : Nat) : State :=
  let k := karrayOf s a
  if k.dueCols.contains j then s else setKarray s a { k with dueCols := k.dueCols ++ [j] }

/-- A first failure's strike (Table 12.4). -/
def strike (s : State) (a : Nat) (verdict : KneadVerdict) : State :=
  let k := strikesNow s (karrayOf s a)
  match verdict with
  | .column j =>
    let n := Tab.getD k.columnStrikes j 0 + 1
    let s := setKarray s a { k with columnStrikes := Tab.set k.columnStrikes j n }
    if rd s eKneadColumnFailLimit ≤ n then dueColumn s a j else s
  | .checksum =>
    let s := setKarray s a { k with checksumStrikes := k.checksumStrikes + 1 }
    if rd s eKneadChecksumFailLimit ≤ k.checksumStrikes + 1 then fenceArray s a else s
  | .pass => s

/-- One faulty row or column takes a spare; a third fences the array (R284). -/
def repairCol (s : State) (a j : Nat) : State :=
  let k := karrayOf s a
  if slotsUsed k.cols < 2 then setKarray s a { k with cols := fillSlot k.cols j } else fenceArray s a
def repairRow (s : State) (a r : Nat) : State :=
  let k := karrayOf s a
  if slotsUsed k.rows < 2 then setKarray s a { k with rows := fillSlot k.rows r } else fenceArray s a

/-- KNEAD_REPAIR_APPLY: the drained array takes its spares; under STRICT an UNCHECKED array is fenced (R285). -/
def kneadRepairApply (s : State) (a : Nat) : State :=
  let k := karrayOf s a
  let s := k.dueRows.foldl (fun s r => repairRow s a r) s
  let s := k.dueCols.foldl (fun s j => repairCol s a j) s
  let s := setKarray s a { karrayOf s a with dueCols := [], dueRows := [] }
  if unchecked (karrayOf s a) && !(karrayOf s a).fenced && rd s eDeterminismStrict = 1 then fenceArray s a else s

def execKneadRepairApply (array : Nat) (s : State) : Out1 :=
  onUnit (Instr.wellFormed (.kneadRepairApply array)) (whenLive s fun s => kneadRepairApply s array)

/-- The ArrayStatus word (Table 12.8), ArrayRowRepair and ArrayColRepair. -/
def arrayLatency (k : KArray) : Nat := slotsCarrying k.rows + (if slotsCarrying k.cols = 0 then 0 else 2)
def arrayStatusWord (k : KArray) : Nat :=
  (if k.fenced then 2 else if unchecked k then 1 else 0) + b2n (k.cols.getD 1 254 < 128) * 4 + b2n (k.cols.getD 0 254 < 128) * 8 +
  slotsCarrying k.rows * 16 + arrayLatency k * 256
def slotByte (v : Nat) : Nat := if v < 128 then v else 0xFF
def repairWord (l : List Nat) : Nat := slotByte (l.getD 0 254) + 256 * slotByte (l.getD 1 254)

/-! The output stage (R276, R283). -/

/-- One FLOAT element: the groups combined in ascending order. -/
def foldFloats (l : List (Nat × Nat)) : Nat × Nat :=
  l.foldl (fun y t =>
    let a := Val.add (f32 y.1) (f32 t.1)
    let e := rneF32 a.1
    (e.1, y.2 ||| t.2 ||| (if (f32 y.1).isNan || (f32 t.1).isNan then 0 else a.2 ||| e.2))) (0, 0)

/-- The units of one (M tile, N chunk) of a product, groups ascending. -/
def tileUnits (s : State) (i pr mt nc : Nat) : List KUnit :=
  sortBy (fun a b => a.kGroup ≤ b.kGroup) ((s.knead.units.map (·.2)).filter fun x => x.inv = i && x.product = pr && x.mTile = mt && x.nChunk = nc)

/-- Combined values of one tile: FLOAT. -/
def tileFloats (us : List KUnit) (n : Nat) : List (Val × Nat) :=
  (List.range n).map fun e => let y := foldFloats (us.map fun u => (u.floats.getD e 0, u.flags.getD e 0)); (f32 y.1, y.2)

/-- The anchors of one tile's elements: those of a unit that ran a pass; where every tile was absent, as at a first pass. -/
def tileAnchors (s : State) (p : Product) (j : MatJob) (us : List KUnit) : List Int :=
  match us.find? fun u => !u.anchors.isEmpty with
  | some u => u.anchors
  | none => us.head?.elim [] (unitAnchors s p j)

/-- Combined words of one tile with their anchors: ANCHOR; ACCUMULATE adds the destination's word. -/
def tileWords (s : State) (p : Product) (j : MatJob) (us : List KUnit) (es : List (Nat × Nat)) : List (AWord × Int) :=
  let sum := us.foldl (fun ws u => ws.zipWith AWord.add u.words) (List.replicate es.length ({} : AWord))
  ((sum.zip es).zip (tileAnchors s p j us)).map fun e =>
    (if p.mode = 2 then e.1.1.add (p.d.word s e.1.2.1 e.1.2.2).1 else e.1.1, e.2)

/-- Tiles whose outputs share scale blocks of the destination: its own, or a pair where a block is 256 wide (R185, R276). -/
def blockTiles (p : Product) (mt nc : Nat) : List (Nat × Nat) :=
  if fmtScale p.d.fmt = 0 || fmtBlock p.d.fmt ≤ 128 then [(mt, nc)]
  else if p.d.along then [(mt, nc / 2 * 2), (mt, nc / 2 * 2 + 1)].filter fun t => t.2 < p.nN
  else [(mt / 2 * 2, nc), (mt / 2 * 2 + 1, nc)].filter fun t => t.1 < p.nM


/-- Those that it covers wholly: where one tile spans the columns. -/
def Product.dWhole (p : Product) (mt : Nat) : List Nat :=
  if p.N ≤ 128 then { p.d with row0 := p.d.row0 + 128 * mt, rows := min p.M (128 * mt + 128) - 128 * mt : View }.whole else []

/-- Values of several tiles as one rectangle of h × w, row-major. -/
def joinTiles (along : Bool) (parts : List (Nat × List (Val × Nat))) : Nat × List (Val × Nat) :=
  let w := if along then parts.foldl (fun n t => n + t.1) 0 else (parts.head?.elim 0 (·.1))
  let h := (parts.head?.elim 0 fun t => t.2.length / max 1 t.1)
  (w, if along then (List.range h).flatMap fun i => parts.flatMap fun t => (t.2.drop (i * t.1)).take t.1 else parts.flatMap (·.2))

/-- Write the outputs of finished tiles that share blocks. -/
def writeTiles (s : State) (x : Run) (pr : Nat) (p : Product) (ts : List (Nat × Nat)) : State × Report :=
  let d := p.d
  let mt := (ts.head?.elim 0 (·.1)); let nc := (ts.head?.elim 0 (·.2))
  let rd := { x.rounding s d with anchored := p.anchored }
  let job := x.v.job.getD { groups := [] }
  if p.anchored && d.isA128 then
    let es := p.tileElems mt nc
    putWords s d (128 * mt) (128 * nc) (min 128 (p.N - 128 * nc)) (tileWords s p job (tileUnits s x.i pr mt nc) es)
  else
    let part (t : Nat × Nat) : Nat × List (Val × Nat) :=
      let es := p.tileElems t.1 t.2
      let us := tileUnits s x.i pr t.1 t.2
      (min 128 (p.N - 128 * t.2), if p.anchored then (tileWords s p job us es).map fun w => aValue w.1 w.2 else tileFloats us es.length)
    let j := joinTiles d.along (ts.map part)
    putVals s d rd (128 * mt) (128 * nc) (j.2.length / max 1 j.1) j.1 j.2

/-- The step ends once no unit of it is left. -/
def jobSettled (s : State) (i : Nat) : State :=
  if s.knead.units.any fun y => y.2.inv = i then s
  else match invOf s i with
    | none => s
    | some v =>
      let s := setInv s i { v with job := none, phase := .done }
      match v.job with
      | some j => if j.poisoned then endStep s i isPOISONED 0xFFFF else s
      | none => s

/-- Remove the units of some tiles. -/
def dropTiles (s : State) (i pr : Nat) (ts : List (Nat × Nat)) : State :=
  { s with knead := { s.knead with units := s.knead.units.filter fun y =>
      !(y.2.inv = i && y.2.product = pr && ts.contains (y.2.mTile, y.2.nChunk)) } }

/-- After a unit has finished: the tiles that wait for it are written, or poisoned, and their banks are free. -/
def outputStage (s : State) (x : Run) (k : KUnit) (p : Product) : State :=
  let ts := blockTiles p k.mTile k.nChunk
  if !(ts.all fun t => (tileUnits s x.i k.product t.1 t.2).all (·.finished)) then s
  else
    let bad := ts.any fun t => (tileUnits s x.i k.product t.1 t.2).any (·.poisoned)
    let s := if bad then
        modInv (poisonSlabs s (ts.flatMap fun t => p.dSlabs t.1 t.2)) x.i fun v => { v with job := v.job.map fun j => { j with poisoned := true } }
      else
        let r := writeTiles s x k.product p ts
        modInv r.1 x.i fun v => { v with stepFlags := v.stepFlags ||| BitVec.ofNat 8 r.2.flags,
                                         stepInvalid := min 0xFFFFFFFF (v.stepInvalid + r.2.invalid), stepFirst := min v.stepFirst r.2.first }
    jobSettled (dropTiles s x.i k.product ts) x.i

/-- A failed check (Table 12.4): the first of its kind recomputes the unit, after any repair it triggers; on the recompute the unit's
output is poisoned. -/
def checkFailed (s : State) (u : Nat) (x : KUnit) (r : Run) (p : Product) (j : MatJob) (f : KneadVerdict × Nat) : State :=
  let s := bump s (eArrayCheckFailCount f.2)
  if x.seen.contains f.1 then
    let s := raiseFault (bump s eKneadCheckFailCount) 20 6 f.2 0
    let s := match f.1 with
      | .column c => dueColumn s f.2 c
      | _ => fenceArray s f.2
    let x := { x with finished := true, poisoned := true }
    outputStage (setUnit s u x) r x p
  else
    let s := strike (raiseFault (bump s eKneadRecomputeCount) 5 6 f.2 0) f.2 f.1
    let y := freshUnit s p j { x with seen := x.seen ++ [f.1], waitFor := if draining (karrayOf s f.2) then some f.2 else none }
    setUnit y.1 u y.2

/-- What the output stage finds last stands only where the unit's last pass made such a comparison (R281). -/
def lastVerdict (x : KUnit) (verdict : KneadVerdict) : KneadVerdict × Nat :=
  match x.last with
  | none => (.pass, 0)
  | some (a, cols, sums) => match verdict with
    | .column j => (if cols.contains j then .column j else .pass, a)
    | .checksum => (if sums then .checksum else .pass, a)
    | .pass => (.pass, a)

/-- A unit's run ends: passed, poisoned, recomputed or given up. -/
def judgeUnit (s : State) (u : Nat) (x : KUnit) (r : Run) (p : Product) (j : MatJob) (verdict : KneadVerdict) : State :=
  let f := x.failing.getD (lastVerdict x verdict)
  if x.poisoned || f.1 = .pass then
    let x := { x with finished := true }
    outputStage (setUnit s u x) r x p
  else checkFailed s u x r p j f

/-- Under ACCUMULATE the destination's words are read with the unit's end: a poisoned slab of them poisons the unit (R283). -/
def endReads (p : Product) (x : KUnit) : List Nat := if p.anchored && p.mode = 2 then p.dSlabs x.mTile x.nChunk else []

/-- KNEAD_UNIT_DONE. -/
def kneadUnitDone (s : State) (u : Nat) (verdict : KneadVerdict) : State :=
  match unitOf s u with
  | none => s
  | some x => match unitProduct s x, runningOf s x.inv with
    | some (p, j), some r =>
      if x.finished || !(x.poisoned || unitEnd p j x ≤ x.chunk) || !clusterServes s x.cluster || (!x.bank && 6 ≤ banksHeld s x.cluster) then s
      else
        let e := readSlabs s (endReads p x)
        let w := writeSlabs e.1 (p.dWhole x.mTile) (p.dSlabs x.mTile x.nChunk)
        if e.2 = .wait || w.2 = .wait then w.1
        else judgeUnit w.1 u { x with bank := true, poisoned := x.poisoned || e.2 = .poison } r p j verdict
    | _, _ => s

def execKneadUnitDone (unit : Nat) (verdict : KneadVerdict) (s : State) : Out1 := .next (whenLive s fun s => kneadUnitDone s unit verdict)

/-! Takeovers (R287 to R290). -/

/-- Move a unit to a cluster: with a failed check it is handled there as Table 12.4 says (R290); after a fault it is restarted, though its
passes were complete; else it goes with its accumulators (R287). -/
def moveUnit (s : State) (u : Nat) (x : KUnit) (c : Nat) (restart : Bool) : State :=
  let y := { x with cluster := c, bank := x.bank && banksHeld s c < 6 }
  match unitProduct s x, runningOf s x.inv with
  | some (p, j), some r =>
    match x.failing with
    | some f => if x.finished || x.poisoned then setUnit s u y else checkFailed s u { y with bank := false } r p j f
    | none =>
      if restart && !x.poisoned then
        let r := freshUnit s p j { y with bank := false }
        setUnit r.1 u r.2
      else setUnit s u y
  | _, _ => setUnit s u y

/-- The units of a cluster move to the clusters of a list, in turn. -/
def moveUnits (s : State) (c : Nat) (to_ : List Nat) (restart : Bool) : State :=
  ((s.knead.units.filter fun y => y.2.cluster = c).zipIdx).foldl (fun s y =>
    moveUnit s y.1.1 y.1.2 (to_.getD (y.2 % max 1 to_.length) c) restart) s

/-- The reason stands: a fault has fenced the cluster, a disable request stops it, or Proof takes it over for its test and the spare
is there to cover (R382, R384). -/
def departs (s : State) (c : Nat) : DepartReason → Bool
  | .fault => fnState s (eClusterState c) = .fenced
  | .disable => fnState s (eClusterState c) = .stopping
  | .proof => fnState s (eClusterState c) = .on && s.proof.active = some c && s.proof.phase = 1 && s.knead.spare.isSome

/-- The spare covers for the cluster that Proof took over (R382). -/
def coverFor (s : State) (why : DepartReason) (sp : Nat) : State :=
  if why = .proof then { s with proof := { s.proof with cover := some sp } } else s

/-- CLUSTER_TAKEOVER: the spare takes the cluster's place in the dealing order, or its units are dealt over the others. Where
the cluster covers for one under test, that one returns (R386). -/
def clusterTakeover (s : State) (c : Nat) (why : DepartReason) : State :=
  if !s.knead.order.contains c || !departs s c why then s
  else
    let restart := decide (why = .fault)
    let s := wr s (eClusterSubstituteFor c) 0xFF
    let back := if s.proof.cover = some c then s.proof.active else none
    match back <|> s.knead.spare with
    | some sp =>
      let s := if back.isSome then proofNext (proofDrop s) else s
      let s := { s with knead := { s.knead with order := s.knead.order.map fun k => if k = c then sp else k, spare := if back.isSome then s.knead.spare else none } }
      moveUnits (coverFor (wr (bump s eKneadSubstitutionCount) (eClusterSubstituteFor sp) (if back.isSome then 0xFF else c)) why sp) c [sp] restart
    | none =>
      let s := { s with knead := { s.knead with order := s.knead.order.filter (· ≠ c) } }
      moveUnits s c s.knead.order restart

def execClusterTakeover (cluster : Nat) (reason : DepartReason) (s : State) : Out1 :=
  onUnit (Instr.wellFormed (.clusterTakeover cluster reason)) (whenLive s fun s => clusterTakeover s cluster reason)

/-- A cluster becomes ON (R289): the spare where eight serve, else it joins for steps issued afterwards. -/
def clusterJoins (s : State) (c : Nat) : State :=
  if s.knead.order.contains c then s
  else if 8 ≤ s.knead.order.length then { s with knead := { s.knead with spare := some c } }
  else { s with knead := { s.knead with order := s.knead.order.filter (· < c) ++ [c] ++ s.knead.order.filter (c < ·) } }

/-! Issue (R271, R272, R274, R309). -/

/-- The stash: an exact copy of A with its scales (R309, R341); where A reads POISON the copy is poisoned. -/
def writeStash (s : State) (x : Run) : State :=
  match x.view s (mmStash x.w), x.view s (swA x.w) with
  | some t, some a =>
    if a.slabs.any (slabPoisoned s) then poisonSlabs s t.slabs
    else
      let s := putRect s t 0 0 t.cols ((List.range a.rows).flatMap fun r => (List.range a.cols).map fun c => a.raw s r c)
      if fmtScale a.fmt = 0 then s
      else
        let along := a.along
        let n := scaleCount a.fmt 1 a.cols true
        if along then stepPut s t (t.scale + t.row0 * n) (Memory.read s.vat.mem (a.scale + a.row0 * n) (a.rows * n))
        else stepPut s t t.scale (Memory.read s.vat.mem a.scale (scaleCount a.fmt a.total a.cols false))
  | _, _ => s

/-- Deal the units of one product (R272). -/
def dealUnits (s : State) (i pr : Nat) (p : Product) (j : MatJob) : State :=
  let order := s.knead.order
  let g := j.groups.getD pr 1
  let us := (List.range p.nM).flatMap fun mt => (List.range p.nN).flatMap fun nc => (List.range g).map fun r => (mt, nc, r)
  us.zipIdx.foldl (fun s t =>
    let x : KUnit := { inv := i, product := pr, mTile := t.1.1, nChunk := t.1.2.1, kGroup := t.1.2.2, cluster := order.getD (t.2 % max 1 order.length) 0, chunk := 0 }
    let y := freshUnit s p j x
    { setUnit y.1 s.knead.nextUnit y.2 with knead := { (setUnit y.1 s.knead.nextUnit y.2).knead with nextUnit := s.knead.nextUnit + 1 } }) s

/-- MATMUL begins: metadata, bitmap and COLMAX are read, the K groups are fixed, the units dealt. -/
def matmulIssue (s : State) (x : Run) : State :=
  let ps := productsOf s x
  let aux := readSlabs s (ps.flatMap fun p => (p.colmax.toList ++ p.sparse.toList ++ p.zero.toList).flatMap View.slabs)
  let stash := (x.view s (mmStash x.w)).toList
  let ops := readSlabs aux.1 ((ps.flatMap fun p => if p.anchored && p.mode = 0 then
      p.a.slabs ++ (if p.colmax.isSome then [] else p.bPresent aux.1) else []) ++
    (if stash.isEmpty then [] else (x.view s (swA x.w)).toList.flatMap View.slabs))
  let st := writeSlabs ops.1 (stash.flatMap View.whole) (stash.flatMap View.slabs)
  let s := st.1
  if ps.isEmpty then endStep s x.i isNOT_READY 0xFFFF
  else if aux.2 = .wait || ops.2 = .wait || st.2 = .wait then blockStep s x.i
  else if aux.2 = .poison then endStep s x.i isPOISONED 0xFFFF
  else if ps.any fun p => p.badNibble s then endStep s x.i isFORMAT 0xFFFF
  else
    let c := s.knead.order.length
    let scan (p : Product) (f : List (Option Int)) : List (Option Int) := if p.anchored && p.mode = 0 then f else []
    let job : MatJob := { groups := ps.map fun p => p.groups c, first := s.knead.nextUnit,
                          maxA := ps.map fun p => scan p ((List.range p.M).map (p.expA s)),
                          maxB := ps.map fun p => scan p ((List.range p.N).map (p.expB s)) }
    let changed := !mmAnchored x.w && decide (c < 8) && ps.any fun p => decide (p.groups c ≠ p.groups 8)
    let s := wr s eKneadLastFoldClusters c
    let s := if changed then timingChoice (bump64 s eKneadFoldChangeCount 1) else s
    let s := writeStash s x
    let s := modInv s x.i fun v => { v with phase := .running, job := some job, timing := v.timing + b2n changed }
    ps.zipIdx.foldl (fun s p => dealUnits s x.i p.2 p.1 job) s

end Sys2Proof.Machine
end

