-- ==== Sys2Proof/Machine/Steps.lean ====
section
/-! DEFINITION. The element-wise steps of a recipe (R310 to R315, R317): what each computes from its operands. -/
namespace Sys2Proof.Machine

/-! Values with the flags they carry: a NaN that arose in the step raises nothing further (R196). -/

/-- The flags of an operation on a and b. -/
def opFlags (a b : Val × Nat) (f : Nat) : Nat := a.2 ||| b.2 ||| (if a.1.isNan || b.1.isNan then 0 else f)
def pMul (a b : Val × Nat) : Val × Nat := let r := Val.mul a.1 b.1; (r.1, opFlags a b r.2)
def pAdd (a b : Val × Nat) : Val × Nat := let r := Val.add a.1 b.1; (r.1, opFlags a b r.2)
def pSub (a b : Val × Nat) : Val × Nat := let r := Val.sub a.1 b.1; (r.1, opFlags a b r.2)
def pQuot (a b : Val × Nat) : Val × Nat := let r := quot a.1 b.1; (r.1, opFlags a b r.2)
/-- One rounding to FP32. -/
def pRne (a : Val × Nat) : Val × Nat := (rne32 a.1, a.2)
/-- An FP32 constant of a step word. -/
def pConst (w : Nat) : Val × Nat := (f32 w, if (f32 w).isNan then fNAN_IN else 0)
def pOne : Val × Nat := (.fin false 1 1, 0)

/-- An A128 sum whose anchor is the largest floor(log2) of its terms (R195): the flags of the terms, and INVALID where infinities of both
signs meet. -/
def pSum (vs : List (Val × Nat)) : Val × Nat :=
  let xs := vs.map (·.1)
  let r := aValue (aSum (maxLog2 xs) xs) (maxLog2 xs)
  (r.1, vs.foldl (fun f v => f ||| v.2) (r.2 &&& fINVALID))

/-! TOPK (R310). -/

/-- Entry i ranks before entry j: a number before NaN, larger value first, lower index on a tie. -/
def topkBefore (a b : Val × Nat) : Bool :=
  if a.1.isNan then b.1.isNan && a.2 ≤ b.2
  else b.1.isNan || Val.lt b.1 a.1 || (!Val.lt a.1 b.1 && a.2 ≤ b.2)

/-- The first k indices of one row in rank order. -/
def topkRow (vs : List Val) (k : Nat) : List Nat := ((sortBy topkBefore vs.zipIdx).take k).map (·.2)

/-- The gate values of one row: as selected, or divided by their sum. -/
def topkGates (vs : List (Val × Nat)) (renorm : Bool) : List (Val × Nat) :=
  if !renorm then vs
  else
    let S := pRne (pSum vs)
    vs.map fun v => pQuot v S

def topkRun (s : State) (x : Run) : State :=
  match x.view s (swA x.w), x.view s (swD x.w), x.view s (swC x.w) with
  | some a, some d, some c =>
    withData s x [a] [d, c] fun s =>
      let k := swK x.w
      let rows := (List.range a.rows).map fun r => let v := a.row s r; (v, topkRow (v.map (·.1)) k)
      let vals := rows.flatMap fun r => topkGates (r.2.map fun i => r.1.getD i (.nan, 0)) (swBit52 x.w)
      let p := putAll s d (x.rounding s d) vals
      (putRect p.1 c 0 0 c.cols (rows.flatMap (·.2)), p.2)
  | _, _, _ => s

/-! SOFTMAX (R311). -/

/-- ceil(log2 n). -/
def ceilLog2 (n : Nat) : Int := if n ≤ 1 then 0 else Nat.log2 (n - 1) + 1

/-- The larger of two values that are not NaN. -/
def valMax (a b : Val) : Val := if Val.lt a b then b else a

/-- The flags of a list. -/
def flagsOr (l : List (Val × Nat)) : Nat := l.foldl (fun f x => f ||| x.2) 0

def softmaxRow (xs : List (Val × Nat)) (t : Val × Nat) : List (Val × Nat) :=
  let ps := xs.map fun v => pRne (pMul v t)
  let zs := ps.map (·.1)
  let mx := zs.foldl valMax (.inf true)
  if zs.any Val.isNan then xs.map fun _ => (.nan, flagsOr ps)
  else if mx.wild then xs.map fun _ => (.nan, fINVALID)
  else
    let es := zs.map fun z => f32 (expF32 (rne32 (Val.sub z mx).1)).1
    let A := ceilLog2 xs.length
    let S := rne32 (aValue (aSum A es) A).1
    es.map fun e => quot e S

def softmaxRun (s : State) (x : Run) : State :=
  match x.view s (swA x.w), x.view s (swD x.w) with
  | some a, some d =>
    withData s x [a] [d] fun s =>
      putAll s d (x.rounding s d) ((List.range a.rows).flatMap fun r => softmaxRow (a.row s r) (pConst (swScalar x.w)))
  | _, _ => s

/-! NORM (R312). -/

/-- A value divided by a count. -/
def divCount (v : Val × Nat) (n : Nat) : Val × Nat := pMul v (.fin false 1 n, 0)

/-- 1 / sqrt(rne(rne(S / n) + eps)). -/
def normScale (S : Val × Nat) (n : Nat) (eps : Val × Nat) : Val × Nat :=
  let t := pRne (pAdd (pRne (divCount S n)) eps)
  (f32 (rsqrtF32 t.1), t.2)

def rmsRow (xs g : List (Val × Nat)) (eps : Val × Nat) : List (Val × Nat) :=
  let r := normScale (pSum (xs.map fun v => pMul v v)) xs.length eps
  xs.zipIdx.map fun v => pMul (pMul v.1 r) (g.getD v.2 (.nan, 0))

def layerRow (xs g : List (Val × Nat)) (b : Option (List (Val × Nat))) (eps : Val × Nat) : List (Val × Nat) :=
  let mu := pRne (divCount (pSum xs) xs.length)
  let ds := xs.map fun v => pSub v mu
  let r := normScale (pSum (ds.map fun v => pMul v v)) xs.length eps
  ds.zipIdx.map fun v =>
    let z := pMul (pMul v.1 r) (g.getD v.2 (.nan, 0))
    match b with
    | none => z
    | some l => pAdd z (l.getD v.2 (.nan, 0))

def normRun (s : State) (x : Run) (row : List (Val × Nat) → List (Val × Nat) → Option (List (Val × Nat)) → Val × Nat → List (Val × Nat)) : State :=
  match x.view s (swA x.w), x.view s (swB x.w), x.view s (swD x.w) with
  | some a, some b, some d =>
    let c := x.view s (swC x.w)
    withData s x ([a, b] ++ c.toList) [d] fun s =>
      putAll s d (x.rounding s d) ((List.range a.rows).flatMap fun r => row (a.row s r) (b.row s 0) (c.map fun c => c.row s 0) (pConst (swScalar x.w)))
  | _, _, _ => s

def normRmsRun (s : State) (x : Run) : State := normRun s x fun xs g _ eps => rmsRow xs g eps
def normLayerRun (s : State) (x : Run) : State := normRun s x layerRow

/-! SCALE, ADD and CONVERT (R313, R314). -/

/-- Each element of a, by its row and column, into d. -/
def mapRun (s : State) (x : Run) (more : List View) (anchored : Bool) (f : State → Nat → Nat → Val × Nat → Val × Nat) : State :=
  match x.view s (swA x.w), x.view s (swD x.w) with
  | some a, some d =>
    withData s x (a :: more) [d] fun s =>
      putAll s d { x.rounding s d with anchored := anchored && a.isA128 }
        ((List.range a.rows).flatMap fun r => (a.row s r).zipIdx.map fun v => f s r v.2 v.1)
  | _, _ => s

/-- s × v. -/
def timesScalar (w : BitVec 128) (v : Val × Nat) : Val × Nat := pMul (pConst (swScalar w)) v

def scaleMulRun (s : State) (x : Run) : State := mapRun s x [] false fun _ _ _ v => timesScalar x.w v

/-- s × v × b. -/
def scaleBy (w : BitVec 128) (v b : Val × Nat) : Val × Nat := pMul (timesScalar w v) b

def scaleRowvecRun (s : State) (x : Run) : State :=
  match x.view s (swB x.w) with
  | some b => mapRun s x [b] false fun s _ c v => scaleBy x.w v (b.val s b.along 0 c)
  | none => s

/-- COLVEC's vector has one element per row of a: a column, or a row (log entry 28). -/
def scaleColvecRun (s : State) (x : Run) : State :=
  match x.view s (swB x.w) with
  | some b => mapRun s x [b] false fun s r _ v => scaleBy x.w v (if b.rows = 1 then b.val s b.along 0 r else b.val s b.along r 0)
  | none => s

/-- max(x, +0): −0 gives +0, NaN stays. -/
def relu (v : Val) : Val := if v.isNan then v else if Val.lt (.fin false 0 1) v then v else .fin false 0 1

def scaleReluRun (s : State) (x : Run) : State := mapRun s x [] false fun _ _ _ v => timesScalar x.w (relu v.1, v.2)

/-- s × x / rne(1 + exp(−x)). -/
def silu (w : BitVec 128) (v : Val × Nat) : Val × Nat :=
  pQuot (timesScalar w v) (pRne (pAdd pOne (f32 (expF32 v.1.negate).1, 0)))

def scaleSiluRun (s : State) (x : Run) : State := mapRun s x [] false fun _ _ _ v => silu x.w v

/-- ADD, SUB and MUL: b has a's shape, or one row for every row. -/
def addRun (s : State) (x : Run) (f : Val × Nat → Val × Nat → Val × Nat) : State :=
  match x.view s (swB x.w) with
  | some b => mapRun s x [b] false fun s r c v => f v (b.val s b.along (if b.rows = 1 then 0 else r) c)
  | none => s

def addStepRun (s : State) (x : Run) : State := addRun s x pAdd
def subStepRun (s : State) (x : Run) : State := addRun s x pSub
def mulStepRun (s : State) (x : Run) : State := addRun s x pMul

def convertRun (s : State) (x : Run) : State := mapRun s x [] true fun _ _ _ v => v

/-! STAGE (R315). -/

/-- Home slab offset of a STAGE. -/
def stageOffset (w : BitVec 128) : Nat := bitsAt w.toNat 96 32

/-- The slab pairs of a STAGE (R315): each slab that d covers, with the home slab that lies as far from the one at the given offset as it
lies from the slab at d's offset (log entry 131). -/
def stagePairs (s : State) (x : Run) (v : View) : List (Nat × Nat) :=
  match v.own with
  | none => []
  | some (k, f, slot) => match stationOf s k with
    | none => []
    | some y => v.slabs.dedup.map fun n => (homeSlab y f slot + stageOffset x.w + n - v.base / 4096, n)

/-- A write to a versioned slot that is not an UPDATE's discards its crumb (R354). -/
def dropCrumb (s : State) (v : View) : State :=
  match v.own with
  | some (k, f, slot) => match stationOf s k with
    | some y => if sfVersioned (fieldOf y f) then modSlot s k slot fun z => { z with crumb := none } else s
    | none => s
  | none => s

/-- STAGE IN is issued: pending is set on every destination slab (R177), and the next step may start. -/
def stageInRun (s : State) (x : Run) : State :=
  match x.view s (swD x.w) with
  | none => s
  | some d =>
    let ps := stagePairs s x d
    let w := writeSlabs s (ps.map (·.2)) (ps.map (·.2))
    if w.2 = .wait then blockStep w.1 x.i
    else
      let s := ps.foldl (fun s p => askCellar (setTag s p.2 { tagOf s p.2 with pend := .stage })
        { refetch := false, cslab := p.1, slab := p.2, at_ := fcNow s }) (dropCrumb w.1 d)
      modInv s x.i fun v => { v with phase := .done, asyncs := v.asyncs ++ [{ step := v.step, stage := ps }] }

/-- STAGE OUT copies Vat slabs to the home; the copy is complete when the command is. -/
def stageOutRun (s : State) (x : Run) : State :=
  match x.view s (swD x.w) with
  | none => s
  | some d =>
    let ps := stagePairs s x d
    let r := readSlabs s (ps.map (·.2))
    match r.2 with
    | .wait => blockStep r.1 x.i
    | .poison => endStep r.1 x.i isPOISONED 0xFFFF
    | .go =>
      let s := ps.foldl (fun s p =>
        let s := cellarPut s (4096 * p.1) (Memory.read s.vat.mem (4096 * p.2) 4096)
        setTag s p.2 { tagOf s p.2 with sourceValid := true, sourceSlab := p.1 }) r.1
      doneStep s x.i {}

/-! REDUCE (R317). -/

/-- What an element adds to a word with anchor B: an A128 source by R255, any other by R193. -/
def accTerm (s : State) (a : View) (r c : Nat) (B : Int) : AWord :=
  if a.isA128 then
    let x := a.word s r c
    let t := x.1.tag
    if t &&& (tNAN ||| tPINF ||| tNINF) ≠ 0 then { tag := t } else aRealign x.1 x.2 B
  else
    let v := a.val s a.along r c
    contribute v.1 B

def reduceInitRun (s : State) (x : Run) : State :=
  match x.view s (swD x.w) with
  | some d =>
    withData s x [] [d] fun s =>
      putWords s d 0 0 d.cols (List.replicate (d.rows * d.cols) ({}, signed 12 (bitsAt x.w.toNat 116 12)))
  | none => s

def reduceAccumulateRun (s : State) (x : Run) : State :=
  match x.view s (swA x.w), x.view s (swD x.w) with
  | some a, some d =>
    withData s x [a, d] [d] fun s =>
      putWords s d 0 0 d.cols ((List.range d.rows).flatMap fun r => (List.range d.cols).map fun c =>
        let y := d.word s r c
        (y.1.add (accTerm s a r c y.2), y.2))
  | _, _ => s

def reduceRowsRun (s : State) (x : Run) : State :=
  match x.view s (swA x.w), x.view s (swD x.w) with
  | some a, some d =>
    withData s x [a] [d] fun s =>
      putAll s d { x.rounding s d with anchored := true } ((List.range a.cols).map fun c =>
        let A := maxLog2 ((List.range a.rows).map fun r => (a.val s a.along r c).1)
        aValue ((List.range a.rows).foldl (fun w r => w.add (accTerm s a r c A)) {}) A)
  | _, _ => s

/-- BARRIER (R320): done once no earlier asynchronous step of its invocation is left. -/
def barrierRun (s : State) (x : Run) : State := if x.v.asyncs.isEmpty then doneStep s x.i {} else blockStep s x.i

end Sys2Proof.Machine
end

