-- ==== Sys2Proof/Machine/Experts.lean ====
section
/-! DEFINITION. Expert routing (14): the expert map, resolving and sending slots, windows, retries, timeouts, returns and
COMBINE's arithmetic. -/
namespace Sys2Proof.Machine

/-! Owners (Tables 14.2, 14.3). -/

def meOwner (e : Nat) : Nat := bitsAt e 0 23
def meBackup (e : Nat) : Nat := bitsAt e 32 23
def meBackupValid (e : Nat) : Bool := bitAt e 62

/-- The port of an ID number may own experts. -/
def ownerPortOk (id : Nat) : Bool := id / 2 ^ 15 ≤ 103

/-- An entry is valid: no reserved bit, ports 0 to 103. -/
def mapEntryValid (e : Nat) : Bool :=
  bitAt e 63 && bitsAt e 55 7 = 0 && bitsAt e 23 9 = 0 && ownerPortOk (meOwner e) && (!meBackupValid e || ownerPortOk (meBackup e))

/-- A FENCE_NOTICE in force names an endpoint port. -/
def ownerFenced (s : State) (id : Nat) : Bool :=
  match s.topo.sizes with
  | some z => s.fence.bits.contains (moduleNum z (id % 2 ^ 15) * 104 + id / 2 ^ 15)
  | none => false

/-- An owner is usable (R330): its module has a route, and no notice in force names its port. -/
def ownerUsable (s : State) (slice : BitVec 10) (id : Nat) : Bool :=
  let h : Header := { opcode := opDISPATCH, cls := 1, dst := BitVec.ofNat 23 id, src := myId s 0xFF, payloadLength := 0, slice := slice }
  !ownerFenced s id &&
  (if id % 2 ^ 15 = myCoord s then (exitPort s (id / 2 ^ 15)).isSome
   else match sliceOn s slice.toNat with
     | some a => hasRoute s a h 255
     | none => false)

/-- Slots outstanding at an owner over all open invocations (R332), and the window. -/
def outstandingAt (s : State) (id : Nat) : Nat :=
  s.recipes.invs.foldl (fun n x => n + (x.2.slots.filter fun e => e.state = .outstanding && e.owner = id).length) 0
def hasWindow (s : State) (id : Nat) : Bool := outstandingAt s id < rd s eExpertOwnerWindow

/-! Slots of an invocation. -/

/-- Change the slot at a position of an invocation's list. -/
def setSlot (s : State) (i n : Nat) (e : ESlot) : State := modInv s i fun v => { v with slots := v.slots.set n e }

/-- The position of a token's slot that a test accepts. -/
def findSlot (v : Inv) (token slot : Nat) (ok : ESlot → Bool) : Option Nat :=
  v.slots.findIdx? fun e => e.token = token && e.slot = slot && ok e

/-- Parts of a slot, and the bytes of one. -/
def partCount (e : ESlot) : Nat := upDiv e.row.length 4096
def partBytes (e : ESlot) (p : Nat) : Nat := min 4096 (e.row.length - 4096 * p)

/-- aux of DISPATCH (Table 14.4). -/
def dispatchAux (i : Nat) (v : Inv) (e : ESlot) (part : Nat) : Nat :=
  v.generation % 64 * 2 ^ 58 + i * 2 ^ 48 + (partCount e - 1) * 2 ^ 44 + part * 2 ^ 40 + e.slot * 2 ^ 32 + b2n e.toBackup * 2 ^ 31
    + e.expert * 2 ^ 16 + e.attempt % 256 * 2 ^ 8

/-- Send every part of a slot to its owner (R331). -/
def sendParts (s : State) (i : Nat) (v : Inv) (e : ESlot) : State :=
  (List.range (partCount e)).foldl (fun s p =>
    sendPacket s { opcode := opDISPATCH, cls := 1, dst := BitVec.ofNat 23 e.owner, src := myId s 0xFF, payloadLength := 0, slice := v.slice,
                   loc := locOf v.recipe v.tag (v.tokenBase + e.token), aux := BitVec.ofNat 64 (dispatchAux i v e p) }
      ((e.row.drop (4096 * p)).take 4096)) s

/-- First send of a slot to its owner. -/
def sendSlot (s : State) (i n : Nat) (e : ESlot) : State :=
  match invOf s i with
  | none => s
  | some v =>
    let e := { e with state := .outstanding, attempt := 1, sentTo := if e.sentTo.contains e.owner then e.sentTo else e.sentTo ++ [e.owner] }
    let s := if e.sentTo.length = 1 then bump64 s eExpertDispatchCount 1 else s
    sendParts (setSlot s i n e) i v e

/-- A slot becomes DEGRADED. -/
def degradeSlot (s : State) (i n : Nat) (e : ESlot) : State := bump64 (setSlot s i n { e with state := .degraded }) eExpertDegradedCount 1

/-- A slot goes to its backup: sent where there is window, else it waits on it. -/
def toBackup (s : State) (i n : Nat) (e : ESlot) (b : Nat) : State :=
  let e := { e with owner := b, toBackup := true, state := .waiting }
  if hasWindow (setSlot s i n e) b then sendSlot s i n e else setSlot s i n e

/-- A waiting slot (R332): sent where its owner has window; outside STRICT sent to a usable backup with window. -/
def tryWaiting (s : State) (i n : Nat) (e : ESlot) : State :=
  match invOf s i with
  | none => s
  | some v =>
    if hasWindow s e.owner then sendSlot s i n e
    else match e.backup with
      | some b =>
        if rd s eDeterminismStrict = 0 && !e.toBackup && ownerUsable s v.slice b && hasWindow s b then
          let s := modInv (timingChoice (bump64 s eExpertRerouteCount 1)) i fun v => { v with timing := v.timing + 1 }
          sendSlot s i n { e with owner := b, toBackup := true }
        else setSlot s i n e
      | none => setSlot s i n e

/-! Resolving (R330). -/

/-- Slots of this DISPATCH already sent, or due to be sent, for an expert. -/
def sentFor (v : Inv) (step expert : Nat) : Nat :=
  (v.slots.filter fun e => e.disp = step && e.expert = expert && e.state ≠ .overflow && e.state ≠ .degraded).length

/-- Resolve one slot by Table 14.3. -/
def resolveSlot (s : State) (i : Nat) (w : BitVec 128) (token slot expert entry : Nat) (row : List Byte) : State :=
  match invOf s i with
  | none => s
  | some v =>
    let cap := bitsAt w.toNat 112 16
    let bk := if swBit52 w && meBackupValid entry then some (meBackup entry) else none
    let e : ESlot := { token := token, slot := slot, expert := expert, state := .waiting, primary := meOwner entry, backup := bk,
                       owner := meOwner entry, disp := v.step, row := row }
    let n := v.slots.length
    let add (e : ESlot) : State := setInv s i { v with slots := v.slots ++ [e] }
    if cap ≠ 0 && cap ≤ sentFor v v.step expert then bump64 (add { e with state := .overflow }) eExpertOverflowCount 1
    else if !mapEntryValid entry then bump64 (add { e with state := .degraded }) eExpertDegradedCount 1
    else if ownerUsable s v.slice (meOwner entry) then tryWaiting (add e) i n e
    else match bk with
      | some b =>
        if ownerUsable s v.slice b then
          let e := { e with owner := b, toBackup := true }
          tryWaiting (bump (add e) eExpertBackupCount) i n e
        else bump64 (add { e with state := .degraded }) eExpertDegradedCount 1
      | none => bump64 (add { e with state := .degraded }) eExpertDegradedCount 1

/-- Every slot of a DISPATCH is resolved. -/
def dispatchDone (v : Inv) (step : Nat) : Bool :=
  v.slots.all fun e => e.disp ≠ step || (e.state ≠ .waiting && e.state ≠ .outstanding)

/-- Complete the DISPATCHes of an invocation whose slots are all resolved: their locks are released. -/
def settleDispatch (s : State) (i : Nat) : State :=
  match invOf s i with
  | none => s
  | some v =>
    let gone := v.asyncs.filter fun a => a.dispatch && dispatchDone v a.step
    gone.foldl (fun s a => modInv (releaseStep s i a.step) i fun v => { v with asyncs := v.asyncs.filter fun b => b ≠ a }) s

/-- Resolve slots in order; an index at or above the map's rows ends the invocation (R330). -/
def resolveAll (s : State) (x : Run) (b m : View) (a : View) : List (Nat × Nat) → State
  | [] =>
    let s := modInv s x.i fun v => { v with phase := .done, asyncs := v.asyncs ++ [{ step := v.step, dispatch := true }] }
    settleDispatch s x.i
  | (t, j) :: rest =>
    let e := b.raw s t j
    if m.rows ≤ e then endStep s x.i isFORMAT 0xFFFF
    else
      let entry := leNat (Memory.read s.vat.mem (m.base + 8 * (m.row0 + e)) 8)
      let row := Memory.read s.vat.mem (a.base + a.lo ((a.row0 + t) * a.cols)) (kindBytes a.kind a.fmt a.cols)
      resolveAll (resolveSlot s x.i x.w t j e entry row) x b m a rest

/-- The slabs of a return buffer (R336). -/
def returnSlabs (x : Run) (a : View) : Nat := upDiv (x.v.tokenCount * swK x.w * kindBytes a.kind a.fmt a.cols) 4096

/-- DISPATCH: the return buffer, then the slots. -/
def dispatchRun (s : State) (x : Run) : State :=
  match x.view s (swA x.w), x.view s (swB x.w), x.view s (swC x.w) with
  | some a, some b, some m =>
    let r := readSlabs s (a.slabs ++ b.slabs ++ m.slabs)
    match r.2 with
    | .wait => blockStep r.1 x.i
    | .poison => endStep r.1 x.i isPOISONED 0xFFFF
    | .go => match allocSlabs r.1 (returnSlabs x a) with
      | none => waitStep r.1 x.i
      | some (base, s) =>
        let s := modInv s x.i fun v => { v with rets := Tab.set v.rets v.step base }
        resolveAll s x b m a ((List.range x.v.tokenCount).flatMap fun t => (List.range (swK x.w)).map fun j => (t, j))
  | _, _, _ => s

/-! What happens to a slot later (R332, R333, R335). -/

/-- The invocation runs and may still send (Table 14.6). -/
def sending (v : Inv) : Bool := v.started && v.status.isNone

/-- OWNER_WINDOW_FREE: a waiting slot is sent. -/
def ownerWindowFree (s : State) (i t j : Nat) : State :=
  match invOf s i with
  | none => s
  | some v => match findSlot v t j fun e => e.state = .waiting with
    | none => s
    | some n => match v.slots[n]? with
      | some e => if sending v then tryWaiting s i n e else s
      | none => s

/-- EXPERT_RETRY: a slot is resent whole to the same owner. -/
def expertRetry (s : State) (i t j : Nat) : State :=
  match invOf s i with
  | none => s
  | some v => match findSlot v t j fun e => e.state = .outstanding with
    | none => s
    | some n => match v.slots[n]? with
      | some e =>
        if !sending v then s
        else
          let e := { e with attempt := e.attempt + 1 }
          sendParts (bump64 (setSlot s i n e) eExpertResendCount 1) i v e
      | none => s

/-- EXPERT_RETURN_TIMEOUT: to the backup, or DEGRADED. -/
def expertReturnTimeout (s : State) (i t j : Nat) : State :=
  match invOf s i with
  | none => s
  | some v => match findSlot v t j fun e => e.state = .outstanding || e.state = .waiting with
    | none => s
    | some n => match v.slots[n]? with
      | none => s
      | some e =>
        if !sending v then s
        else
          let late := settleDispatch (degradeSlot (modInv (timingChoice (bump s eExpertTimeoutCount)) i fun v => { v with timing := v.timing + 1 }) i n e) i
          match e.backup with
          | some b => if !e.toBackup && ownerUsable s v.slice b then toBackup (bump s eExpertBackupCount) i n e b else late
          | none => late

/-- Slots whose owner a notice has made unusable move to a usable backup at once (R333). -/
def expertsFenced (s : State) : State :=
  s.recipes.invs.foldl (fun s x =>
    x.2.slots.zipIdx.foldl (fun s y =>
      match invOf s x.1 with
      | none => s
      | some v => match v.slots[y.2]?, y.1.backup with
        | some e, some b =>
          if sending v && (e.state = .outstanding || e.state = .waiting) && !e.toBackup && ownerFenced s e.owner && ownerUsable s v.slice b then
            toBackup (bump s eExpertBackupCount) x.1 y.2 e b
          else s
        | _, _ => s) s) s

/-- Where a slot's part lies in the return buffer. -/
def partAddr (v : Inv) (r : Recipe) (e : ESlot) (p : Nat) : Nat :=
  let k := (r.steps[e.disp]?).elim 1 swK
  4096 * Tab.getD v.rets e.disp 0 + (e.token * k + e.slot) * e.row.length + 4096 * p

/-- The fields of a COMBINE_DATA's aux. -/
def cdGeneration (h : Header) : Nat := bitsAt h.aux.toNat 58 6
def cdInv (h : Header) : Nat := bitsAt h.aux.toNat 48 10
def cdPart (h : Header) : Nat := bitsAt h.aux.toNat 40 4
def cdSlot (h : Header) : Nat := bitsAt h.aux.toNat 32 3
def cdExpert (h : Header) : Nat := bitsAt h.aux.toNat 16 10

/-- A part that passed every row of Table 14.5: written, and the slot RETURNED with its last part. -/
def takePart (s : State) (i n : Nat) (v : Inv) (r : Recipe) (e : ESlot) (p : Nat) (pay : List Byte) : State :=
  let s := vatPut s (partAddr v r e p) pay
  let e := { e with parts := e.parts ++ [p] }
  settleDispatch (setSlot s i n (if e.parts.length = partCount e then { e with state := .returned } else e)) i

/-- What a COMBINE_DATA comes to: discarded and counted, poison for an invocation, or a part taken. -/
def combineData (s : State) (k : Packet) (poisoned : State → Nat → State) : State :=
  let h := k.h
  let stale := bump s eExpertStaleReturnCount
  match invOf s (cdInv h) with
  | none => stale
  | some v =>
    if v.generation % 64 ≠ cdGeneration h || v.tag ≠ hEpoch h || v.recipe ≠ hGroup h || v.slice ≠ h.slice || hChunk h < v.tokenBase || v.status.isSome then stale
    else match findSlot v (hChunk h - v.tokenBase) (cdSlot h) fun e => (e.state = .outstanding || (e.state = .waiting && !e.sentTo.isEmpty)) && e.expert = cdExpert h with
      | none => stale
      | some n => match v.slots[n]?, recipeOf s v.recipe with
        | some e, some r =>
          if !e.sentTo.contains h.src.toNat then stale
          else if partCount e ≤ cdPart h || k.payload.length ≠ partBytes e (cdPart h) then bump s eExpertLengthErrorCount
          else if e.parts.contains (cdPart h) then bump64 s eExpertDuplicateReturnCount 1
          else if h.poison then poisoned s (cdInv h)
          else takePart s (cdInv h) n v r e (cdPart h) k.payload
        | _, _ => stale

/-! COMBINE (R337, R338). -/

/-- The DISPATCH step that a COMBINE pairs with: the last one before it that names the same b. -/
def pairedDispatch (x : Run) : Option Nat :=
  ((List.range x.v.step).reverse).find? fun n => match x.r.steps[n]? with
    | some w => swOp w = soDISPATCH && swB w = swB x.w
    | none => false

/-- One element: its terms in one A128 word. -/
def combineTerms (ts : List (Val × Val)) : Val × Nat :=
  let A := max (-2048) (min 2047 (maxLog2 (ts.map fun t => (Val.mul t.1 t.2).1)))
  aValue (ts.foldl (fun w t => w.add (contributeProduct t.1 t.2 A)) {}) A

/-- A returned slot's row as a view of the return buffer, in the format of DISPATCH a. -/
def returnView (v : Inv) (r : Recipe) (e : ESlot) (cols fmt : Nat) : View :=
  { base := partAddr v r e 0, scale := 0, rows := 1, cols := cols, total := 1, fmt := fmt, kind := 0 }

def combineRun (s : State) (x : Run) : State :=
  match pairedDispatch x, x.view s (swA x.w), x.view s (swD x.w) with
  | some n, some g, some d =>
    if x.v.asyncs.any fun a => a.dispatch && a.step = n then blockStep s x.i
    else
      let c := x.view s (swC x.w)
      let fmt := ((x.r.steps[n]?).bind fun w => (x.desc (swA w)).map tdFmt).getD 0
      let es := x.v.slots.filter fun e => e.disp = n && e.state = .returned
      let vs := es.map fun e => (e, returnView x.v x.r e d.cols fmt)
      withData s x ([g] ++ c.toList ++ vs.map (·.2)) [d] fun s =>
        putAll s d { x.rounding s d with anchored := true } ((List.range d.rows).flatMap fun t => (List.range d.cols).map fun k =>
          combineTerms ((vs.filter fun e => e.1.token = t).map (fun e => ((g.val s g.along t e.1.slot).1, (e.2.val s true 0 k).1)) ++
            match c with
            | some c => [(.fin false 1 1, (c.val s c.along t k).1)]
            | none => []))
  | _, _, _ => s

/-- Tokens of an invocation with a slot in a state. -/
def tokensIn (v : Inv) (st : SlotState) : List Nat := ((v.slots.filter fun e => e.state = st).map (·.token)).dedup

end Sys2Proof.Machine
end

