-- ==== Sys2Proof/Machine/Update.lean ====
section
/-! DEFINITION. UPDATE and DIGEST (R318, R319, R324 to R326, R344, R354, R355, R389): version slots, the replica sum, crumbs, and
what a diverged replica brings. -/
namespace Sys2Proof.Machine

/-! A step as a module member of its station's group (R221, R344). -/

/-- The rank of this module in a group. -/
def ownRank (s : State) (d : GroupDef) : Option Nat := (localRanks s d).head?

/-- The group a step may join: installed, of modules, with this module in it. -/
def joinable (s : State) (gid : Nat) : Option (Group × Nat) :=
  match groupOf s gid with
  | none => none
  | some g =>
    if !moduleGroup g.gdef || installing s gid then none
    else (ownRank s g.gdef).map fun r => (g, r)

/-- The descriptor a DIGEST step joins with (Table 10.2). -/
def compareDesc (rank station : Nat) (crumb : Word) : BitVec 512 :=
  let d := BitVec.ofNat 512 (9 + rank * 2 ^ 256 + crumb.toNat * 2 ^ 320 + station * 2 ^ 384)
  d ||| BitVec.ofNat 512 ((descHash d).toNat * 2 ^ 448)

/-- What stands for a JOIN in a replica sum (R344): a SUM of A128 words with dynamic anchors, and its low_hash. -/
def sumDesc (rank count : Nat) (hash : Word) : BitVec 512 :=
  BitVec.ofNat 512 (1 + 1 * 2 ^ 8 + 10 * 2 ^ 16 + 10 * 2 ^ 32 + count * 2 ^ 64 + rank * 2 ^ 256 + hash.toNat * 2 ^ 448)

/-- low_hash of a replica sum. -/
def sumHash (station stepTag rows cols : Nat) : Word := plihotu (w64 station) (w64 stepTag) (w64 (rows * 2 ^ 32 + cols))

/-- MAXIMA entries of a span of words: per block of 128, the largest floor(log2 |v|) of untagged non-zero values. -/
def wordMaxima (ws : List (AWord × Int)) : List Int :=
  (List.range ((ws.length + 127) / 128)).map fun b =>
    (((ws.drop (128 * b)).take 128).filter fun w => w.1.tag = 0).foldl (fun a w => match (valDyadic w.1.m (w.2 - 75)).log2 with
      | some e => max a e
      | none => a) anchorNone

/-- Join the open or the next instance; `none` while this module's member has already joined the open one. -/
def stepJoin (s : State) (i gid : Nat) (g : Group) (r : Nat) (d : BitVec 512) (feed : State → State) : Option State :=
  if (match g.inst with | some x => hasJoined x r | none => false) then none
  else
    let s := contextSwap (openInst s gid) gid
    let s := modInv s i fun v => { v with coll := some (gid, g.epoch), phase := .blocked }
    some (afterPacket (feed (joinMember (touchInst s gid) gid r d true)) gid)

/-- How an instance that a step joined has ended: still open, to be joined again after a re-run, or its record. -/
inductive Ended where
  | running
  | again
  | record (r : Rec)
  | gone
deriving DecidableEq, Repr

def collEnded (s : State) (gid epoch : Nat) : Ended :=
  match groupOf s gid with
  | none => .gone
  | some g =>
    if g.inst.isSome && g.epoch = epoch then .running
    else if g.rerunOf = some epoch then .again
    else match g.lastRecord with
      | some r => .record (recOf r.toNat)
      | none => .gone

/-! DIGEST (R319, R353, R354). -/

/-- A field copy's kind-1 crumb (Table 15.4). -/
def fieldCrumb (s : State) (y : Station) (f slot : Nat) : Word :=
  crumbOf 1 (w64 f) (w64 (y.slots.getD slot {}).tag) ((List.range (sfSlabs (fieldOf y f))).map fun n =>
    (n, Memory.read s.vat.mem (4096 * (copySlab y f slot + n)) 4096))

/-- The slabs of a field copy. -/
def copySlabs (y : Station) (f slot : Nat) : List Nat := (List.range (sfSlabs (fieldOf y f))).map (· + copySlab y f slot)

/-- The log entry of a version's crumb (Table 15.5). -/
def logVersion (s : State) (k f tag : Nat) (crumb : Word) : State := logCrumb s 1 k tag 0 (plihotu 1 (w64 f) (w64 tag)) crumb

/-- The kept crumb of a field's slot. -/
def keptCrumb (y : Station) (f slot : Nat) : Option Word :=
  match (y.slots.getD slot {}).crumb with
  | some x => if x.1 = f then some x.2 else none
  | none => none

/-- Keep a crumb read for a DIGEST, and log it. -/
def keepCrumb (s : State) (k f slot : Nat) (c : Word) : State :=
  let tag := match stationOf s k with | some y => (y.slots.getD slot {}).tag | none => 0
  logVersion (modSlot s k slot fun z => { z with crumb := some (f, c) }) k f tag c

/-- A station becomes INCONSISTENT (R326, R389). -/
def makeInconsistent (s : State) (k context : Nat) : State :=
  match stationOf s k with
  | none => s
  | some y => raiseFault (setStation s k { y with state := 3 }) 25 10 k (w64 context)

/-- A DIGEST_COMPARE committed DIVERGED (R389). -/
def replicaDiverged (s : State) (k context : Nat) : State :=
  let s := raiseFault s 26 10 k (w64 context)
  if rd s eReplicaDivergeAction = 0 then makeInconsistent s k context else s

/-- The crumb is written to d, if d is named, and to the completion record. -/
def digestWrite (s : State) (x : Run) (c : Word) : State :=
  let s := modInv s x.i fun v => { v with crumb := c }
  match x.view s (swD x.w) with
  | some d => stepPut s d (d.base + d.row0 * d.cols) (leBytes 8 c.toNat)
  | none => s

/-- A compare joins its group (R319); without one the step ends COLL_FAIL. -/
def compareJoin (s : State) (x : Run) (k : Nat) (y : Station) (c : Word) : State :=
  match joinable s (shGroup y.header) with
  | none => endStep s x.i isCOLL_FAIL k
  | some (g, r) => match stepJoin s x.i (shGroup y.header) g r (compareDesc r k c) id with
    | none => blockStep s x.i
    | some s => match stationOf s k with
      | some y => setStation s k { y with sinceCompare := 0 }
      | none => s

/-- The compare has ended. -/
def compareEnd (s : State) (x : Run) (k f slot : Nat) (r : Rec) : State :=
  if r.status = csOK then doneStep s x.i {}
  else if r.status = csDIVERGED then
    let tag := match stationOf s k with | some y => (y.slots.getD slot {}).tag | none => f
    let s := modInv (replicaDiverged s k tag) x.i fun v => { v with culprit := r.culpritRank }
    endStep s x.i isDIVERGED k
  else endStep s x.i isCOLL_FAIL k

/-- DIGEST: `compare` says of the station whether this sub-operation compares. -/
def digestRun (s : State) (x : Run) (needsGroup : Bool) (compare : Station → Bool) : State :=
  match x.view s (swA x.w) with
  | none => s
  | some a => match a.own with
    | none => s
    | some (k, f, slot) => match stationOf s k with
      | none => s
      | some y =>
        match x.v.coll with
        | some (gid, e) => match collEnded s gid e with
          | .running => s
          | .again => compareJoin (modInv s x.i fun v => { v with coll := none }) x k y x.v.crumb
          | .record r => compareEnd (modInv s x.i fun v => { v with coll := none }) x k f slot r
          | .gone => endStep (modInv s x.i fun v => { v with coll := none }) x.i isCOLL_FAIL k
        | none =>
          let kept := keptCrumb y f slot
          let r := if kept.isSome then (s, Ready.go) else readSlabs s (copySlabs y f slot)
          let w := writeSlabs r.1 [] ((x.view s (swD x.w)).toList.flatMap View.slabs)
          if r.2 = .wait || w.2 = .wait then blockStep w.1 x.i
          else if r.2 = .poison then endStep w.1 x.i isPOISONED 0xFFFF
          else
            let c := kept.getD (fieldCrumb w.1 y f slot)
            let s := if kept.isSome then w.1 else keepCrumb w.1 k f slot c
            let s := digestWrite s x c
            if needsGroup && shGroup y.header = 0xFFFF then endStep s x.i isCOLL_FAIL k
            else if compare y then compareJoin s x k y c else doneStep s x.i {}

def digestComputeRun (s : State) (x : Run) : State := digestRun s x false fun _ => false
def digestCompareRun (s : State) (x : Run) : State := digestRun s x true fun _ => true
def digestAutoRun (s : State) (x : Run) : State := digestRun s x true fun y => shDigest y.header ≤ y.sinceCompare

/-! UPDATE. -/

/-- The slot an UPDATE producing tag T takes (R324): an unused one, else the oldest, once nobody reads it and the second-oldest
tag lies far enough back. -/
def takeableSlot (y : Station) (T : Nat) : Option Nat :=
  match y.slots.findIdx? fun z => z.state = 0 with
  | some k => some k
  | none =>
    let kept := sortBy (fun a b => a.1.tag ≤ b.1.tag) (y.slots.zipIdx.filter fun z => z.1.state = 1)
    match kept with
    | a :: b :: _ => if a.1.readers = 0 && b.1.tag + shPipe y.header ≤ T then some a.2 else none
    | [a] => if a.1.readers = 0 then some a.2 else none
    | [] => none

/-- The station of a step's d. -/
def updateStation (x : Run) : Nat := (x.desc (swD x.w)).elim 0 tdStation

/-- A station without an UPDATE in its queue; the slot it was writing becomes unused. -/
def stationDrop (i : Nat) (slot : Option Nat) (y : Station) : Station :=
  if !y.updateQueue.contains i then y
  else
    let free (z : VSlot) : VSlot := if z.state = 2 then { z with state := 0 } else z
    let slots := match slot with
      | some k => y.slots.modify k free
      | none => y.slots
    { y with updateQueue := y.updateQueue.filter (· ≠ i), slots := slots }

/-- An UPDATE leaves its station's queue; a slot it was writing becomes unused. -/
def dropUpdate (s : State) (i : Nat) : State :=
  match invOf s i with
  | none => s
  | some v =>
    let l := s.stations.installed.map fun y => (y.1, stationDrop i v.slotTaken y.2)
    let s := { s with stations := { s.stations with installed := l } }
    modInv s i fun v => { v with slotTaken := none }

/-- An UPDATE ends with a status. -/
def endUpdate (s : State) (i status k : Nat) : State := endStep (dropUpdate s i) i status k

/-- The UPDATE at the head of its station's queue takes its slot, and reads the version its step tag selects. -/
def takeSlot (s : State) (x : Run) : State :=
  let k := updateStation x
  match stationOf s k with
  | none => s
  | some y =>
    if y.updateQueue.head? ≠ some x.i then waitStep s x.i
    else
      let T := x.v.stepTag + 1
      if (match newestTag y with | some n => decide (T ≤ n) | none => false) then endUpdate s x.i isVERSION_ORDER k
      else match readSlot y x.v.stepTag with
        | none => staleRead (dropUpdate s x.i) x.i k
        | some q => match takeableSlot y T with
          | none => waitStep s x.i
          | some n =>
            let s := modSlot s k n fun _ => { state := 2, tag := T % 2 ^ 32 }
            let s := modInv s x.i fun v => { v with slotTaken := some n }
            holdSlot s x.i k 1 q

/-- The operands of an UPDATE: the weight as read, d, gradient, first and second state, the eight values. -/
structure UpdateOps where
  w : View
  d : View
  g : View
  m : View
  v : Option View
  hyper : List (Val × Nat)
deriving DecidableEq, Repr

/-- The weight version that an UPDATE reads, as a tensor. -/
def readVersion (s : State) (x : Run) (d : View) : View :=
  match d.own with
  | some (k, f, slot) => match stationOf s k with
    | some y =>
      let q := slotFor x.v k 1
      { d with base := d.base - 4096 * copySlab y f slot + 4096 * copySlab y f q, scale := d.scale - 4096 * copySlab y f slot + 4096 * copySlab y f q,
               own := some (k, f, q) }
    | none => d
  | none => d

def updateOps (s : State) (x : Run) (adamw : Bool) : Option UpdateOps :=
  match x.view s (swD x.w), x.view s (swA x.w), x.view s (swB x.w), x.view s (bitsAt (swParam x.w) 0 8) with
  | some d, some g, some m, some h =>
    some { w := readVersion s x d, d := d, g := g, m := m, v := if adamw then x.view s (swC x.w) else none, hyper := h.vals s }
  | _, _, _, _ => none

/-- The gradient of an element: A128 by R195, or numeric, rounded once to FP32. -/
def gradVal (s : State) (g : View) (r c : Nat) : Val × Nat := pRne (g.val s g.along r c)

/-- One element (R318): the new weight before its rounding, and the new states. -/
def updateElem (o : UpdateOps) (w g m v : Val × Nat) : (Val × Nat) × (Val × Nat) × (Val × Nat) :=
  let h (n : Nat) : Val × Nat := o.hyper.getD n (.nan, 0)
  let lr := h 0; let b1 := h 1; let b2 := h 2; let eps := h 3; let wd := h 4; let c1 := h 5; let c2 := h 6; let mu := h 7
  let adamw := o.v.isSome
  let m' := if adamw then pRne (pAdd (pMul b1 m) (pMul (pSub pOne b1) g)) else pRne (pAdd (pMul mu m) g)
  let v' := if adamw then pRne (pAdd (pMul b2 v) (pMul (pMul (pSub pOne b2) g) g)) else v
  let u := if adamw then
      let t := pRne (pMul v' c2)
      let q : Val × Nat := (f32 (sqrtF32 t.1), t.2)
      pRne (pQuot (pRne (pMul m' c1)) (pRne (pAdd q eps)))
    else m'
  (pSub w (pMul lr (pAdd u (pMul wd w))), m', v')

/-- The slabs that element (r, c) of a view needs are not poisoned. -/
def elemClean (s : State) (v : View) (r c : Nat) : Bool := !slabPoisoned s ((v.base + v.lo ((v.row0 + r) * v.cols + c)) / 4096)

/-- Every operand of an element can be read. -/
def elemReady (s : State) (o : UpdateOps) (r c : Nat) : Bool :=
  elemClean s o.w r c && elemClean s o.g r c && elemClean s o.m r c && (match o.v with | some v => elemClean s v r c | none => true)

/-- COLMAX of a written version: per column the largest floor(log2 |x|) as i16 (R275, R318; log entry 27). -/
def writeColmax (s : State) (k f slot : Nat) (d : View) : State :=
  match stationOf s k with
  | none => s
  | some y =>
    if sfKind (fieldOf y (f + 1)) ≠ kiCOLMAX then s
    else
      let c : View := { base := 4096 * copySlab y (f + 1) slot, scale := 0, rows := 1, cols := d.cols, total := 1, fmt := 0, kind := 1, own := some (k, f + 1, slot) }
      putRun s c 0 ((List.range d.cols).map fun n =>
        unsigned 16 ((maxExp ((List.range d.rows).map fun r => (d.val s d.along r n).1)).getD (-32768)))

/-- The encodings of a state tensor's elements in FP32, and what they report. -/
def stateElems (vs : List (Val × Nat)) : List Nat × Report :=
  (vs.map fun v => (rneF32 v.1).1, vs.zipIdx.foldl (fun p v => p.elem v.2 ((rneF32 v.1.1).2 ||| v.1.2)) {})

/-- Write the first `n` elements: weight, states and, where asked, the cleared gradient. -/
def writeUpdate (s : State) (x : Run) (o : UpdateOps) (n : Nat) : State × Report :=
  let es := ((List.range o.d.rows).flatMap fun r => (List.range o.d.cols).map fun c => (r, c)).take n
  let rs := es.map fun e =>
    updateElem o (o.w.val s o.w.along e.1 e.2) (gradVal s o.g e.1 e.2) (o.m.val s o.m.along e.1 e.2)
      (match o.v with | some v => v.val s v.along e.1 e.2 | none => (.fin false 0 1, 0))
  let clear := es.map fun e => aBits {} (o.g.word s e.1 e.2).2
  let p := putVals s o.d (x.rounding s o.d) 0 0 (upDiv n (max 1 o.d.cols)) o.d.cols (rs.map (·.1))
  let m := stateElems (rs.map (·.2.1))
  let v := if o.v.isSome then stateElems (rs.map (·.2.2)) else ([], {})
  let s := putRun p.1 o.m (o.m.row0 * o.m.cols) m.1
  let s := match o.v with
    | some w => putRun s w (w.row0 * w.cols) v.1
    | none => s
  (if swClearGrad x.w && o.g.isA128 then putRun s o.g (o.g.row0 * o.g.cols) clear else s, (p.2.and m.2).and v.2)

/-- The version is complete (R324, R354, R355): kept with its tag and crumb, counted, chained and logged. -/
def completeUpdate (s : State) (x : Run) (p : Report) (k f slot : Nat) : State :=
  match stationOf s k with
  | none => s
  | some y =>
    let T := (x.v.stepTag + 1) % 2 ^ 32
    let c := fieldCrumb s y f slot
    let y := { y with slots := y.slots.modify slot fun z => { z with state := 1, tag := T, crumb := some (f, c) },
                      updates := y.updates + 1, sinceCompare := min 65535 (y.sinceCompare + 1), chain := plihotu y.chain c (w64 T),
                      updateQueue := y.updateQueue.filter (· ≠ x.i) }
    let s := setStation s k y
    let s := modInv s x.i fun v => { v with newTag := T, slotTaken := none }
    doneStep (logCrumb s 1 k T (b2n (decide (p.flags ≠ 0)) * 2 ^ 11) (plihotu 1 (w64 f) (w64 T)) c) x.i p

/-- The computation of R318 with all locks held. -/
def computeUpdate (s : State) (x : Run) (adamw : Bool) : State :=
  match updateOps s x adamw, (x.view s (swD x.w)).bind (·.own) with
  | some o, some (k, f, slot) =>
    let h := readSlabs s ((x.view s (bitsAt (swParam x.w) 0 8)).toList.flatMap View.slabs)
    let r := readSlabs h.1 (([o.w, o.g, o.m] ++ o.v.toList).flatMap View.slabs)
    let w := writeSlabs r.1 o.d.whole (o.d.slabs ++ (match stationOf s k with
      | some y => if sfKind (fieldOf y (f + 1)) = kiCOLMAX then copySlabs y (f + 1) slot else []
      | none => []))
    let s := w.1
    if h.2 = .wait || r.2 = .wait || w.2 = .wait then blockStep s x.i
    else if h.2 = .poison then endUpdate s x.i isPOISONED 0xFFFF
    else
      let es := (List.range o.d.rows).flatMap fun r => (List.range o.d.cols).map fun c => (r, c)
      match es.findIdx? fun e => !elemReady s o e.1 e.2 with
      | some 0 => endUpdate s x.i isPOISONED 0xFFFF
      | some n => endUpdate (makeInconsistent (writeUpdate s x o n).1 k x.v.stepTag) x.i isINCONSISTENT k
      | none =>
        let p := writeUpdate s x o es.length
        completeUpdate (writeColmax p.1 k f slot o.d) x p.2 k f slot
  | _, _ => endUpdate s x.i isNOT_READY 0xFFFF

/-- Join the replica sum with the gradient's words (R344). -/
def replicaJoin (s : State) (x : Run) (k : Nat) (y : Station) (g : View) : State :=
  let fail (s : State) : State := endUpdate (bump s eReplicaSumFailCount) x.i isCOLL_FAIL k
  let r := readSlabs s g.slabs
  match r.2 with
  | .wait => blockStep r.1 x.i
  | .poison => endUpdate r.1 x.i isPOISONED 0xFFFF
  | .go =>
    let gid := shGroup y.header
    match joinable r.1 gid with
    | none => fail r.1
    | some (gr, rank) =>
      let ws := (List.range g.rows).flatMap fun a => (List.range g.cols).map (g.word r.1 a)
      let d := sumDesc rank (g.rows * g.cols) (sumHash k x.v.stepTag g.rows g.cols)
      let feed (s : State) : State :=
        let s := (List.range (upDiv ws.length 65536)).foldl (fun s sp =>
          let pay := anchorBytes (wordMaxima ((ws.drop (65536 * sp)).take 65536))
          takeAnchor s gid rank 255 ⟨groupHeader s gid gr opANCHOR (myId s 0xFF) sp 0 false pay.length, pay⟩) s
        (List.range (upDiv ws.length 128)).foldl (fun s c =>
          let pay := ((ws.drop (128 * c)).take 128).flatMap fun w => leBytes 32 (aBits w.1 w.2)
          let h := groupHeader s gid gr opDATA (myId s 0xFF) c (auxOf kCONTRIB 0 0 rank) false pay.length
          offerTerm s gid { source := rank, chunk := c, pkt := ⟨h, pay⟩, port := 255, stamp := some (fcNow s), passed := fcNow s, checked := true }) s
      match stepJoin r.1 x.i gid gr rank d feed with
      | none => blockStep r.1 x.i
      | some s => s

/-- The summed words replace the gradient (R344). -/
def writeSums (s : State) (g : View) (sums : Tab (List Byte)) : State :=
  let n := g.rows * g.cols
  let es := (List.range n).map fun e => leNat (sliceZ (Tab.getD sums (e / 128) []) (32 * (e % 128)) 32)
  putRun s g (g.row0 * g.cols) es

/-- The replica sum where the station has a group, then the computation. -/
def updateGo (s : State) (x : Run) (adamw : Bool) : State :=
  let k := updateStation x
  match stationOf s k, x.view s (swA x.w) with
  | some y, some g =>
    if shGroup y.header = 0xFFFF then computeUpdate s x adamw
    else match x.v.coll with
      | none => replicaJoin s x k y g
      | some (gid, e) =>
        let s' := modInv s x.i fun v => { v with coll := none }
        let fail := endUpdate (bump s' eReplicaSumFailCount) x.i isCOLL_FAIL k
        match collEnded s gid e with
        | .running => s
        | .again => replicaJoin s' { x with v := { x.v with coll := none } } k y g
        | .gone => fail
        | .record r =>
          if r.status ≠ csOK then fail
          else
            let sums := match groupOf s' gid with | some gr => gr.sums | none => []
            computeUpdate (writeSums (bump64 s' eReplicaSumCount 1) g sums) { x with v := { x.v with coll := none } } adamw
  | _, _ => endUpdate s x.i isNOT_READY 0xFFFF

/-- UPDATE: in its station's queue, its slot, then its locks (R324), then its work. `mayTake` is false while it waits for a slot
that only UPDATE_SLOT_TAKEN gives it. -/
def updateRun (s : State) (x : Run) (adamw mayTake : Bool) : State :=
  let k := updateStation x
  match stationOf s k with
  | none => s
  | some y =>
    let new := !y.updateQueue.contains x.i
    let s := if new then setStation s k { y with updateQueue := y.updateQueue ++ [x.i] } else s
    let s := if x.v.slotTaken.isNone && (new || mayTake) then takeSlot s x else s
    match runOf s x.i with
    | none => s
    | some x =>
      if x.v.slotTaken.isNone then s
      else
        let l := takeLocks s x
        if l.2 then updateGo l.1 x adamw else waitStep l.1 x.i

end Sys2Proof.Machine
end

