-- ==== Sys2Proof/Machine/Install.lean ====
section
/-! DEFINITION. What a recipe install checks (R293, R303, R305 to R307, R309 to R319, R328) and what a station install checks
(R323). Where several results apply, the lowest code is shown (log entry 29). -/
namespace Sys2Proof.Machine

/-! Step words (R306, Table 13.5). -/

/-- Fields an operation fixes: (lowest bit, width, value). An unused descriptor is 0xFF, any other unused field 0. -/
abbrev Fixed := List (Nat × Nat × Nat)

/-- d, a, b and c that an operation does not use. -/
def noD : Nat × Nat × Nat := (16, 8, 0xFF)
def noA : Nat × Nat × Nat := (24, 8, 0xFF)
def noB : Nat × Nat × Nat := (32, 8, 0xFF)
def noC : Nat × Nat × Nat := (40, 8, 0xFF)
/-- round, param and opx that it does not use. -/
def noRound : Nat × Nat × Nat := (12, 2, 0)
def noParam : Nat × Nat × Nat := (48, 16, 0)
def noOpx : Nat × Nat × Nat := (64, 64, 0)
def noOpxHigh : Nat × Nat × Nat := (96, 32, 0)

/-- The fields of a MATMUL that must have one value (R309). -/
def matmulFixed (w : BitVec 128) : Fixed :=
  [(64, 32, 0)] ++
  (if mmKind w = 0 then [(104, 8, 0xFF)] else []) ++ (if mmSparse w then [] else [(56, 8, 0xFF)]) ++
  (if mmAnchored w then (if mmAnchorMode w = 1 then [] else [(116, 12, 0)]) else [(9, 2, 0), (116, 12, 0)])

/-- The fixed fields of a step. -/
def stepFixed (w : BitVec 128) : Fixed :=
  let sub := swSub w
  match swOp w with
  | 1 => matmulFixed w
  | 2 => [noB, (53, 11, 0), noOpx]
  | 3 => [noB, noC, noParam, noOpxHigh]
  | 4 => (if sub = 0 then [noC] else []) ++ [noParam, noOpxHigh]
  | 5 => (if sub = 1 || sub = 2 then [] else [noB]) ++ [noC, noParam, noOpxHigh]
  | 6 => [noC, noParam, noOpx]
  | 7 => [noB, noC, noParam, noOpx]
  | 8 => [noA, noB, noC, noRound, noParam, (64, 32, 0)]
  | 9 => [noD, noRound, (53, 11, 0), (64, 48, 0)]
  | 10 => [(52, 12, 0), (64, 32, 0)]
  | 11 => [noB, noC, noParam, (64, 52, 0)] ++ (if sub = 2 then [noA, noRound] else [(116, 12, 0)]) ++ (if sub = 0 then [noRound] else [])
  | 12 => (if sub = 0 then [noC] else []) ++ [(56, 8, 0), (65, 63, 0)]
  | 13 => [noB, noC, noRound, noParam, noOpx]
  | _ => [noD, noA, noB, noC, noRound, noParam, noOpx]

/-- Sub-operations of an operation. -/
def subOk (w : BitVec 128) : Bool :=
  let sub := swSub w
  match swOp w with
  | 1 => mmAnchorMode w ≤ 2 && mmKind w ≤ 1
  | 4 => sub ≤ 1
  | 5 => sub ≤ 4
  | 6 => sub ≤ 2
  | 8 => sub ≤ 1
  | 11 => sub ≤ 2
  | 12 => sub ≤ 1
  | 13 => sub ≤ 2
  | _ => sub = 0

/-- The operands that a step must name. -/
def stepNeeds (w : BitVec 128) : List Nat :=
  let sub := swSub w
  match swOp w with
  | 1 => [swD w, swA w, swB w] ++ (if mmSparse w then [mmMeta w] else []) ++ (if mmKind w = 1 then [swC w, mmSecond w] else [])
  | 2 => [swD w, swA w, swC w]
  | 4 => [swD w, swA w, swB w]
  | 5 => [swD w, swA w] ++ (if sub = 1 || sub = 2 then [swB w] else [])
  | 6 => [swD w, swA w, swB w]
  | 8 => [swD w]
  | 9 => [swA w, swB w, swC w]
  | 10 => [swD w, swA w, swB w]
  | 11 => [swD w] ++ (if sub = 2 then [] else [swA w])
  | 12 => [swD w, swA w, swB w, bitsAt (swParam w) 0 8] ++ (if sub = 1 then [swC w] else [])
  | 13 => [swA w]
  | 14 => []
  | _ => [swD w, swA w]

/-- k of TOPK, DISPATCH and COMBINE. -/
def kOk (w : BitVec 128) : Bool := (swOp w ≠ soTOPK && swOp w ≠ soDISPATCH && swOp w ≠ soCOMBINE) || (1 ≤ swK w && swK w ≤ 8)

/-- A step word is well formed (R306, R307): reserved codes, reserved bits and unused fields, and operands that exist. -/
def stepOk (tensors : Nat) (w : BitVec 128) : Bool :=
  1 ≤ swOp w && swOp w ≤ 14 && bitsAt w.toNat 14 2 = 0 && subOk w && kOk w &&
  (stepFixed w).all (fun x => bitsAt w.toNat x.1 x.2.1 = x.2.2) &&
  (stepNeeds w).all (fun n => n ≠ 0xFF) && (stepSources w ++ stepDests w).all (fun n => n < tensors)

/-! Descriptors (R305). -/

/-- A format word (R182): no reserved code, no scale on FP32 or A128. -/
def fmtOk (f : Nat) : Bool :=
  bitsAt f 10 6 = 0 && fmtElem f ≤ 10 && fmtScale f ≠ 3 && bitsAt f 6 3 ≤ 5 &&
  (fmtScale f ≠ 0 || bitsAt f 6 4 = 0) && (fmtScale f = 0 || (fmtElem f ≠ 0 && fmtElem f ≠ 10))

/-- The installed field that a STATION descriptor names. -/
def fieldNamed (s : State) (t : BitVec 256) : Option (BitVec 256) :=
  if tdSpace t ≠ 3 then none
  else match stationOf s (tdStation t) with
    | some y => if sfKind (fieldOf y (tdField t)) = kiUNUSED then none else some (fieldOf y (tdField t))
    | none => none

/-- A descriptor keeps Table 13.3. -/
def tensorOk (s : State) (t : BitVec 256) : Bool :=
  bitsAt t.toNat 232 2 = 0 && bitsAt t.toNat 129 31 = 0 && bitsAt t.toNat 0 48 = 0 &&
  tdStation t ≤ 4095 && tdVersion t ≤ 2 && tdSpace t ≤ 3 && tdKind t ≤ 2 &&
  1 ≤ tdRows t && tdRows t ≤ 8388608 && 1 ≤ tdCols t && tdCols t ≤ 8388608 &&
  tdOffset t % 16 = 0 && (tdKind t = 0 || tdFmt t = 0) && (fmtScale (tdFmt t) ≠ 0 || tdScale t = 0) &&
  (tdSpace t = 3 || (tdStation t = 0 && tdField t = 0 && tdVersion t = 0)) &&
  (match fieldNamed s t with
   | some f => sfVersioned f == decide (tdVersion t ≠ 0)
   | none => true)

/-- A descriptor is missing its station or its field. -/
def stationMissing (s : State) (t : BitVec 256) : Bool := decide (tdSpace t = 3) && (fieldNamed s t).isNone

/-- A recipe as staged, checked for one token count. -/
structure Draft where
  header : BitVec 256
  steps : List (BitVec 128)
  tensors : List (BitVec 256)
  tokens : Nat
deriving DecidableEq, Repr

/-- A descriptor by its index, and its shape at the draft's token count. -/
def Draft.t (g : Draft) (n : Nat) : BitVec 256 := g.tensors.getD n 0
def Draft.rows (g : Draft) (n : Nat) : Nat := tdRowsAt (g.t n) g.tokens
def Draft.cols (g : Draft) (n : Nat) : Nat := tdCols (g.t n)
def Draft.code (g : Draft) (n : Nat) : Nat := fmtElem (tdFmt (g.t n))

/-- The same shape; one row of the other's columns. -/
def Draft.same (g : Draft) (m n : Nat) : Bool := g.rows m = g.rows n && g.cols m = g.cols n
def Draft.oneRow (g : Draft) (m n : Nat) : Bool := g.rows m = 1 && g.cols m = g.cols n

/-! Shapes (code 3). -/

/-- The ranges of a product's M, N and K (R271). -/
def productRange (m n k : Nat) : Bool := 1 ≤ m && m ≤ 8388608 && 1 ≤ n && n ≤ 262144 && 1 ≤ k && k ≤ 8388608

/-- Rows and columns of a descriptor, transposed where `t` is set. -/
def Draft.turned (g : Draft) (n : Nat) (t : Bool) : Nat × Nat := if t then (g.cols n, g.rows n) else (g.rows n, g.cols n)

/-- The product op(A) · op(B) of a step, where op(B) is b transposed as `tb` says: M × N over K, b compressed under 2:4, and
metadata and bitmap that cover it (R271, R277, R278). Of a backward pair it is dX, whose B is Wᵀ (log entry 130). -/
def productShape (g : Draft) (w : BitVec 128) (tb : Bool) : Bool :=
  let M := (g.turned (swA w) (mmTransA w)).1
  let K := (g.turned (swA w) (mmTransA w)).2
  let N := (g.turned (swB w) tb).2
  let p := 128 * packing (max (kindBits 0 (tdFmt (g.t (swA w)))) (kindBits 0 (tdFmt (g.t (swB w))))) * (if mmSparse w then 2 else 1)
  productRange M N K && (g.turned (swB w) tb).1 = (if mmSparse w then 2 * upDiv K 4 else K) && g.rows (swD w) = M && g.cols (swD w) = N &&
  (!mmSparse w || upDiv K 4 * N ≤ 2 * (g.rows (mmMeta w) * g.cols (mmMeta w))) &&
  (mmZero w = 0xFF || upDiv K p * upDiv N 128 ≤ 8 * (g.rows (mmZero w) * g.cols (mmZero w)))

/-- MATMUL's shapes (R265, R271, R277, R278, R309): the product, the stash, and the pair's dW = Xᵀ · dY or the COLMAX. -/
def matmulShape (s : State) (g : Draft) (w : BitVec 128) : Bool :=
  let a := swA w; let b := swB w; let c := swC w
  (mmStash w = 0xFF || g.same (mmStash w) a) &&
  (if mmKind w = 1 then
    let M := (g.turned a (mmTransA w)).1
    let N := (g.turned a (mmTransA w)).2
    let K := (g.turned b (!mmTransB w)).2
    productShape g w (!mmTransB w) && productRange K N M && g.rows c = M && g.cols c = K && g.rows (mmSecond w) = K && g.cols (mmSecond w) = N
  else
    productShape g w (mmTransB w) &&
    (c = 0xFF || (!mmTransB w && g.rows c = 1 && g.cols c = (g.turned b false).2 && tdStation (g.t c) = tdStation (g.t b) && tdField (g.t c) = tdField (g.t b) + 1 &&
      tdVersion (g.t c) = tdVersion (g.t b) &&
      (match fieldNamed s (g.t b), fieldNamed s (g.t c) with
       | some x, some y => sfKind x = kiWEIGHT && sfKind y = kiCOLMAX
       | none, some _ => false
       | _, none => true))))

/-- The DISPATCH that a COMBINE at step n pairs with (R328): the last one before it that names the same b. -/
def combinePair (g : Draft) (n : Nat) : Option Nat :=
  match g.steps[n]? with
  | none => none
  | some w => ((List.range n).reverse).find? fun m => match g.steps[m]? with
    | some u => swOp u = soDISPATCH && swB u = swB w
    | none => false

/-- Each DISPATCH is followed by exactly one COMBINE before another names its b, and each COMBINE has its DISPATCH (R328). -/
def pairsOk (g : Draft) : Bool :=
  let combines := (List.range g.steps.length).filter fun n => match g.steps[n]? with | some w => swOp w = soCOMBINE | none => false
  let ds := (List.range g.steps.length).filter fun n => match g.steps[n]? with | some w => swOp w = soDISPATCH | none => false
  combines.all (fun n => (combinePair g n).isSome) &&
  ds.all fun m => (combines.filter fun n => combinePair g n = some m).length = 1

/-- The shapes of a step at place n. -/
def stepShape (s : State) (g : Draft) (n : Nat) (w : BitVec 128) : Bool :=
  let a := swA w; let b := swB w; let c := swC w; let d := swD w; let sub := swSub w; let k := swK w
  match swOp w with
  | 1 => matmulShape s g w
  | 2 => g.cols a ≤ 1024 && k ≤ g.cols a && g.rows d = g.rows a && g.rows c = g.rows a && g.cols d = k && g.cols c = k
  | 4 => g.same d a && g.oneRow b a && (c = 0xFF || g.oneRow c a)
  | 5 => g.same d a && (sub ≠ 1 || g.oneRow b a) && (sub ≠ 2 || g.rows b * g.cols b = g.rows a && (g.rows b = 1 || g.cols b = 1))
  | 6 => g.same d a && (g.same b a || g.oneRow b a)
  | 8 => true
  | 9 => g.rows a = g.tokens && g.rows b = g.tokens && g.cols b = k
  | 10 =>
    g.cols a = k && g.cols b = k && g.rows a = g.tokens && g.rows b = g.tokens && g.rows d = g.tokens && (c = 0xFF || g.same c d) &&
    (match (combinePair g n).bind fun m => g.steps[m]? with
     | some u => g.cols d = g.cols (swA u) && swK u = k
     | none => false)
  | 11 => if sub = 0 then g.same d a else if sub = 1 then g.oneRow d a else true
  | 12 => g.same a d && g.same b d && (sub = 0 || g.same c d) && (let h := bitsAt (swParam w) 0 8; g.rows h * g.cols h = 8)
  | 13 => d = 0xFF || g.rows d * g.cols d = 8
  | 14 => true
  | _ => g.same d a

/-! Formats (code 4). -/

/-- NUMERIC in formats 0x0 to `top`; scaled only where allowed. -/
def Draft.numeric (g : Draft) (top : Nat) (scaled : Bool) (n : Nat) : Bool :=
  let t := g.t n
  tdKind t = 0 && fmtOk (tdFmt t) && fmtElem (tdFmt t) ≤ top && (scaled || fmtScale (tdFmt t) = 0)

/-- The formats of a step's operands (R307 to R319, R328). -/
def stepFormat (g : Draft) (w : BitVec 128) : Bool :=
  let a := swA w; let b := swB w; let c := swC w; let d := swD w; let sub := swSub w
  let src (n : Nat) : Bool := n = 0xFF || g.numeric 10 true n
  let kind (k n : Nat) : Bool := n = 0xFF || tdKind (g.t n) = k
  match swOp w with
  | 1 =>
    let out (n : Nat) : Bool := if mmAnchored w then g.numeric 10 true n && (mmAnchorMode w ≠ 2 || g.code n = 10) else g.numeric 9 true n
    g.numeric 9 true a && g.numeric 9 true b && out d &&
    (if mmKind w = 1 then g.numeric 9 true c && out (mmSecond w) else kind 1 c) &&
    kind 2 (mmMeta w) && kind 2 (mmZero w) &&
    (mmStash w = 0xFF || (g.numeric 9 true (mmStash w) && tdFmt (g.t (mmStash w)) = tdFmt (g.t a)))
  | 2 => src a && g.numeric 9 false d && kind 1 c
  | 7 => src a && g.numeric 9 true d
  | 8 => tdKind (g.t d) ≠ 0 || fmtOk (tdFmt (g.t d))
  | 9 => g.numeric 10 false a && tdPerToken (g.t a) && kindBytes 0 (tdFmt (g.t a)) (g.cols a) ≤ 65536 && kind 1 b
  | 10 => src a && kind 1 b && src c && g.numeric 9 false d
  | 11 => if sub = 1 then src a && g.numeric 9 false d else g.numeric 10 false d && g.code d = 10 && (sub = 2 || src a)
  | 12 =>
    let f32 (n : Nat) : Bool := g.numeric 0 false n
    g.numeric 9 false d && src a && f32 b && (sub = 0 || f32 c) && f32 (bitsAt (swParam w) 0 8) && (!swClearGrad w || g.code a = 10)
  | 13 => (tdKind (g.t a) ≠ 0 || fmtOk (tdFmt (g.t a))) && kind 2 d
  | 14 => true
  | _ => src a && src b && src c && g.numeric 9 false d

/-! Places (codes 2 and 5). -/

/-- What places an operation asks of its operands beyond Table 13.3 (R328), as BAD_TENSOR. -/
def stepPlaces (s : State) (g : Draft) (w : BitVec 128) : Bool :=
  let fieldIs (n : Nat) (ok : BitVec 256 → Bool) : Bool := tdSpace (g.t n) = 3 && (match fieldNamed s (g.t n) with | some f => ok f | none => true)
  if swOp w = soDISPATCH then
    tdKind (g.t (swC w)) = 2 && tdCols (g.t (swC w)) = 8 && !tdPerToken (g.t (swC w)) && tdRows (g.t (swC w)) ≤ 1024 && fieldIs (swC w) fun f => sfKind f = kiMAP
  else if swOp w = soUPDATE then tdVersion (g.t (swD w)) = 2 && fieldIs (swD w) fun f => sfKind f = kiWEIGHT
  else if swOp w = soSTAGE then fieldIs (swD w) fun _ => true
  else if swOp w = soDIGEST then tdVersion (g.t (swA w)) = 1 && fieldIs (swA w) sfVersioned
  else true

/-- Bytes of a descriptor's area or field copy. -/
def areaBytes (s : State) (h : BitVec 256) (t : BitVec 256) : Nat :=
  4096 * match tdSpace t with
    | 0 => rhIn h
    | 1 => rhScratch h
    | 2 => rhOut h
    | _ => (fieldNamed s t).elim 0 sfSlabs

/-- The byte ranges of a descriptor of r rows: elements, and scales. -/
def tensorSpans (t : BitVec 256) (r : Nat) : List (Nat × Nat) :=
  let sc := max (scaleCount (tdFmt t) r (tdCols t) true) (scaleCount (tdFmt t) r (tdCols t) false)
  [(tdOffset t, tdOffset t + kindBytes (tdKind t) (tdFmt t) (r * tdCols t))] ++ (if sc = 0 then [] else [(tdScale t, tdScale t + sc)])

/-- The byte ranges of a descriptor. -/
def Draft.spans (g : Draft) (n : Nat) : List (Nat × Nat) := tensorSpans (g.t n) (g.rows n)

/-- A descriptor lies inside its area. -/
def Draft.inside (s : State) (g : Draft) (n : Nat) : Bool := (g.spans n).all fun x => x.2 ≤ areaBytes s g.header (g.t n)

/-- Two descriptors lie in the same area or the same version of one field, and in one field. -/
def sameArea (x y : BitVec 256) : Bool :=
  tdSpace x = tdSpace y && (tdSpace x ≠ 3 || (tdStation x = tdStation y && tdField x = tdField y && tdVersion x = tdVersion y))
def sameField (x y : BitVec 256) : Bool := tdSpace x = 3 && tdSpace y = 3 && tdStation x = tdStation y && tdField x = tdField y

/-- Two descriptors overlap. -/
def Draft.overlap (g : Draft) (m n : Nat) : Bool :=
  sameArea (g.t m) (g.t n) && (g.spans m).any fun x => (g.spans n).any fun y => x.1 < y.2 && y.1 < x.2

/-- The pairs (destination, source) of a step that must not overlap (R303). SOFTMAX, NORM, SCALE and ADD may name one descriptor as d
and a; an UPDATE reads the states that it writes in place. -/
def apartPairs (w : BitVec 128) : List (Nat × Nat) :=
  let op := swOp w
  let pairs (ds as : List Nat) : List (Nat × Nat) := (named ds).flatMap fun d => (named as).map fun a => (d, a)
  if op = soUPDATE then
    pairs [swD w, swB w, swC w] (stepSources w) ++ pairs [swD w] [swB w, swC w] ++ pairs [swB w] [swC w]
  else if (op = soSOFTMAX || op = soNORM || op = soSCALE || op = soADD) && swD w = swA w then pairs [swD w] [swB w, swC w]
  else pairs (stepDests w) (stepSources w)

/-- No destination overlaps a source; of the operations that R303 names, none names a source's field. -/
def overlapOk (g : Draft) (w : BitVec 128) : Bool :=
  let op := swOp w
  let strict := op = soMATMUL || op = soCONVERT || op = soSTAGE || op = soREDUCE || op = soUPDATE
  (apartPairs w).all fun x => !g.overlap x.1 x.2 && !(strict && sameField (g.t x.1) (g.t x.2))

/-- STAGE: whole slabs, a home, and homes of all slabs that d can cover inside the field's home copy (R315, log entry 131). The rows of a
STASH may be any of its field's. -/
def stageOk (s : State) (g : Draft) (w : BitVec 128) : Bool :=
  swOp w ≠ soSTAGE || (
    let t := g.t (swD w)
    let o := tdOffset t / 4096
    tdOffset t % 4096 = 0 && (match fieldNamed s t with
      | some f => sfHomeSlabs f ≠ 0 && (tensorSpans t (if sfKind f = kiSTASH then sfRows f else g.rows (swD w))).all fun x =>
          o ≤ stageOffset w + x.1 / 4096 && stageOffset w + min (upDiv x.2 4096) (sfSlabs f) ≤ sfSlabs f + o
      | none => true))

/-- COMBINE's return timeout (R328). -/
def timeoutOk (w : BitVec 128) : Bool := swOp w ≠ soCOMBINE || (10 ≤ bitsAt w.toNat 96 32 && bitsAt w.toNat 96 32 ≤ 10000000)

/-! The recipe as a whole (R292, R293). -/

/-- Table 13.1. -/
def headerOk (h : BitVec 256) : Bool :=
  bitsAt h.toNat 74 6 = 0 && bitsAt h.toNat 43 5 = 0 && bitsAt h.toNat 24 8 = 0 && bitsAt h.toNat 0 16 = 0 &&
  1 ≤ rhIn h && rhIn h ≤ 4096 && 1 ≤ rhSlice h && 1 ≤ rhMaxTokens h && 1 ≤ rhSteps h && rhSteps h ≤ 1024 && 1 ≤ rhTensors h &&
  rhFixed h + rhPerToken h * rhMaxTokens h ≤ 4096 * rhOut h && rhIn h + rhScratch h + rhOut h ≤ 8192

/-- The steps and descriptors that a stage holds. -/
def stagedSteps (b : List Byte) : List (BitVec 128) := (List.range (b.length / 16)).map fun i => BitVec.ofNat 128 (leNat (sliceZ b (16 * i) 16))
def stagedTensors (b : List Byte) : List (BitVec 256) := (List.range (b.length / 32)).map fun i => BitVec.ofNat 256 (leNat (sliceZ b (32 * i) 32))

/-- Installed steps and descriptors. -/
def stepsUsed (s : State) : Nat := s.recipes.installed.foldl (fun n r => n + r.2.steps.length) 0
def tensorsUsed (s : State) : Nat := s.recipes.installed.foldl (fun n r => n + r.2.tensors.length) 0

/-- The lowest code of R293 that applies to a staged recipe at both token counts. -/
def recipeCode (s : State) (k : Nat) (x : RecipeStage) : Nat :=
  let h := BitVec.ofNat 256 (leNat (sliceZ x.header 0 32))
  let steps := stagedSteps x.steps
  let ts := stagedTensors x.tensors
  let g (n : Nat) : Draft := ⟨h, steps, ts, n⟩
  let both (f : Draft → Bool) : Bool := f (g 1) && f (g (rhMaxTokens h))
  let each (f : Draft → BitVec 128 → Bool) : Bool := both fun g => steps.all (f g)
  if !(steps.all (stepOk ts.length)) then 1
  else if !(ts.all (tensorOk s) && each (stepPlaces s)) then 2
  else if !(both fun g => pairsOk g && steps.zipIdx.all fun w => stepShape s g w.2 w.1) then 3
  else if !(ts.all (fun t => tdKind t ≠ 0 || fmtOk (tdFmt t)) && each stepFormat) then 4
  else if ts.any (stationMissing s) then 6
  else if !(both (fun g => (List.range ts.length).all (g.inside s)) && each (fun g w => overlapOk g w && stageOk s g w) && steps.all timeoutOk) then 5
  else if 262144 < stepsUsed s + steps.length || 65536 < tensorsUsed s + ts.length then 7
  else match recipeOf s k with
    | some r => if r.removing then 10 else 8
    | none => if headerOk h && steps.length = rhSteps h && x.steps.length = 16 * rhSteps h && ts.length = rhTensors h && x.tensors.length = 32 * rhTensors h then 0 else 11

/-- The staged bytes of a recipe index, and the index a source has selected. -/
def recipeStage (s : State) (k : Nat) : RecipeStage := Tab.getD s.recipes.stages k {}
def recipeSelected (s : State) (src : Source) : Nat := scopedNum s src eRecipeSelect

/-- Show an install result. -/
def recipeResult (s : State) (k code : Nat) : State := { s with recipes := { s.recipes with results := Tab.set s.recipes.results k code } }

/-- Install recipe k from its stage (R293). -/
def installRecipe (s : State) (k : Nat) : State :=
  let x := recipeStage s k
  let code := recipeCode s k x
  if code ≠ 0 then recipeResult s k code
  else
    let r : Recipe := { header := BitVec.ofNat 256 (leNat (sliceZ x.header 0 32)), steps := stagedSteps x.steps, tensors := stagedTensors x.tensors }
    recipeResult { s with recipes := { s.recipes with installed := Tab.set s.recipes.installed k r, kept := Tab.set s.recipes.kept k x } } k 0

/-- A recipe that is being removed and has no open invocation leaves the store (R294). -/
def dropRecipe (s : State) (k : Nat) : State :=
  match recipeOf s k with
  | some r =>
    if r.removing && !(s.recipes.invs.any fun v => v.2.recipe = k) then
      { s with recipes := { s.recipes with installed := Tab.erase s.recipes.installed k } }
    else s
  | none => s

/-- Remove recipe k (R294). -/
def removeRecipe (s : State) (k : Nat) : State :=
  match recipeOf s k with
  | none => recipeResult s k 9
  | some r =>
    if r.removing then recipeResult s k 10
    else dropRecipe (recipeResult { s with recipes := { s.recipes with installed := Tab.set s.recipes.installed k { r with removing := true },
                                                                       kept := Tab.erase s.recipes.kept k } } k 0) k

/-- A write of 1 to RecipeCommit. -/
def execRecipeInstall (src : Source) (s : State) : Out1 :=
  .next (whenWritten s src eRecipeCommit [1] true fun s => installRecipe s (recipeSelected s src))

/-- A write of 2 to RecipeCommit. -/
def execRecipeRemove (src : Source) (s : State) : Out1 :=
  .next (whenWritten s src eRecipeCommit [2] true fun s => removeRecipe s (recipeSelected s src))

/-! Stations (R323). -/

/-- The staged bytes of a station index, and the index a source has selected. -/
def stationStage (s : State) (k : Nat) : StationStage := Tab.getD s.stations.stages k {}
def stationSelected (s : State) (src : Source) : Nat := scopedNum s src eStationSelect
def stationResult (s : State) (k code : Nat) : State := { s with stations := { s.stations with results := Tab.set s.stations.results k code } }

/-- The fields that a stage holds, sixteen of them. -/
def stagedFields (b : List Byte) : List (BitVec 256) := (List.range 16).map fun i => BitVec.ofNat 256 (leNat (sliceZ b (32 * i) 32))

/-- Bytes that one copy of a field holds: MAP bytes, COLMAX i16, any other its format's elements and scales (log entry 30). -/
def fieldBytes (f : BitVec 256) : Nat :=
  let n := sfRows f * sfCols f
  if sfKind f = kiMAP then n
  else if sfKind f = kiCOLMAX then 2 * n
  else packedBytes (fmtElem (sfFmt f)) n + max (scaleCount (sfFmt f) (sfRows f) (sfCols f) true) (scaleCount (sfFmt f) (sfRows f) (sfCols f) false)

/-- Field n of a station keeps Table 13.9. -/
def fieldGood (fs : List (BitVec 256)) (n : Nat) : Bool :=
  let f := fs.getD n 0
  let w := fs.getD (n - 1) 0
  if sfKind f = kiUNUSED then f = 0
  else
    sfKind f ≤ 7 && bitsAt f.toNat 128 32 = 0 && bitsAt f.toNat 10 38 = 0 && 1 ≤ sfRows f && 1 ≤ sfCols f && 1 ≤ sfSlabs f &&
    (if sfKind f = kiMAP || sfKind f = kiCOLMAX then sfFmt f = 0 else fmtOk (sfFmt f)) && fieldBytes f ≤ 4096 * sfSlabs f &&
    (!sfVersioned f || sfKind f = kiWEIGHT || sfKind f = kiCOLMAX) && (!sfThrough f || sfHomeSlabs f ≠ 0) &&
    (sfKind f ≠ kiCOLMAX || (1 ≤ n && sfKind w = kiWEIGHT && sfVersioned w == sfVersioned f && sfRows f = 1 && sfCols f = sfCols w))

/-- Table 13.8's slots. -/
def slotsGood (h : BitVec 128) : Bool :=
  let n := bitsAt h.toNat 16 8
  (n = 0 || n = 2 || n = 4) && shPipe h ≤ shSlots h - 1

/-- Copies of a field under a header. -/
def fieldCopies (h : BitVec 128) (f : BitVec 256) : Nat := if sfVersioned f then shSlots h else 1

/-- The homes of a list of fields: (first slab, slabs). -/
def homesOf (fs : List (BitVec 256)) : List (Nat × Nat) := (fs.filter fun f => sfKind f ≠ kiUNUSED && sfHomeSlabs f ≠ 0).map fun f => (sfHome f, sfHomeSlabs f)

/-- Two ranges of slabs meet. -/
def rangesMeet (a b : Nat × Nat) : Bool := a.1 < b.1 + b.2 && b.1 < a.1 + a.2

/-- Homes have their size, lie in the Cellar below the crumb log, and do not overlap each other or another station's. -/
def homesGood (s : State) (h : BitVec 128) (fs : List (BitVec 256)) : Bool :=
  let mine := homesOf fs
  let others := s.stations.installed.flatMap fun y => homesOf y.2.fields
  fs.all (fun f => sfKind f = kiUNUSED || sfHomeSlabs f = 0 || sfHomeSlabs f = sfSlabs f * fieldCopies h f) &&
  mine.all (fun r => r.1 + r.2 ≤ rd s eCrumbLogBase / 4096 && !(others.any (rangesMeet r))) &&
  mine.zipIdx.all fun r => (mine.drop (r.2 + 1)).all fun q => !rangesMeet r.1 q

/-- Slabs cleared to zero with valid CRC (R297, R323). -/
def clearSlabs (s : State) (base n : Nat) : State :=
  { s with vat := { s.vat with mem := s.vat.mem.filter fun c => c.1 < 4096 * base || 4096 * (base + n) ≤ c.1,
                               tags := s.vat.tags.filter fun t => t.1 < base || base + n ≤ t.1 } }

/-- Allocate the copies of a station's fields, lowest first. -/
def allocFields (h : BitVec 128) : State → List (BitVec 256) → Option (List Nat × State)
  | s, [] => some ([], s)
  | s, f :: fs =>
    if sfKind f = kiUNUSED then (allocFields h s fs).map fun r => (0 :: r.1, r.2)
    else match allocSlabs s (sfSlabs f * fieldCopies h f) with
      | none => none
      | some (b, s) => (allocFields h (clearSlabs s b (sfSlabs f * fieldCopies h f)) fs).map fun r => (b :: r.1, r.2)

/-- Slots of a LOADING station: slot 0 kept with a tag (R323). -/
def loadingSlots (h : BitVec 128) (tag : Nat) : List VSlot := (List.range (shSlots h)).map fun k => if k = 0 then { state := 1, tag := tag } else {}

/-- The result of an install, apart from NO_SPACE. -/
def stationCode (s : State) (k : Nat) (x : StationStage) : Nat :=
  let h := BitVec.ofNat 128 (leNat (sliceZ x.header 0 16))
  let fs := stagedFields x.fields
  if !((List.range 16).all (fieldGood fs)) then 1
  else if !slotsGood h then 6
  else if !homesGood s h fs then 3
  else if (stationOf s k).isSome then 4
  else 0

/-- Install station k from its stage (R323). -/
def installStation (s : State) (k : Nat) : State :=
  let x := stationStage s k
  let code := stationCode s k x
  if code ≠ 0 then stationResult s k code
  else
    let h := BitVec.ofNat 128 (leNat (sliceZ x.header 0 16))
    let fs := stagedFields x.fields
    match allocFields h s fs with
    | none => stationResult s k 2
    | some (bases, s) =>
      let s := { s with stations := { s.stations with kept := Tab.set s.stations.kept k x } }
      stationResult (setStation s k { header := h, fields := fs, state := 1, initTag := x.initTag, bases := bases, slots := loadingSlots h x.initTag }) k 0

/-- An installed recipe, or an open invocation's recipe, names a station. -/
def recipeNames (r : Recipe) (k : Nat) : Bool := r.tensors.any fun t => tdSpace t = 3 && tdStation t = k
def stationNamed (s : State) (k : Nat) : Bool := s.recipes.installed.any fun r => recipeNames r.2 k
def stationInUse (s : State) (k : Nat) : Bool :=
  s.recipes.invs.any fun v => match recipeOf s v.2.recipe with
    | some r => recipeNames r k
    | none => false

/-- Remove station k. -/
def removeStation (s : State) (k : Nat) : State :=
  match stationOf s k with
  | none => stationResult s k 5
  | some y =>
    if stationNamed s k || stationInUse s k then stationResult s k 4
    else
      let s := (y.bases.zip y.fields).foldl (fun s b => if sfKind b.2 = kiUNUSED then s else freeSlabs s b.1) s
      stationResult { s with stations := { s.stations with installed := Tab.erase s.stations.installed k, kept := Tab.erase s.stations.kept k } } k 0

/-- The COLMAX fields of slot 0. -/
def stationColmax (s : State) (k : Nat) (y : Station) : State :=
  (List.range 15).foldl (fun s f =>
    let w := fieldOf y f
    if sfKind w = kiWEIGHT then
      writeColmax s k f 0 { base := 4096 * copySlab y f 0, scale := 4096 * copySlab y f 0 + packedBytes (fmtElem (sfFmt w)) (sfRows w * sfCols w),
                            rows := sfRows w, cols := sfCols w, total := sfRows w, fmt := sfFmt w, kind := 0, own := some (k, f, 0) }
    else s) s

/-- LOADING becomes READY. -/
def readyStation (s : State) (k : Nat) : State :=
  match stationOf s k with
  | none => stationResult s k 5
  | some y => if y.state ≠ 1 then s else stationResult (setStation (stationColmax s k y) k { y with state := 2 }) k 0

/-- READY or INCONSISTENT becomes LOADING. -/
def reloadStation (s : State) (k : Nat) : State :=
  match stationOf s k with
  | none => stationResult s k 5
  | some y =>
    if stationNamed s k || stationInUse s k then stationResult s k 4
    else if y.state = 1 then s
    else stationResult (setStation s k { y with state := 1, slots := loadingSlots y.header (stationStage s k).initTag,
                                                initTag := (stationStage s k).initTag, chain := 0 }) k 0

/-- The writes of 1 to 4 to StationCommit. A ready of a station that is not LOADING, and a reload of one that is, change nothing. -/
def execStationInstall (src : Source) (s : State) : Out1 :=
  .next (whenWritten s src eStationCommit [1] true fun s => installStation s (stationSelected s src))
def execStationRemove (src : Source) (s : State) : Out1 :=
  .next (whenWritten s src eStationCommit [2] true fun s => removeStation s (stationSelected s src))
def execStationReady (src : Source) (s : State) : Out1 :=
  .next (whenWritten s src eStationCommit [3] true fun s => readyStation s (stationSelected s src))
def execStationReload (src : Source) (s : State) : Out1 :=
  .next (whenWritten s src eStationCommit [4] true fun s => reloadStation s (stationSelected s src))

end Sys2Proof.Machine
end

