-- ==== Sys2Proof/Machine/Persist.lean ====
section
/-! DEFINITION. Persistent entries: flash, waiting values, defaults again, and what a reset and a loss of power leave (17, R393; 02, R35). -/
namespace Sys2Proof.Machine

/-- The entry at an address is persistent. -/
def isPersist (a : Nat) : Bool :=
  match entryRow (a / 256) (a % 256) with
  | some r => r.persist
  | none => false

/-- The bytes of a stored value, as flash keeps them. -/
def storedValue (s : State) (a : Nat) : List Byte :=
  match entryRow (a / 256) (a % 256) with
  | some r => if r.ty ≤ 10 then leBytes r.len (rd s a) else blob s a
  | none => []

/-- Flash takes the value of one entry. -/
def storeOne (s : State) (a : Nat) : State :=
  { s with mgmt := { s.mgmt with flash := Tab.set s.mgmt.flash a (storedValue s a), waiting := s.mgmt.waiting.filter (· ≠ a) } }

/-- Flash takes every waiting value. -/
def storeWaiting (s : State) : State := s.mgmt.waiting.foldl storeOne s

/-- One entry returns to the value flash holds, or to its default. -/
def revertOne (s : State) (a : Nat) : State :=
  match entryRow (a / 256) (a % 256), Tab.find s.mgmt.flash a with
  | some r, some b => if r.ty ≤ 10 then wr s a (leNat b) else setBlob s a b
  | _, _ => { s with regs := Tab.erase s.regs a, blobs := Tab.erase s.blobs a }

/-- Power is lost: waiting values are lost. -/
def revertWaiting (s : State) : State :=
  let s := s.mgmt.waiting.foldl revertOne s
  { s with mgmt := { s.mgmt with waiting := [] } }

/-- What PersistReset leaves: the keys and their roles, and for the value 1 user calibration. -/
def survivesPersistReset (v a : Nat) : Bool :=
  a / 256 = 0x1110 || a / 256 = 0x1111 || (v = 1 && 0x2E00 ≤ a / 256 && a / 256 < 0x2F00)

/-- Persistent entries return to their defaults at the boot after a write to PersistReset (R393). What a commit keeps beside the
entries, the axis sizes in force and which slices were last enabled, stays (log entry 41). -/
def applyPersistReset (s : State) : State :=
  let v := s.mgmt.resetAtBoot
  if v = 0 then s
  else
    { s with regs := s.regs.filter fun x => !isPersist x.1 || survivesPersistReset v x.1,
             blobs := s.blobs.filter fun x => !isPersist x.1 || survivesPersistReset v x.1,
             recipes := { s.recipes with stages := [], kept := [] },
             stations := { s.stations with stages := [], kept := [] },
             engineRecords := [],
             mgmt := { s.mgmt with resetAtBoot := 0, waiting := s.mgmt.waiting.filter (survivesPersistReset v),
                                   flash := s.mgmt.flash.filter fun x => survivesPersistReset v x.1 } }

/-- Programming cut short leaves the slot INVALID (R421) with contents the spec does not state: a free value. -/
def programmingCut (s : State) : State :=
  if s.fw.programming then
    let b := drawBytes s 512
    setFwSlot b.2 (inactiveSlot s) { fwSlot s (inactiveSlot s) with state := 1, image := b.1 }
  else s

/-- What flash, OTP, the always-on domain, the pins and the cages hold. -/
def resetKeep (s : State) : State :=
  { boot := .held,
    pins := { s.pins with ready := false },
    clk := { refGood := s.clk.refGood },
    regs := s.regs.filter fun x => isPersist x.1,
    blobs := (match s.faults.flash with
      | some r => Tab.set (s.blobs.filter fun x => isPersist x.1) eLastFatalRecord (leBytes 64 r.toNat)
      | none => s.blobs.filter fun x => isPersist x.1),
    topo := { committed := s.topo.committed, wanted := s.topo.wanted },
    recipes := { stages := s.recipes.stages, kept := s.recipes.kept },
    stations := { stages := s.stations.stages, kept := s.stations.kept },
    faults := { flash := s.faults.flash },
    mgmt := { waiting := s.mgmt.waiting, flash := s.mgmt.flash, resetAtBoot := s.mgmt.resetAtBoot },
    host := { link := s.host.link },
    fw := { s.fw with programming := false, live := none, measures := [0, 0, 0, 0] },
    cages := s.cages.map fun x => (x.1, { x.2 with laserOn := false, writeDue := false, wear := 0 }),
    engineRecords := s.engineRecords,
    outbox := s.outbox,
    draws := s.draws,
    pending := s.pending }

/-- Every reset domain in reset (R35). -/
def resetCore (s : State) : State := resetKeep (programmingCut s)

/-- The main rails are down: waiting values and everything outside flash, OTP and the always-on domain are lost. -/
def railsDown (s : State) : State :=
  let s := resetCore (revertWaiting s)
  { s with pins := { s.pins with mainUp := false } }

end Sys2Proof.Machine
end

