-- ==== Sys2Proof/Machine/Fence.lean ====
section
/-! DEFINITION. Fence notices: origination, the FenceTable and forwarding to endpoints (R378 to R380). -/
namespace Sys2Proof.Machine

/-- Reasons of Table 16.8. -/
abbrev fnFENCED : Nat := 1
abbrev fnQUARANTINED : Nat := 2
abbrev fnDISABLED : Nat := 3
abbrev fnDOWN : Nat := 4

/-- The 16 payload bytes of a FENCE_NOTICE (Table 16.8). -/
def noticeBytes (gen seq reason : Nat) (inForce : Bool) (subject : BitVec 23) : List Byte :=
  leBytes 16 (subject.toNat + b2n inForce * 2 ^ 64 + reason * 2 ^ 72 + seq % 2 ^ 32 * 2 ^ 80 + gen % 2 ^ 16 * 2 ^ 112)

/-- The header of a notice (R378). -/
def noticeHeader (s : State) (dst : BitVec 23) : Header :=
  { opcode := opFENCE_NOTICE, cls := 0, dst := dst, src := myId s 0xFF, payloadLength := 16, slice := 0 }

/-- Set or clear a bit of FenceTable (R379). -/
def setFenceBit (s : State) (k : Nat) (on : Bool) : State :=
  let bits := s.fence.bits.filter (· ≠ k)
  { s with fence := { s.fence with bits := if on then bits ++ [k] else bits } }

/-- Forward a notice that was applied to every edge port that wants it (R380). -/
def forwardNotice (s : State) (payload : List Byte) : State :=
  (List.range 104).foldl (fun s p =>
    if rd s (ePortFenceNoticeEnable p) = 1 then sendPacket s (noticeHeader s (myId s p)) payload else s) s

/-- The modules of the torus other than this one. -/
def otherModules (s : State) : List Nat :=
  match s.topo.sizes with
  | some z => (List.range (z.1 * z.2.1 * z.2.2)).filter (· ≠ myNum s)
  | none => []

/-- Originate a notice for edge port p (R378): the next seq, applied here at once, sent to every other module. A module
that is not admitted sends none. -/
def originateNotice (s : State) (p reason : Nat) (inForce : Bool) : State :=
  if !isEdge p || rd s eFabricAdmitted = 0 then s
  else
    let q := portOf s p
    let seq := s.fence.seq
    let payload := noticeBytes (rd s eFenceNoticeGeneration) seq reason inForce (myId s p)
    let s := setPort s p { q with noticeInForce := inForce }
    let s := bump { s with fence := { s.fence with seq := seq + 1 } } eFenceNoticeSentCount
    let s := expertsFenced (setFenceBit s (myNum s * 104 + p) inForce)
    let s := match s.topo.sizes with
      | none => s
      | some z => (otherModules s).foldl (fun s m => sendPacket s (noticeHeader s (idOf (coordOfNum z m) 0xFF)) payload) s
    forwardNotice s payload

end Sys2Proof.Machine
end

