-- ==== Sys2Proof/Machine/Flow.lean ====
section
/-! DEFINITION. How invocations go on: which effect a step word has, waiting steps that may proceed, STEP_COMPLETE, results and
completion records, timeouts, and the loss of an endpoint's port (R299, R301, R321, R322, R338). -/
namespace Sys2Proof.Machine

/-! Steps. -/

/-- The effect of the current step (Table 13.5). `mayTake` lets an UPDATE that waits take its slot. -/
def stepBody (mayTake : Bool) (s : State) (x : Run) : State :=
  let sub := swSub x.w
  match swOp x.w with
  | 1 => matmulIssue s x
  | 2 => topkRun s x
  | 3 => softmaxRun s x
  | 4 => if sub = 0 then normRmsRun s x else normLayerRun s x
  | 5 => if sub = 0 then scaleMulRun s x else if sub = 1 then scaleRowvecRun s x else if sub = 2 then scaleColvecRun s x
         else if sub = 3 then scaleReluRun s x else scaleSiluRun s x
  | 6 => if sub = 0 then addStepRun s x else if sub = 1 then subStepRun s x else mulStepRun s x
  | 7 => convertRun s x
  | 8 => if sub = 0 then stageInRun s x else stageOutRun s x
  | 9 => dispatchRun s x
  | 10 => combineRun s x
  | 11 => if sub = 0 then reduceAccumulateRun s x else if sub = 1 then reduceRowsRun s x else reduceInitRun s x
  | 12 => updateRun s x (decide (sub = 1)) mayTake
  | 13 => if sub = 0 then digestComputeRun s x else if sub = 1 then digestCompareRun s x else digestAutoRun s x
  | 14 => barrierRun s x
  | _ => s

/-- Start or retry the current step. -/
def runStep (mayTake : Bool) (s : State) (i : Nat) : State := startStep s i (stepBody mayTake)

/-! Records (Table 13.6). -/

/-- The first step has not started. -/
def beforeSteps (v : Inv) : Bool := !v.started || (v.step = 0 && v.phase = .idle && v.status.isNone)

/-- The step field: where an invocation ended with a status other than OK after its first step started. -/
def recordStep (v : Inv) (status : Nat) : Nat := if status = isOK || v.early || beforeSteps v then 0xFFFF else v.step

/-- A completion record. -/
def recipeRecord (s : State) (v : Inv) (status bytes : Nat) : BitVec 512 :=
  let ovf := (tokensIn v .overflow).length
  let degr := (tokensIn v .degraded).length
  let run := match v.readyAt with
    | some t => (fcNow s - t) % 2 ^ 64
    | none => 0
  BitVec.ofNat 512 (status + v.flags.toNat * 2 ^ 16 + b2n (decide (0 < v.timing)) * 2 ^ 24 + b2n (decide (0 < ovf)) * 2 ^ 25
    + b2n (decide (0 < degr)) * 2 ^ 26 + v.tag % 2 ^ 16 * 2 ^ 32 + recordStep v status * 2 ^ 48 + run * 2 ^ 64 + min 65535 ovf * 2 ^ 128
    + min 65535 degr * 2 ^ 144 + v.invalidStep % 2 ^ 16 * 2 ^ 160 + v.station % 2 ^ 16 * 2 ^ 176 + v.crumb.toNat * 2 ^ 192
    + v.culprit % 2 ^ 32 * 2 ^ 256 + min 0xFFFFFFFF v.timing * 2 ^ 288 + bytes % 2 ^ 32 * 2 ^ 320 + v.newTag % 2 ^ 32 * 2 ^ 352
    + v.readTag % 2 ^ 32 * 2 ^ 384 + v.invalidCount % 2 ^ 32 * 2 ^ 416 + v.firstInvalid % 2 ^ 64 * 2 ^ 448)

/-- A RECIPE_RESULT packet: kind 0 DATA, 1 COMPLETE, 2 TOKEN_FLAGS. -/
def sendResult (s : State) (v : Inv) (chunk kind index : Nat) (payload : List Byte) : State :=
  sendPacket s { opcode := opRECIPE_RESULT, cls := 1, dst := v.srcId, src := v.dstId, payloadLength := 0, slice := v.slice,
                 loc := locOf v.recipe v.tag chunk, aux := BitVec.ofNat 64 (kind * 2 ^ 56 + index % 256 * 2 ^ 48) } payload

/-- Payloads of the DATA packets, as Vat addresses: (address, bytes). -/
def outputParts (v : Inv) (bytes : Nat) : List (Nat × Nat) :=
  (List.range (upDiv bytes 4096)).map fun k => (4096 * (v.outputBase + k), min 4096 (bytes - 4096 * k))

/-- One TOKEN_FLAGS payload (R338). -/
def tokenFlags (v : Inv) (i : Nat) : List Byte :=
  let n := min 16384 (v.tokenCount - 16384 * i)
  let ovf := tokensIn v .overflow
  let degr := tokensIn v .degraded
  leBytes (upDiv (2 * n) 8) ((List.range n).foldl (fun a t =>
    let k := 16384 * i + t
    a + b2n (ovf.contains k) * 2 ^ (2 * t) + b2n (degr.contains k) * 2 ^ (2 * t + 1)) 0)

/-- The TOKEN_FLAGS packets that mark some token (log entry 31). -/
def flagPackets (v : Inv) : List Nat :=
  let ts := tokensIn v .overflow ++ tokensIn v .degraded
  (List.range (upDiv v.tokenCount 16384)).filter fun i => ts.any fun t => t / 16384 = i

/-! Completion (R321, R322). -/

/-- Keep a record in the history of its edge port, at most 256 (R299). -/
def keepRecord (s : State) (v : Inv) (r : BitVec 512) : State :=
  let h := Tab.getD s.recipes.histories v.port []
  { s with recipes := { s.recipes with histories := Tab.set s.recipes.histories v.port ((h ++ [(v.srcId, v.tag, r)]).drop (h.length + 1 - 256)) } }

/-- An ending invocation lets go of its update, its locks and readers, and its units. -/
def letGo (s : State) (i : Nat) (v : Inv) : State :=
  let s := dropUpdate s i
  let s := ((v.readers.map (·.1)) ++ ((s.recipes.locks ++ s.recipes.lockQueue).filter fun l => l.inv = i).map (·.step)).dedup.foldl (fun s k => releaseStep s i k) s
  { s with knead := { s.knead with units := s.knead.units.filter fun u => u.2.inv ≠ i } }

/-- Free an invocation's slabs, and the invocation itself with its context. -/
def freeInv (s : State) (i : Nat) (v : Inv) : State :=
  let s := v.rets.foldl (fun s b => freeSlabs s b.2) s
  let s := freeSlabs (freeSlabs (freeSlabs s v.inputBase) v.scratchBase) v.outputBase
  let s := { s with recipes := { s.recipes with invs := Tab.erase s.recipes.invs i, ready := s.recipes.ready.filter (· ≠ i) } }
  dropRecipe s v.recipe

/-- An invocation closes with its record: kept, counted, everything freed (R297, R299, R301, R322). -/
def closeInv (s : State) (i : Nat) (v : Inv) (r : BitVec 512) : State :=
  freeInv (bump (keepRecord s v r) (eRecipeEndCount (r.toNat % 256))) i v

/-- The packets that wait in the module or in its ports' queues. -/
def heldPackets (s : State) : List Packet :=
  (s.ports.flatMap fun x => x.2.queue.map (·.pkt)) ++ (s.pools.waiting.map fun w => w.out.pkt) ++ (s.pools.loafQueue.map fun x => x.1.pkt)

/-- A RECIPE_RESULT of an invocation, of a kind. -/
def resultOf (v : Inv) (kind : Nat) (p : Packet) : Bool :=
  p.h.opcode = opRECIPE_RESULT && p.h.dst = v.srcId && p.h.src = v.dstId && hGroup p.h = v.recipe && hEpoch p.h = v.tag && p.h.aux.toNat / 2 ^ 56 = kind

/-- The record has not left: its packet still waits. -/
def recordHeld (s : State) (v : Inv) (r : BitVec 512) : Bool :=
  (heldPackets s).any fun p => resultOf v 1 p && p.payload = leBytes 64 r.toNat

/-- Output bytes that have not left. -/
def bytesHeld (s : State) (v : Inv) : Nat :=
  ((heldPackets s).filter (resultOf v 0)).foldl (fun n p => n + p.payload.length) 0

/-- An invocation whose record has left closes. -/
def recordLeft (s : State) (i : Nat) : State :=
  match invOf s i with
  | none => s
  | some v => match v.closing with
    | none => s
    | some r => if recordHeld s v r then s else closeInv s i v r

/-- Those of all invocations. -/
def recordsLeft (s : State) : State := s.recipes.invs.foldl (fun s x => recordLeft s x.1) s

/-- An admitted invocation ends: its record is formed and sent, and it closes when the record has left (R321). -/
def endInv (s : State) (i status bytes chunks : Nat) : State :=
  match invOf s i with
  | none => s
  | some v =>
    if v.closing.isSome then s
    else
      let r := recipeRecord s v status bytes
      let s := modInv (letGo s i v) i fun v => { v with status := some status, phase := .closing, asyncs := [], slots := [], closing := some r }
      recordLeft (sendResult s v chunks 1 0 (leBytes 64 r.toNat)) i

/-- The record of an invocation whose endpoint is gone: UNREACHED, over the output bytes that have left. -/
def unreachedRecord (s : State) (v : Inv) : BitVec 512 :=
  match v.closing with
  | none => recipeRecord s v isUNREACHED 0
  | some r => BitVec.ofNat 512 (r.toNat - r.toNat % 256 + isUNREACHED - min (bytesHeld s v) (bitsAt r.toNat 320 32) * 2 ^ 320)

/-- An invocation ends at once, its record kept but not sent (R321). -/
def endUnreached (s : State) (i : Nat) : State :=
  match invOf s i with
  | none => s
  | some v => closeInv (letGo s i v) i v (unreachedRecord s v)

/-- An invocation ends OK: output, flags, crumb, record. A pending output slab delays it; a poisoned one ends it POISONED. -/
def endOk (s : State) (i : Nat) (v : Inv) (r : Recipe) : State :=
  let bytes := rhFixed r.header + rhPerToken r.header * v.tokenCount
  let q := readSlabs s (slabsOf (4096 * v.outputBase) bytes)
  match q.2 with
  | .wait => q.1
  | .poison => endInv q.1 i isPOISONED 0 0
  | .go =>
    let s := q.1
    let parts := (outputParts v bytes).map fun p => Memory.read s.vat.mem p.1 p.2
    let s := parts.zipIdx.foldl (fun s p => sendResult s v p.2 0 0 p.1) s
    let s := (flagPackets v).foldl (fun s k => sendResult s v parts.length 2 k (tokenFlags v k)) s
    let k1 := w64 (v.recipe * 2 ^ 32 + v.stepTag)
    let c := crumbOf 3 k1 (w64 v.tokenBase) (parts.zipIdx.map fun p => (p.2, p.1))
    let marks := b2n (decide (v.flags ≠ 0)) * 2 ^ 11 + b2n (decide (0 < v.timing)) * 2 ^ 10
    let s := logCrumb s 3 v.recipe v.stepTag marks (plihotu 3 k1 (w64 v.tokenBase)) c
    endInv s i isOK bytes parts.length

/-- Asynchronous STAGEs still run. -/
def staging (v : Inv) : Bool := v.asyncs.any fun a => !a.dispatch

/-- End an invocation whose end is due: past its last step with nothing in flight, or between steps with a status and no STAGE
in flight. -/
def finishIfDue (s : State) (i : Nat) : State :=
  match invOf s i with
  | none => s
  | some v =>
    if !v.started || v.phase ≠ .idle then s
    else match v.status, recipeOf s v.recipe with
      | some st, _ => if staging v then s else endInv s i st 0 0
      | none, some r => if r.steps.length ≤ v.step && v.asyncs.isEmpty then endOk s i v r else s
      | none, none => s

/-! Waiting steps. -/

/-- A DISPATCH that holds its locks waits for its return buffer alone. -/
def waitsBuffer (s : State) (x : Run) : Bool :=
  swOp x.w = soDISPATCH && x.v.phase = .waiting && s.recipes.locks.any fun l => l.inv = x.i && l.step = x.v.step

/-- Retry the step of one invocation, if it waits. -/
def resumeOne (s : State) (i : Nat) : State :=
  match runOf s i with
  | none => finishIfDue s i
  | some x => if x.v.phase = .idle || waitsBuffer s x then finishIfDue s i else runStep false s i

/-- Invocations in the order in which they are served: lock requests first, in their order (R302), then by index. -/
def resumeOrder (s : State) : List Nat := (s.recipes.lockQueue.map (·.inv)).dedup ++ s.recipes.invs.map (·.1)

/-- Every step that waits is tried again, twice, so that what the first pass releases is taken. -/
def resume (s : State) : State :=
  let s := (resumeOrder s).foldl resumeOne s
  (resumeOrder s).foldl resumeOne s

/-! STEP_COMPLETE and RECIPE_STEP_TIMEOUT. -/

/-- A step's report joins the invocation's (R198, Table 13.6). -/
def joinReport (v : Inv) : Inv :=
  let first := decide (0 < v.stepInvalid) && decide (v.invalidStep = 0xFFFF)
  { v with flags := v.flags ||| v.stepFlags, stepFlags := 0, stepInvalid := 0, stepFirst := 0xFFFF_FFFF_FFFF_FFFF,
           invalidStep := if first then v.step else v.invalidStep, invalidCount := if first then v.stepInvalid else v.invalidCount,
           firstInvalid := if first then v.stepFirst else v.firstInvalid }

/-- A step has completed: its report is taken, its locks are released unless it goes on asynchronously, and the next one may
start. -/
def stepComplete (s : State) (i : Nat) : State :=
  match invOf s i with
  | none => s
  | some v =>
    if !v.started || v.phase ≠ .done then s
    else
      let s := throughCopies s
      let s := if v.asyncs.any fun a => a.step = v.step then s else releaseStep s i v.step
      let s := modInv s i fun v =>
        let v := joinReport v
        { v with phase := .idle, step := if v.status.isSome then v.step else v.step + 1 }
      let s := if v.status.isSome then dropUpdate s i else s
      resume (finishIfDue s i)

/-- A step has waited longer than RecipeStepTimeout (R322, Table 13.7). -/
def recipeStepTimeout (s : State) (i : Nat) : State :=
  match invOf s i with
  | none => s
  | some v =>
    if !v.started || v.phase ≠ .waiting || v.status.isSome then s
    else
      let s := raiseFault (releaseStep (dropUpdate s i) i v.step) 24 11 v.recipe (w64 (v.srcId.toNat * 2 ^ 16 + v.tag % 2 ^ 16))
      let s := modInv s i fun v => { v with status := some isTIMEOUT, phase := .idle }
      resume (finishIfDue s i)

/-- A STAGE's slab is done: it leaves the invocations that copy it, and a STAGE with none left releases its locks. -/
def stageSlabDone (s : State) (p : Nat × Nat) : State :=
  s.recipes.invs.foldl (fun s x =>
    let s := modInv s x.1 fun v => { v with asyncs := v.asyncs.map fun a => { a with stage := a.stage.erase p } }
    match invOf s x.1 with
    | none => s
    | some v =>
      let gone := v.asyncs.filter fun a => !a.dispatch && a.stage.isEmpty
      gone.foldl (fun s a => modInv (if a.step = v.step then s else releaseStep s x.1 a.step) x.1 fun v =>
        { v with asyncs := v.asyncs.filter fun b => b ≠ a }) s) s

/-- CELLAR_SLAB_READ_DONE: a slab of a STAGE IN is written and checked, or poisoned (R175, R177). -/
def cellarSlabReadDone (s : State) (c n : Nat) (flips : List (Nat × Byte)) : State :=
  if cellarServes s false c n then resume (stageSlabDone (stageSlab s c n flips) (c, n)) else s

def execCellarSlabReadDone (cslab slab : Nat) (flips : List (Nat × Byte)) (s : State) : Out1 :=
  onUnit (Instr.wellFormed (.cellarSlabReadDone cslab slab flips)) (whenLive s fun s => cellarSlabReadDone s cslab slab flips)

/-! Events of Vat slabs, after which the steps that waited for them go on (R167, R169). -/

/-- VAT_REFETCH_DONE: the steps that wait for the slab read it as it is written. -/
def slabRefetched (s : State) (n : Nat) (flips : List (Nat × Byte)) : State :=
  if !refetching s n then s
  else
    let s := vatRefetchDone s n flips
    let s := resume { s with vat := { s.vat with delivered := some n } }
    { s with vat := { s.vat with delivered := none } }

def execVatRefetchDone (slab : Nat) (flips : List (Nat × Byte)) (s : State) : Out1 :=
  onUnit (Instr.wellFormed (.vatRefetchDone slab flips)) (whenLive s fun s => slabRefetched s slab flips)

/-- VAT_READBACK_DONE. -/
def slabReadBack (s : State) (n : Nat) (flips : List (Nat × Byte)) : State :=
  if (tagOf s n).pend = .readback then resume (vatReadbackDone s n flips) else s

def execVatReadbackDone (slab : Nat) (flips : List (Nat × Byte)) (s : State) : Out1 :=
  onUnit (Instr.wellFormed (.vatReadbackDone slab flips)) (whenLive s fun s => slabReadBack s slab flips)

/-- VAT_REMAP_DONE. -/
def slabRemapped (s : State) (n : Nat) : State :=
  if s.vat.remaps.any fun r => r.1 = n then resume (vatRemapDone s n) else s

def execVatRemapDone (slab : Nat) (s : State) : Out1 :=
  onUnit (Instr.wellFormed (.vatRemapDone slab)) (whenLive s fun s => slabRemapped s slab)

/-- VAT_BANK_MOVE_DONE. -/
def bankMoved (s : State) (b : Nat) : State := if s.vat.moves.contains b then resume (vatBankMoveDone s b) else s

def execVatBankMoveDone (bank : Nat) (s : State) : Out1 :=
  onUnit (Instr.wellFormed (.vatBankMoveDone bank)) (whenLive s fun s => bankMoved s bank)

/-! Endings from outside. -/

/-- An invocation ends with a status that no step gave it: at once where no step runs, else with the running step. -/
def statusFromOutside (status : Nat) (s : State) (i : Nat) : State :=
  match invOf s i with
  | none => s
  | some v =>
    if v.closing.isSome then s
    else
      let s := modInv s i fun v => { v with status := some status, early := beforeSteps v,
                                            phase := if v.phase = .running || v.phase = .done then v.phase else .idle }
      if v.phase = .waiting || v.phase = .blocked then resume (finishIfDue (dropUpdate (releaseStep s i v.step) i) i) else finishIfDue s i

/-- The endpoint of an invocation cannot be reached: none of the ports that reach it is ON (R105, R321). -/
def endpointLost (s : State) (v : Inv) : Bool := (exitPort s (idPort v.srcId)).isNone

/-- An edge port left ON: the invocations whose endpoint it took away end at once, with UNREACHED records. -/
def invocationsLost (s : State) (p : Nat) : State :=
  if !isEdge p then s
  else
    let gone := s.recipes.invs.filter fun x => (x.2.port = p || idPort x.2.srcId = p) && endpointLost s x.2
    if gone.isEmpty then s else resume (gone.foldl (fun s x => endUnreached s x.1) s)


end Sys2Proof.Machine
end

