-- ==== Sys2Proof/Machine/Ports.lean ====
section
/-! DEFINITION. Lanes, spares and ports (03): what happens when a lane or a port changes state, identity checks, deskew,
loss and substitution; and bonds (R103). -/
namespace Sys2Proof.Machine

/-! Lane numbering (R12). -/

/-- Group, and lane within it, of a physical lane. -/
def laneGroup (l : Nat) : Nat := l / 17
def laneIdx (l : Nat) : Nat := l % 17
/-- The port a lane belongs to; a spare belongs to none. -/
def lanePort (l : Nat) : Option Nat := if laneIdx l = 16 then none else some (4 * laneGroup l + laneIdx l / 4)
/-- The group lane of position j of port p, and its own physical lane. -/
def posIdx (p j : Nat) : Nat := 4 * (p % 4) + j
def ownLane (p j : Nat) : Nat := 17 * (p / 4) + posIdx p j
/-- The spare of a group. -/
def spareOf (g : Nat) : Nat := 17 * g + 16
/-- The lane that serves position j of port p (R53): the spare where our receiver reads the position from it. -/
def servingLane (s : State) (p j : Nat) : Nat :=
  if (lgOf s (p / 4)).reads = some (posIdx p j) then spareOf (p / 4) else ownLane p j
/-- The port a group lane index belongs to. -/
def groupPort (g i : Nat) : Nat := 4 * g + i / 4
/-- The lane is ON. -/
def laneOn (s : State) (l : Nat) : Bool := fnState s (eLaneState l) = .on

/-! Equalisation (R50, R51). -/

/-- Clamp. -/
def clampInt (x lo hi : Int) : Int := max lo (min x hi)

/-- Factory and user value of field k (0 pre, 1 main, 2 post, 3 CTLE) of a lane. -/
def calSum (s : State) (l k : Nat) : Int :=
  signed 8 (Config.factoryCal (laneGroup l) (4 * laneIdx l + 1 + k)).toNat + signed 8 (rd s (eLaneUserCal (laneGroup l) (4 * laneIdx l + k)))

/-- Effective values: pre, main, post, CTLE (R50). -/
def effective (s : State) (l : Nat) : Int × Int × Int × Int :=
  let pre := clampInt (calSum s l 0) (-16) 0
  let post := clampInt (calSum s l 2) (-20) 0
  (pre, clampInt (calSum s l 1) 24 (63 + pre + post), post, clampInt (calSum s l 3) 0 15)

/-! Lane state changes. -/

/-- A lane enters STARTING (R51, R52): it transmits, with the effective values applied. -/
def laneStarting (s : State) (l : Nat) (f : Fn) : State :=
  let s := setFn s (eLaneState l) { f with state := .starting }
  setLane s l { laneOf s l with txActive := true, applied := some (effective s l), aligned := false, deskewed := false, lastMarker := none }

/-- A lane goes to a state that drives electrical idle (R52). -/
def laneIdle (s : State) (l : Nat) (f : Fn) : State :=
  let s := setFn s (eLaneState l) f
  setLane s l { laneOf s l with txActive := false, aligned := false, deskewed := false, lastMarker := none, line := [] }

/-- An enable request to a lane (Table 02.6). -/
def laneEnable (s : State) (l : Nat) : State :=
  let f := fnOf s (eLaneState l)
  if f.state = .off then laneStarting s l (fnEnable f) else setFn s (eLaneState l) (fnEnable f)

/-- A lane serves a position of a port in ON, which is now pending classification (R62, R67). -/
def notePositionLoss (s : State) (l : Nat) : State :=
  let ps := match lanePort l with
    | some p => if (lgOf s (laneGroup l)).reads = some (laneIdx l) then [] else [p]
    | none => match (lgOf s (laneGroup l)).reads with
      | some i => [groupPort (laneGroup l) i]
      | none => []
  ps.foldl (fun s p => if portOn s p then setPort s p { portOf s p with lossPending := true } else s) s

/-- A unit fault fences a lane; the loss of its position follows, and a test of it is abandoned (R40, R67, R386). -/
def laneFence (s : State) (l : Nat) : State :=
  proofAbandon (notePositionLoss (laneIdle s l (fnFence (fnOf s (eLaneState l)))) l) (349 + l)

/-- A lane is declared lost (R62): in ON it returns to STARTING at once, still transmitting. -/
def laneLost (s : State) (l : Nat) : State :=
  let s := notePositionLoss s l
  let s := setLane s l { laneOf s l with lost := true }
  if laneOn s l then laneStarting s l (fnOf s (eLaneState l)) else s

/-! The recorded identity and its checks (Table 03.4). -/

/-- The two version ranges have a level in common (R58). -/
def versionOk (s : State) (f : BitVec 512) : Bool := max (rd s eRindLevelMin) (idLevelMin f) ≤ min (rd s eRindLevelMax) (idLevelMax f)

/-- The checks in order: `none` waits for the axis sizes (R57), `some 0` passes, else the cause code. -/
def identityCheck (s : State) (p : Nat) (f : BitVec 512) : Option Nat :=
  if isEdge p then
    if idRole f ≠ 1 then some 1
    else if rd s (ePortExpectedEndpoint p) ≠ 0 && idIdent f ≠ rd s (ePortExpectedEndpoint p) then some 5
    else if versionOk s f then some 0 else some 6
  else if idRole f ≠ 0 then some 1
  else if idCoord (idFarId f) = myCoord s then some 2
  else match s.topo.sizes with
    | none => none
    | some z =>
      if idCoord (idFarId f) ≠ neighbour s z (bundleOf p) then some 3
      else if !(bundlePorts (bundleOf p ^^^ 1)).contains (idPort (idFarId f)) then some 4
      else if versionOk s f then some 0 else some 6

/-! Bonds (R103). -/

/-- Re-evaluate a bond: ports ON whose identifier differs from the lowest ON port's are excluded, with BOND_SPLIT. -/
def bondEval (s : State) (p : Nat) : State :=
  if !isEdge p then s
  else if rd s (ePortBondLeader p) = 0xFF then setPort s p { portOf s p with excluded := false }
  else
    let ps := bondPorts s p
    let ident (q : Nat) : Option Nat := if portOn s q then (portOf s q).recorded.map idIdent else none
    let ref := (ps.filterMap ident).head?
    ps.foldl (fun s q =>
      let ex := match ident q, ref with | some x, some r => decide (x ≠ r) | _, _ => false
      let was := (portOf s q).excluded
      let s := setPort s q { portOf s q with excluded := ex }
      if ex && !was then raiseEvent s 12 [BitVec.ofNat 8 q] else s) s

/-! Port state changes. -/

/-- The retry buffer and what is in progress are discarded when a port fails or leaves ON (R81, R158). -/
def cutEgress (s : State) (p : Nat) : State :=
  let q := portOf s p
  let s := setPort s p { q with queue := q.queue.filter fun o => o.sent = 0 }
  (q.queue.filter fun o => o.sent ≠ 0).foldl releaseOut s

/-- A packet being received is cut off (R93): the source edge answers DROP_NOTICE TRUNCATED, a destination module discards
it, and a forwarded copy is completed with zero bytes and stomped. -/
def truncateRx (s : State) (p vc : Nat) : State :=
  match Tab.find (portOf s p).rx vc with
  | none => s
  | some r =>
    let s := setPort s p { portOf s p with rx := Tab.erase (portOf s p).rx vc }
    let s := bump s (ePacketTruncatedCount p)
    let got := frameCount r.h.payloadLength.toNat - r.left
    let s := returnCredits s p vc (got - r.back)
    let s := if isEdge p then
        let s := match r.policed with
          | some n => { s with pools := { s.pools with reserved := Tab.set s.pools.reserved (p * 4 + r.h.cls.toNat) (Tab.getD s.pools.reserved (p * 4 + r.h.cls.toNat) 0 - n) } }
          | none => s
        let s := match r.policed with
          | some n => wr s (ePolicerTokens p (r.h.cls.toNat - 1)) (rd s (ePolicerTokens p (r.h.cls.toNat - 1)) - n)
          | none => s
        sendDrop s p r.h (r.cause.getD 10)
      else s
    match r.fate with
    | .forward q ovc =>
      let n := r.h.payloadLength.toNat
      let pay := sliceZ (r.bytes.drop 32) 0 n
      let o : OutPacket := { pkt := ⟨r.h, pay⟩, vc := ovc, stomped := true, arrival := p, arrivalVc := vc, order := r.order }
      if waitsBehind s o then addWaiter s { out := o, outPort := waitHead, copies := 1, stamp := r.stamp, slice := sliceOn s r.h.slice.toNat }
      else if q ≥ 254 then (match sliceOn s r.h.slice.toNat with | some a => holdOut s a q ovc r.stamp o | none => loseRoute s o)
      else placeAs r.needs s q ovc 1 r.stamp false o
    | _ => s

/-- What leaving ON does (R81, R127, R230). The link state is cleared here already, not only at the next entry to ON (DESIGN CHOICE, log
entry 117). -/
def portLeaveOn (s : State) (p : Nat) : State :=
  let s := cutEgress s p
  let s := ((portOf s p).rx.map (·.1)).foldl (fun s vc => truncateRx s p vc) s
  let s := setPort s p { portOf s p with link := {}, echo := {}, lossPending := false, farOn := false, admSent := false, admReceived := false }
  invocationsLost (memberPortLost (wr (wr s (ePortNegotiatedLevel p) 0) (ePortRoutable p) 0) p) p

/-- The spare carries a position of the port. -/
def carriedFor (s : State) (p : Nat) : Option Nat :=
  match (lgOf s (p / 4)).carries with
  | some i => if groupPort (p / 4) i = p then some i else none
  | none => none

/-- What entering STARTING does: lanes in OFF get an enable request (R374), a new identity must be recorded, and a position
on the spare whose own lane is ON moves back by a SWITCH naming 31 (R67). -/
def portStarting (s : State) (p : Nat) : State :=
  let s := (List.range 4).foldl (fun s j => if fnState s (eLaneState (ownLane p j)) = .off then laneEnable s (ownLane p j) else s) s
  let s := setPort s p { portOf s p with recorded := none, checks := none, run := none, deskewed := false, link := {}, echo := {}, rx := [] }
  match carriedFor s p with
  | some i => if laneOn s (17 * (p / 4) + i) then setLg s (p / 4) { lgOf s (p / 4) with switchDue := some 31 } else s
  | none => s

/-- What FENCED does to a port's lanes and spare (R374). -/
def portFencedLanes (s : State) (p : Nat) : State :=
  let s := (List.range 4).foldl (fun s j =>
    if fnState s (eLaneState (ownLane p j)) = .fenced then s else laneIdle s (ownLane p j) {}) s
  match carriedFor s p with
  | some _ => setLg s (p / 4) { lgOf s (p / 4) with carries := none, reads := none, switchDue := some 31 }
  | none => s

/-- The route-admission message to the neighbour behind a trunk port (R127): its content is not published, a free byte. -/
def sendAdmission (s : State) (p : Nat) : State :=
  match s.topo.sizes with
  | none => s
  | some z =>
    let b := drawBytes s 1
    let h : Header := { opcode := opMGMT, cls := 0, dst := idOf (neighbour s z (bundleOf p)) 0xFF, src := myId s 0xFF, payloadLength := 1, slice := 0 }
    let s := loafOn b.2 p { pkt := ⟨h, b.1⟩, vc := b2n (crosses s p) }
    let s := setPort s p { portOf s p with admSent := true }
    if (portOf s p).admReceived then wr s (ePortRoutable p) 1 else s

/-- What entering ON does (R53, R58, R81, R82, R127, R378). -/
def portEnterOn (s : State) (p : Nat) : State :=
  let q := portOf s p
  let f := q.recorded.getD 0
  let s := setPort s p { q with link := {}, echo := {}, rx := [], farOn := decide (idState f = 2), lossPending := false }
  let s := wr (wr s (ePortNegotiatedLevel p) (min (rd s eRindLevelMax) (idLevelMax f))) (ePortRoundTrip p) 1680
  let s := if q.noticeInForce then originateNotice s p 0 false else s
  if !isEdge p && rd s eFabricAdmitted = 1 then sendAdmission s p else s

/-- Change a port's function, with everything that its states do. -/
def portTo (s : State) (p : Nat) (f : Fn) : State :=
  let old := fnState s (ePortState p)
  let s := setFn s (ePortState p) f
  let s := if old = .on && f.state ≠ .on then portLeaveOn s p else s
  let s := if f.state = .starting && old ≠ .starting then portStarting s p
    else if f.state = .fenced && old ≠ .fenced then originateNotice (portFencedLanes s p) p fnFENCED true
    else if f.state = .quarantined && old ≠ .quarantined then originateNotice s p fnQUARANTINED true
    else if f.state = .on && old ≠ .on then portEnterOn s p
    else s
  if isEdge p then bondEval s p else if old ≠ f.state && (old = .on || old = .quarantined || f.state = .on || f.state = .quarantined) then topoEval s else s

/-- A check failed (R59): QUARANTINED with PENDING_ON set. -/
def portQuarantine (s : State) (p cause : Nat) : State :=
  raiseEvent (portTo (wr s (ePortQuarantineCause p) cause) p { state := .quarantined, pendingOn := true }) 7 [BitVec.ofNat 8 p, BitVec.ofNat 8 cause]

/-- Release from QUARANTINED (R60). -/
def portRelease (s : State) (p : Nat) : State := portTo (wr s (ePortQuarantineCause p) 0) p (fnRest (fnOf s (ePortState p)))

/-- A port in ON fails (R63, R64, R374): FENCED with PORT_FLAP at the limit, else STOPPING with PENDING_ON. -/
def portFail (s : State) (p : Nat) : State :=
  if !portOn s p then s
  else
    let q := portOf s p
    let s := bump s (ePortFailCount p)
    let lim := rd s ePortFailLimit
    let w := fcNow s / fcPerHour
    let n := (if q.failWindow = w then q.failures else 0) + 1
    if lim ≠ 0 && lim ≤ n then
      let s := setPort s p { q with failures := 0, failWindow := w }
      raiseFault (portTo s p (fnFence (fnOf s (ePortState p)))) 9 1 p 0
    else
      portTo (setPort s p { q with failures := n, failWindow := w }) p { state := .stopping, pendingOn := true }

/-- Disable, then enable (R61, R97): STOPPING with PENDING_ON. -/
def portRestart (s : State) (p : Nat) : State := if portOn s p then portTo s p { state := .stopping, pendingOn := true } else s

/-- Every position of the port is served by a lane in ON (R53.1). -/
def positionsServed (s : State) (p : Nat) : Bool := (List.range 4).all fun j => laneOn s (servingLane s p j)

/-- The four positions are deskewed, on the lanes that serve them now (R53.2). -/
def positionsDeskewed (s : State) (p : Nat) : Bool :=
  (portOf s p).deskewed && (List.range 4).all fun j => (laneOf s (servingLane s p j)).deskewed

/-- A port in STARTING whose four conditions hold enters ON (R53); one whose check fails is quarantined (R59). -/
def portTryOn (s : State) (p : Nat) : State :=
  if fnState s (ePortState p) ≠ .starting || coordInvalid s then s
  else match (portOf s p).recorded, (portOf s p).checks with
    | some _, some 0 => if positionsServed s p && positionsDeskewed s p then portTo s p { state := .on } else s
    | some _, some c => portQuarantine s p c
    | _, _ => s

/-- A port in STARTING makes the checks of Table 03.4 on its recorded identity (R57). -/
def portCheck (s : State) (p : Nat) : State :=
  portTryOn (setPort s p { portOf s p with checks := (portOf s p).recorded.bind (identityCheck s p) }) p

/-- Check the recorded identity again (R60, R61): quarantine, release or go on. A port that stays in QUARANTINED keeps the cause it
entered with (DESIGN CHOICE, log entry 115). -/
def portRecheck (s : State) (p : Nat) : State :=
  match (portOf s p).recorded with
  | none => s
  | some f =>
    match fnState s (ePortState p), identityCheck s p f with
    | .on, some c => if c ≠ 0 then portQuarantine s p c else s
    | .quarantined, some c => if c = 0 then portRelease s p else s
    | .starting, _ => portCheck s p
    | _, _ => s

/-! Deskew (R56). -/

/-- lane_index as it should be on the lane that serves position j. -/
def markerRight (s : State) (p j : Nat) : Bool :=
  let l := servingLane s p j
  (laneOf s l).markerLane = (if laneIdx l = 16 then 16 else posIdx p j)

/-- PortLaneOrderSeen: four bits per position, 0xF for none (Table 03.8). -/
def laneOrderSeen (s : State) (p : Nat) : Nat :=
  (List.range 4).foldl (fun v j =>
    let m := (laneOf s (servingLane s p j)).markerLane
    v + (if m = 31 then 15 else m % 16) * 16 ^ j) 0

/-- marker_seq of the four positions' last markers. -/
def markerSeqs (s : State) (p : Nat) : List Nat := (List.range 4).map fun j => (laneOf s (servingLane s p j)).markerSeq

/-- The four positions share one marker_seq. -/
def commonMarker (s : State) (p : Nat) : Bool := (markerSeqs s p).all fun q => q = (markerSeqs s p).headD 0

/-- The lane indices are right, and the lanes lie within 896 UI. -/
def deskewable (s : State) (p : Nat) : Bool :=
  let sk := (List.range 4).map fun j => (laneOf s (servingLane s p j)).skew
  (List.range 4).all (markerRight s p) && decide (sk.foldl max 0 ≤ (sk.foldl min (sk.headD 0)) + 896)

/-- When the lane whose marker_seq was `old` sends its next marker, some position has still not shown `old`, or is ahead of the next:
marker_seq differs beyond the deskew buffer (R56). -/
def markersApart (s : State) (p : Nat) (old : Option Nat) : Bool :=
  match old with
  | none => false
  | some o => (markerSeqs s p).any fun q => q ≠ o && q ≠ (o + 1) % 2 ^ 16

/-- Try to deskew a port in STARTING whose positions are served, once its four positions have shown one marker_seq: success lets it
enter ON; failure, also where marker_seq stays apart, raises PORT_DESKEW_FAIL at most once per second (R56). `old` is the marker_seq
before, of the lane whose marker came now. -/
def deskewPort (s : State) (p : Nat) (old : Option Nat) : State :=
  if fnState s (ePortState p) ≠ .starting || !positionsServed s p then s
  else if commonMarker s p && deskewable s p then
    let s := (List.range 4).foldl (fun s j => setLane s (servingLane s p j) { laneOf s (servingLane s p j) with deskewed := true }) s
    portTryOn (setPort s p { portOf s p with deskewed := true }) p
  else if !commonMarker s p && !markersApart s p old then s
  else
    let s := setPort s p { portOf s p with deskewed := false }
    let due := match (portOf s p).deskewFailAt with | some t => decide (t + 1400000000 ≤ fcNow s) | none => true
    if due then
      raiseEvent (setPort s p { portOf s p with deskewFailAt := some (fcNow s) }) 6 (BitVec.ofNat 8 p :: leBytes 2 (laneOrderSeen s p))
    else s

/-- The ports of a group that a lane can serve. -/
def groupPorts (g : Nat) : List Nat := [4 * g, 4 * g + 1, 4 * g + 2, 4 * g + 3]

/-- Deskew what a lane's new marker may complete. -/
def deskewGroup (s : State) (g : Nat) (old : Option Nat) : State := (groupPorts g).foldl (fun s p => deskewPort s p old) s

/-! Spares (R65 to R67). -/

/-- The identity the spare heard names the port's far end (R15, R65). -/
def spareMatches (s : State) (g p : Nat) : Bool :=
  match (lgOf s g).spareIdent, (portOf s p).recorded with
  | some a, some f =>
    let b := BitVec.ofNat 512 a.toNat
    if isEdge p then idRole b = 1 && idIdent b = idIdent f else idRole b = 0 && idCoord (idFarId b) = idCoord (idFarId f)
  | _, _ => false

/-- The spare is available for a port. -/
def spareAvailable (s : State) (g p : Nat) : Bool :=
  laneOn s (spareOf g) && (lgOf s g).carries.isNone && (lgOf s g).reads.isNone && spareMatches s g p

/-- Substitute the spare for group lane i (R65): the lane is fenced and idle, and the SWITCH goes in the next frame slot. -/
def substituteSpare (s : State) (g i : Nat) : State :=
  let l := 17 * g + i
  let s := laneIdle s l (fnFence (fnOf s (eLaneState l)))
  setLg s g { lgOf s g with switchDue := some i, carries := some i }

/-- Positions of a port whose serving lane is not in ON. -/
def lostPositions (s : State) (p : Nat) : List Nat := (List.range 4).filter fun j => !laneOn s (servingLane s p j)

/-- LOSS_CLASSIFY (R63): one lost position with a spare is substituted; else the port has failed. -/
def lossClassify (s : State) (p : Nat) : State :=
  if !portOn s p || !(portOf s p).lossPending then s
  else
    let s := setPort s p { portOf s p with lossPending := false }
    match lostPositions s p with
    | [] => s
    | [j] => if spareAvailable s (p / 4) p then substituteSpare s (p / 4) (posIdx p j) else portFail s p
    | _ => portFail s p

/-- A lane's STOPPING or unfencing is over: OFF, then STARTING where PENDING_ON was set. -/
def laneRest (s : State) (l : Nat) : State :=
  let f := fnRest (fnOf s (eLaneState l))
  if f.state = .starting then laneStarting s l f else laneIdle s l f

/-- A control block as received is inverted: the inverted sync pattern is the one found (R48). -/
def lcbInverted (raw : BitVec 136) : Bool := !lcbSynced raw && lcbSynced (lcbInvert raw)

/-- The block after the correction of polarity. -/
def lcbUpright (raw : BitVec 136) : BitVec 136 := if lcbInverted raw then lcbInvert raw else raw

/-- SWITCH_RECEIVED (R48, R65 to R67): found as sent or inverted. What the spare served is no longer deskewed. -/
def switchReceived (s : State) (g : Nat) (raw : BitVec 136) : State :=
  let sp := spareOf g
  let b := lcbUpright raw
  if !(lcbSynced b && lcbGood b && lcbType b = 1) then bump s (eLaneMarkerErrorCount sp)
  else
    let s := bump (setLane s sp { laneOf s sp with inverted := lcbInverted raw, deskewed := false }) (eLaneSwitchCount sp)
    let n := lcbCarried b
    let x := lgOf s g
    if n = 31 then
      match x.reads with
      | none => s
      | some i =>
        let l := 17 * g + i
        let bySwitch := (laneOf s l).fencedBySwitch && fnState s (eLaneState l) = .fenced
        let back := x.carries = some i && (bySwitch || laneOn s l)
        let due := if back then some 31 else if x.carries = some i then some i else x.switchDue
        let s := setLg s g { x with reads := none, carries := if back then none else x.carries, switchDue := due }
        if bySwitch then laneStarting (setLane s l { laneOf s l with fencedBySwitch := false }) l {} else s
    else if n < 16 then
      let l := 17 * g + n
      let take (s : State) : State :=
        let s := if fnState s (eLaneState l) = .fenced then s
          else setLane (laneIdle s l (fnFence (fnOf s (eLaneState l)))) l { laneOf (laneIdle s l (fnFence (fnOf s (eLaneState l)))) l with fencedBySwitch := true }
        s
      match x.carries with
      | none => take (setLg s g { x with reads := some n, carries := some n, switchDue := some n })
      | some j =>
        if j = n then take (setLg s g { x with reads := some n })
        else if n < j then
          portFail (take (setLg s g { x with reads := some n, carries := some n, switchDue := some n })) (groupPort g j)
        else s
    else s

end Sys2Proof.Machine
end

