-- ==== Sys2Proof/Machine/Fabric.lean ====
section
/-! DEFINITION. Commands of topology, bonds, slices, detours, admission, windows and reordering (05, 06). -/
namespace Sys2Proof.Machine

/-! Sizes (R95 to R97). -/

/-- The staged sizes. -/
def stagedSizes (s : State) : Nat × Nat × Nat := (rd s eTorusSizeX, rd s eTorusSizeY, rd s eTorusSizeZ)

/-- A data slice receives a disable request, with PENDING_ON cleared (R96). -/
def sliceDisableHard (s : State) (k : Nat) : State :=
  let f := fnOf s (eSliceState k)
  match f.state with
  | .on => groupsSliceOff (setFn s (eSliceState k) { state := .stopping, pendingOn := false }) k
  | .starting | .stopping => setFn s (eSliceState k) { state := .stopping, pendingOn := false }
  | _ => s

/-- Every port then in ON restarts and is held in STARTING (R97). -/
def holdPorts (s : State) : State := (List.range 128).foldl portRestart s

/-- What new sizes do to ports and slices, the sizes being in force (R96, R97). -/
def sizesTakeEffect (s : State) : State :=
  let s := ((s.topo.slices.map (·.1)).filter (· ≠ 0)).foldl sliceDisableHard s
  let s := installSlice0 (topoEval s)
  let s := if coordInvalid s then holdPorts (coordInvalidEvent s) else s
  let s := ((List.range 24).map (· + 104)).foldl portRecheck s
  (List.range 104).foldl portTryOn s

/-- An accepted commit (R96): equal sizes have no effect, and sizes out of bounds are never in force (R95). -/
def torusSizeCommit (s : State) : State :=
  if s.topo.sizes = some (stagedSizes s) || !sizesValid (stagedSizes s) then s
  else sizesTakeEffect { s with topo := { s.topo with committed := some (stagedSizes s), sizes := some (stagedSizes s) } }

/-- TORUS_SIZE_COMMIT: staged sizes out of bounds reject it with STATE (R95). -/
def execTorusSizeCommit (src : Source) (s : State) : Out1 :=
  .next (whenWritten s src eTorusSizeCommit [1] (sizesValid (stagedSizes s)) torusSizeCommit)

/-! Bonds (R102). -/

/-- Ports other than p that name leader v. -/
def bondOthers (s : State) (p v : Nat) : List Nat := (List.range 104).filter fun q => q ≠ p && rd s (ePortBondLeader q) = v

/-- R102 accepts the value. -/
def bondOk (s : State) (p v : Nat) : Bool :=
  (v = 0xFF || v = p || (v < p && rd s (ePortBondLeader v) = v)) &&
  (v = 0xFF || (bondOthers s p v).length ≤ 7) &&
  !(rd s (ePortBondLeader p) = p && v ≠ p && !(bondOthers s p p).isEmpty)

/-- Join or leave a bond; the bonds concerned are evaluated again. -/
def bondApply (s : State) (p v : Nat) : State :=
  let old := rd s (ePortBondLeader p)
  let s := bondEval (writeReg s (ePortBondLeader p) v) p
  if old < 104 then bondEval s old else s

/-- PORT_BOND_LEADER_WRITE. -/
def execPortBondLeaderWrite (src : Source) (port leader : Nat) (s : State) : Out1 :=
  onUnit (Instr.wellFormed (.portBondLeaderWrite src port leader))
    (whenWritten s src (ePortBondLeader port) (leBytes 1 leader) (leader < 256 && bondOk s port leader) fun s => bondApply s port leader)

/-! Slices (R113). -/

/-- SLICE_COMMIT: the entries of slice 0 reject writes (R106). -/
def execSliceCommit (src : Source) (slice : Nat) (s : State) : Out1 :=
  onUnit (Instr.wellFormed (.sliceCommit src slice))
    (whenWritten s src (eSliceCommit slice) [1] (slice ≠ 0) fun s => commitTables s slice)

/-- SLICE_DRAIN_TIMEOUT. -/
def execSliceDrainTimeout (slice : Nat) (s : State) : Out1 :=
  onUnit (Instr.wellFormed (.sliceDrainTimeout slice))
    (whenLive s fun s => if fnState s (eSliceState slice) = .stopping then recordsLeft (sliceDrain s slice) else s)

/-! Detours (R124). -/

/-- Write detour entries; those that name no module or bundle are not written. -/
def detourInstall (s : State) (es : List (Nat × Nat)) : State :=
  { s with topo := { s.topo with detours := es.foldl (fun t e => if e.1 < 4096 && e.2 < 6 then Tab.set t e.1 e.2 else t) s.topo.detours } }

def execDetourInstall (entries : List (Nat × Nat)) (s : State) : Out1 := .next (whenLive s fun s => detourInstall s entries)

/-- The groups of a list of modules' roots whose route from here has a detour entry. -/
def detoured (s : State) (ms : List Nat) : List Nat :=
  match s.topo.sizes with
  | none => []
  | some z => (s.groups.filter fun x =>
      ms.contains (moduleNum z x.2.gdef.root) && (Tab.find s.topo.detours (moduleNum z x.2.gdef.root)).isSome).map (·.1)

/-- Remove detour entries; the trees that used them are computed again (R124, R204). -/
def detourRemove (s : State) (ms : List Nat) : State :=
  retree { s with topo := { s.topo with detours := ms.foldl Tab.erase s.topo.detours } } (detoured s ms)

def execDetourRemove (modules : List Nat) (s : State) : Out1 := .next (whenLive s fun s => detourRemove s modules)

/-! Admission (R126, R127). -/

/-- FabricAdmitted is set and the admission messages go out on every trunk port in ON; a module already admitted stays so. -/
def fabricAdmit (s : State) : State :=
  if rd s eFabricAdmitted = 1 then s
  else (((List.range 24).map (· + 104)).filter (portOn s)).foldl sendAdmission (wr s eFabricAdmitted 1)

/-- FABRIC_ADMIT: rejected in any topology state but READY. -/
def execFabricAdmit (src : Source) (s : State) : Out1 :=
  .next (whenWritten s src eFabricAdmit [1] (s.topo.state = .ready) fabricAdmit)

/-- ROUTE_ADMISSION: the message received on a trunk port in ON. -/
def routeAdmission (s : State) (p : Nat) : State :=
  if isEdge p || !portOn s p then s
  else
    let s := setPort s p { portOf s p with admReceived := true }
    if (portOf s p).admSent then wr s (ePortRoutable p) 1 else s

def execRouteAdmission (port : Nat) (s : State) : Out1 :=
  onUnit (Instr.wellFormed (.routeAdmission port)) (whenLive s fun s => routeAdmission s port)

/-! Windows (R131, R132). -/

/-- WINDOW_UPD_DELAY: report what a (src, class) has not yet been told. -/
def windowUpdDelay (s : State) (src : BitVec 23) (c : BitVec 2) : State :=
  match s.e2e.returns.find? fun r => r.src = src && r.cls = c with
  | none => s
  | some r =>
    let rest := s.e2e.returns.filter fun r => !(r.src = src && r.cls = c)
    sendWindowUpd { s with e2e := { s.e2e with returns := rest } } src r.bytes (myCoord s) c r.slice

def execWindowUpdDelay (srcId : BitVec 23) (cls : BitVec 2) (s : State) : Out1 := .next (whenLive s fun s => windowUpdDelay s srcId cls)

/-- WINDOW_LEAK_TIMEOUT: the counter is cleared and the endpoint told; the slice of that notice is a free value. -/
def windowLeakTimeout (s : State) (src : BitVec 23) (m : Nat) (c : BitVec 2) : State :=
  let n := windowBytes s src m c
  if n = 0 then s
  else
    let s := bump (setWindow s src m c 0) eWindowLeakResetCount
    let b := drawBytes s 2
    sendWindowUpd b.2 src n m c (BitVec.ofNat 10 (leNat b.1))

def execWindowLeakTimeout (srcId : BitVec 23) (module : Nat) (cls : BitVec 2) (s : State) : Out1 :=
  onUnit (Instr.wellFormed (.windowLeakTimeout srcId module cls)) (whenLive s fun s => windowLeakTimeout s srcId module cls)

/-! Reordering (R140). -/

/-- REORDER_HOLD_TIMEOUT: every held packet is released in order; gap state. -/
def reorderHoldTimeout (s : State) (src dst : BitVec 23) : State :=
  match reorderOf s src dst with
  | none => s
  | some r =>
    if r.held.isEmpty then s
    else bump (setReorder (releaseAll s r) { r with held := [], gap := true }) eReorderTimeoutCount

def execReorderHoldTimeout (srcId dstId : BitVec 23) (s : State) : Out1 := .next (whenLive s fun s => reorderHoldTimeout s srcId dstId)

/-- REORDER_CONTEXT_IDLE: a context with nothing held is freed. -/
def reorderContextIdle (s : State) (src dst : BitVec 23) : State :=
  match reorderOf s src dst with
  | none => s
  | some r =>
    if r.held.isEmpty then
      { s with e2e := { s.e2e with reorder := s.e2e.reorder.filter fun x => !(x.src = src && x.dst = dst) } }
    else s

def execReorderContextIdle (srcId dstId : BitVec 23) (s : State) : Out1 := .next (whenLive s fun s => reorderContextIdle s srcId dstId)

end Sys2Proof.Machine
end

