-- ==== Sys2Proof/Machine/Inserts.lean ====
section
/-! DEFINITION. Cages, the identity memory of the insert in one, and the life counters (18, R430 to R433). -/
namespace Sys2Proof.Machine

/-! The identity memory (Table 18.6). -/

/-- Bytes lo to lo + n − 1 of page 0. -/
def insField (b : List Byte) (lo n : Nat) : Nat := leNat (sliceZ b lo n)

abbrev insMagic (b : List Byte) : Nat := insField b 0 2
abbrev insFormat (b : List Byte) : Nat := insField b 2 1
abbrev insKind (b : List Byte) : Nat := insField b 3 1
abbrev insSerial (b : List Byte) : List Byte := sliceZ b 20 16
abbrev insLanes (b : List Byte) : Nat := insField b 36 1
abbrev insKeySlot (b : List Byte) : Nat := insField b 37 1
abbrev insMaxPower (b : List Byte) : Nat := insField b 38 2
abbrev insRatedHours (b : List Byte) : Nat := insField b 40 4
abbrev insRatedInsertions (b : List Byte) : Nat := insField b 44 2
abbrev insLength (b : List Byte) : Nat := insField b 46 2
abbrev insLaserHours (b : List Byte) : Nat := insField b 196 4
abbrev insInsertions (b : List Byte) : Nat := insField b 200 2

/-- One cage. -/
def cageOf (s : State) (n : Nat) : Cage := Tab.getD s.cages n {}
def setCage (s : State) (n : Nat) (c : Cage) : State := { s with cages := Tab.set s.cages n c }

/-- The seated insert's identity memory; empty where none is seated or it does not respond. -/
def cageBytes (c : Cage) : List Byte := (c.insert.bind (·.page0)).getD []

/-- It is an optical engine (Table 18.6). -/
def isOptical (c : Cage) : Bool := leNat (sliceZ (cageBytes c) 3 1) = 2

/-! Life counters (R432, R433). -/

/-- The module's own record of an engine: laser-on time and insertions. -/
def engineRecord (s : State) (serial : List Byte) : Nat × Nat :=
  match s.engineRecords.find? fun r => r.1 = serial with
  | some r => r.2
  | none => (0, 0)

/-- Write the record; the last 64 engines seen are kept. -/
def setEngineRecord (s : State) (serial : List Byte) (hours ins : Nat) : State :=
  let l := (s.engineRecords.filter fun r => r.1 ≠ serial) ++ [(serial, hours, ins)]
  { s with engineRecords := l.drop (l.length - 64) }

/-- Wear that the counts show: 0 OK, 1 WEAR at 90 %, 2 REPLACE_DUE at 100 % of a rating. -/
def wearState (b : List Byte) (hours ins : Nat) : Nat :=
  let h := insRatedHours b * 10
  let n := insRatedInsertions b
  if h ≤ hours || n ≤ ins then 2 else if 9 * h ≤ 10 * hours || 9 * n ≤ 10 * ins then 1 else 0

/-- The events of a rise from one wear state to another. -/
def wearEvents (s : State) (n from_ to_ : Nat) : State :=
  let s := if from_ < 1 && 1 ≤ to_ then raiseEvent s 18 [BitVec.ofNat 8 n] else s
  if from_ < 2 && 2 ≤ to_ then raiseEvent s 19 [BitVec.ofNat 8 n] else s

/-- Show counts in effect and their wear. -/
def showCounts (s : State) (n hours ins wear : Nat) : State :=
  let s := wr (wr (wr s (eEngineLaserHours n) (min hours 0xFFFFFFFF)) (eEngineInsertions n) (min ins 0xFFFF)) (eEngineWearState n) wear
  setCage s n { cageOf s n with wear := wear }

/-- Write an engine's counters into its memory and into the module's record. -/
def writeCounts (s : State) (n : Nat) : State :=
  let hours := rd s (eEngineLaserHours n)
  let ins := rd s (eEngineInsertions n)
  let s := setEngineRecord s (insSerial (cageBytes (cageOf s n))) hours ins
  emit s (.insertMem n 196 (leBytes 4 hours ++ leBytes 2 ins))

end Sys2Proof.Machine
end

