-- ==== Sys2Proof/Machine/Serial.lean ====
section
/-! DEFINITION. What the serial lanes carry (03, R45 to R47): symbols and levels, the slot of a lane, the scrambler and descrambler,
the frames of ports and spares dealt to lanes, and MARKER and SWITCH blocks. -/
namespace Sys2Proof.Machine

/-! Symbols (R45, Table 03.1). -/

/-- The level of a bit pair (b1 b0): Gray code. -/
def levelOf : Bool → Bool → Int
  | false, false => -3
  | false, true => -1
  | true, true => 1
  | true, false => 3

/-- The symbols of a bit stream in transmission order: two bits each, the lower one first. -/
def levels : List Bool → List Int
  | b0 :: b1 :: t => levelOf b1 b0 :: levels t
  | _ => []

/-- The bits of a byte in transmission order: its lowest bit pair first. -/
def byteBits (b : Byte) : List Bool := (List.range 8).map b.getLsbD

/-- The bits of a slot's bytes, byte 0 first. -/
def slotBits (bytes : List Byte) : List Bool := bytes.flatMap byteBits

/-- The 136 bits of a control block, byte 0 first. -/
def blockBits (b : BitVec 136) : List Bool := (List.range 136).map b.getLsbD

/-! The scrambler x^58 + x^39 + 1 (R47). The register holds the last 58 bits, the newest as bit 0. -/

/-- The bit 39 positions earlier XOR the bit 58 positions earlier. -/
def scramblerTap (h : BitVec 58) : Bool := h.getLsbD 38 ^^ h.getLsbD 57

/-- The register after one more bit on the line. -/
def scramblerNext (h : BitVec 58) (b : Bool) : BitVec 58 := (h <<< 1) ||| (if b then 1 else 0)

/-- The bits sent for data bits, and the register after them. -/
def scramble : BitVec 58 → List Bool → List Bool × BitVec 58
  | h, [] => ([], h)
  | h, d :: t =>
    let b := d ^^ scramblerTap h
    let r := scramble (scramblerNext h b) t
    (b :: r.1, r.2)

/-- The data bits of received bits, and the register after them. -/
def descramble : BitVec 58 → List Bool → List Bool × BitVec 58
  | h, [] => ([], h)
  | h, b :: t =>
    let r := descramble (scramblerNext h b) t
    ((b ^^ scramblerTap h) :: r.1, r.2)

/-! Sending. -/

/-- Scrambled bits go out in a lane's frame slot; a lane in electrical idle sends nothing. -/
def sendOnLane (s : State) (l : Nat) (bytes : List Byte) : State :=
  let x := laneOf s l
  if x.txActive then
    let r := scramble x.tx (slotBits bytes)
    setLane s l { x with tx := r.2, line := levels r.1 }
  else s

/-- A control block goes out past the scrambler. -/
def sendBlock (s : State) (l : Nat) (b : BitVec 136) : State :=
  let x := laneOf s l
  if x.txActive then setLane s l { x with line := levels (blockBits b) } else s

/-- The 68 bytes of a link frame (R69). -/
def frameBytes (flit : BitVec 512) (trailer : BitVec 32) : List Byte := leBytes 64 flit.toNat ++ leBytes 4 trailer.toNat

/-- The bytes of port lane j: byte k of the frame goes to lane k mod 4 as its byte k div 4 (R46). -/
def laneBytes (frame : List Byte) (j : Nat) : List Byte := (List.range 17).map fun i => frame.getD (4 * i + j) 0

/-- The lane that sends position j of port p: the spare where it carries the position (R65). -/
def sendingLane (s : State) (p j : Nat) : Nat :=
  if (lgOf s (p / 4)).carries = some (posIdx p j) then spareOf (p / 4) else ownLane p j

/-- Some lane of the port transmits. -/
def portTransmits (s : State) (p : Nat) : Bool := (List.range 4).any fun j => (laneOf s (sendingLane s p j)).txActive

/-- A frame on the four lanes of a port; in the slot of a SWITCH the spare carries nothing else. -/
def sendLanes (s : State) (p : Nat) (frame : List Byte) : State :=
  (List.range 4).foldl (fun s j =>
    let l := sendingLane s p j
    if laneIdx l = 16 && (lgOf s (p / 4)).switching then s else sendOnLane s l (laneBytes frame j)) s

/-- carried_lane of a MARKER (Table 03.2). -/
def markerCarries (x : LaneGroup) (i : Nat) : Nat := if i = 16 then x.carries.getD 31 else 31

/-- Every lane of a group sends a MARKER (R46). -/
def sendMarkers (s : State) (g : Nat) : State :=
  let x := lgOf s g
  (List.range 17).foldl (fun s i => sendBlock s (17 * g + i) (lcbMake i 0 (markerCarries x i) x.markerSeq)) s

/-! Receiving. -/

/-- A lane's descrambler takes the bits that give these bytes. -/
def hearSlot (s : State) (l : Nat) (bytes : List Byte) : State :=
  let x := laneOf s l
  setLane s l { x with rx := (scramble x.rx (slotBits bytes)).2 }

/-- A frame on the four lanes that serve a port. -/
def hearLanes (s : State) (p : Nat) (frame : List Byte) : State :=
  (List.range 4).foldl (fun s j => hearSlot s (servingLane s p j) (laneBytes frame j)) s

/-- A frame on a spare that carries no position: four slots of the one lane (R54). -/
def hearSpare (s : State) (g : Nat) (frame : List Byte) : State := hearSlot s (spareOf g) frame

end Sys2Proof.Machine
end

