-- ==== Sys2Proof/Machine/Lanes.lean ====
section
/-! DEFINITION. Commands of the serial lanes (03): signal, clock and marker events, loss, spares and calibration. -/
namespace Sys2Proof.Machine

/-- The lane receives: it is not OFF, FENCED or STOPPING. -/
def laneHears (s : State) (l : Nat) : Bool :=
  match fnState s (eLaneState l) with
  | .starting | .on => true
  | _ => false

/-- Advance the echo tag of a port's identity frames, once per marker period (R82). -/
def echoAdvance (s : State) (p : Nat) : State :=
  let e := (portOf s p).echo
  if portOn s p && !s.faults.frozen then
    let tag := (e.tag + 1) % 256
    setPort s p { portOf s p with echo := { e with tag := tag, sentAt := Tab.erase e.sentAt tag, periods := e.periods + 1 } }
  else s

/-- MARKER_SLOT: every lane of a group sends a MARKER (R46), in a frozen module too, whose lanes keep transmitting (R366). -/
def markerSlot (s : State) (g : Nat) : State :=
  let s := setLg s g { lgOf s g with markerSeq := ((lgOf s g).markerSeq + 1) % 2 ^ 16, slotPorts := [], switching := false }
  (groupPorts g).foldl echoAdvance (sendMarkers s g)

def execMarkerSlot (group : Nat) (s : State) : Out1 :=
  onUnit (Instr.wellFormed (.markerSlot group)) (if dataUp s then markerSlot s group else s)

/-- SIGNAL_DETECT (R52, Table 03.7). -/
def execSignalDetect (lane : Nat) (s : State) : Out1 :=
  onUnit (Instr.wellFormed (.signalDetect lane))
    (whenLive s fun s => setLane s lane { laneOf s lane with signal := true, los := false })

/-- CDR_LOCK (R49): a lane with signal locks. -/
def execCdrLock (lane : Nat) (s : State) : Out1 :=
  onUnit (Instr.wellFormed (.cdrLock lane))
    (whenLive s fun s => if (laneOf s lane).signal then setLane s lane { laneOf s lane with cdrLocked := true } else s)

/-- The slot is one in which the lane expects a MARKER. -/
def markerExpected (x : Lane) (slot : Nat) : Bool :=
  match x.lastMarker with
  | some t => decide (t < slot) && decide ((slot - t) % 1025 = 0)
  | none => false

/-- An invalid control block is counted and otherwise ignored (R48). -/
def badBlock (s : State) (l slot : Nat) : State :=
  let x := laneOf s l
  bump (setLane s l { x with badBlocks := if markerExpected x slot then x.badBlocks + 1 else x.badBlocks }) (eLaneMarkerErrorCount l)

/-- MARKERs missing from their expected slots before this one, on a lane that holds its alignment, and not counted already as
invalid blocks (R48). -/
def markersMissed (x : Lane) (slot : Nat) : Nat :=
  match x.lastMarker with
  | some t => if x.aligned then (slot - t - 1) / 1025 - x.badBlocks else 0
  | none => 0

/-- A valid MARKER (R48, R52): polarity and lane index are known; the second one, exactly 1,025 slots after the first,
aligns the lane, and a lane in STARTING with its CDR locked enters ON. -/
def goodMarker (s : State) (l slot skew : Nat) (inverted : Bool) (b : BitVec 136) : State :=
  let x := laneOf s l
  let second := match x.lastMarker with | some t => decide (t + 1025 = slot) | none => false
  let aligned := x.aligned || second
  let s := if markersMissed x slot = 0 then s else bumpBy 4 s (eLaneMarkerErrorCount l) (markersMissed x slot)
  let s := setLane s l { x with inverted := inverted, markerLane := lcbLane b, markerSeq := lcbSeq b, skew := skew,
                                lastMarker := some slot, badBlocks := 0, aligned := aligned }
  let s := if fnState s (eLaneState l) = .starting && x.cdrLocked && second then
      setFnState (setLane s l { laneOf s l with lost := false }) (eLaneState l) .on
    else s
  deskewGroup s (laneGroup l) (x.lastMarker.map fun _ => x.markerSeq)

/-- A control block taken from a lane (R48), searched for as sent and inverted. -/
def markerReceived (s : State) (l slot skew : Nat) (raw : BitVec 136) : State :=
  if !laneHears s l then s
  else
    let b := lcbUpright raw
    if !(lcbSynced b && lcbGood b) then badBlock s l slot
    else if lcbType b = 0 then goodMarker s l slot skew (lcbInverted raw) b
    else if laneIdx l = 16 then switchReceived s (laneGroup l) raw
    else s

/-- MARKER_RECEIVED. -/
def execMarkerReceived (lane slot skew : Nat) (block : BitVec 136) (s : State) : Out1 :=
  onUnit (Instr.wellFormed (.markerReceived lane slot skew block)) (whenLive s fun s => markerReceived s lane slot skew block)

/-- LOSS_OF_SIGNAL (R62): counted once, the lane lost, its CDR out of lock without a count. -/
def lossOfSignal (s : State) (l : Nat) : State :=
  let s := bump s (eLaneLosCount l)
  let s := setLane s l { laneOf s l with signal := false, cdrLocked := false, los := true, aligned := false, deskewed := false }
  laneLost s l

def execLossOfSignal (lane : Nat) (s : State) : Out1 :=
  onUnit (Instr.wellFormed (.lossOfSignal lane)) (whenLive s fun s => lossOfSignal s lane)

/-- CDR_LOSS_OF_LOCK (R62): declared and counted only while the signal is present. -/
def cdrLossOfLock (s : State) (l : Nat) : State :=
  if !(laneOf s l).signal then s
  else
    let s := bump s (eLaneCdrUnlockCount l)
    laneLost (setLane s l { laneOf s l with cdrLocked := false, aligned := false, deskewed := false }) l

def execCdrLossOfLock (lane : Nat) (s : State) : Out1 :=
  onUnit (Instr.wellFormed (.cdrLossOfLock lane)) (whenLive s fun s => cdrLossOfLock s lane)

/-- MARKER_LOSS (R62): the two slots without a valid MARKER are counted (R48), but not a slot whose invalid block was
counted already. -/
def markerLoss (s : State) (l : Nat) : State :=
  let s := bumpBy 4 s (eLaneMarkerErrorCount l) (2 - (laneOf s l).badBlocks)
  laneLost (setLane s l { laneOf s l with aligned := false, deskewed := false, lastMarker := none, badBlocks := 0 }) l

def execMarkerLoss (lane : Nat) (s : State) : Out1 :=
  onUnit (Instr.wellFormed (.markerLoss lane)) (whenLive s fun s => markerLoss s lane)

/-- MARGIN_WINDOW_END (R62, R67, Table 16.2): the window's errors are counted; above LaneMarginLimit the lane is fenced. -/
def marginWindowEnd (s : State) (l errors : Nat) : State :=
  let s := bump64 s (eLaneMarginErrorCount l) errors
  if rd s eLaneMarginLimit < errors && fnState s (eLaneState l) ≠ .fenced then raiseFault (laneFence s l) 2 2 l 0 else s

def execMarginWindowEnd (lane errors : Nat) (s : State) : Out1 :=
  onUnit (Instr.wellFormed (.marginWindowEnd lane errors)) (whenLive s fun s => marginWindowEnd s lane errors)

/-- LOSS_CLASSIFY (R63). -/
def execLossClassify (port : Nat) (s : State) : Out1 :=
  onUnit (Instr.wellFormed (.lossClassify port)) (whenLive s fun s => lossClassify s port)

/-- SWITCH_RECEIVED (R65 to R67). -/
def execSwitchReceived (group : Nat) (block : BitVec 136) (s : State) : Out1 :=
  onUnit (Instr.wellFormed (.switchReceived group block)) (whenLive s fun s => switchReceived s group block)

/-- Every lane serving a position of the port has been declared in loss of signal and is still so (R60). -/
def allServingLost (s : State) (p : Nat) : Bool := (List.range 4).all fun j => (laneOf s (servingLane s p j)).los

/-- QUARANTINE_RELEASE (R60): the 1 µs has passed on every serving lane. -/
def execQuarantineRelease (port : Nat) (s : State) : Out1 :=
  onUnit (Instr.wellFormed (.quarantineRelease port)) (whenLive s fun s =>
    if fnState s (ePortState port) = .quarantined && allServingLost s port then portRelease s port else s)

/-- A written PortExpectedEndpoint checks the recorded identity again at once; a port in STARTING applies it when it records one
(R61). -/
def expectedEndpointApply (s : State) (p v : Nat) : State :=
  let s := writeReg s (ePortExpectedEndpoint p) v
  if fnState s (ePortState p) = .starting then s else portRecheck s p

/-- PORT_EXPECTED_ENDPOINT_WRITE: a trunk port rejects it (Table 03.8). -/
def execPortExpectedEndpointWrite (src : Source) (port : Nat) (ident : BitVec 64) (s : State) : Out1 :=
  onUnit (Instr.wellFormed (.portExpectedEndpointWrite src port ident))
    (whenWritten s src (ePortExpectedEndpoint port) (leBytes 8 ident.toNat) (isEdge port) fun s => expectedEndpointApply s port ident.toNat)

/-- LANE_USER_CAL_WRITE (R51, R397): the effective entries follow at once, the lane at its next start. -/
def execLaneUserCalWrite (src : Source) (group sub : Nat) (value : BitVec 8) (s : State) : Out1 :=
  onUnit (Instr.wellFormed (.laneUserCalWrite src group sub value))
    (whenWritten s src ((0x2E00 + group) * 256 + sub) [value] (1 ≤ sub && sub ≤ 0x44)
      fun s => writeReg s ((0x2E00 + group) * 256 + sub) value.toNat)

end Sys2Proof.Machine
end

