-- ==== Sys2Proof/Machine/FnOps.lean ====
section
/-! DEFINITION. What enable and disable requests, completions and unit faults do to each kind of function: ports, lanes,
clusters, control groups, slices and engines (02, R39 and R40, and the owning chapters). -/
namespace Sys2Proof.Machine

/-- The kind and number of a function as a fault site names it (Table 16.3): 1 port, 2 lane, 7 cluster, 9 control group,
13 slice, 14 engine. -/
def fnSite (a : Nat) : Nat × Nat :=
  let i := a / 256
  if i = 0x1F01 then (1, a % 256 - 1)
  else if i < 0x1F20 then (2, a - 0x1F1000)
  else if i = 0x1F20 then (7, a % 256)
  else if i = 0x1F21 then (9, a % 256)
  else if i < 0x1F40 then (13, a - 0x1F3000)
  else (14, a % 256)

/-! Engines (R431). -/

/-- The four ports of a cage's group (Table 01.4). -/
def cagePorts (n : Nat) : List Nat := groupPorts (26 + n)

/-- Change an engine's function: its lasers run in STARTING and ON, and its ports fail when it leaves ON (R431, R434). -/
def engineTo (s : State) (n : Nat) (f : Fn) : State :=
  let old := fnState s (eEngineState n)
  let s := setFn s (eEngineState n) f
  let s := setCage s n { cageOf s n with laserOn := isOptical (cageOf s n) && (f.state = .starting || f.state = .on) }
  if old = .on && f.state ≠ .on then (cagePorts n).foldl portFail s else s

/-! Slices (R111). -/

/-- An enable request to a slice: a start is built at once or fails. -/
def sliceEnable (s : State) (k : Nat) : State :=
  let f := fnOf s (eSliceState k)
  let s := setFn s (eSliceState k) (fnEnable f)
  if f.state = .off then sliceBegin s k else s

/-- A disable request to a slice; leaving ON ends its groups' instances. -/
def sliceDisable (s : State) (k : Nat) : State :=
  let f := fnOf s (eSliceState k)
  let s := setFn s (eSliceState k) (fnDisable f)
  if f.state = .on then groupsSliceOff s k else s

/-! Requests (Table 02.6). -/

/-- A disable request to a cluster abandons its test (R386); the spare goes to OFF at once (Table 12.7). -/
def clusterDisable (s : State) (c : Nat) : State :=
  let f := fnOf s (eClusterState c)
  let s := proofAbandon s c
  if s.knead.spare = some c && f.state = .on then
    setFn { s with knead := { s.knead with spare := none } } (eClusterState c) {}
  else setFn s (eClusterState c) (fnDisable f)

/-- A disable request to a lane; in ON its position counts as lost (R67). -/
def laneDisable (s : State) (l : Nat) : State :=
  let f := fnOf s (eLaneState l)
  let s := setFn (proofAbandon s (349 + l)) (eLaneState l) (fnDisable f)
  if f.state = .on then notePositionLoss s l else s

/-- A disable request to a port; an edge port taken out of ON sends a notice (R378). -/
def portDisable (s : State) (p : Nat) : State :=
  let f := fnOf s (ePortState p)
  let s := portTo s p (fnDisable f)
  if f.state = .on && isEdge p then originateNotice s p fnDISABLED true else s

/-- The enable column of Table 02.6. -/
def requestEnable (s : State) (a : Nat) : State :=
  let f := fnOf s a
  match fnSite a with
  | (1, p) => portTo s p (fnEnable f)
  | (2, l) => laneEnable s l
  | (13, k) => sliceEnable s k
  | (14, n) => engineTo s n (fnEnable f)
  | _ => setFn s a (fnEnable f)

/-- The disable column of Table 02.6. -/
def requestDisable (s : State) (a : Nat) : State :=
  let f := fnOf s a
  match fnSite a with
  | (1, p) => portDisable s p
  | (2, l) => laneDisable s l
  | (7, c) => clusterDisable s c
  | (13, k) => sliceDisable s k
  | (14, n) => engineTo s n (fnDisable f)
  | _ => setFn s a (fnDisable f)

/-! Completions (Table 02.6). -/

/-- STARTING succeeded: ON where the owner's conditions hold (R52, R53). An engine's counters of this seating are written now
(R432, R435). -/
def startSucceeds (s : State) (a : Nat) : State :=
  match fnSite a with
  | (1, p) => portTryOn s p
  | (2, l) =>
    if (laneOf s l).aligned && (laneOf s l).cdrLocked then
      deskewGroup (setFnState (setLane s l { laneOf s l with lost := false }) a .on) (laneGroup l) none
    else s
  | (7, c) => clusterJoins (setFnState s a .on) c
  | (14, n) =>
    let s := engineTo s n { fnOf s a with state := .on }
    if (cageOf s n).writeDue then writeCounts (setCage s n { cageOf s n with writeDue := false }) n else s
  | _ => setFnState s a .on

/-- A unit fault (R40): FENCED. A slice has no unit (R111). -/
def unitFault (s : State) (a : Nat) : State :=
  match fnSite a with
  | (1, p) => portTo s p (fnFence (fnOf s a))
  | (2, l) => laneFence s l
  | (13, _) => s
  | (14, n) => engineTo s n (fnFence (fnOf s a))
  | (7, c) =>
    let s := setFn s a (fnFence (fnOf s a))
    proofAbandon (if s.knead.spare = some c then { s with knead := { s.knead with spare := none } } else s) c
  | _ => setFn s a (fnFence (fnOf s a))

/-- Another failure of STARTING: OFF with START_FAIL. -/
def startFails (s : State) (a : Nat) : State :=
  match fnSite a with
  | (1, p) => startFail (portTo s p {}) a
  | (2, l) => startFail (laneIdle s l {}) a
  | (13, k) => startFail { s with topo := { s.topo with slices := Tab.erase s.topo.slices k } } a
  | (14, n) => startFail (engineTo s n {}) a
  | _ => startFail s a

/-- STOPPING is done: OFF, then STARTING where PENDING_ON was set. A cluster still in service is taken over first (R287);
a slice stays in STOPPING while packets of it are held (R113). -/
def stopDone (s : State) (a : Nat) : State :=
  match fnSite a with
  | (1, p) => portTo s p (fnRest (fnOf s a))
  | (2, l) => laneRest s l
  | (7, c) => let s := clusterTakeover s c .disable; setFn s a (fnRest (fnOf s a))
  | (13, k) => if sliceHolds s k then s else sliceStopped s k
  | (14, n) => engineTo s n (fnRest (fnOf s a))
  | _ => setFn s a (fnRest (fnOf s a))

end Sys2Proof.Machine
end

