-- ==== Sys2Proof/Machine/Proof.lean ====
section
/-! DEFINITION. The control cores (R375) and Proof's commands: takeover, test, repair, deferral, and unfencing (16). -/
namespace Sys2Proof.Machine

/-! Control cores (R375). -/

/-- The cores of a control group. -/
def groupCores (g : Nat) : List Nat := (List.range 4).map (· + 4 * g)

/-- The group's tasks of a core go to its spare, or to the cores left. -/
def coreTasks (s : State) (c : Nat) : State :=
  match spareCore s (c / 4) with
  | some sp => wr s (eControlCoreState sp) 0
  | none => s

/-- A core is fenced: its tasks restart on the spare; a group left with no healthy core raises CONTROL_LOST and is FENCED. A
test of it is abandoned, and a core whose cover it was returns (R386). -/
def fenceCore (s : State) (c : Nat) : State :=
  let was := rd s (eControlCoreState c)
  if was = 2 then s
  else
    let s := wr s (eControlCoreState c) 2
    let s := match s.proof.active with
      | some u => if s.proof.cover = some (77 + c) then proofNext (proofDrop (wr s (eControlCoreState (proofIndex u)) 0)) else proofAbandon s (77 + c)
      | none => s
    if (groupCores (c / 4)).all fun k => rd s (eControlCoreState k) = 2 then
      unitFault (raiseFault s 36 9 (c / 4) 0) (eControlGroupState (c / 4))
    else if was = 0 then
      let s := coreTasks s c
      { s with cores := { s.cores with restarting := s.cores.restarting ++ [c] } }
    else s

/-- CORE_FAULT: CONTAINED; during a live update of its group the update reverts (Table 18.4). -/
def coreFault (s : State) (c : Nat) : State :=
  if rd s (eControlCoreState c) = 2 then s
  else
    let s := raiseFault s 27 8 c 0
    let s := if s.fw.live = some (c / 4) then proofNext (liveRevert s) else s
    fenceCore s c

def execCoreFault (core : Nat) (s : State) : Out1 :=
  onUnit (Instr.wellFormed (.coreFault core)) (whenLive s fun s => coreFault s core)

/-- CORE_ECC: counted toward CoreEccLimit within a 24 h window (Table 16.5). -/
def coreEcc (s : State) (c : Nat) : State :=
  let s := raiseFault s 6 8 c 0
  let key := dayKey s (0x8010 + c)
  let n := Tab.getD s.faults.counted key 0 + 1
  let s := { s with faults := { s.faults with counted := Tab.set s.faults.counted key n } }
  if rd s eCoreEccLimit ≤ n then fenceCore s c else s

def execCoreEcc (core : Nat) (s : State) : Out1 :=
  onUnit (Instr.wellFormed (.coreEcc core)) (whenLive s fun s => coreEcc s core)

/-- CORE_RESTART_DONE: the group's control actions go on. -/
def coreRestartDone (s : State) (c : Nat) : State :=
  { s with cores := { s.cores with restarting := s.cores.restarting.filter (· ≠ c) } }

def execCoreRestartDone (core : Nat) (s : State) : Out1 :=
  onUnit (Instr.wellFormed (.coreRestartDone core)) (whenLive s fun s => coreRestartDone s core)

/-! Due units (R381). -/

/-- PROOF_DUE: a kind whose bit is clear is not tested. -/
def proofDue (s : State) (u : Nat) : State := if (rd s eProofEnable).testBit (proofKind u) then proofEnqueue s u false else s

def execProofDue (unit : Nat) (s : State) : Out1 :=
  onUnit (Instr.wellFormed (.proofDue unit)) (whenLive s fun s => proofDue s unit)

/-- PROOF_NOW: a number that names no unit is out of range. -/
def execProofNow (src : Source) (unit : Nat) (s : State) : Out1 :=
  .next (whenWritten s src eProofNow (leBytes 2 unit) (unit < 893) fun s => proofEnqueue s unit false)

/-- PROOF_PERIOD_WRITE: at once, and ProofOrigin restarts. -/
def proofPeriodApply (s : State) (v : Nat) : State := wr (writeReg s eProofPeriod v) eProofOrigin (fcNow s)

def execProofPeriodWrite (src : Source) (hours : Nat) (s : State) : Out1 :=
  .next (whenWritten s src eProofPeriod (leBytes 4 hours) (hours < 2 ^ 32) fun s => proofPeriodApply s hours)

/-! Takeover (Table 16.7). -/

/-- A bank and headroom slabs change places: its slabs move as R173 moves them. -/
def bankSwap (s : State) (b : Nat) : State :=
  let slabs := bankSlabs s b
  let room := headroomFor s b
  let s := slabs.foldl checkSlab s
  (slabs.zip room).foldl (fun s x =>
    let p := placeOf s x.1
    { s with vat := { s.vat with place := Tab.set (Tab.set s.vat.place x.1 (placeOf s x.2)) x.2 p } }) s

/-- A unit's work leaves it, to its spare or, withheld, to the rest of its kind (R382, R384). -/
def proofTakeover (s : State) (u : Nat) : State :=
  let n := proofIndex u
  let cover (c : Nat) (s : State) : State := { s with proof := { s.proof with cover := some c } }
  match proofKind u with
  | 0 =>
    if s.proof.withheld then
      let s := clusterTakeover s u .disable
      if fnState s (eClusterState u) = .stopping then setFn s (eClusterState u) (fnRest (fnOf s (eClusterState u))) else s
    else clusterTakeover s u .proof
  | 1 => match spareChurn s (n / 17) with
    | some j => cover (9 + j) (wr (wr s (eChurnLaneStatus j) 2) eChurnSparesFree (rd s eChurnSparesFree - 1))
    | none => wr s eChurnLanesActive (rd s eChurnLanesActive - 1)
  | 2 => match spareCore s (n / 4) with
    | some c => cover (77 + c) (wr (wr s (eControlCoreState c) 0) (eControlCoreState n) 3)
    | none => wr s (eControlCoreState n) 3
  | 3 => cover u (bankSwap s n)
  | _ => s

/-- The spare has taken the cluster's arrays already (CLUSTER_TAKEOVER). -/
def takenOver (s : State) (u : Nat) : Bool := proofKind u = 0 && s.proof.cover.isSome

/-- PROOF_TAKEOVER_DONE: the test starts; a spare lost meanwhile defers it. -/
def proofTakeoverDone (s : State) : State :=
  match s.proof.active with
  | none => s
  | some u =>
    if s.proof.phase ≠ 1 then s
    else if proofFenced s u then proofNext (proofDrop s)
    else if spareFree s u || s.proof.withheld || takenOver s u then proofPhase (proofTakeover s u) u 2
    else proofDefer s u

def execProofTakeoverDone (s : State) : Out1 := .next (whenLive s proofTakeoverDone)

/-! Repairs (R383). -/

/-- Combinations of n elements, in ascending tuples. -/
def combos : Nat → List Nat → List (List Nat)
  | 0, _ => [[]]
  | _ + 1, [] => []
  | n + 1, x :: t => (combos n t).map (x :: ·) ++ combos (n + 1) t

/-- The sorted numbers of a list, each once. -/
def ascending (l : List Nat) : List Nat := (sortBy (· ≤ ·) l).dedup

/-- choose_repairs: fewest columns first. -/
def chooseRepairs (fail : List (Nat × Nat)) (rowsUsed colsUsed : Nat) : Option (List Nat × List Nat) :=
  ((List.range (3 - colsUsed)).flatMap fun nc => combos nc (ascending (fail.map (·.2)))).findSome? fun cs =>
    let rs := ascending ((fail.filter fun f => !cs.contains f.2).map (·.1))
    if rs.length ≤ 2 - rowsUsed then some (rs, cs) else none

/-- Slot k of a list set to unusable. -/
def spoilSlot (l : List Nat) (k : Nat) : List Nat := (l ++ List.replicate (k + 1 - l.length) 254).set k 255

/-- A failing PE's logical position: a spare counts where it carries; `none` names an unused spare. -/
def logicalOf (k : KArray) (r c : Nat) : Option (Nat × Nat) :=
  let row := if r < 128 then r else k.rows.getD (r - 128) 254
  let col := if c < 128 then c else k.cols.getD (129 - c) 254
  if row < 128 && col < 128 then some (row, col) else none

/-- Spares found failing while unused become unusable. -/
def spoilSpares (k : KArray) (fail : List (Nat × Nat)) : KArray :=
  fail.foldl (fun k f =>
    let k := if 128 ≤ f.1 && k.rows.getD (f.1 - 128) 254 = 254 then { k with rows := spoilSlot k.rows (f.1 - 128) } else k
    if 128 ≤ f.2 && k.cols.getD (129 - f.2) 254 = 254 then { k with cols := spoilSlot k.cols (129 - f.2) } else k) k

/-- The failing PEs of one array. -/
def failsOf (failing : List (Nat × Nat × Nat)) (a : Nat) : List (Nat × Nat) := (failing.filter fun f => f.1 = a).map (·.2)

/-- An array with the repairs its failing PEs need, or none; `afresh` forgets the repairs in place (R377). -/
def repairedArray (k : KArray) (fail : List (Nat × Nat)) (afresh : Bool) : Option KArray :=
  let k := if afresh then { k with rows := [], cols := [] } else k
  let pes := fail.filterMap fun f => logicalOf k f.1 f.2
  let k := spoilSpares k fail
  (chooseRepairs pes (slotsUsed k.rows) (slotsUsed k.cols)).map fun r =>
    { k with rows := r.1.foldl fillSlot k.rows, cols := r.2.foldl fillSlot k.cols, dueRows := [], dueCols := [] }

/-- Every array of the cluster can be repaired. -/
def repairable (s : State) (c : Nat) (failing : List (Nat × Nat × Nat)) (afresh : Bool) : Bool :=
  (clusterArrays c).all fun a => (repairedArray (karrayOf s a) (failsOf failing (a - 3 * c)) afresh).isSome

/-- Put the repairs in place (R284); under STRICT an array that becomes UNCHECKED is fenced (R285). -/
def putRepairs (s : State) (c : Nat) (failing : List (Nat × Nat × Nat)) (afresh : Bool) : State :=
  (clusterArrays c).foldl (fun s a =>
    match repairedArray (karrayOf s a) (failsOf failing (a - 3 * c)) afresh with
    | some k =>
      let s := setKarray s a k
      if unchecked k && rd s eDeterminismStrict = 1 then fenceArray s a else s
    | none => s) s

/-- Some array of the cluster is fenced: an unfencing chooses its repairs afresh (R377). -/
def anyArrayFenced (s : State) (c : Nat) : Bool := (clusterArrays c).any fun a => (karrayOf s a).fenced

/-- The cluster's arrays return with it, the strikes of those that were fenced cleared (R377). -/
def unfenceArrays (s : State) (c : Nat) : State :=
  (clusterArrays c).foldl (fun s a =>
    let k := karrayOf s a
    if k.fenced then setKarray s a { k with fenced := false, columnStrikes := [], checksumStrikes := 0 } else s) s

/-! The end of a test (Table 16.7). -/


/-- Remap a bank's failing rows to its next good spare rows; beyond them the bank is fenced (R172, R173). -/
def remapRows (s : State) (b : Nat) (bad : List Nat) : State :=
  (ascending bad).foldl (fun s row =>
    let used := rd s (eVatBankSpareRowsUsed b)
    match slabAt s (b * 4096 + row) with
    | none => s
    | some n =>
      match ((List.range 128).drop used).find? fun k => !bad.contains (2048 + k) with
      | none => fenceBank s b
      | some k =>
        let s := { s with vat := { s.vat with place := Tab.set s.vat.place n (b * 4096 + 2048 + k) } }
        bump (wr s (eVatBankSpareRowsUsed b) (k + 1)) eVatRowRemapCount) s

/-- A unit passed. Under STRICT an array that the test leaves UNCHECKED stays fenced, and its cluster with it (R285, R287). -/
def proofPass (s : State) (u : Nat) (x : Proof) : State :=
  let n := proofIndex u
  match proofKind u with
  | 0 =>
    if x.unfencing then
      let s := unfenceArrays (if anyArrayFenced s u && !x.retried then putRepairs s u [] true else s) u
      let barred := (clusterArrays u).filter fun a => unchecked (karrayOf s a) && rd s eDeterminismStrict = 1
      if barred.isEmpty then wr (setFn s (eClusterState u) {}) eFaultUnfenceResult 0
      else wr (barred.foldl fenceArray s) eFaultUnfenceResult 2
    else if x.withheld then requestEnable s (eClusterState u)
    else if fnState s (eClusterState u) = .on then clusterJoins s u
    else s
  | 1 =>
    let s := if rd s (eChurnLaneStatus n) = 1 then s else wr s eChurnSparesFree (rd s eChurnSparesFree + 1)
    wr s (eChurnLaneStatus n) 1
  | 2 => wr s (eControlCoreState n) (if x.withheld then 0 else 1)
  | 3 => s
  | _ =>
    if x.unfencing then
      wr (laneEnable (laneIdle (setLane s n { laneOf s n with fencedBySwitch := false }) n {}) n) eFaultUnfenceResult 0
    else s

/-- A unit failed for good. -/
def proofFenceUnit (s : State) (u : Nat) (x : Proof) (failing : List (Nat × Nat × Nat)) : State :=
  let n := proofIndex u
  match proofKind u with
  | 0 =>
    if x.unfencing then wr s eFaultUnfenceResult 2
    else
      let bad := (clusterArrays u).filter fun a => !(failsOf failing (a - 3 * u)).isEmpty
      unitFault (bad.foldl fenceArray s) (eClusterState u)
  | 1 =>
    if rd s (eChurnLaneStatus n) = 1 then churnLaneFence s n else wr s (eChurnLaneStatus n) 3
  | 2 => fenceCore s n
  | 3 => remapRows s n (failing.map (·.2.1))
  | _ => if x.unfencing then wr s eFaultUnfenceResult 2 else laneFence s n

/-- PROOF_TEST_DONE. -/
def proofTestDone (s : State) (pass : Bool) (failing : List (Nat × Nat × Nat)) : State :=
  match s.proof.active with
  | none => s
  | some u =>
    let x := s.proof
    if x.phase ≠ 2 then s
    else if proofFenced s u && !x.unfencing then proofNext (proofDrop s)
    else if pass then
      proofNext (proofPass (proofResult (bump64 (proofDrop s) eProofRunCount 1) u 1) u x)
    else
      let s := raiseFault (bump s eProofFailCount) 7 (proofSite u).1 (proofSite u).2 0
      let afresh := x.unfencing && anyArrayFenced s u
      if proofKind u = 0 && !x.retried && !failing.isEmpty && repairable s u failing afresh then
        let s := putRepairs s u failing afresh
        if s.proof.active = some u then { s with proof := { s.proof with retried := true } } else if x.unfencing then wr s eFaultUnfenceResult 2 else s
      else
        proofNext (proofFenceUnit (proofResult (bump64 (proofDrop s) eProofRunCount 1) u 2) u x failing)

def execProofTestDone (pass : Bool) (failing : List (Nat × Nat × Nat)) (s : State) : Out1 :=
  .next (whenLive s fun s => proofTestDone s pass failing)

/-! Deferral (R384). -/

/-- A skipped unit. -/
def proofSkip (s : State) (u : Nat) : State := proofNext (proofResult (bump (proofDrop s) eProofSkipCount) u 4)

/-- A cluster that is withheld leaves service as under a disable request, which here abandons no test (R288, R384). -/
def withhold (s : State) (u : Nat) : State :=
  if proofKind u = 0 then setFn s (eClusterState u) (fnDisable (fnOf s (eClusterState u))) else s

/-- PROOF_DEFERRAL_END: with a spare the test starts; else the unit is withheld, or skipped. -/
def proofDeferralEnd (s : State) : State :=
  match s.proof.active with
  | none => s
  | some u =>
    if s.proof.phase ≠ 3 then s
    else if proofFenced s u then proofNext (proofDrop s)
    else if spareFree s u then proofPhase s u 1
    else
      let others := (groupCores (proofIndex u / 4)).filter fun c => c ≠ proofIndex u && rd s (eControlCoreState c) = 0
      if proofKind u = 3 || (proofKind u = 2 && others.length < 2) then proofSkip s u
      else
        let s := proofPhase (bump (withhold s u) eProofWithholdCount) u 1
        { s with proof := { s.proof with withheld := true } }

def execProofDeferralEnd (s : State) : Out1 := .next (whenLive s proofDeferralEnd)

/-- A spare that becomes free during the wait lets the test start at once. -/
def proofPoll (s : State) : State :=
  match s.proof.active with
  | some u => if s.proof.phase = 3 && spareFree s u then proofPhase s u 1 else s
  | none => s

/-! Unfencing (R377). -/

/-- The outcome of a write that names the function at a state entry. -/
def unfenceResult (s : State) (r : Nat) : State := wr s eFaultUnfenceResult r

/-- Number of the unit that a lane's or cluster's state entry names. -/
def unfenceUnit (site : Nat × Nat) : Nat := if site.1 = 7 then site.2 else 349 + site.2

/-- A write to FaultUnfence of a state entry's address. -/
def unfence (s : State) (a : Nat) : State :=
  let x := fnSite a
  if x.1 = 13 || fnState s a ≠ .fenced then unfenceResult s 1
  else if x.1 = 9 then unfenceResult s 3
  else if x.1 = 1 then unfenceResult (portTo s x.2 {}) 0
  else if x.1 = 14 then unfenceResult (engineTo s x.2 {}) 0
  else if s.proof.active = some (unfenceUnit x) then unfenceResult s 4
  else proofEnqueue s (unfenceUnit x) true

/-- FAULT_UNFENCE: bits 31–24 zero, and a state entry of Table 02.8, else RANGE. -/
def execFaultUnfence (src : Source) (value : Nat) (s : State) : Out1 :=
  .next (whenWritten s src eFaultUnfence (leBytes 4 value) (isStateEntry (value / 256) (value % 256)) fun s => unfence s value)

end Sys2Proof.Machine
end

