-- ==== Sys2Proof/Machine/FnStates.lean ====
section
/-! DEFINITION. The commands of the function state machine (02, R39, R40). -/
namespace Sys2Proof.Machine

/-- Address of a state entry. -/
def entryAddr (index sub : Nat) : Nat := index * 256 + sub

/-- Slice 0's entry takes no request (R106). -/
def requestable (a : Nat) : Bool := a ≠ eSliceState 0

/-- Slices whose SliceState was ON when last written, persistent (Table 05.5). -/
def noteWanted (s : State) (a : Nat) (on : Bool) : State :=
  match fnSite a with
  | (13, k) =>
    let w := s.topo.wanted.filter (· ≠ k)
    { s with topo := { s.topo with wanted := if on then w ++ [k] else w } }
  | _ => s

/-- A write of 2 and of 0 to a state entry. -/
def enableWritten (s : State) (a : Nat) : State := requestEnable (noteWanted s a true) a
def disableWritten (s : State) (a : Nat) : State := requestDisable (noteWanted s a false) a

/-- ENABLE_REQUEST: rejected in FENCED with STATE (Table 02.6). -/
def execEnableRequest (index sub : Nat) (s : State) : Out1 :=
  onUnit (Instr.wellFormed (.enableRequest index sub))
    (whenWritten s .mailbox (entryAddr index sub) [2] (requestable (entryAddr index sub) && fnState s (entryAddr index sub) ≠ .fenced)
      fun s => enableWritten s (entryAddr index sub))

/-- DISABLE_REQUEST. -/
def execDisableRequest (index sub : Nat) (s : State) : Out1 :=
  onUnit (Instr.wellFormed (.disableRequest index sub))
    (whenWritten s .mailbox (entryAddr index sub) [0] (requestable (entryAddr index sub)) fun s => disableWritten s (entryAddr index sub))

/-- FUNCTION_START_DONE: a cluster that joins may free a spare that a deferral waits for (R384). -/
def functionStartDone (s : State) (a : Nat) (o : StartOutcome) : State :=
  if fnState s a ≠ .starting then s
  else match o with
    | .success => proofPoll (startSucceeds s a)
    | .unitFault => unitFault s a
    | .otherFailure => startFails s a

def execFunctionStartDone (index sub : Nat) (outcome : StartOutcome) (s : State) : Out1 :=
  onUnit (Instr.wellFormed (.functionStartDone index sub outcome)) (whenLive s fun s => functionStartDone s (entryAddr index sub) outcome)

/-- FUNCTION_STOP_DONE. -/
def functionStopDone (s : State) (a : Nat) : State := if fnState s a = .stopping then stopDone s a else s

def execFunctionStopDone (index sub : Nat) (s : State) : Out1 :=
  onUnit (Instr.wellFormed (.functionStopDone index sub)) (whenLive s fun s => functionStopDone s (entryAddr index sub))

/-- STOP_TIMEOUT: FENCED, with the fault at the function's site; a slice never becomes FENCED (R111). -/
def stopTimeout (s : State) (a : Nat) : State :=
  if fnState s a ≠ .stopping || (fnSite a).1 = 13 then s
  else raiseFault (unitFault s a) 8 (fnSite a).1 (fnSite a).2 0

def execStopTimeout (index sub : Nat) (s : State) : Out1 :=
  onUnit (Instr.wellFormed (.stopTimeout index sub)) (whenLive s fun s => stopTimeout s (entryAddr index sub))

end Sys2Proof.Machine
end

