-- ==== Sys2Proof/Machine/Engines.lean ====
section
/-! DEFINITION. Cage inserts: identity, life counters, wear, and their commands (18, R430 to R435). -/
namespace Sys2Proof.Machine

/-- EngineIdentityResult (R430). -/
def identityResult (s : State) (i : Insert) : Nat :=
  match i.page0 with
  | none => 3
  | some b =>
    if insMagic b ≠ 0x4F45 || insFormat b ≠ 1 || insLanes b ≠ 17 || (insKind b ≠ 1 && insKind b ≠ 2) || 180 < insMaxPower b ||
       (insKind b = 1 && 20 < insLength b) then 4
    else if insKind b = 2 && !(insKeySlot b < 4 && !(s.fw.revokedEngine.getLsbD (insKeySlot b)) &&
       beNat (sha512 (sliceZ i.page1 0 133)) = (Config.otpEngineKeyHash (insKeySlot b)).toNat && i.signatureOk) then 2
    else 1

/-- The cage's CageInsert code (Table 01.9): an insert of no listed kind reads as unreadable. -/
def cageCode (c : Cage) : Nat :=
  match c.insert with
  | none => 0
  | some i => match i.page0 with
    | none => 3
    | some b => if insKind b = 1 || insKind b = 2 then insKind b else 3

/-- Show the cages. -/
def showCages (s : State) : State := wr s eCageInsert ((List.range 6).foldl (fun v n => v + cageCode (cageOf s n) * 16 ^ n) 0)

/-! Seating, at any time and at boot. -/

/-- The identity check and what follows from it. At boot, one insertion is counted where the serial is new to the cage, and
wear is reported again; in service, every seating counts one. -/
def checkInsert (s : State) (n : Nat) (boot : Bool) : State :=
  match (cageOf s n).insert with
  | none => s
  | some i =>
    let b := i.page0.getD []
    let r := identityResult s i
    let s := wr (setBlob s (eEngineIdentity n) (sliceZ b 0 (if i.page0.isSome then 256 else 0))) (eEngineIdentityResult n) r
    let s := if r = 1 && insKind b = 2 then
        let known := engineRecord s (insSerial b)
        let hours := max (insLaserHours b) known.1
        let before := max (insInsertions b) known.2
        let counts := !boot || (cageOf s n).lastSerial ≠ insSerial b
        let ins := if counts then before + 1 else before
        let s := setCage s n { cageOf s n with lastSerial := insSerial b, writeDue := counts }
        let wear := wearState b hours ins
        wearEvents (showCounts s n hours ins wear) n (if boot then 0 else wearState b hours before) wear
      else s
    if r = 1 then engineTo s n (fnEnable (fnOf s (eEngineState n)))
    else if fnState s (eEngineState n) = .fenced then s
    else engineTo s n { state := .quarantined, pendingOn := false }

/-- INSERT_SEATED: the insert stands in the cage; a module that runs checks it at once, another at its boot. -/
def insertSeated (s : State) (n : Nat) (i : Insert) : State :=
  let s := setCage s n { cageOf s n with insert := some i, writeDue := false }
  if loafUp s && !s.faults.frozen then checkInsert (showCages s) n false else s

def execInsertSeated (cage : Nat) (insert : Insert) (s : State) : Out1 :=
  onUnit (Instr.wellFormed (.insertSeated cage insert)) (insertSeated s cage insert)

/-- INSERT_REMOVED: an engine in STARTING goes to OFF (R435), a QUARANTINED one by its release (R430); one in ON leaves as under a
disable request, and its ports fail; one in STOPPING ends as it would (Table 02.6, log entry 46). -/
def insertRemoved (s : State) (n : Nat) : State :=
  let s := setCage s n { cageOf s n with insert := none, writeDue := false }
  if !(loafUp s && !s.faults.frozen) then setCage s n { cageOf s n with laserOn := false }
  else
    let s := wr (setBlob (showCages s) (eEngineIdentity n) []) (eEngineIdentityResult n) 0
    let s := showCounts s n 0 0 0
    match fnState s (eEngineState n) with
    | .starting => engineTo s n {}
    | .quarantined => engineTo s n (fnRest (fnOf s (eEngineState n)))
    | .on => engineTo s n (fnDisable (fnOf s (eEngineState n)))
    | .off | .stopping | .fenced => engineTo s n (fnOf s (eEngineState n))

def execInsertRemoved (cage : Nat) (s : State) : Out1 :=
  onUnit (Instr.wellFormed (.insertRemoved cage)) (insertRemoved s cage)

/-- ENGINE_FAULT (R431): FENCED from any state but QUARANTINED, with the cause. -/
def engineFault (s : State) (n cause : Nat) : State :=
  if fnState s (eEngineState n) = .quarantined then s
  else unitFault (wr s (eEngineFaultCause n) cause) (eEngineState n)

def execEngineFault (cage cause : Nat) (s : State) : Out1 :=
  onUnit (Instr.wellFormed (.engineFault cage cause)) (whenLive s fun s => engineFault s cage cause)

/-- LASER_HOURS_TICK (R432, R433): 0.1 h more; each full hour is written. -/
def laserHoursTick (s : State) (n : Nat) : State :=
  if !(cageOf s n).laserOn then s
  else
    let b := cageBytes (cageOf s n)
    let hours := rd s (eEngineLaserHours n) + 1
    let ins := rd s (eEngineInsertions n)
    let wear := wearState b hours ins
    let was := (cageOf s n).wear
    let s := showCounts s n hours ins wear
    let s := if hours % 10 = 0 then writeCounts s n else setEngineRecord s (insSerial b) hours (engineRecord s (insSerial b)).2
    wearEvents s n was wear

def execLaserHoursTick (cage : Nat) (s : State) : Out1 :=
  onUnit (Instr.wellFormed (.laserHoursTick cage)) (whenLive s fun s => laserHoursTick s cage)

end Sys2Proof.Machine
end

