-- ==== Sys2Proof/Machine/Faults.lean ====
section
/-! DEFINITION. Commands of fault records and fence notices (16, R367, R369, R378 to R380). -/
namespace Sys2Proof.Machine

/-! Records. -/

/-- Cause bits whose FATAL record goes to flash: every FATAL code but SUPPLY_UV and SUPPLY_OV (R367). -/
def flashCauses (r : Record) : Bool := (List.range 64).any fun n => 34 ≤ n && r.causes.getLsbD n

/-- FATAL_RECORD_FLASH. -/
def fatalRecordFlash (s : State) : State :=
  match s.faults.fatal with
  | none => s
  | some i => match s.faults.records.find? fun r => r.id = i with
    | none => s
    | some r => if flashCauses r then { s with faults := { s.faults with flash := some (recordBits r) } } else s

def execFatalRecordFlash (s : State) : Out1 := .next (if s.pins.mainUp then fatalRecordFlash s else s)

/-- FAULT_RECORD_CLOSE: the record closes and is reported; a FATAL record never closes before reset (R369). -/
def faultRecordClose (s : State) (i : Nat) : State :=
  match s.faults.records.find? fun r => r.id = i with
  | none => s
  | some r => if !r.opened || r.cls = 2 then s else reportRecord (setRecord s { r with opened := false }) { r with opened := false }

def execFaultRecordClose (record : Nat) (s : State) : Out1 := .next (whenLive s fun s => faultRecordClose s record)

/-! Fence notices. -/

/-- The reason of a port that is not ON (Table 16.8). -/
def noticeReason (s : State) (p : Nat) : Nat :=
  match fnState s (ePortState p) with
  | .fenced => fnFENCED
  | .quarantined => fnQUARANTINED
  | .off | .stopping => fnDISABLED
  | .starting | .on => fnDOWN

/-- FENCE_NOTICE_DELAY: an edge port that failed and is neither ON nor noticed for its state. -/
def fenceNoticeDelay (s : State) (p : Nat) : State :=
  if !isEdge p then s
  else match fnState s (ePortState p) with
    | .on | .fenced | .quarantined => s
    | _ => originateNotice s p fnDOWN true

def execFenceNoticeDelay (port : Nat) (s : State) : Out1 :=
  onUnit (Instr.wellFormed (.fenceNoticeDelay port)) (whenLive s fun s => resume (fenceNoticeDelay s port))

/-- FENCE_REFRESH: every edge port that is not ON. -/
def fenceRefresh (s : State) : State :=
  (List.range 104).foldl (fun s p => if portOn s p then s else originateNotice s p (noticeReason s p) true) s

def execFenceRefresh (s : State) : Out1 := .next (whenLive s fun s => resume (fenceRefresh s))

/-- The fields of a received notice (Table 16.8). -/
def fnSubject (b : Nat) : BitVec 23 := BitVec.ofNat 23 b
def fnInForce (b : Nat) : Bool := b.testBit 64
def fnAge (b : Nat) : Nat := bitsAt b 112 16 * 2 ^ 32 + bitsAt b 80 32

/-- FENCE_NOTICE_RECEIVED (R379): stale or foreign notices are discarded and counted; any other is applied and forwarded. -/
def fenceNoticeReceived (s : State) (k : Packet) : State :=
  match s.topo.sizes with
  | none => s
  | some z =>
    let b := leNat (k.payload.take 16)
    let c := idCoord (fnSubject b)
    let m := moduleNum z c
    let stale := match Tab.find s.fence.applied m with
      | some a => decide (fnAge b ≤ a)
      | none => false
    if c ≠ idCoord k.h.src || stale then bump s eFenceNoticeStaleCount
    else if !inSizes z c || 104 ≤ idPort (fnSubject b) then s
    else
      let s := { s with fence := { s.fence with applied := Tab.set s.fence.applied m (fnAge b) } }
      expertsFenced (forwardNotice (setFenceBit s (m * 104 + idPort (fnSubject b)) (fnInForce b)) (k.payload.take 16))

def execFenceNoticeReceived (port : Nat) (pkt : Packet) (s : State) : Out1 :=
  onUnit (Instr.wellFormed (.fenceNoticeReceived port pkt)) (whenLive s fun s =>
    let s := takeInbox s port pkt
    clearTaken (if pkt.h.opcode = opFENCE_NOTICE then resume (fenceNoticeReceived s pkt) else s))

/-- FENCE_BIT_EXPIRY (R379). -/
def execFenceBitExpiry (module port : Nat) (s : State) : Out1 :=
  onUnit (Instr.wellFormed (.fenceBitExpiry module port)) (whenLive s fun s => resume (setFenceBit s (module * 104 + port) false))

end Sys2Proof.Machine
end

