-- ==== Sys2Proof/Machine/Save.lean ====
section
/-! DEFINITION. STRICT (R349), SAVE and RESTORE (R357 to R360). -/
namespace Sys2Proof.Machine

/-- A write of DeterminismStrict: setting it fences every UNCHECKED array (Table 15.2). -/
def strictApply (s : State) (value : Nat) : State :=
  let s := writeReg s eDeterminismStrict value
  if value = 1 then (List.range 27).foldl (fun s a => if unchecked (karrayOf s a) && !(karrayOf s a).fenced then fenceArray s a else s) s else s

def execStrictWrite (src : Source) (value : Nat) (s : State) : Out1 :=
  .next (whenWritten s src eDeterminismStrict [BitVec.ofNat 8 value] (value ≤ 1) fun s => strictApply s value)

/-! Results (Table 15.9). -/

abbrev svOK : Nat := 0
abbrev svBUSY : Nat := 1
abbrev svNO_STATION : Nat := 2
abbrev svDEF_MISMATCH : Nat := 3
abbrev svCORRUPT : Nat := 4
abbrev svNO_SPACE : Nat := 5
abbrev svIN_PROGRESS : Nat := 6
abbrev svNOT_FOUND : Nat := 7
abbrev svBAD_IMAGE : Nat := 8
abbrev svRUNNING : Nat := 9

def saveResult (s : State) (r : Nat) : State := wr s eSaveResult r

/-- The u16 indices of a DOMAIN entry. -/
def u16List (b : List Byte) : List Nat := (List.range (b.length / 2)).map fun i => leNat (sliceZ b (2 * i) 2)

/-! The image (R358, Tables 15.6 to 15.8). -/

/-- Kept slots in ascending tag order. -/
def keptSlots (y : Station) : List Nat := (sortBy (fun a b => a.1.tag ≤ b.1.tag) (y.slots.zipIdx.filter fun z => z.1.state = 1)).map (·.2)

/-- The copies of field f that an image holds, as slots. -/
def savedCopies (y : Station) (f : Nat) : List Nat :=
  let w := fieldOf y f
  if sfKind w = kiUNUSED || sfKind w = kiSTASH then [] else if sfVersioned w then keptSlots y else [0]

/-- Slabs saved for field f. -/
def savedSlabs (y : Station) (f : Nat) : Nat := (savedCopies y f).length * sfSlabs (fieldOf y f)

/-- Vat slabs of a station in the image's order. -/
def savedVat (y : Station) : List Nat := (List.range 16).flatMap fun f => (savedCopies y f).flatMap (copySlabs y f)

/-- The kind-6 crumb of a station's definition. -/
def defHash (y : Station) : Word := crumbOf 6 0 0 [(0, y.fields.flatMap fun f => leBytes 32 f.toNat)]

/-- A station's section slab. -/
def sectionBytes (k : Nat) (y : Station) : List Byte :=
  let tags := (keptSlots y).map fun z => (y.slots.getD z {}).tag
  sliceZ ((List.range 16).flatMap (fun f => leBytes 4 (savedSlabs y f)) ++ (List.range 4).flatMap (fun i => leBytes 4 (tags.getD i 0xFFFFFFFF)) ++
    leBytes 4 0 ++ leBytes 2 k ++ leBytes 2 y.sinceCompare ++ leBytes 8 y.updates ++ leBytes 8 y.chain.toNat ++ leBytes 8 (defHash y).toNat ++
    leBytes 16 y.header.toNat) 0 4096

/-- A group's record. -/
def groupBytes (gid : Nat) (g : Group) : List Byte := leBytes 16 0 ++ leBytes 2 gid ++ leBytes 2 g.epoch ++ leBytes 4 g.ordinal ++ leBytes 8 g.chain.toNat

/-- Slabs of an image. -/
def imageSlabs (s : State) (ks gs : List Nat) : Nat :=
  1 + ks.foldl (fun n k => match stationOf s k with | some y => n + 1 + (savedVat y).length | none => n) 0 + upDiv gs.length 128

/-- Slabs 1 onward. -/
def imageBody (s : State) (ks gs : List Nat) : List Byte :=
  let recs := gs.flatMap fun g => match groupOf s g with | some x => groupBytes g x | none => []
  (ks.flatMap fun k => match stationOf s k with
    | some y => sectionBytes k y ++ (savedVat y).flatMap fun n => Memory.read s.vat.mem (4096 * n) 4096
    | none => []) ++ sliceZ recs 0 (4096 * upDiv gs.length 128)

/-- The kind-5 crumb over slabs 1 onward. -/
def imageDigest (body : List Byte) : Word := crumbOf 5 0 0 ((List.range (body.length / 4096)).map fun i => (i + 1, (body.drop (4096 * i)).take 4096))

/-- The image header slab. -/
def imageHeader (s : State) (ks gs : List Nat) (total : Nat) (digest : Word) : List Byte :=
  sliceZ (leBytes 42 0 ++ leBytes 2 0x5A53 ++ leBytes 2 1 ++ leBytes 2 (myCoord s) ++ leBytes 2 ks.length ++ leBytes 2 gs.length ++ leBytes 4 total ++
    leBytes 8 digest.toNat) 0 4096

/-! SAVE. -/

/-- An open invocation names a station; a group has an open instance here. -/
def groupBusy (s : State) (g : Nat) : Bool := match groupOf s g with | some x => x.inst.isSome | none => false

/-- The image does not fit its target (R359). -/
def noSpace (s : State) (n : Nat) : Bool :=
  if rd s eSaveTarget = 0 then
    let r := (rd s eSaveCellarBase, n)
    cellarSlabs < r.1 + n || rangesMeet r (rd s eCrumbLogBase / 4096, 16384) || (s.stations.installed.flatMap fun y => homesOf y.2.fields).any (rangesMeet r)
  else match s.save.buffer with
    | some b => b.2 < 4096 * n
    | none => true

/-- Read locks on every field of the stations; SAVE holds them under the index 1,024, which no invocation has. -/
def saveLocks (ks : List Nat) : List Lock :=
  ks.flatMap fun k => (List.range 16).map fun f => { inv := 1024, step := 0, station := k, field := f, write := false }

/-- SAVE begins, or is refused by the first result that applies. -/
def saveStart (s : State) : State :=
  let ks := u16List (blob s eSaveStationList)
  let gs := u16List (blob s eSaveGroupList)
  if s.save.phase ≠ 0 then saveResult s svIN_PROGRESS
  else if ks.any (stationInUse s) || gs.any (groupBusy s) then saveResult s svBUSY
  else if ks.any fun k => (match stationOf s k with | some y => y.state ≠ 2 | none => true) then saveResult s svNO_STATION
  else if gs.any fun g => (groupOf s g).isNone then saveResult s svNOT_FOUND
  else if noSpace s (imageSlabs s ks gs) then saveResult s svNO_SPACE
  else
    let s := { s with save := { s.save with phase := 1, target := rd s eSaveTarget, base := rd s eSaveCellarBase, stations := ks, groups := gs },
                      recipes := { s.recipes with locks := s.recipes.locks ++ saveLocks ks } }
    saveResult s svRUNNING

/-- The marker of a SAVE or a RESTORE in the crumb log. -/
def saveMarker (s : State) (what total : Nat) (digest : Word) : State := appendCrumb s (crumbEntry s 4 what total 0 digest 0)

/-- The first listed station with a slab that cannot be read. -/
def unreadable (s : State) (ks : List Nat) : Option Nat :=
  ks.find? fun k => match stationOf s k with
    | some y => (savedVat y).any (slabPoisoned s)
    | none => false

/-- The image is written where its target is. -/
def putImage (s : State) (image : List Byte) : State :=
  if s.save.target = 0 then cellarPut s (4096 * s.save.base) image
  else bump64 (emit s (.hostMem (s.save.buffer.elim 0 (·.1)) image)) eDmaBytesToHost image.length

/-- SAVE_COMPLETE: the image is formed, written and shown, and the locks are released (log entry 32). -/
def saveComplete (s : State) : State :=
  if s.save.phase ≠ 1 then s
  else
    let ks := s.save.stations
    let gs := s.save.groups
    let r := readSlabs s (ks.flatMap fun k => match stationOf s k with | some y => savedVat y | none => [])
    if r.2 = .wait then r.1
    else
      let s := r.1
      let s := { s with recipes := { s.recipes with locks := s.recipes.locks.filter fun l => l.inv ≠ 1024 }, save := { s.save with phase := 0 } }
      match unreadable s ks with
      | some k => resume (wr (saveResult s svCORRUPT) eSaveLastStation k)
      | none =>
        let body := imageBody s ks gs
        let total := 1 + body.length / 4096
        let digest := imageDigest body
        let s := putImage s (imageHeader s ks gs total digest ++ body)
        let s := wr (wr (saveResult s svOK) eSaveImageSlabs total) eSaveImageDigest digest.toNat
        resume (saveMarker s 1 total digest)

/-! RESTORE. -/

/-- The fields of an image header. -/
def ihMagic (b : List Byte) : Nat := leNat (sliceZ b 42 2)
def ihVersion (b : List Byte) : Nat := leNat (sliceZ b 44 2)
def ihStations (b : List Byte) : Nat := leNat (sliceZ b 48 2)
def ihGroups (b : List Byte) : Nat := leNat (sliceZ b 50 2)
def ihTotal (b : List Byte) : Nat := leNat (sliceZ b 52 4)
def ihDigest (b : List Byte) : Nat := leNat (sliceZ b 56 8)

/-- The fields of a section slab. -/
def scField (b : List Byte) (f : Nat) : Nat := leNat (sliceZ b (4 * f) 4)
def scTag (b : List Byte) (i : Nat) : Nat := leNat (sliceZ b (64 + 4 * i) 4)
def scStation (b : List Byte) : Nat := leNat (sliceZ b 84 2)
def scSince (b : List Byte) : Nat := leNat (sliceZ b 86 2)
def scUpdates (b : List Byte) : Nat := leNat (sliceZ b 88 8)
def scChain (b : List Byte) : Nat := leNat (sliceZ b 96 8)
def scHash (b : List Byte) : Nat := leNat (sliceZ b 104 8)
def scHeader (b : List Byte) : Nat := leNat (sliceZ b 112 16)
def scSlabs (b : List Byte) : Nat := ((List.range 16).map (scField b)).foldl (· + ·) 0

/-- The sections of an image: (section slab's bytes, byte offset of its field slabs). -/
def sections (image : List Byte) : Nat → Nat → List (List Byte × Nat)
  | 0, _ => []
  | n + 1, o =>
    let b := sliceZ image o 4096
    (b, o + 4096) :: sections image n (o + 4096 + 4096 * scSlabs b)

def imageSections (image : List Byte) : List (List Byte × Nat) := sections image (ihStations image) 4096

/-- The group records: (group, epoch, ordinal, chain). -/
def imageGroups (image : List Byte) : List (Nat × Nat × Nat × Nat) :=
  let o := 4096 + ((imageSections image).map fun x => 4096 + 4096 * scSlabs x.1).foldl (· + ·) 0
  (List.range (ihGroups image)).map fun i =>
    let r := sliceZ image (o + 32 * i) 32
    (leNat (sliceZ r 16 2), leNat (sliceZ r 18 2), leNat (sliceZ r 20 4), leNat (sliceZ r 24 8))

/-- The image lies whole in what was read, and its parts make up total_slabs. -/
def imageWhole (image : List Byte) : Bool :=
  let parts := 1 + ((imageSections image).map fun x => 1 + scSlabs x.1).foldl (· + ·) 0 + upDiv (ihGroups image) 128
  ihMagic image = 0x5A53 && ihVersion image = 1 && ihTotal image = parts && 4096 * parts ≤ image.length

/-- RESTORE begins. -/
def restoreStart (s : State) : State :=
  if s.save.phase ≠ 0 then saveResult s svIN_PROGRESS
  else saveResult { s with save := { s.save with phase := 2, target := rd s eSaveTarget, base := rd s eSaveCellarBase } } svRUNNING

/-- The image as read: from the Cellar, or what the host's buffer held. -/
def readImage (s : State) (host : List Byte) : List Byte :=
  if s.save.target = 0 then
    let n := ihTotal (Memory.read s.cellar.mem (4096 * s.save.base) 64)
    Memory.read s.cellar.mem (4096 * s.save.base) (4096 * min n (cellarSlabs - s.save.base))
  else host.take (s.save.buffer.elim 0 (·.2))

/-- A section's station is installed with an equal definition. -/
def sectionMatches (s : State) (b : List Byte) : Bool :=
  match stationOf s (scStation b) with
  | some y => (defHash y).toNat = scHash b && y.header.toNat = scHeader b
  | none => false

/-- A RESTORE ends with a result. -/
def restoreEnd (s : State) (r : Nat) : State := saveResult { s with save := { s.save with phase := 0, image := [] } } r

/-- The first slab of an image in the Cellar whose CRC fails as it is copied (R175). -/
def badImageSlab (s : State) (total : Nat) : Option Nat :=
  if s.save.target = 0 then ((List.range total).map (· + s.save.base)).find? fun c => !cellarGood s c else none

/-- RESTORE_VERIFY_DONE: the checks of R360 in their order. An image slab that fails its CRC is CELLAR_CRC, and the image CORRUPT. -/
def restoreVerifyDone (s : State) (host : List Byte) : State :=
  if s.save.phase ≠ 2 then s
  else
    let image := readImage s host
    let secs := imageSections image
    if !imageWhole image then restoreEnd s svBAD_IMAGE
    else
      let total := ihTotal image
      let body := sliceZ image 4096 (4096 * (total - 1))
      match badImageSlab s total with
      | some c => restoreEnd (raiseFault (bump s eCellarCrcErrorCount) 17 4 (channelOf c) (w64 c)) svCORRUPT
      | none =>
      if (imageDigest body).toNat ≠ ihDigest image then restoreEnd s svCORRUPT
      else if secs.any (fun x => (stationOf s (scStation x.1)).isNone) || (imageGroups image).any fun g => (groupOf s g.1).isNone then
        restoreEnd s svNOT_FOUND
      else match secs.find? fun x => !sectionMatches s x.1 with
        | some x => restoreEnd (wr s eSaveLastStation (scStation x.1)) svDEF_MISMATCH
        | none =>
          if secs.any (fun x => stationInUse s (scStation x.1)) || (imageGroups image).any fun g => groupBusy s g.1 then restoreEnd s svBUSY
          else { s with save := { s.save with phase := 3, image := image } }

/-- The kept slots that a section brings: slot i takes the i-th tag in ascending order. -/
def restoredSlots (y : Station) (b : List Byte) : List VSlot :=
  (List.range (shSlots y.header)).map fun i => if i < 4 && scTag b i ≠ 0xFFFFFFFF then { state := 1, tag := scTag b i } else {}

/-- Write a station's saved fields, in field order. -/
def restoreFields (k : Nat) (y : Station) (image b : List Byte) : State → Nat → List Nat → State
  | s, _, [] => s
  | s, o, f :: fs =>
    let w := fieldOf y f
    if sfKind w = kiSTASH then restoreFields k y image b (clearSlabs s (copySlab y f 0) (sfSlabs w)) o fs
    else
      let copies := if sfVersioned w then scField b f / max 1 (sfSlabs w) else if scField b f = 0 then 0 else 1
      let s := (List.range copies).foldl (fun s i => vatPut s (4096 * copySlab y f i) (sliceZ image (o + 4096 * sfSlabs w * i) (4096 * sfSlabs w))) s
      restoreFields k y image b s (o + 4096 * scField b f) fs

/-- The crumb of each restored version (R354): of the lowest versioned weight field. -/
def restoreCrumbs (s : State) (k : Nat) : State :=
  match stationOf s k with
  | none => s
  | some y => match (List.range 16).find? fun f => sfVersioned (fieldOf y f) && sfKind (fieldOf y f) = kiWEIGHT with
    | none => s
    | some f => (keptSlots y).foldl (fun s n => match stationOf s k with
        | some y => keepCrumb s k f n (fieldCrumb s y f n)
        | none => s) s

/-- Apply one section. -/
def restoreStation (s : State) (image : List Byte) (x : List Byte × Nat) : State :=
  let k := scStation x.1
  match stationOf s k with
  | none => s
  | some y =>
    let s := restoreFields k y image x.1 s x.2 (List.range 16)
    restoreCrumbs (setStation s k { y with state := 2, slots := restoredSlots y x.1, updates := scUpdates x.1, sinceCompare := scSince x.1,
                                           chain := w64 (scChain x.1) }) k

/-- Apply one group record. -/
def restoreGroup (s : State) (g : Nat × Nat × Nat × Nat) : State :=
  match groupOf s g.1 with
  | some x => setGroup s g.1 { x with epoch := g.2.1, ordinal := g.2.2.1, chain := w64 g.2.2.2 }
  | none => s

/-- RESTORE_APPLY_DONE: stations and groups take what was saved; a station whose copy failed its CRC becomes INCONSISTENT. -/
def restoreApplyDone (s : State) (failed : Option Nat) : State :=
  if s.save.phase ≠ 3 then s
  else
    let image := s.save.image
    let secs := imageSections image
    let s := secs.foldl (fun s x => restoreStation s image x) s
    let s := (imageGroups image).foldl restoreGroup s
    let digest := w64 (ihDigest image)
    let s := wr (wr s eSaveImageSlabs (ihTotal image)) eSaveImageDigest digest.toNat
    let s := saveMarker s 2 (ihTotal image) digest
    match failed with
    | some k =>
      if secs.any fun x => scStation x.1 = k then resume (restoreEnd (wr (makeInconsistent s k k) eSaveLastStation k) svCORRUPT)
      else resume (restoreEnd s svOK)
    | none => resume (restoreEnd s svOK)

/-! Commands. -/

def execSave (src : Source) (s : State) : Out1 := .next (whenWritten s src eSaveCommand [1] true saveStart)
def execRestore (src : Source) (s : State) : Out1 := .next (whenWritten s src eSaveCommand [2] true restoreStart)
def execSaveComplete (s : State) : Out1 := .next (whenLive s saveComplete)
def execRestoreVerifyDone (hostImage : List Byte) (s : State) : Out1 := .next (whenLive s fun s => restoreVerifyDone s hostImage)
def execRestoreApplyDone (failedStation : Option Nat) (s : State) : Out1 := .next (whenLive s fun s => restoreApplyDone s failedStation)

end Sys2Proof.Machine
end

