-- ==== Sys2Proof/Machine/Read.lean ====
section
/-! DEFINITION. What a read of each dictionary entry returns (17, R390 to R396, and the owners' tables): stored values, and
those that the module forms from its state. -/
namespace Sys2Proof.Machine

/-! Physical interface, functions, lanes and ports (01 to 06). -/

/-- FaultPairState (Table 01.9). -/
def pairState (p : Pins) : Nat :=
  match p.fltP, p.fltN with
  | false, false => 0 | true, false => 1 | false, true => 2 | true, true => 3

/-- Functions in a state. -/
def fnsIn (s : State) (st : FnState) : Nat := (s.fns.filter fun f => f.2.state = st).length

/-- spare_state of Table 03.7. -/
def spareState (s : State) (l : Nat) : Nat :=
  let g := l / 17
  if l % 17 ≠ 16 || fnState s (eLaneState l) = .off then 0
  else if (lgOf s g).carries.isSome || (lgOf s g).reads.isSome then 2
  else if !(laneOf s l).signal then 3
  else if (lgOf s g).spareIdent.isSome && !((groupPorts g).any (spareMatches s g)) then 4
  else 1

/-- LaneStatus (Table 03.7). -/
def laneStatus (s : State) (l : Nat) : Nat :=
  let x := laneOf s l
  let carried := if l % 17 = 16 then (lgOf s (l / 17)).carries.getD 31 else 31
  spareState s l * 2 ^ 16 + carried * 2 ^ 11 + x.markerLane * 2 ^ 6 + b2n x.inverted * 32 + b2n x.deskewed * 16 + b2n x.aligned * 8 +
  b2n x.cdrLocked * 4 + b2n x.signal * 2 + b2n x.txActive

/-- The port whose position a lane serves. -/
def servedPort (s : State) (l : Nat) : Option Nat :=
  if l % 17 = 16 then (lgOf s (l / 17)).reads.map (groupPort (l / 17)) else lanePort l

/-- LaneSkew: the delay after the earliest lane of the port. -/
def laneSkew (s : State) (l : Nat) : Nat :=
  match servedPort s l with
  | none => 0
  | some p =>
    let all := (List.range 4).map fun j => (laneOf s (servingLane s p j)).skew
    (laneOf s l).skew - all.foldl min ((laneOf s l).skew)

/-- The effective value of field k of a lane (R50). -/
def effectiveField (s : State) (l k : Nat) : Int :=
  let e := effective s l
  match k with | 0 => e.1 | 1 => e.2.1 | 2 => e.2.2.1 | _ => e.2.2.2

/-- PortBondStatus (Table 05.5). -/
def bondStatus (s : State) (p : Nat) : Nat :=
  if !isEdge p || rd s (ePortBondLeader p) = 0xFF then 0
  else if !portOn s p then 3
  else if (portOf s p).excluded then 2 else 1

/-- TorusSizeActive (Table 05.5). -/
def sizeActive (s : State) : Nat :=
  match s.topo.sizes with
  | some z => 2 ^ 15 + (z.1 - 1) + (z.2.1 - 1) * 2 ^ 5 + (z.2.2 - 1) * 2 ^ 10
  | none => 0

/-- DetourTable: byte m holds bit 7 and the replacement bundle. -/
def detourBytes (s : State) : List Byte :=
  (List.range 4096).map fun m => match Tab.find s.topo.detours m with
    | some d => BitVec.ofNat 8 (0x80 + d)
    | none => 0

/-! Memory (08). -/

/-- The owner field of a slab's tag (Table 08.2): the station that holds it, the block of a packet slab, or the group whose
instance has it. -/
def slabOwner (s : State) (n : Nat) : Nat :=
  match partitionOf s n with
  | 0 => match s.pools.blocks.find? fun b => b.2.pool < 3 && (unitOfBlock s b.2).1 = n with
    | some b => b.2.index % 2 ^ 16
    | none => 0
  | 1 => match s.groups.find? fun g => match g.2.inst with
      | some i => i.accs.any fun a => a.2.slab = some n
      | none => false with
    | some g => g.1
    | none => 0
  | _ => match s.stations.installed.find? fun y => (y.2.bases.zip y.2.fields).any fun b =>
      sfKind b.2 ≠ kiUNUSED && b.1 ≤ n && n < b.1 + sfSlabs b.2 * fieldCopies y.2.header b.2 with
    | some y => y.1
    | none => 0

/-- The 72-byte tag of a slab (R164, Table 08.2). -/
def tagBytes (s : State) (n : Nat) : List Byte :=
  let t := tagOf s n
  let mode := crcModeOf s n
  let word := b2n (slabPoisoned s n) * 2 ^ 63 + b2n t.sourceValid * 2 ^ 62 + b2n (slabPending s n) * 2 ^ 61 + partitionOf s n * 2 ^ 58 +
    mode * 2 ^ 56 + t.sourceSlab % 2 ^ 25 * 2 ^ 31 + slabOwner s n
  leBytes 8 word ++ (List.range 16).flatMap fun k => leBytes 4 (if k < unitCount mode then (storedCrc s n k).toNat else 0)

/-- Slabs now poisoned. -/
def poisonedSlabs (s : State) : Nat := (s.vat.tags.filter fun t => t.2.poisoned || !t.2.badUnits.isEmpty).length

/-! Groups, recipes, stations and experts (10 to 15). -/

/-- GroupInfo (Table 10.10). -/
def groupInfo (s : State) (g : Nat) : Nat :=
  let busy := match s.groupCommit with
    | some c => if c.group = g then (if c.install then 1 else 3) else 2
    | none => 2
  match groupOf s g with
  | none => if busy = 1 then 1 else 0
  | some x =>
    let d := x.gdef
    let here := (d.members.filter fun m => m % 2 ^ 15 = myCoord s).length
    d.subtreeMembers * 2 ^ 224 + d.members.length * 2 ^ 192 + d.root * 2 ^ 176 + x.epoch % 2 ^ 16 * 2 ^ 160 + here * 2 ^ 152 + d.childMask * 2 ^ 144 +
    d.parentBundle * 2 ^ 136 + d.depth * 2 ^ 128 + (match x.inst with | some i => i.op | none => 0) * 2 ^ 8 + busy

/-- StationFieldBase, StationVersions and StationVersionCrumbs (Tables 13.14, 15.9). -/
def fieldBases (y : Station) : List Byte :=
  (List.range 16).flatMap fun f =>
    if sfKind (fieldOf y f) = kiUNUSED then leBytes 8 0
    else leBytes 4 (4096 * y.bases.getD f 0) ++ leBytes 4 (sfHome (fieldOf y f))
def versionBytes (y : Station) : List Byte :=
  (List.range 4).flatMap fun k =>
    let v := y.slots.getD k {}
    leBytes 4 v.tag ++ leBytes 4 v.readers ++ leBytes 8 v.state
def versionCrumbs (y : Station) : List Byte :=
  (List.range 4).flatMap fun k => match (y.slots.getD k {}).crumb with
    | some c => leBytes 8 c.2.toNat
    | none => leBytes 8 0

/-- RecipeStatus: 0 none, 1 installed, 2 removing. -/
def recipeStatus (s : State) (k : Nat) : Nat :=
  match recipeOf s k with
  | some r => if r.removing then 2 else 1
  | none => 0

/-- Slabs of the return buffers now allocated (R336). -/
def returnBufferSlabs (s : State) : Nat :=
  let bases := s.recipes.invs.flatMap fun v => v.2.rets.map (·.2)
  (s.vat.allocs.filter fun r => bases.contains r.1).foldl (fun n r => n + r.2) 0

/-- Expert slots outstanding over all owners. -/
def outstandingSlots (s : State) : Nat :=
  s.recipes.invs.foldl (fun n v => n + (v.2.slots.filter fun e => e.state = .outstanding).length) 0

/-! Faults, Proof, communication, firmware and cages (16 to 18). -/

/-- FenceTable: 53,248 bytes. -/
def fenceBytes (s : State) : List Byte :=
  (List.range 53248).map fun k => BitVec.ofNat 8 (((List.range 8).filter fun i => s.fence.bits.contains (8 * k + i)).foldl (fun n i => n + 2 ^ i) 0)

/-- The IPv6 link-local address by the modified EUI-64 rule (R398). -/
def linkLocal : List Byte :=
  let m := (leBytes 6 Config.macAddress.toNat).reverse
  [0xFE#8, 0x80#8, 0, 0, 0, 0, 0, 0] ++ (m.take 1).map (· ^^^ 0x02#8) ++ (m.drop 1).take 2 ++ [0xFF#8, 0xFE#8] ++ m.drop 3

/-- LoafSlotState (Table 18.7). -/
def slotBytes (x : LoafSlot) : List Byte :=
  leBytes 1 x.state ++ leBytes 3 x.trialBoots ++ leBytes 4 (imgRevision x.image) ++ leBytes 4 (imgSecurity x.image) ++ leBytes 4 0

/-- The revision in a slot: the shipped image has the factory's. -/
def slotStateBytes (s : State) : List Byte :=
  [fwSlot s 0, fwSlot s 1].flatMap fun x =>
    if x.image.isEmpty && x.state ≠ 0 && x.state ≠ 1 then
      leBytes 1 x.state ++ leBytes 3 x.trialBoots ++ leBytes 4 Config.factoryLoafRevision.toNat ++ leBytes 8 0
    else slotBytes x

/-- EngineRecordTable (Table 18.8). -/
def recordTable (s : State) : List Byte :=
  sliceZ (s.engineRecords.flatMap fun r => sliceZ r.1 0 8 ++ leBytes 4 r.2.1 ++ leBytes 4 (r.2.2 % 2 ^ 16)) 0 1024

/-- A string's bytes. -/
def strBytes (t : String) : List Byte := t.toList.map fun c => BitVec.ofNat 8 c.toNat

/-! Derived entries. -/

/-- The number at the head of an address's family: its offset from the family's base. -/
def famIdx (a base : Nat) : Nat := a / 256 - base

/-- Entries of one module whose number is formed from the state. -/
def derivedModule (s : State) (a : Nat) : Option Nat :=
  if a = eFaultPairState then some (pairState s.pins)
  else if a = eFunctionFencedCount then some (fnsIn s .fenced)
  else if a = eFunctionQuarantinedCount then some (fnsIn s .quarantined)
  else if a = eFabricCycleCount then some (fcNow s)
  else if a = eRootPllLocked then some (b2n s.clk.rootLocked)
  else if a = eLanePllLocked then some s.clk.lanePll.toNat
  else if a = eBootStage then some (bootStage s)
  else if a = eTopologyState then some (topoCode s.topo.state)
  else if a = eModuleCoordinate then some (myCoord s)
  else if a = eTorusSizeActive then some (sizeActive s)
  else if a = eModuleNumber then some (if s.topo.sizes.isSome then myNum s else 0)
  else if a = eTableSliceCount then some (tableSlices s)
  else if a = eDetourActiveCount then some s.topo.detours.length
  else if a = eReorderContextsInUse then some s.e2e.reorder.length
  else if a = eWheyFreeBlocks then some (poolTotal s 3 - poolUsed s 3)
  else if a = eStationPartitionSize then some (if s.vat.stationSlabs = 0 then 1280 else s.vat.stationSlabs / 256)
  else if a = eStationSlabsFree then some (stationFree s)
  else if a = eVatHeadroomFree then some (headroomFree s)
  else if a = eVatPoisonedSlabs then some (poisonedSlabs s)
  else if a = eGroupsInstalled then some s.groups.length
  else if a = eInstancesOpen then some (s.groups.filter fun g => g.2.inst.isSome).length
  else if a = eContextsResident then some (s.groups.filter fun g => match g.2.inst with | some i => i.resident | none => false).length
  else if a = eChurnGatherInUse then some (gatherInUse s)
  else if a = eKneadClustersInService then some s.knead.order.length
  else if a = eKneadSpareCluster then some (s.knead.spare.getD 0xFF)
  else if a = eRecipeStepStoreFree then some (262144 - stepsUsed s)
  else if a = eInvocationsOpen then some s.recipes.invs.length
  else if a = eContextsBusy then some (s.recipes.invs.filter fun v => v.2.context).length
  else if a = eStationsInstalled then some s.stations.installed.length
  else if a = eExpertReturnBufferSlabs then some (returnBufferSlabs s)
  else if a = eExpertSlotsOutstanding then some (outstandingSlots s)
  else if a = eFaultOpenCount then some (s.faults.records.filter (·.opened)).length
  else if a = eFencedEndpointCount then some s.fence.bits.length
  else if a = eProofActiveUnit then some (s.proof.active.getD 0xFFFF)
  else if a = eHostEventMask then some (hostMask s)
  else none

/-- The same, continued: identity, communication, firmware. -/
def derivedPart (s : State) (a : Nat) : Option Nat :=
  if a = eHardwareRevision then some Config.hardwareRevision.toNat
  else if a = eMacAddress then some Config.macAddress.toNat
  else if a = ePciVendorId then some Config.pciVendorId.toNat
  else if a = ePciDeviceId then some Config.pciDeviceId.toNat
  else if a = eLoafRevision then some (loafRevision s)
  else if a = eStarterRevision then some Config.starterRevision.toNat
  else if a = eNunorSheetCrc then some (crc64 Config.nunorSheet).toNat
  else if a = eMdpSessionsOpen then some (s.mgmt.sessions.filter (·.isOpen)).length
  else if a = ePcieLinkStatus then some (if s.host.linkUp then s.host.link else 0)
  else if a = ePersistPending then some (b2n (!s.mgmt.waiting.isEmpty))
  else if a = eLoafSlotActive then some s.fw.active
  else if a = eAntiRollbackCounter then some s.fw.rollback
  else if a = eFirmwareKeyRevoked then some (s.fw.revokedFirmware.toNat + s.fw.revokedEngine.toNat * 16)
  else if a = eBootCount then some s.fw.bootCount
  else none

/-- Entries read through the reader's selections (R394). -/
def derivedScoped (s : State) (src : Source) (a : Nat) : Option Nat :=
  let st := stationOf s (stationSelected s src)
  if a = ePlihotuProbeOutput then
    let b := (scopedReg s src ePlihotuProbeInput).getD []
    some (plihotu (w64 (leNat (sliceZ b 0 8))) (w64 (leNat (sliceZ b 8 8))) (w64 (leNat (sliceZ b 16 8)))).toNat
  else if a = eRecipeInstallResult then some (Tab.getD s.recipes.results (recipeSelected s src) 0)
  else if a = eRecipeStatus then some (recipeStatus s (recipeSelected s src))
  else if a = eStationInstallResult then some (Tab.getD s.stations.results (stationSelected s src) 0)
  else if a = eStationInitTag then some (stationStage s (stationSelected s src)).initTag
  else if a = eStationState then some (st.elim 0 (·.state))
  else if a = eStationUpdateCount then some (st.elim 0 (·.updates))
  else if a = eStationUpdatesSinceCompare then some (st.elim 0 (·.sinceCompare))
  else if a = eStationStaleCount then some (st.elim 0 (·.stale))
  else if a = eStationUpdateWaitTime then some (st.elim 0 (·.waitTime))
  else if a = eStationCrumbChain then some (st.elim 0 (·.chain.toNat))
  else if a = eGroupCrumbChain then some ((groupOf s (scopedNum s src eGroupSelect)).elim 0 (·.chain.toNat))
  else if a = eGroupCommitOrdinal then some ((groupOf s (scopedNum s src eGroupSelect)).elim 0 (·.ordinal))
  else none

/-- Entries of a lane, a port, a slice, an array, a cluster and a pool that are formed from the state. -/
def derivedUnit (s : State) (a : Nat) : Option Nat :=
  let i := a / 256
  let sub := a % 256
  if isStateEntry i sub then some (fnWord (fnOf s a))
  else if 0x2000 ≤ i && i < 0x2220 then
    let l := i - 0x2000
    if sub = 1 then some (laneStatus s l)
    else if sub = 2 then some (laneSkew s l)
    else if 7 ≤ sub && sub ≤ 10 then some (unsigned 8 (effectiveField s l (sub - 7)))
    else none
  else if 0x2F00 ≤ i && i < 0x2F20 then some (Config.factoryCal (i - 0x2F00) sub).toNat
  else if 0x2400 ≤ i && i < 0x2480 then
    let p := i - 0x2400
    if sub = 6 then some (laneOrderSeen s p)
    else if sub = 0x22 then some (bondStatus s p)
    else if sub = 0x23 then some (b2n (portRoutable s p))
    else if sub = 0x24 then some (s.pools.blocks.filter fun b => b.2.pool < 3 && b.2.port = p).length
    else none
  else if i = 0x3001 && 1 ≤ sub && sub ≤ 3 then some (poolTotal s (sub - 1) - poolUsed s (sub - 1))
  else if i = 0x3001 && 4 ≤ sub && sub ≤ 6 then some (poolTotal s (sub - 4))
  else if i = 0x3001 && 0x0B ≤ sub && sub ≤ 0x10 then some (reserveUsed s (sub - 9))
  else if 0x6010 ≤ i && i < 0x602B && 1 ≤ sub && sub ≤ 3 then
    let k := karrayOf s (i - 0x6010)
    some (if sub = 1 then arrayStatusWord k else if sub = 2 then repairWord k.rows else repairWord k.cols)
  else if 0x6030 ≤ i && i < 0x6039 && sub = 2 then some (banksHeld s (i - 0x6030))
  else none

/-- A scalar entry's raw bits as a reader sees them. -/
def scalarValue (s : State) (src : Source) (a : Nat) : Nat :=
  ((((derivedModule s a).orElse fun _ => derivedPart s a).orElse fun _ => derivedScoped s src a).orElse fun _ => derivedUnit s a).getD
    (match entryRow (a / 256) (a % 256) with
     | some r => if r.session then (match scopedReg s src a with | some b => leNat b | none => rd s a) else rd s a
     | none => rd s a)

/-- The bytes of a byte-string entry formed from the state, or stored; a fixed-size one is filled with zeros. -/
def bytesValue (s : State) (src : Source) (a : Nat) : List Byte :=
  let i := a / 256
  let st := stationOf s (stationSelected s src)
  if a = eVendorName then strBytes "Zenril"
  else if a = eProductName then strBytes "ZBM-7440 Fabric Module"
  else if a = ePartNumber then strBytes "ZBM-7440"
  else if a = eSerialNumber then Config.serialNumber.take 16
  else if a = eNunorSheet then Config.nunorSheet
  else if a = eDeviceCertificate then Config.deviceCertificate.take 1024
  else if a = eIpv6LinkLocal then linkLocal
  else if a = eDetourTable then detourBytes s
  else if 0x4100 ≤ i && i < 0x4500 && a % 256 = 9 then
    leBytes 16 (match Tab.find s.topo.slices (i - 0x4100) with | some x => x.links.toNat | none => 0)
  else if 0x4100 ≤ i && i < 0x4500 && a % 256 = 6 then sliceZ (blob s a) 0 8192
  else if a = eVatSlabTagRead then tagBytes s (scopedNum s src eVatSlabTagRead)
  else if a = eGroupInfo then leBytes 64 (groupInfo s (scopedNum s src eGroupSelect))
  else if a = eGroupLastRecord then
    leBytes 64 (match (groupOf s (scopedNum s src eGroupSelect)).bind (·.lastRecord) with | some r => r.toNat | none => 0)
  else if a = eRecipeHeader then sliceZ (recipeStage s (recipeSelected s src)).header 0 32
  else if a = eRecipeSteps then (recipeStage s (recipeSelected s src)).steps
  else if a = eRecipeTensors then (recipeStage s (recipeSelected s src)).tensors
  else if a = eStationHeader then sliceZ (stationStage s (stationSelected s src)).header 0 16
  else if a = eStationFields then (stationStage s (stationSelected s src)).fields
  else if a = eStationFieldBase then st.elim (leBytes 128 0) fieldBases
  else if a = eStationVersions then st.elim (leBytes 64 0) versionBytes
  else if a = eStationVersionCrumbs then st.elim (leBytes 32 0) versionCrumbs
  else if a = eFaultRecord then
    leBytes 64 (match s.faults.records.find? fun r => r.id = scopedNum s src eFaultRecordSelect with | some r => (recordBits r).toNat | none => 0)
  else if a = eFenceTable then fenceBytes s
  else if a = eProofUnitResult then
    let r := Tab.getD s.proof.results (scopedNum s src eProofUnitSelect) (0, 0)
    leBytes 8 r.1 ++ leBytes 8 r.2
  else if a = eLoafSlotState then slotStateBytes s
  else if a = eMeasurementRegisters then (s.fw.measures.take 4).flatMap fun m => leBytes 64 m.toNat
  else if a = eEngineRecordTable then recordTable s
  else
    let b := match entryRow i (a % 256) with
      | some r => if r.session then (scopedReg s src a).getD [] else blob s a
      | none => blob s a
    match entryRow i (a % 256) with
    | some r => if r.ty = 12 && r.exact then sliceZ b 0 r.len else b
    | none => b

/-- The value of an entry as its type encodes it (Table 17.1). -/
def entryValue (s : State) (src : Source) (index sub : Nat) : List Byte :=
  match entryRow index sub with
  | some r => if r.ty ≤ 10 then leBytes r.len (scalarValue s src (index * 256 + sub)) else bytesValue s src (index * 256 + sub)
  | none => []

/-- Status of a read (R390, R392, R395, R400): nothing before boot step 5, no WO entry. -/
def readStatus (s : State) (index sub : Nat) : Nat :=
  if !loafUp s then stNOT_READY
  else match entryRow index sub with
    | none => stNO_ENTRY
    | some r => if r.acc = .wo then stACCESS else stOK

/-- The entries whose read has an effect: SupplyPeakPower is cleared (Table 01.9); a frozen module's state stays (R367). -/
def afterRead (s : State) (index sub : Nat) : State :=
  if index * 256 + sub = eSupplyPeakPower && !s.faults.frozen then wr s eSupplyPeakPower 0 else s

end Sys2Proof.Machine
end

