-- ==== Sys2Proof/Machine/Power.lean ====
section
/-! DEFINITION. Commands of the supply, the pins, the reset, the PCI Express resets, the reference clock and throttling (01, 02). -/
namespace Sys2Proof.Machine

/-- The management domain is out of reset (Table 02.5 step 2). -/
def mgmtUp (s : State) : Bool := s.boot ≠ .held && s.boot ≠ .pll

/-- Have the effect only where the management domain runs and no FATAL fault has frozen the module (R367). -/
def whenMgmt (s : State) (f : State → State) : State := if mgmtUp s && !s.faults.frozen then f s else s

/-! Supply (R8, R10, R11). -/

/-- The fault pair as the always-on domain drives it: FAULT from a FATAL fault, or from a shutdown by the supply, until
MOD_RESET_N is asserted (R23). -/
def driveFault (s : State) (fault : Bool) : State := { s with pins := { s.pins with fltP := !fault, fltN := fault } }

/-- ALWAYS_ON_START: the fault pair reads OK, nothing is frozen, and the pull-down holds MOD_RESET_N until its release (log
entry 33). An always-on domain that lived through a loss of the input shows the module's state again (R10). -/
def alwaysOnStart (s : State) (mv : Nat) : State :=
  if mv < 40000 then s
  else if s.pins.alwaysOn then
    if s.pins.inputLost then
      driveFault { s with pins := { s.pins with inputLost := false } } (s.faults.frozen || (s.pins.shutdown && !s.pins.asserted))
    else s
  else { s with pins := { s.pins with alwaysOn := true, resetLow := true, fltP := true, fltN := false },
                faults := { s.faults with frozen := false } }

def execAlwaysOnStart (mv : Nat) (s : State) : Out1 := .next (alwaysOnStart s mv)

/-- MAIN_POWER_START: not after an undervoltage or overvoltage shutdown until a reset pulse; boot follows MOD_RESET_N. -/
def mainPowerStart (s : State) (mv : Nat) : State :=
  if !s.pins.alwaysOn || s.pins.mainUp || s.pins.mateHigh || s.pins.shutdown || mv < 45000 then s
  else { s with pins := { s.pins with mainUp := true }, boot := if s.pins.resetLow then .held else .pll }

def execMainPowerStart (mv : Nat) (s : State) : Out1 := .next (mainPowerStart s mv)

/-- SUPPLY_LOW and SUPPLY_HIGH: counted, with the event. -/
def supplyLow (s : State) (mv : Nat) : State :=
  if 44000 ≤ mv && mv < 46000 then raiseEvent (bump s eSupplyLowCount) 2 (leBytes 4 (rd s eSupplyVoltage)) else s
def supplyHigh (s : State) (mv : Nat) : State :=
  if 60000 < mv && mv ≤ 62000 then raiseEvent (bump s eSupplyHighCount) 3 (leBytes 4 (rd s eSupplyVoltage)) else s

def execSupplyLow (mv : Nat) (s : State) : Out1 := .next (whenMgmt s fun s => supplyLow s mv)
def execSupplyHigh (mv : Nat) (s : State) : Out1 := .next (whenMgmt s fun s => supplyHigh s mv)

/-- SUPPLY_UV and SUPPLY_OV: FATAL, and the supply monitor asks for the shutdown of the rails. Before boot step 2 only that monitor, of
the always-on domain, sees them: the fault pair reads FAULT. -/
def supplyFatal (s : State) (code : Nat) : State :=
  if !s.pins.mainUp then s
  else
    let s := { s with pins := { s.pins with uvOv := true } }
    if !mgmtUp s then
      { s with pins := { s.pins with fltP := false, fltN := true, ready := false }, faults := { s.faults with frozen := true } }
    else if s.faults.frozen then s
    else raiseFault s code 0 0 0

def execSupplyUv (s : State) : Out1 := .next (supplyFatal s 32)
def execSupplyOv (s : State) : Out1 := .next (supplyFatal s 33)

/-- MAIN_RAILS_SHUTDOWN: after an undervoltage or overvoltage (Table 01.3); the strap latch, of the always-on domain, keeps its
sample (R21). -/
def mainRailsShutdown (s : State) : State :=
  if !s.pins.mainUp || !s.pins.uvOv then s
  else
    let straps := Tab.find s.regs eStrapSample
    let s := railsDown s
    { s with regs := match straps with
               | some v => Tab.set s.regs eStrapSample v
               | none => s.regs,
             pins := { s.pins with uvOv := false, shutdown := true, asserted := false } }

def execMainRailsShutdown (s : State) : Out1 := .next (mainRailsShutdown s)

/-- INPUT_LOST: the fault pair reads FAULT until the always-on domain fails or the input returns; the rails and the always-on
domain hold for a while (R10). -/
def execInputLost (s : State) : Out1 :=
  .next (if s.pins.alwaysOn then driveFault { s with pins := { s.pins with inputLost := true } } true else s)

/-- ALWAYS_ON_LOSS: both lines fall low, and with the supply everything volatile is lost. -/
def alwaysOnLoss (s : State) : State :=
  if !s.pins.alwaysOn then s
  else
    let s := railsDown s
    { s with pins := { s.pins with alwaysOn := false, uvOv := false, shutdown := false, asserted := false, inputLost := false,
                                   resetLow := true, fltP := false, fltN := false } }

def execAlwaysOnLoss (s : State) : Out1 := .next (alwaysOnLoss s)

/-- MATE_N_CHANGE: the level; a rise stops nothing. -/
def execMateNChange (high : Bool) (s : State) : Out1 := .next { s with pins := { s.pins with mateHigh := high } }

/-! Reset (R19, R21, R35). -/

/-- MOD_RESET, the falling edge: every domain in reset, the fault pair OK, or FAULT while the input is lost (R10). A line that is low
already has no falling edge for R8. -/
def modReset (s : State) : State :=
  if !s.pins.alwaysOn then s
  else
    let falls := !s.pins.resetLow
    let s := resetCore s
    driveFault { s with pins := { s.pins with resetLow := true, asserted := s.pins.asserted || falls } } s.pins.inputLost

def execModReset (s : State) : Out1 := .next (modReset s)

/-- MOD_RESET_RELEASE: the straps are sampled, and cold boot begins where the rails are up; the release of an assertion that followed
a shutdown ends it where the input is in the operating range (R8). -/
def modResetRelease (s : State) (straps : BitVec 16) (mv : Nat) : State :=
  if !s.pins.alwaysOn || !s.pins.resetLow then s
  else
    let s := wr (applyPersistReset s) eStrapSample straps.toNat
    let ended := s.pins.asserted && 46000 ≤ mv && mv ≤ 60000
    { s with pins := { s.pins with resetLow := false, shutdown := s.pins.shutdown && !ended },
             boot := if s.pins.mainUp then .pll else .held }

def execModResetRelease (straps : BitVec 16) (mv : Nat) (s : State) : Out1 := .next (modResetRelease s straps mv)

/-! The PCI Express domain (R20, R36, R415). -/

/-- The identifiers of commands fetched and not completed are kept, and the domain's registers return to their reset values. -/
def pcieReset (s : State) : State :=
  let ids := s.host.fetched.map fun e => BitVec.ofNat 16 (bitsAt e.toNat 16 16)
  let s := if s.faults.frozen then s else bumpBy 4 s eMailboxAbortCount ids.length
  { s with host := { linkUp := s.host.linkUp, link := s.host.link, aborted := s.host.aborted ++ ids,
                     abortPending := s.host.abortPending || !ids.isEmpty },
           mgmt := { s.mgmt with mailboxTransfer := none } }

/-- PERST_N_ASSERT. -/
def perstNAssert (s : State) : State :=
  let s := pcieReset s
  { s with pins := { s.pins with perstLow := true }, host := { s.host with linkUp := false } }

def execPerstNAssert (s : State) : Out1 := .next (perstNAssert s)

/-- The link trains where PERST_N is high and the management domain runs (Table 02.5). -/
def linkTrain (s : State) : State :=
  { s with host := { s.host with linkUp := !s.pins.perstLow && mgmtUp s && decide (s.host.link ≠ 0) } }

/-- PERST_N_RELEASE, with the speed and width to which the link trains. -/
def perstNRelease (s : State) (speed width : Nat) : State :=
  linkTrain { s with pins := { s.pins with perstLow := false }, host := { s.host with link := speed + 16 * width } }

def execPerstNRelease (speed width : Nat) (s : State) : Out1 :=
  .next (perstNRelease s speed width)

/-- FUNCTION_LEVEL_RESET. -/
def execFunctionLevelReset (s : State) : Out1 := .next (if s.host.linkUp then pcieReset s else s)

/-! The reference clock (R27, R28, R365). -/

/-- REFCLK_LOST: holdover. -/
def refclkLost (s : State) : State :=
  if rd s eRefClkSource ≠ 0 then s else raiseFault (bump (wr s eRefClkSource 1) eRefClkLostCount) 1 0 0 0

def execRefclkLost (s : State) : Out1 := .next (whenMgmt { s with clk := { s.clk with refGood := false } } refclkLost)

/-- FALLBACK_RELOCK. -/
def execFallbackRelock (s : State) : Out1 := .next (whenMgmt s fun s => if rd s eRefClkSource = 1 then wr s eRefClkSource 2 else s)

/-- REFCLK_RESTORED. -/
def refclkRestored (s : State) : State := if rd s eRefClkSource = 0 then s else raiseEvent (wr s eRefClkSource 0) 4 []

def execRefclkRestored (s : State) : Out1 := .next (whenMgmt { s with clk := { s.clk with refGood := true } } refclkRestored)

/-- PLL_LOSS: FATAL. -/
def execPllLoss (s : State) : Out1 :=
  .next (whenMgmt s fun s => raiseFault { s with clk := { s.clk with rootLocked := false } } 39 0 0 0)

/-! Throttling (R41, R42). -/

/-- The throttle level is the larger component. -/
def showThrottle (s : State) : State := wr s eThrottleLevel (max (rd s eThermalLevel) (rd s ePowerLevel))

/-- The thermal level one step nearer to where a temperature puts it: up at each full 1 °C above 95 °C, down 2 °C below
the step's own temperature. -/
def thermalNext (level : Nat) (milliC : Int) : Nat :=
  if level < 12 && 95000 + 1000 * ((level : Int) + 1) ≤ milliC then level + 1
  else if 0 < level && milliC ≤ 95000 + 1000 * (level : Int) - 2000 then level - 1
  else level

/-- THERMAL_LEVEL_CHANGE. -/
def thermalLevelChange (s : State) (milliC : Int) : State :=
  showThrottle (wr (wr s eDieTempMax (unsigned 32 milliC)) eThermalLevel (thermalNext (rd s eThermalLevel) milliC))

def execThermalLevelChange (milliC : Int) (s : State) : Out1 := .next (whenMgmt s fun s => thermalLevelChange s milliC)

/-- THERMAL_TRIP: FATAL above 110 °C. -/
def thermalTrip (s : State) (milliC : Int) : State :=
  if milliC ≤ 110000 then s else raiseFault (wr s eDieTempMax (unsigned 32 milliC)) 34 0 0 0

def execThermalTrip (milliC : Int) (s : State) : Out1 := .next (whenMgmt s fun s => thermalTrip s milliC)

/-- POWER_WINDOW_10US. -/
def powerWindow10us (s : State) (watts : Nat) : State :=
  let s := wr s eSupplyPeakPower (max (rd s eSupplyPeakPower) watts)
  let s := if 1662 < watts then { s with clk := { s.clk with msPeakHigh := true } } else s
  if 1750 < watts then showThrottle (wr s ePowerLevel (min 12 (rd s ePowerLevel + 1))) else s

def execPowerWindow10us (watts : Nat) (s : State) : Out1 := .next (whenMgmt s fun s => powerWindow10us s watts)

/-- POWER_WINDOW_1MS: the averages of the window, and the power level. -/
def powerWindow1ms (s : State) (mv ma watts : Nat) : State :=
  let s := wr (wr (wr s eSupplyVoltage mv) eSupplyCurrent ma) eSupplyPower watts
  let level := rd s ePowerLevel
  let next := if 1450 < watts && s.clk.prevMsAbove then min 12 (level + 1)
    else if watts ≤ 1377 && !s.clk.msPeakHigh then level - 1 else level
  let s := { s with clk := { s.clk with prevMsAbove := decide (1450 < watts), msPeakHigh := false } }
  showThrottle (wr s ePowerLevel next)

def execPowerWindow1ms (mv ma watts : Nat) (s : State) : Out1 := .next (whenMgmt s fun s => powerWindow1ms s mv ma watts)

/-- A reader that the dictionary serves: the mailbox, or an open session (R395, R403). -/
def readerOk (s : State) (src : Source) : Bool :=
  loafUp s && (match src with
    | .mailbox => true
    | .session i => s.mgmt.sessions.any fun x => x.id = i && x.isOpen)

/-- SUPPLY_PEAK_POWER_READ: cleared on read. -/
def execSupplyPeakPowerRead (src : Source) (s : State) : Out1 :=
  .next (if readerOk s src then afterRead s (eSupplyPeakPower / 256) (eSupplyPeakPower % 256) else s)

end Sys2Proof.Machine
end

