-- ==== Sys2Proof/Machine/Boot.lean ====
section
/-! DEFINITION. Cold boot (02, Table 02.5; R29, R37, R38, and the owning chapters of each step). -/
namespace Sys2Proof.Machine

/-- A step of boot runs only when it is the step in progress. -/
def bootAt (s : State) (b : Boot) (f : State → State) : State := if s.boot = b && !s.faults.frozen then f s else s

/-- A boot step fails (R38): boot stops. -/
def bootFail (s : State) : State := raiseFault s 35 0 0 0

/-- BOOT_PLL_LOCK (step 2): the management domain is released. -/
def execBootPllLock (s : State) : Out1 :=
  .next (bootAt s .pll fun s => linkTrain { s with boot := .starter, clk := { s.clk with rootLocked := true } })

/-! Step 3 (R420, R428). -/

/-- The slot that Starter selected boots. -/
def starterBoots (s : State) (k : Nat) : State :=
  let s := { s with boot := .lanes, fw := { s.fw with running := k, bootCount := s.fw.bootCount + 1 } }
  let otp := drawBytes s 64
  let s := extendMeasure otp.2 0 otp.1
  let d := loafDigest s (fwSlot s k).image
  extendMeasure d.2 1 d.1

/-- STARTER_SELECT. -/
def starterSelect (s : State) (sigA sigB : Bool) : State :=
  match starterChoice s sigA sigB with
  | (some k, s) => starterBoots s k
  | (none, s) => bootFail s

def execStarterSelect (sigA sigB : Bool) (s : State) : Out1 := .next (bootAt s .starter fun s => starterSelect s sigA sigB)

/-! Step 4 (R29, R31, R52). -/

/-- The data domain starts: the counter at 0, every lane PLL in lock, and an enable request to every lane and port. -/
def lanesStart (s : State) : State :=
  let s := { s with boot := .loaf, now := 0, clk := { s.clk with lanePll := BitVec.ofNat 32 (2 ^ 32 - 1) } }
  let s := (List.range 544).foldl (fun s l => requestEnable s (eLaneState l)) s
  (List.range 128).foldl (fun s p => requestEnable s (ePortState p)) s

/-- BOOT_LANES: without a good REFCLK boot waits. -/
def bootLanes (s : State) (refclkGood : Bool) : State :=
  if s.faults.frozen || (s.boot ≠ .lanes && s.boot ≠ .refWait) then s
  else
    let s := { s with clk := { s.clk with refGood := refclkGood } }
    if refclkGood then lanesStart s else { s with boot := .refWait }

def execBootLanes (refclkGood : Bool) (s : State) : Out1 := .next (bootLanes s refclkGood)

/-! Step 5 (R37, R379, R428, R430). -/

/-- Addresses of the persistent entries, ascending. -/
def persistAddrs : List Nat :=
  sortBy (· ≤ ·) ((entryRows.filter (·.persist)).flatMap fun r =>
    (List.range r.idxN).flatMap fun i => (List.range r.subN).map fun k => (r.idx + i) * 256 + r.sub + k)

/-- Every persistent value as loaded. -/
def persistBytes (s : State) : List Byte := persistAddrs.flatMap fun a => entryValue s .mailbox (a / 256) (a % 256)

/-- BOOT_LOAF. The identity memories are read here, within the module reset that R17 names (DESIGN CHOICE, log entry 114). -/
def bootLoaf (s : State) : State :=
  let s := extendMeasure s 2 (sha512 (persistBytes s))
  let s := showLevels { s with boot := .memory }
  let s := storeOne (wr s eFenceNoticeGeneration ((rd s eFenceNoticeGeneration + 1) % 2 ^ 16)) eFenceNoticeGeneration
  (List.range 6).foldl (fun s n => checkInsert s n true) (showCages s)

def execBootLoaf (s : State) : Out1 := .next (bootAt s .loaf bootLoaf)

/-! Step 6 (R144, R163, R164, R294, R323). -/

/-- The shares in force: the defaults 2, 4 and 10 where those set do not sum to 16. -/
def curdShares (s : State) : Nat × Nat × Nat :=
  let z := (rd s eCurdShare256, rd s eCurdShare1K, rd s eCurdShare4K)
  if z.1 + z.2.1 + z.2.2 = 16 then z else (2, 4, 10)

/-- Partitions and pools laid out, every slab and the Cellar clear. -/
def layMemory (s : State) : State :=
  let mib := rd s eCurdPartitionSize
  let churn := rd s eChurnPartitionSize
  let z := curdShares s
  let keep := rd s eVcReserveBlocks
  { s with
    vat := { packetSlabs := 256 * mib, churnSlabs := 256 * churn, stationSlabs := vatSlabs - 256 * mib - 256 * churn },
    cellar := {},
    pools := { s.pools with reserve := keep,
                            shared := [(0, z.1 * mib * 256), (1, z.2.1 * mib * 64), (2, z.2.2 * mib * 16 - 6 * keep)] } }

/-- The event of R144. -/
def shareEvent (s : State) : State :=
  if rd s eCurdShare256 + rd s eCurdShare1K + rd s eCurdShare4K = 16 then s else raiseEvent s 14 []

/-- The stations kept are installed again, then the recipes, from the definitions they were installed from. -/
def reinstall (s : State) : State :=
  let stStages := s.stations.stages
  let rcStages := s.recipes.stages
  let s := { s with stations := { s.stations with stages := s.stations.kept }, recipes := { s.recipes with stages := s.recipes.kept } }
  let s := (s.stations.kept.map (·.1)).foldl installStation s
  let s := (s.recipes.kept.map (·.1)).foldl installRecipe s
  { s with stations := { s.stations with stages := stStages, results := [] }, recipes := { s.recipes with stages := rcStages, results := [] } }

/-- BOOT_MEMORY: a Cellar that does not train fails the boot. -/
def bootMemory (s : State) (trained : Bool) : State :=
  if trained then reinstall (shareEvent (layMemory { s with boot := .proof })) else bootFail s

def execBootMemory (trained : Bool) (s : State) : Out1 := .next (bootAt s .memory fun s => bootMemory s trained)

/-! Step 7 (R289, R375, R382, R383, R385). -/

/-- A unit failed a test: PROOF_FAIL at its site, counted. -/
def proofFailed (s : State) (u : Nat) : State := raiseFault (bump s eProofFailCount) 7 (proofSite u).1 (proofSite u).2 0

/-- A unit's result. -/
def proofDone (s : State) (u : Nat) (pass : Bool) : State := proofResult (bump64 s eProofRunCount 1) u (if pass then 1 else 2)

/-- Failing PEs as an array-local list of one cluster. -/
def pesOf (pes : List (Nat × Nat × Nat)) (c : Nat) : List (Nat × Nat × Nat) :=
  (pes.filter fun p => p.1 / 3 = c).map fun p => (p.1 % 3, p.2.1, p.2.2)

/-- One cluster: repairs and a second test where it has failing PEs, else FENCED where it fails; a cluster that passes is ON, but for one
with a fenced array (R263, R285, R287, log entry 34). -/
def bootCluster (failed : List Nat) (pes : List (Nat × Nat × Nat)) (s : State) (c : Nat) : State :=
  let bad := pesOf pes c
  let fence (s : State) : State :=
    let s := ((clusterArrays c).filter fun a => !(failsOf bad (a - 3 * c)).isEmpty).foldl (fun s a => setKarray s a { karrayOf s a with fenced := true }) s
    setFn (proofDone s c false) (eClusterState c) { state := .fenced }
  let pass (s : State) : State := setFn (proofDone s c true) (eClusterState c) { state := if anyArrayFenced s c then .fenced else .on }
  if bad.isEmpty then (if failed.contains c then fence (proofFailed s c) else pass s)
  else
    let s := proofFailed s c
    if !repairable s c bad false then fence s
    else
      let s := putRepairs s c bad false
      if failed.contains c then fence (proofFailed s c) else pass s

/-- The clusters that serve, and the spare. -/
def dealClusters (s : State) : State :=
  let good := (List.range 9).filter fun c => fnState s (eClusterState c) = .on
  { s with knead := { s.knead with order := good.take 8, spare := good[8]? } }

/-- One Churn lane: a failing one is fenced, and its group's spare takes its place. -/
def bootChurn (failed : List Nat) (s : State) (l : Nat) : State :=
  if failed.contains (9 + l) then
    churnSpareTakeover (churnLaneFence (proofDone (proofFailed s (9 + l)) (9 + l) false) l) l
  else proofDone s (9 + l) true

/-- One core's test. -/
def bootCore (failed : List Nat) (s : State) (c : Nat) : State :=
  if failed.contains (77 + c) then wr (proofDone (proofFailed s (77 + c)) (77 + c) false) (eControlCoreState c) 2
  else proofDone s (77 + c) true

/-- The cores of a group that passed: three active, the next the spare. -/
def dealCores (s : State) (g : Nat) : State :=
  ((groupCores g).filter fun c => rd s (eControlCoreState c) ≠ 2).zipIdx.foldl (fun s x => wr s (eControlCoreState x.1) (if x.2 < 3 then 0 else 1)) s

/-- One Vat bank: failing rows are remapped, and beyond its spare rows the bank is fenced. -/
def bootBank (failed : List Nat) (rows : List (Nat × Nat)) (s : State) (b : Nat) : State :=
  let bad := (rows.filter fun r => r.1 = b).map (·.2)
  let whole := failed.contains (93 + b)
  if bad.isEmpty && !whole then proofDone s (93 + b) true
  else
    let s := remapRows (proofDone (proofFailed s (93 + b)) (93 + b) false) b bad
    if whole then fenceBank s b else s

/-- The conditions of R385. -/
def bootProofFails (s : State) : Bool :=
  (List.range 4).any (fun g => (groupCores g).all fun c => rd s (eControlCoreState c) = 2) ||
  ((List.range 68).filter fun l => rd s (eChurnLaneStatus l) ≠ 3).length < 32 ||
  16 ≤ rd s eVatBanksFenced

/-- BOOT_PROOF. -/
def bootProof (s : State) (failed : List Nat) (pes : List (Nat × Nat × Nat)) (rows : List (Nat × Nat)) : State :=
  let s := dealClusters ((List.range 9).foldl (bootCluster failed pes) s)
  let s := (List.range 68).foldl (bootChurn failed) s
  let s := (List.range 4).foldl dealCores ((List.range 16).foldl (bootCore failed) s)
  let s := (List.range 256).foldl (bootBank failed rows) s
  if bootProofFails s then bootFail s else { s with boot := .topology }

def execBootProof (failed : List Nat) (pes : List (Nat × Nat × Nat)) (rows : List (Nat × Nat)) (s : State) : Out1 :=
  .next (bootAt s .proof fun s => bootProof s failed pes rows)

/-! Steps 8 and 9 (R95 to R97, R106, R126, Table 05.5). -/

/-- BOOT_TOPOLOGY: the committed sizes are in force, slice 0 is installed where the coordinates are good, and the slices
wanted are started. -/
def bootTopology (s : State) : State :=
  let s := { s with boot := .readyStep, topo := { s.topo with sizes := s.topo.committed } }
  let s := installSlice0 (topoEval s)
  let s := if coordInvalid s then holdPorts (coordInvalidEvent s) else s
  let s := ((List.range 24).map (· + 104)).foldl portRecheck s
  let s := (List.range 104).foldl portTryOn s
  (sortBy (· ≤ ·) (s.topo.wanted.filter (· ≠ 0))).foldl sliceEnable s

def execBootTopology (s : State) : Out1 := .next (bootAt s .topology bootTopology)

/-- BOOT_READY: MOD_READY, and Loaf clears trial_boots of the slot that booted. -/
def bootReady (s : State) (ms : Nat) : State :=
  let s := { s with boot := .done, pins := { s.pins with ready := true } }
  let s := wr (wr s eBootTime ms) eProofOrigin (fcNow s)
  setFwSlot s s.fw.running { fwSlot s s.fw.running with trialBoots := 0 }

def execBootReady (ms : Nat) (s : State) : Out1 := .next (bootAt s .readyStep fun s => bootReady s ms)

end Sys2Proof.Machine
end

