-- ==== Sys2Proof/Machine/CollCmds.lean ====
section
/-! DEFINITION. The commands of collectives and of the Churn (10, 11): each is one of their events, after which the recipe steps
that waited for an instance may go on (R319, R344). -/
namespace Sys2Proof.Machine

/-- An event of chapters 10 and 11 on a working module; the space of packets that it finishes is freed. -/
def collCommand (s : State) (f : State → State) : State := whenLive s fun s => clearTaken (resume (f s))

/-- Writes of 1 and 2 to GroupStageCommit; one commit of a module runs at a time (R200). -/
def execGroupInstall (src : Source) (s : State) : Out1 :=
  .next (whenWritten s src eGroupStageCommit [1] s.groupCommit.isNone fun s => resume (beginInstall s src))
def execGroupRemove (src : Source) (s : State) : Out1 :=
  .next (whenWritten s src eGroupStageCommit [2] s.groupCommit.isNone fun s => resume (beginRemove s src))

def execGroupEntryMsg (group origin : Nat) (entry : Option GroupDef) (s : State) : Out1 :=
  onUnit (Instr.wellFormed (.groupEntryMsg group origin entry)) (collCommand s fun s => groupEntryMsg s group origin entry)
def execGroupEntryAck (group module refusal : Nat) (s : State) : Out1 :=
  onUnit (Instr.wellFormed (.groupEntryAck group module refusal)) (collCommand s fun s => groupEntryAck s group module refusal)
def execJoinReceived (port : Nat) (pkt : Packet) (s : State) : Out1 :=
  onUnit (Instr.wellFormed (.joinReceived port pkt)) (collCommand s fun s => joinReceived s port pkt)
def execDataReceived (port : Nat) (pkt : Packet) (s : State) : Out1 :=
  onUnit (Instr.wellFormed (.dataReceived port pkt)) (collCommand s fun s => dataReceived s port pkt)
def execContribReceived (port : Nat) (pkt : Packet) (s : State) : Out1 :=
  onUnit (Instr.wellFormed (.contribReceived port pkt)) (collCommand s fun s => contribReceived s port pkt)
def execJoinUpReceived (port : Nat) (pkt : Packet) (s : State) : Out1 :=
  onUnit (Instr.wellFormed (.joinUpReceived port pkt)) (collCommand s fun s => joinUpReceived s port pkt)
def execDoneUpReceived (port : Nat) (pkt : Packet) (s : State) : Out1 :=
  onUnit (Instr.wellFormed (.doneUpReceived port pkt)) (collCommand s fun s => doneUpReceived s port pkt)
def execCommitReceived (port : Nat) (pkt : Packet) (s : State) : Out1 :=
  onUnit (Instr.wellFormed (.commitReceived port pkt)) (collCommand s fun s => commitReceived s port pkt)
def execCollResultReceived (port : Nat) (pkt : Packet) (s : State) : Out1 :=
  onUnit (Instr.wellFormed (.collResultReceived port pkt)) (collCommand s fun s => collResultReceived s port pkt)
def execEndReceived (port : Nat) (pkt : Packet) (s : State) : Out1 :=
  onUnit (Instr.wellFormed (.endReceived port pkt)) (collCommand s fun s => endReceived s port pkt)
def execRerunReceived (port : Nat) (pkt : Packet) (s : State) : Out1 :=
  onUnit (Instr.wellFormed (.rerunReceived port pkt)) (collCommand s fun s => rerunReceived s port pkt)
def execReportReceived (port : Nat) (pkt : Packet) (s : State) : Out1 :=
  onUnit (Instr.wellFormed (.reportReceived port pkt)) (collCommand s fun s => reportReceived s port pkt)
def execMemberAbortReceived (port : Nat) (pkt : Packet) (s : State) : Out1 :=
  onUnit (Instr.wellFormed (.memberAbortReceived port pkt)) (collCommand s fun s => memberAbortReceived s port pkt)
def execPoisonNoticeReceived (port : Nat) (pkt : Packet) (s : State) : Out1 :=
  onUnit (Instr.wellFormed (.poisonNoticeReceived port pkt)) (collCommand s fun s => poisonNoticeReceived s port pkt)
def execJoinTimeout (group : Nat) (s : State) : Out1 :=
  onUnit (Instr.wellFormed (.joinTimeout group)) (collCommand s fun s => joinTimeout s group)
def execProgressTimeout (group : Nat) (s : State) : Out1 :=
  onUnit (Instr.wellFormed (.progressTimeout group)) (collCommand s fun s => progressTimeout s group)
def execTreeLossReport (group lostModule : Nat) (isMember : Bool) (s : State) : Out1 :=
  onUnit (Instr.wellFormed (.treeLossReport group lostModule isMember)) (collCommand s fun s => treeLossReport s group lostModule isMember)
def execTreeRecompute (group : Nat) (entry : Option GroupDef) (s : State) : Out1 :=
  onUnit (Instr.wellFormed (.treeRecompute group entry)) (collCommand s fun s => treeRecompute s group entry)
def execContextSwap (group : Nat) (s : State) : Out1 :=
  onUnit (Instr.wellFormed (.contextSwap group)) (collCommand s fun s => contextSwap s group)
def execMaximaReceived (port : Nat) (pkt : Packet) (s : State) : Out1 :=
  onUnit (Instr.wellFormed (.maximaReceived port pkt)) (collCommand s fun s => maximaReceived s port pkt)
def execFinalReceived (port : Nat) (pkt : Packet) (s : State) : Out1 :=
  onUnit (Instr.wellFormed (.finalReceived port pkt)) (collCommand s fun s => finalReceived s port pkt)
def execChurnTake (group acc : Nat) (s : State) : Out1 :=
  onUnit (Instr.wellFormed (.churnTake group acc)) (collCommand s fun s => churnTake s group acc)
def execSkewWindowEnd (group acc : Nat) (s : State) : Out1 :=
  onUnit (Instr.wellFormed (.skewWindowEnd group acc)) (collCommand s fun s => skewWindowEnd s group acc)
def execAccumulatorComplete (group acc lane : Nat) (residueOk convertOk : Bool) (s : State) : Out1 :=
  onUnit (Instr.wellFormed (.accumulatorComplete group acc lane residueOk convertOk))
    (collCommand s fun s => accumulatorComplete s group acc lane residueOk convertOk)
def execChurnSpareTakeover (lane : Nat) (s : State) : Out1 :=
  onUnit (Instr.wellFormed (.churnSpareTakeover lane)) (whenLive s fun s => churnSpareTakeover s lane)

end Sys2Proof.Machine
end

