-- ==== Sys2Proof/Machine/Felik.lean ====
section
/-! DEFINITION. The link layer (04): identity frames sent and received, acknowledgement and retry, hop credits, round-trip
measurement. -/
namespace Sys2Proof.Machine

/-! The identity frame the module sends (Table 04.5). -/

/-- port_state of the frames a port sends: FENCED once the module is frozen (R366). -/
def idStateCode (s : State) (p : Nat) : Nat := if s.faults.frozen then 4 else fnCode (fnState s (ePortState p))

/-- Grants shown: a port in QUARANTINED grants no credits (R59). -/
def grantOf (s : State) (p v : Nat) : Nat :=
  if fnState s (ePortState p) = .quarantined then 0 else rd s (ePortCreditGrant p v)

/-- Bits 255–0: the identity content (R84). -/
def idContentBits (s : State) (p lane : Nat) : Nat :=
  0x40 + idStateCode s p * 2 ^ 16 + lane * 2 ^ 24 + rd s eRindLevelMin * 2 ^ 32 + rd s eRindLevelMax * 2 ^ 40
    + (myId s p).toNat * 2 ^ 64 + loafRevision s % 2 ^ 32 * 2 ^ 128
    + (List.range 8).foldl (fun a v => a + grantOf s p v % 4096 * 2 ^ (160 + 12 * v)) 0

/-- Bits 511–256: the link state. -/
def idLinkBits (s : State) (p : Nat) : Nat :=
  let l := (portOf s p).link
  let e := (portOf s p).echo
  l.lastAccepted.getD 0 * 2 ^ 256 + b2n l.nakDue * 2 ^ 270 + b2n l.lastAccepted.isSome * 2 ^ 271
    + (List.range 8).foldl (fun a v => a + Tab.getD l.ret v 0 % 4096 * 2 ^ (288 + 12 * v)) 0
    + e.tag % 256 * 2 ^ 384 + e.seen % 256 * 2 ^ 392 + (if e.seenAt = 0 then 0 else (fcNow s - e.seenAt) % 65536) * 2 ^ 400

/-- The flit of an ID_FRAME of a port with a lane_index. -/
def idFlitOn (s : State) (p lane : Nat) : BitVec 512 := BitVec.ofNat 512 (idContentBits s p lane + idLinkBits s p)

/-- The flit of the ID_FRAME a port sends now. -/
def idFlit (s : State) (p : Nat) : BitVec 512 := idFlitOn s p 0x1F

/-- Put a frame on a port's lanes. -/
def sendFrame (s : State) (p : Nat) (flit : BitVec 512) (isLink : Bool) (vc : Nat) (sop : Bool) (seq : Nat) : State :=
  let t := frameTrailer flit isLink vc sop seq
  let s := setPort s p { portOf s p with lastTx := some (flit, t) }
  sendLanes s p (frameBytes flit t)

/-- Send an ID_FRAME: it carries and clears the NAK, and starts the echo tag's time where it is the tag's first (R74, R82). -/
def sendId (s : State) (p : Nat) : State :=
  let s := sendFrame s p (idFlit s p) true 0 false 0
  let q := portOf s p
  let times := if (Tab.find q.echo.sentAt q.echo.tag).isSome then q.echo.sentAt else Tab.set q.echo.sentAt q.echo.tag (fcNow s)
  setPort s p { q with link := { q.link with nakDue := false, stateDue := false, sinceState := 0, sinceId := 0 },
                       echo := { q.echo with sentAt := times } }

/-- The identity frame that a group's spare sends on its own: lane_index 16, and as the sending port the group's first
(DESIGN CHOICE, log entry 116). -/
def spareIdFrame (s : State) (g : Nat) : List Byte :=
  let f := idFlitOn s (4 * g) 16
  frameBytes f (frameTrailer f true 0 false 0)

/-- A slot of a spare that carries no position: the next 17 bytes of its identity frame (R54). -/
def spareOwnSlot (s : State) (g : Nat) : State :=
  if !(laneOf s (spareOf g)).txActive then s
  else
    let frame := match (lgOf s g).spareFrame with
      | [] => spareIdFrame s g
      | b :: t => b :: t
    sendOnLane (setLg s g { lgOf s g with spareFrame := frame.drop 17 }) (spareOf g) (frame.take 17)

/-! Errors and retry. -/

/-- A link protocol error fails the port (R91). -/
def linkError (s : State) (p : Nat) : State :=
  portFail (raiseEvent (bump s (eLinkProtocolErrorCount p)) 9 [BitVec.ofNat 8 p]) p

/-- The receiver enters NAK state (R74). -/
def enterNak (s : State) (p : Nat) : State :=
  let l := (portOf s p).link
  if l.nakState then s else bump (setLink s p { l with nakState := true, nakDue := true }) (eLinkNakSentCount p)

/-- Start a replay from the oldest outstanding frame; one already due there is the same replay (R76, R77). -/
def startReplay (s : State) (p : Nat) : State :=
  let l := (portOf s p).link
  if l.retry.isEmpty || l.replay = some 0 then s
  else bump (setLink s p { l with replay := some 0 }) (eLinkReplayCount p)

/-- T0 for frames outstanding since `sentAt` (R76). -/
def timerBase (s : State) (p sentAt : Nat) : Nat := max (fcNow s) (sentAt + rd s (ePortRoundTrip p) + 109)

/-- Acknowledge the oldest `d` outstanding frames and set T0 again (R76, R77). -/
def advanceAck (s : State) (p v d : Nat) : State :=
  let l := (portOf s p).link
  let rest := l.retry.drop d
  let rep := match l.replay with
    | some i => if rest.isEmpty then none else some (i - d)
    | none => none
  collAcked (setLink s p { l with lastAcked := v, ackSeen := true, retry := rest, replay := rep, k := 0,
                                  t0 := match rest with | x :: _ => timerBase s p x.sentAt | [] => l.t0 }) p

/-- An acknowledgement value of an ID_FRAME with ack_valid = 1 (R77): `none` names a frame never sent. -/
def applyAck (s : State) (p v : Nat) (nak : Bool) : Option State :=
  let l := (portOf s p).link
  let d := (v + 1024 - l.lastAcked) % 1024
  let span := (l.lastSent + 1024 - l.lastAcked) % 1024
  if d ≤ span then
    let s := if d = 0 then s else advanceAck s p v d
    some (if nak then startReplay s p else s)
  else
    let e := (v + 1024 - l.lastSent) % 1024
    if 1 ≤ e && e ≤ 511 then none else some s

/-- The grants of a frame: those of the first frame applied in ON are the ones that must not change (R79; DESIGN CHOICE, log entry
117). -/
def applyGrants (s : State) (p : Nat) (f : BitVec 512) : Option State :=
  let l := (portOf s p).link
  let g := (List.range 8).map fun v => (v, idGrant f v)
  if !l.grantsKnown then some (setLink s p { l with grantsKnown := true, farGrant := g })
  else if l.farGrant = g then some s else none

/-- The credits returned on each VC (R79), usable from the next cycle (R77): more than are in use is an error. -/
def applyReturns (s : State) (p : Nat) (f : BitVec 512) : Option State :=
  let l := (portOf s p).link
  let n (v : Nat) : Nat := (idRet f v + 4096 - Tab.getD l.farRet v 0) % 4096
  let before (v : Nat) : Nat := if l.lateAt = fcNow s then Tab.getD l.late v 0 else 0
  if (List.range 8).all fun v => n v ≤ Tab.getD l.used v 0 then
    some (setLink s p { l with used := (List.range 8).map fun v => (v, Tab.getD l.used v 0 - n v),
                               farRet := (List.range 8).map fun v => (v, idRet f v),
                               late := (List.range 8).map fun v => (v, before v + n v), lateAt := fcNow s })
  else none

/-- The echo fields (R82): a sample of the tag of ours that it echoes, and the far end's new tag. -/
def applyEcho (s : State) (p : Nat) (f : BitVec 512) : State :=
  let e := (portOf s p).echo
  let e := match Tab.find e.sentAt (idEchoSeen f) with
    | some t => if e.fixed then e else { e with largest := some (max (e.largest.getD 0) (fcNow s - t - idEchoDelay f)) }
    | none => e
  let e := if e.seenAt = 0 || idEchoTag f ≠ e.seen then { e with seen := idEchoTag f, seenAt := fcNow s } else e
  setPort s p { portOf s p with echo := e }

/-- The acknowledgement part of a frame (R77). -/
def applyAckOf (s : State) (p : Nat) (f : BitVec 512) : Option State :=
  if idAckValid f then applyAck s p (idAckSeq f) (idNak f)
  else if (portOf s p).link.ackSeen then none
  else some (if idNak f then startReplay s p else s)

/-- The link state of an ID_FRAME, in a port in ON whose far end reports ON. -/
def applyLinkState (s : State) (p : Nat) (f : BitVec 512) : State :=
  match applyGrants s p f with
  | none => linkError s p
  | some s1 => match applyReturns s1 p f with
    | none => linkError s1 p
    | some s2 => match applyAckOf s2 p f with
      | none => linkError s2 p
      | some s3 => applyEcho s3 p f

/-! Recording an identity (R54, R57 to R61). -/

/-- Extend the run of identity frames, or start a new one; the count (R54). -/
def runNext (r : Option (BitVec 256 × Nat)) (f : BitVec 512) : BitVec 256 × Nat :=
  match r with
  | some (c, n) => if c = idContent f then (c, n + 1) else (idContent f, 1)
  | none => (idContent f, 1)

/-- LOAF_MIXED: the recorded Loaf revision of a module differs (R58, R84). -/
def loafMixed (s : State) (f : BitVec 512) : Bool := idRole f = 0 && idRevision f ≠ loafRevision s

/-- A port in ON checks a differing identity again (R61). -/
def recheckOn (s : State) (p : Nat) (f : BitVec 512) : State :=
  match identityCheck s p f with
  | some 0 =>
    let lvl := rd s (ePortNegotiatedLevel p)
    if idLevelMin f ≤ lvl && lvl ≤ idLevelMax f then s else portRestart s p
  | some c => portQuarantine s p c
  | none => s

/-- Four identical frames: the identity is recorded and checked. A port in ON that records a far port out of ON fails, and makes no
check (DESIGN CHOICE, log entry 118). -/
def recordIdentity (s : State) (p : Nat) (f : BitVec 512) : State :=
  let old := (portOf s p).recorded
  let mixed := loafMixed s f
  let s := setBlob s (ePortFarIdentity p) (leBytes 64 f.toNat)
  let s := wr s (ePortFarPort p) (if idRole f = 0 then idPort (idFarId f) else 0xFF)
  let s := setPort s p { portOf s p with recorded := some f, farOn := decide (idState f = 2) }
  let s := if mixed then raiseEvent s 8 (BitVec.ofNat 8 p :: leBytes 4 (idRevision f)) else s
  let s := if isEdge p then bondEval s p else s
  match fnState s (ePortState p) with
  | .starting => portCheck s p
  | .quarantined => portRecheck s p
  | .on =>
    if idState f ≠ 2 then portFail s p
    else if (old.map idContent) = some (idContent f) then s
    else recheckOn s p f
  | _ => s

/-- A LINK frame on the spare of a group that carries no position (R54, R84): only its identity counts. One that fails frame_crc is
counted nowhere, and one that is not recorded counts at the port that the command names (DESIGN CHOICE, log entry 119). -/
def idOnSpare (s : State) (p : Nat) (f : BitVec 512) (ok : Bool) : State :=
  let g := p / 4
  let x := lgOf s g
  if !ok then setLg s g { x with spareRun := none }
  else if !idRecordable f then bump (setLg s g { x with spareRun := none }) (eLinkUnknownFrameCount p)
  else
    let r := runNext x.spareRun f
    setLg s g { x with spareRun := some r, spareIdent := if r.2 = 4 then some r.1 else x.spareIdent }

/-- The port assembles frames from its lanes: in STARTING only once it is deskewed (R56). -/
def portHears (s : State) (p : Nat) : Bool :=
  match fnState s (ePortState p) with
  | .starting => (portOf s p).deskewed
  | .on | .quarantined | .stopping => true
  | _ => false

/-- A frame whose frame_crc fails ends the run, and in ON puts the receiver into NAK state (R54, R74, Table 04.9). -/
def crcFailed (s : State) (p : Nat) : State :=
  let s := bump (setPort s p { portOf s p with run := none }) (eLinkCrcErrorCount p)
  if portOn s p then enterNak s p else s

/-- A LINK frame on a port's lanes; a port in STOPPING records none. The link state counts in ON, from frames that report ON, once the
far port is recorded ON (DESIGN CHOICE, log entry 117). -/
def idOnPort (s : State) (p : Nat) (f : BitVec 512) : State :=
  if !idRecordable f then bump (setPort s p { portOf s p with run := none }) (eLinkUnknownFrameCount p)
  else if fnState s (ePortState p) = .stopping then s
  else
    let r := runNext (portOf s p).run f
    let s := setPort s p { portOf s p with run := some r }
    let s := if r.2 = 4 then recordIdentity s p f else s
    if portOn s p && (portOf s p).farOn && idState f = 2 then applyLinkState s p f else s

/-- ID_FRAME_RECEIVED. -/
def idFrameReceived (s : State) (p : Nat) (onSpare : Bool) (f : BitVec 512) (t : BitVec 32) : State :=
  if onSpare then (if (lgOf s (p / 4)).reads.isNone then idOnSpare s p f (frameOk f t && trLink t) else s)
  else if !portHears s p then s
  else if !frameOk f t then crcFailed s p
  else if trLink t then idOnPort s p f else s

/-- The lanes hear the frame's bits (R47). -/
def idHeard (s : State) (p : Nat) (onSpare : Bool) (f : BitVec 512) (t : BitVec 32) : State :=
  if onSpare then hearSpare s (p / 4) (frameBytes f t) else hearLanes s p (frameBytes f t)

def execIdFrameReceived (port : Nat) (onSpare : Bool) (flit : BitVec 512) (trailer : BitVec 32) (s : State) : Out1 :=
  onUnit (Instr.wellFormed (.idFrameReceived port onSpare flit trailer))
    (whenLive s fun s => idFrameReceived (idHeard s port onSpare flit trailer) port onSpare flit trailer)

/-- RETRY_TIMER_EXPIRY (R76), at T0 + k × 560 fc: the eighth is retry exhaustion (Table 03.5), any other replays. An acknowledgement
of the same cycle has moved T0, and nothing expires (R77). -/
def retryTimerExpiry (s : State) (p : Nat) : State :=
  let l := (portOf s p).link
  if !portOn s p || l.retry.isEmpty || fcNow s < l.t0 + 560 * (l.k + 1) then s
  else
    let s := bump (setLink s p { l with k := l.k + 1 }) (eLinkTimerExpiryCount p)
    if 8 ≤ l.k + 1 then portFail (bump s (ePortRetryExhaustCount p)) p else startReplay s p

def execRetryTimerExpiry (port : Nat) (s : State) : Out1 :=
  onUnit (Instr.wellFormed (.retryTimerExpiry port)) (whenLive s fun s => retryTimerExpiry s port)

/-- ROUND_TRIP_FIXED (R82); a sample that the U16 of PortRoundTrip cannot hold shows its largest multiple of 8 (DESIGN CHOICE, log
entry 120). -/
def roundTripFixed (s : State) (p : Nat) : State :=
  let e := (portOf s p).echo
  if !portOn s p || e.fixed then s
  else
    let s := setPort s p { portOf s p with echo := { e with fixed := true } }
    match e.largest with
    | some x => wr s (ePortRoundTrip p) (min 65528 ((x + 7) / 8 * 8))
    | none => wr s (ePortRoundTrip p) 1680

def execRoundTripFixed (port : Nat) (s : State) : Out1 :=
  onUnit (Instr.wellFormed (.roundTripFixed port)) (whenLive s fun s => roundTripFixed s port)

end Sys2Proof.Machine
end

