-- ==== Sys2Proof/Machine/Ingress.lean ====
section
/-! DEFINITION. What happens to PKT frames and packets that arrive (R72, R74, R92, R93, R114, R125, R128, R130, R151): link
checks, header checks in the order of Table 04.10, the policer, admission windows and forwarding. Packets are stored whole
before they go on (log entry 10). -/
namespace Sys2Proof.Machine

/-! The slice check (Table 05.3). -/

/-- The class and slice of a packet agree (R106). -/
def sliceClassOk (h : Header) : Bool := (h.cls = 0) == (h.slice = 0)

/-- The port that R105 chooses is in the link set. -/
def exitInSlice (s : State) (a : SliceActive) (h : Header) : Bool :=
  idCoord h.dst ≠ myCoord s || 103 < idPort h.dst ||
  (match exitPort s (idPort h.dst) with | some q => linkIn a q | none => true)

/-- The first failing sub-cause, or none (R114). -/
def sliceCheck (s : State) (p : Nat) (h : Header) : Option Nat :=
  if !sliceClassOk h then some 1
  else match sliceOn s h.slice.toNat with
    | none => some 2
    | some a =>
      if !linkIn a p then some 3
      else if !sliceHas s a (idCoord h.dst) then some 4
      else if !exitInSlice s a h then some 5
      else none

/-! Header checks (Table 04.10). -/

/-- The sender's side of a packet (R92): `none` where src names neither. -/
def senderSide (p : Nat) (h : Header) : Option Side :=
  if isEdge p then some .endpoint
  else if idPort h.src = 0xFF then some .module
  else if idPort h.src ≤ 103 then some .endpoint
  else none

/-- BAD_OPCODE passes. -/
def opcodeOk (p : Nat) (h : Header) : Bool :=
  match opcodeRow h.opcode, senderSide p h with
  | some r, some d => r.sender = .either || r.sender = d
  | _, _ => false

/-- BAD_CLASS passes: at an edge port dateline is taken as 0. -/
def classOk (p vc : Nat) (h : Header) : Bool :=
  match opcodeRow h.opcode with
  | some r => r.classes.contains h.cls.toNat && vc = 2 * h.cls.toNat + (if isEdge p then 0 else b2n h.dateline)
  | none => false

/-- BAD_LENGTH passes. -/
def lengthOk (h : Header) : Bool :=
  match opcodeRow h.opcode with
  | some r => decide (h.payloadLength.toNat ≤ 4096) && decide (r.lo ≤ h.payloadLength.toNat) && decide (h.payloadLength.toNat ≤ r.hi)
  | none => false

/-- BAD_DESTINATION passes. -/
def destinationOk (h : Header) : Bool :=
  match opcodeRow h.opcode with
  | some r =>
    if idPort h.dst = 0xFF then !(r.sender = .endpoint && r.receiver = .endpoint)
    else idPort h.dst ≤ 103 && r.receiver ≠ .module
  | none => false

/-- NO_ROUTE fails (R125, R126, Table 05.1): dst outside the sizes, a module not admitted, or no usable bundle. -/
def noRoute (s : State) (p : Nat) (h : Header) : Bool :=
  if idCoord h.dst = myCoord s then
    isEdge p && idPort h.dst ≤ 103 && (exitPort s (idPort h.dst)).isNone
  else match s.topo.sizes with
    | none => true
    | some z =>
      if !inSizes z (idCoord h.dst) then true
      else if h.cls ≠ 0 && rd s eFabricAdmitted = 0 then true
      else match sliceOn s h.slice.toNat with
        | none => false
        | some a => sliceHas s a (idCoord h.dst) && !hasRoute s a h p

/-- The policed size of a packet (R151). -/
def policedSize (h : Header) : Nat := 36 + h.payloadLength.toNat

/-- Unreserved tokens of a bucket. -/
def freeTokens (s : State) (p c : Nat) : Nat := rd s (ePolicerTokens p (c - 1)) - Tab.getD s.pools.reserved (p * 4 + c) 0

/-- The policer applies to a packet (R151). -/
def policed (s : State) (p : Nat) (h : Header) : Bool :=
  isEdge p && h.cls ≠ 0 && h.opcode ≠ opDELIVERED && (rd s (ePolicerEnable p)).testBit (h.cls.toNat - 1)

/-- Reserve tokens. -/
def reserveTokens (s : State) (p c n : Nat) : State :=
  { s with pools := { s.pools with reserved := Tab.set s.pools.reserved (p * 4 + c) (Tab.getD s.pools.reserved (p * 4 + c) 0 + n) } }

/-- The packet would overfill its admission window (R130). -/
def windowFull (s : State) (p : Nat) (h : Header) : Bool :=
  isEdge p && windowed s h && windowLimit s h.cls < windowBytes s h.src (idCoord h.dst) h.cls + policedSize h

/-- The first failing check of Table 04.10 that a header decides, as its cause code. -/
def headerCause (s : State) (p vc : Nat) (h : Header) : Option Nat :=
  if !opcodeOk p h then some 4
  else if !classOk p vc h then some 5
  else if !lengthOk h then some 6
  else if isEdge p && !sourceOk s p h.src then some 7
  else if !destinationOk h then some 8
  else if noRoute s p h then some 3
  else if (sliceCheck s p h).isSome then some 2
  else if policed s p h && freeTokens s p h.cls.toNat < policedSize h then some 1
  else if windowFull s p h then some 11
  else none

/-- Counts of a failing header: the slice's (R114), DestPortDown at a source edge (R125), and at any other module the
header drop and a lost route (R92, R125). -/
def countCause (s : State) (p c : Nat) (h : Header) : State :=
  let s := if c = 2 then bump (bump s (eSliceCheckDropCount ((sliceCheck s p h).getD 1 - 1))) (eSliceDropCount h.slice.toNat) else s
  let s := if c = 3 && isEdge p && idCoord h.dst = myCoord s then bump s eDestPortDownDropCount else s
  if isEdge p then s
  else
    let s := bump s (ePacketHeaderDropCount p)
    if c = 3 then bump s eRouteDropCount else s

/-- Where a packet that passed under the tables `a` goes. -/
def fateUnder (s : State) (a : Option SliceActive) (p : Nat) (h : Header) : Fate :=
  if idCoord h.dst = myCoord s then
    if idPort h.dst = 0xFF then .consume
    else match exitPort s (idPort h.dst) with
      | some q => .forward q (2 * h.cls.toNat)
      | none => .drop
  else match a with
    | none => .drop
    | some a => match hopOf s a h p with
      | .out q v => .forward q v
      | .hold m v => .forward m v
      | .none => .drop

/-- The same under the tables now in force. -/
def fateOf (s : State) (p : Nat) (h : Header) : Fate := fateUnder s (sliceOn s h.slice.toNat) p h

/-- The packet takes a curd block on its way (R142), as its header check finds it. -/
def needsNow (s : State) (h : Header) : Fate → Bool
  | .forward q v => decide (q < 128) && needsBlock s q v 1 && h.cls ≠ 0 && h.payloadLength ≠ 0
  | _ => false

/-- A first-transmission BULK packet that goes to VC 7 at once (R119). -/
def movesToEscape (p : Nat) (h : Header) (f : Fate) : Bool :=
  h.cls = 3 && !h.dateline && !(h.retx && isEdge p) &&
  (match f with | .forward q v => !(isEdge q) && v = 7 | _ => false)

/-- The header as a module takes it in: the source edge module overwrites dateline and SPRAYED (R87), so an endpoint's own
bits count for nothing. -/
def headerIn (p : Nat) (h : Header) : Header := if isEdge p then { h with dateline := false, sprayed := false } else h

/-- The header check of a packet (R92): its fate, the cause if one failed, tokens reserved. -/
def openPacket (s : State) (p vc : Nat) (flit : BitVec 512) : State :=
  let h := headerIn p (headerOf flit.toNat)
  let cause := headerCause s p vc h
  let fate := if cause.isSome then .drop else fateOf s p h
  let pol := cause.isNone && policed s p h
  let s := match cause with
    | some c => countCause s p c h
    | none =>
      match fate with
      | .drop => if idCoord h.dst = myCoord s then countReturn (bump s eDestPortDownDropCount) h else bump s eRouteDropCount
      | _ => s
  let s := if pol then reserveTokens s p h.cls.toNat (policedSize h) else s
  let s := if movesToEscape p h fate then bump64 s eBulkEscapeCount 1 else s
  let n := frameCount h.payloadLength.toNat
  let r : RxPacket := { h := h, bytes := leBytes 64 flit.toNat, left := n - 1, fate := fate, cause := cause,
                        policed := if pol then some (policedSize h) else none, stamp := fcNow s,
                        needs := needsNow s h fate, order := s.pools.nextIn }
  let s := { s with pools := { s.pools with nextIn := s.pools.nextIn + 1 } }
  setPort s p { portOf s p with rx := Tab.set (portOf s p).rx vc r }

/-! The end of a packet. -/

/-- Opcodes a module takes as packets; the contents of MGMT are the operands of other commands (log entry 13). -/
def takesPacket (op : BitVec 8) : Bool :=
  op = opJOIN || op = opANCHOR || op = opDATA || op = opCOLL_RESULT || op = opABORT || op = opPOISON || op = opINVOKE ||
  op = opCOMBINE_DATA || op = opFENCE_NOTICE

/-- The policer's debit at the stamp of the last flit (R152). -/
def debitTokens (s : State) (p c n : Nat) : State :=
  let s := { s with pools := { s.pools with reserved := Tab.set s.pools.reserved (p * 4 + c) (Tab.getD s.pools.reserved (p * 4 + c) 0 - n) } }
  wr s (ePolicerTokens p (c - 1)) (rd s (ePolicerTokens p (c - 1)) - n)

/-- A WINDOW_UPD that passes its source edge lowers the window, not below 0 (R131). -/
def applyWindowUpd (s : State) (h : Header) : State :=
  if h.opcode = opWINDOW_UPD then
    let m := bitsAt h.aux.toNat 0 15
    let c := BitVec.ofNat 2 (h.aux.toNat >>> 16)
    setWindow s h.dst m c (windowBytes s h.dst m c - bitsAt h.aux.toNat 32 32)
  else s

/-- The answer of the source edge module (R92, R93, R128, R130). -/
def sourceAnswer (s : State) (p : Nat) (r : RxPacket) (crcOk : Bool) : State :=
  match r.cause with
  | some c => sendDrop s p r.h c
  | none =>
    if !crcOk then sendDrop s p r.h 9
    else if r.h.opcode.toNat ≤ 2 then
      let s := if windowed s r.h then
          setWindow s r.h.src (idCoord r.h.dst) r.h.cls (windowBytes s r.h.src (idCoord r.h.dst) r.h.cls + policedSize r.h)
        else s
      sendAccept s p r.h
    else s

/-- Count what the trailer check finds, for a packet that passed its header check (R93). -/
def countTrailer (s : State) (p : Nat) (r : RxPacket) (crcOk stomped : Bool) : State :=
  if r.cause.isSome || crcOk then s
  else if stomped then bump s (ePacketStompSeenCount p) else bump s (ePacketCrcErrorCount p)

/-- A tree packet with a wrong trailer counts as arrived and poisons its chunk (R231, R244). -/
def stompCounts (p : Nat) (h : Header) : Bool :=
  !isEdge p && (h.opcode = opDATA || h.opcode = opCOLL_RESULT) && bitsAt h.aux.toNat 56 8 = 0

/-- How the inbox shows it: the POISON flag with reason STOMPED (log entry 22). -/
def stompMark (h : Header) : Header :=
  { h with poison := true, aux := BitVec.ofNat 64 (h.aux.toNat - bitsAt h.aux.toNat 48 8 * 2 ^ 48 + 2 ^ 48) }

/-- A packet at the head of its input VC goes where its fate says: to its unit, to its edge port, to its hop, or to wait for credit. -/
def placeFate (needs : Bool) (s : State) (a : Option SliceActive) (stamp : Nat) (o : OutPacket) (f : Fate) : State :=
  match f with
  | .drop => loseRoute s o
  | .consume => toUnit s stamp o
  | .forward q ovc =>
    if idCoord o.pkt.h.dst = myCoord s then reorderIn needs (if o.stomped then s else applyWindowUpd s o.pkt.h) stamp { o with vc := ovc }
    else if q ≥ 254 then (match a with | some a => holdOut s a q ovc stamp o | none => loseRoute s o)
    else placeAs needs s q ovc 1 stamp false { o with vc := ovc }

/-- The module takes the packet: it is one that a module takes, or a tree packet that counts as arrived though its trailer is wrong. -/
def unitTakes (p : Nat) (h : Header) (crcOk : Bool) : Bool := if crcOk then takesPacket h.opcode else stompCounts p h

/-- Send a whole packet on its way; behind a header that waits on its input VC, to wait too (R146). -/
def forwardPacket (s : State) (p vc : Nat) (r : RxPacket) (crcOk : Bool) : State :=
  let n := frameCount r.h.payloadLength.toNat
  let pay := sliceZ (r.bytes.drop 32) 0 r.h.payloadLength.toNat
  if r.fate = .drop || (r.fate = .consume && !unitTakes p r.h crcOk) then
    returnCredits (if r.fate = .consume && crcOk && r.h.opcode = opCOLL_DONE then bump s eCollStaleDiscardCount else s) p vc (n - r.back)
  else
    let h := if r.fate = .consume && !crcOk then stompMark r.h else r.h
    let o : OutPacket := { pkt := ⟨h, pay⟩, vc := vc, stomped := !crcOk, arrival := p, arrivalVc := vc, inBuf := true, back := r.back,
                           express0 := r.h.opcode = opACCEPT || r.h.opcode = opWINDOW_UPD || r.h.opcode = opDROP_NOTICE, order := r.order }
    let a := sliceOn s r.h.slice.toNat
    if waitsBehind s o then addWaiter s { out := o, outPort := waitHead, copies := 1, stamp := r.stamp, slice := a }
    else placeFate r.needs s a r.stamp o r.fate

/-- A packet that stood behind a waiting header has come to the head of its input VC (R146): it goes on under the tables its header passed
under (R113); one whose edge port has gone is dropped there (R125). -/
def headNow (s : State) (w : Waiter) : State :=
  let h := w.out.pkt.h
  let f := fateUnder s w.slice w.out.arrival h
  if f = .drop && idCoord h.dst = myCoord s then countReturn (releaseOut (bump s eDestPortDownDropCount) w.out) h
  else placeFate (needsNow s h f) (if movesToEscape w.out.arrival h f then bump64 s eBulkEscapeCount 1 else s) w.slice w.stamp w.out f

/-- The first packet behind a header that waits no more. -/
def nextHead (ws : List Waiter) : Option Nat :=
  (List.range ws.length).find? fun i => match ws[i]? with
    | some w => w.outPort = waitHead && !((ws.take i).any fun x => x.out.inBuf && x.out.arrival = w.out.arrival && x.out.arrivalVc = w.out.arrivalVc)
    | none => false

/-- Every packet that has come to the head of its input VC goes on, at most as many as wait. -/
def settleInputs : Nat → State → State
  | 0, s => s
  | n + 1, s =>
    match nextHead s.pools.waiting with
    | none => s
    | some i => match s.pools.waiting[i]? with
      | none => s
      | some w => settleInputs n (headNow { s with pools := { s.pools with waiting := s.pools.waiting.eraseIdx i } } w)

/-- The input VCs go on as far as they can. -/
def settle (s : State) : State := settleInputs s.pools.waiting.length s

/-- The last frame of a packet has arrived. -/
def closePacket (s : State) (p vc : Nat) (r : RxPacket) : State :=
  let s := setPort s p { portOf s p with rx := Tab.erase (portOf s p).rx vc }
  let n := r.h.payloadLength.toNat
  let crc := crc32c (r.bytes.take (32 + n))
  let got := BitVec.ofNat 32 (leNat ((r.bytes.drop (32 + n)).take 4))
  let crcOk := crc = got
  let s := countTrailer s p r crcOk (got = ~~~crc)
  let s := match r.policed with | some m => debitTokens s p r.h.cls.toNat m | none => s
  let s := forwardPacket s p vc r crcOk
  if isEdge p then sourceAnswer s p r crcOk else s

/-! PKT frames. -/

/-- Something that arrived earlier on the same input VC still waits in the input buffer (R146). -/
def inputHeld (s : State) (p vc : Nat) : Bool :=
  (s.pools.waiting.any fun w => w.out.inBuf && w.out.arrival = p && w.out.arrivalVc = vc) ||
  s.ports.any fun x => x.2.queue.any fun o => o.inBuf && o.arrival = p && o.arrivalVc = vc

/-- A packet longer than its VC's whole grant moves on while it arrives: with the buffer full and nothing ahead of it, the
credits of what has arrived go back (R79). -/
def freeArriving (s : State) (p vc : Nat) (r : RxPacket) : State :=
  if Tab.getD (portOf s p).link.farUsed vc 0 < rd s (ePortCreditGrant p vc) || inputHeld s p vc then s
  else
    let got := frameCount r.h.payloadLength.toNat - r.left
    let s := setPort s p { portOf s p with rx := Tab.set (portOf s p).rx vc { r with back := got } }
    returnCredits s p vc (got - r.back)

/-- After a frame: the packet is complete, or goes on. -/
def afterFrame (s : State) (p vc : Nat) : State :=
  match Tab.find (portOf s p).rx vc with
  | none => s
  | some r => if r.left = 0 then closePacket s p vc r else freeArriving s p vc r

/-- An accepted frame feeds its packet (R72, Table 04.9). -/
def feedPacket (s : State) (p vc : Nat) (sop : Bool) (flit : BitVec 512) : State :=
  match Tab.find (portOf s p).rx vc with
  | none =>
    if sop then afterFrame (openPacket s p vc flit) p vc
    else returnCredits (bump s (eLinkFramingErrorCount p)) p vc 1
  | some r =>
    if sop then
      afterFrame (openPacket (truncateRx (bump s (eLinkFramingErrorCount p)) p vc) p vc flit) p vc
    else
      let r := { r with bytes := r.bytes ++ leBytes 64 flit.toNat, left := r.left - 1 }
      afterFrame (setPort s p { portOf s p with rx := Tab.set (portOf s p).rx vc r }) p vc

/-- A PKT frame in a port in ON (R74, R79). -/
def pktOn (s : State) (p : Nat) (flit : BitVec 512) (t : BitVec 32) : State :=
  let l := (portOf s p).link
  let d := (trSeq t + 1024 - l.expected) % 1024
  let vc := trVc t
  if d = 0 then
    if rd s (ePortCreditGrant p vc) ≤ Tab.getD l.farUsed vc 0 then linkError s p
    else
      let s := setLink s p { l with expected := (l.expected + 1) % 1024, nakState := false, lastAccepted := some (trSeq t), stateDue := true,
                                    sinceState := if l.stateDue then l.sinceState else 0,
                                    farUsed := Tab.set l.farUsed vc (Tab.getD l.farUsed vc 0 + 1) }
      feedPacket s p vc (trSop t) flit
  else if d ≤ 511 then enterNak s p
  else bump s (eLinkDuplicateCount p)

/-- PKT_FRAME_RECEIVED (R59, R74, Table 04.9). -/
def pktFrameReceived (s : State) (p : Nat) (flit : BitVec 512) (t : BitVec 32) : State :=
  match fnState s (ePortState p) with
  | .off | .fenced => s
  | st =>
    if !frameOk flit t then crcFailed s p
    else if trLink t then s
    else match st with
      | .on => pktOn s p flit t
      | .quarantined => bump s (ePortQuarantineDropCount p)
      | _ => bump s (eLinkFramingErrorCount p)

def execPktFrameReceived (port : Nat) (flit : BitVec 512) (trailer : BitVec 32) (s : State) : Out1 :=
  onUnit (Instr.wellFormed (.pktFrameReceived port flit trailer))
    (whenLive s fun s => pktFrameReceived (hearLanes s port (frameBytes flit trailer)) port flit trailer)

end Sys2Proof.Machine
end

