-- ==== Sys2Proof/Machine/Pools.lean ====
section
/-! DEFINITION. Commands of the pools and the policer (07): block grants, refills, and configuration writes. -/
namespace Sys2Proof.Machine

/-! Curd grants (R145 to R148). -/

/-- A header that waits for a curd block. -/
def curdWaiter (w : Waiter) : Bool := blockWaiter w && w.out.pkt.h.cls ≠ 0

/-- No pool from `a` to below `b` has a free shared block. -/
def noneFree (s : State) (a b : Nat) : Bool := (List.range b).all fun j => j < a || poolFree s j = 0

/-- Pool k can serve a payload of n bytes from its shared blocks (R147). -/
def sharedServe (s : State) (k n : Nat) : Bool := poolFor n ≤ k && decide (0 < poolFree s k) && noneFree s (poolFor n) k

/-- A header that no pool can serve takes a reserve block of its VC, out of the 4 KiB pool. -/
def reserveServe (s : State) (k n vc : Nat) : Bool :=
  k = 2 && noneFree s (poolFor n) 3 && decide (2 ≤ vc) && reserveUsed s vc + freedReserve s vc < s.pools.reserve

/-- Pool k can serve the header. -/
def canServe (s : State) (k : Nat) (w : Waiter) : Bool :=
  let n := w.out.pkt.h.payloadLength.toNat
  curdWaiter w && (sharedServe s k n || reserveServe s k n w.out.vc)

/-- The order of waiting headers (R146): the stamp, then the rotating pointer. -/
def waitKey (s : State) (w : Waiter) : Nat := w.stamp * 256 + (w.out.arrival + 256 - s.pools.pointer) % 256

/-- The position of the first waiting header in that order, among those that pass. -/
def oldestWaiter (s : State) (ok : Waiter → Bool) : Option Nat :=
  (List.range s.pools.waiting.length).foldl (fun best i =>
    match s.pools.waiting[i]? with
    | none => best
    | some w =>
      if !ok w then best
      else match best.bind fun j => s.pools.waiting[j]? with
        | none => some i
        | some b => if waitKey s w < waitKey s b then some i else best) none

/-- The pool has granted nothing in this cycle (R145). -/
def mayGrant (s : State) (k : Nat) : Bool := Tab.getD s.pools.grantedAt k 0 ≤ fcNow s

/-- Note a grant: the pool's cycle and the pointer. -/
def noteGrant (s : State) (k arrival : Nat) : State :=
  { s with pools := { s.pools with grantedAt := Tab.set s.pools.grantedAt k (fcNow s + 1), pointer := (arrival + 1) % 128 } }

/-- The packet has left the input buffer for its block: its credits go back (R79). -/
def leaveInput (s : State) (o : OutPacket) : State :=
  if o.inBuf then returnCredits s o.arrival o.arrivalVc (frameCount o.pkt.h.payloadLength.toNat - o.back) else s

/-- Queue the copies that read a block. -/
def queueCopies (s : State) (key : Nat) (cs : List (Nat × OutPacket)) : State :=
  cs.foldl (fun s c => enqueue s c.1 { c.2 with block := some key, inBuf := false }) s

/-- The packet of a waiting header has its block, the last one it needs: its copies are queued, or it stands there for its unit (R143),
or for its place in its stream (R140). -/
def blockGiven (s : State) (key : Nat) (w : Waiter) (now : List (Nat × OutPacket)) : State :=
  if w.outPort = waitUnit then
    { s with inbox := s.inbox ++ [{ port := w.out.arrival, pkt := w.out.pkt, block := some key, stamp := w.stamp, taken := w.taken }] }
  else if w.outPort = waitHeld then reorderNow s w.stamp { w.out with block := some key, inBuf := false }
  else queueCopies s key now

/-- Grant a block of pool k to the waiting header at a position: its count is its copies, at most 65,535; further copies
wait for a further block (R148). The payload is written into it (R165). -/
def grantBlock (s : State) (k i : Nat) (w : Waiter) : State :=
  let n := w.out.pkt.h.payloadLength.toNat
  let shared := sharedServe s k n
  let copies := (w.outPort, w.out) :: w.more
  let now := copies.take 65535
  let rest := copies.drop 65535
  let key := s.pools.nextKey
  let vc := if shared then none else some w.out.vc
  let b : Block := { pool := k, index := lowestIndex s k vc, refs := now.length, reserveVc := vc, port := w.out.arrival }
  let s := noteGrant s k w.out.arrival
  let waiting := match rest with
    | [] => s.pools.waiting.eraseIdx i
    | (p, o) :: more => s.pools.waiting.set i { w with out := { o with inBuf := false }, outPort := p, copies := rest.length, more := more }
  let s := { s with pools := { s.pools with blocks := Tab.set s.pools.blocks key b, nextKey := key + 1, waiting := waiting } }
  let s := if shared && k ≠ poolFor n then bump64 s eCurdUpsizeCount 1 else s
  blockGiven (curdWrite (leaveInput (pressure s k) w.out) b w.out.pkt.payload) key w now

/-- CURD_GRANT (R147): one block to the oldest waiting header this pool can serve. -/
def curdGrant (s : State) (k : Nat) : State :=
  if !mayGrant s k then s
  else match oldestWaiter s (canServe s k) with
    | none => s
    | some i => match s.pools.waiting[i]? with
      | none => s
      | some w => settle (grantBlock s k i w)

def execCurdGrant (pool : Nat) (s : State) : Out1 :=
  onUnit (Instr.wellFormed (.curdGrant pool)) (whenLive s fun s => curdGrant s pool)

/-! Whey grants (R143, R150). -/

/-- A CTRL header that may have a block now: Loaf's own only while the reserve is free. -/
def wheyServe (s : State) (w : Waiter) : Bool :=
  blockWaiter w && w.out.pkt.h.cls = 0 && decide (0 < poolFree s 3) && (!w.loaf || !wheyShort s)

/-- One more 128 B block for the header at a position, the lowest free one at the end of its chain; with its last one it goes on. -/
def grantWhey (s : State) (i : Nat) (w : Waiter) : State :=
  let s := noteGrant s 3 w.out.arrival
  let key := w.out.block.getD s.pools.nextKey
  let new := lowestIndex s 3 none
  let b : Block := match Tab.find s.pools.blocks key with
    | some b => { b with chain := b.chain ++ [new] }
    | none => { pool := 3, index := new, refs := 1, reserveVc := none, port := w.out.arrival, chain := [new] }
  let o := { w.out with block := some key }
  let s := { s with pools := { s.pools with blocks := Tab.set s.pools.blocks key b, nextKey := max s.pools.nextKey (key + 1) } }
  let s := pressure s 3
  if w.copies ≤ 1 then
    let s := { s with pools := { s.pools with waiting := s.pools.waiting.eraseIdx i } }
    blockGiven (leaveInput s o) key w [(w.outPort, o)]
  else { s with pools := { s.pools with waiting := s.pools.waiting.set i { w with out := o, copies := w.copies - 1 } } }

/-- A send of Loaf that the pool refuses: one that waits for its first block while the reserve is touched (R150). -/
def loafRefused (s : State) (w : Waiter) : Bool := w.loaf && w.out.block.isNone && w.outPort < 128 && wheyShort s

/-- Sends of Loaf that the pool cannot serve now go back to Loaf; with the reserve free again, Loaf sends what it was refused (R150). -/
def loafTurn (s : State) : State :=
  let back := s.pools.waiting.filter (loafRefused s)
  let s := { s with pools := { s.pools with waiting := s.pools.waiting.filter fun w => !loafRefused s w } }
  let s := back.foldl (fun s w => refuseLoaf s w.out (some w.outPort)) s
  if wheyShort s then s
  else
    let q := s.pools.loafQueue
    q.foldl (fun s x => match x.2 with
      | some p => placeOut s p x.1.vc 1 (fcNow s) true x.1
      | none => sendRouted s x.1) { s with pools := { s.pools with loafQueue := [] } }

/-- WHEY_GRANT. -/
def wheyGrant (s : State) : State :=
  let s := loafTurn s
  if !mayGrant s 3 then s
  else match oldestWaiter s (wheyServe s) with
    | none => s
    | some i => match s.pools.waiting[i]? with
      | none => s
      | some w => settle (grantWhey s i w)

def execWheyGrant (s : State) : Out1 := .next (whenLive s wheyGrant)

/-! The policer (R151 to R153). -/

/-- Every enabled bucket of a port is refilled. -/
def refillPort (s : State) (p : Nat) : State :=
  (List.range 3).foldl (fun s k =>
    if (rd s (ePolicerEnable p)).testBit k then
      wr s (ePolicerTokens p k) (min (rd s (ePolicerBurst p k)) (rd s (ePolicerTokens p k) + rd s (ePolicerRate p k)))
    else s) s

/-- POLICER_REFILL: the boundary of a window; a new window length starts here. -/
def policerRefill (s : State) : State :=
  let s := (List.range 104).foldl refillPort s
  { s with pools := { s.pools with windowStart := fcNow s, pendingWindow := none } }

def execPolicerRefill (s : State) : Out1 := .next (whenLive s policerRefill)

/-- POLICER_RATE_WRITE: the refill reads it at the next boundary. -/
def policerRateApply (s : State) (p k v : Nat) : State := writeReg s (ePolicerRate p k) v

def execPolicerRateWrite (src : Source) (port cls value : Nat) (s : State) : Out1 :=
  onUnit (Instr.wellFormed (.policerRateWrite src port cls value))
    (whenWritten s src (ePolicerRate port cls) (leBytes 4 value) (value < 2 ^ 32) fun s => policerRateApply s port cls value)

/-- POLICER_BURST_WRITE: a lowered burst cuts the bucket at once. -/
def policerBurstApply (s : State) (p k v : Nat) : State :=
  let s := writeReg s (ePolicerBurst p k) v
  if v < rd s (ePolicerTokens p k) then wr s (ePolicerTokens p k) v else s

def execPolicerBurstWrite (src : Source) (port cls value : Nat) (s : State) : Out1 :=
  onUnit (Instr.wellFormed (.policerBurstWrite src port cls value))
    (whenWritten s src (ePolicerBurst port cls) (leBytes 4 value) (value < 2 ^ 32) fun s => policerBurstApply s port cls value)

/-- POLICER_ENABLE_WRITE: a class bit going from 0 to 1 fills its bucket; reserved bits are ignored (R4). -/
def policerEnableApply (s : State) (p v : Nat) : State :=
  let old := rd s (ePolicerEnable p)
  let s := (List.range 3).foldl (fun s k =>
    if v.testBit k && !old.testBit k then wr s (ePolicerTokens p k) (rd s (ePolicerBurst p k)) else s) s
  writeReg s (ePolicerEnable p) (v % 8)

def execPolicerEnableWrite (src : Source) (port value : Nat) (s : State) : Out1 :=
  onUnit (Instr.wellFormed (.policerEnableWrite src port value))
    (whenWritten s src (ePolicerEnable port) (leBytes 1 value) (value < 256) fun s => policerEnableApply s port value)

/-- POLICER_WINDOW_WRITE: the new length waits for the end of the current window. -/
def policerWindowApply (s : State) (v : Nat) : State :=
  let s := writeReg s ePolicerWindow v
  { s with pools := { s.pools with pendingWindow := some v } }

def execPolicerWindowWrite (src : Source) (value : Nat) (s : State) : Out1 :=
  .next (whenWritten s src ePolicerWindow (leBytes 4 value) (value < 2 ^ 32) fun s => policerWindowApply s value)

/-! Scheduler configuration (R157, R159). -/

/-- SHAPER_CONFIG_WRITE: sub-indices 04 to 0C; the credit is kept. -/
def execShaperConfigWrite (src : Source) (port sub : Nat) (value : List Byte) (s : State) : Out1 :=
  onUnit (Instr.wellFormed (.shaperConfigWrite src port sub value))
    (whenWritten s src ((0x3200 + port) * 256 + sub) value (4 ≤ sub && sub ≤ 12)
      fun s => writeReg s ((0x3200 + port) * 256 + sub) (leNat value))

/-- CTRL_CEILING_FILL (R159). -/
def ctrlCeilingFill (s : State) (p : Nat) : State :=
  let q := portOf s p
  setPort s p { q with sched := { q.sched with ceiling := min 130 (q.sched.ceiling + 1) } }

def execCtrlCeilingFill (port : Nat) (s : State) : Out1 :=
  onUnit (Instr.wellFormed (.ctrlCeilingFill port)) (whenLive s fun s => ctrlCeilingFill s port)

end Sys2Proof.Machine
end

