-- ==== Sys2Proof/Machine/Egress.lean ====
section
/-! DEFINITION. Frame slots (R54, R73, R75, R79, R154 to R159): which frame a port sends, the fair queuing of the classes, the
shapers, and what becomes of queued packets when a port stops (R123, R158). -/
namespace Sys2Proof.Machine

/-! Heads of queues. -/

/-- Position of the first packet of a VC in a queue that passes a test. -/
def findVc (q : List OutPacket) (vc : Nat) (ok : OutPacket → Bool) : Option Nat := q.findIdx? fun o => o.vc = vc && ok o

/-- The smaller of two positions. -/
def minPos (a b : Option Nat) : Option Nat :=
  match a, b with
  | some x, some y => some (min x y)
  | some x, none => some x
  | none, y => y

/-- The oldest packet among VCs with hop credit, of those the test passes. -/
def oldestOf (s : State) (p : Nat) (vcs : List Nat) (ok : OutPacket → Bool) : Option Nat :=
  vcs.foldl (fun best vc =>
    if 0 < credit s p vc then minPos best (findVc (portOf s p).queue vc ok) else best) none

/-- The CTRL packet to send a frame of: on each VC its oldest, which is the one in progress (R154). -/
def ctrlPick (s : State) (p : Nat) : Option Nat := oldestOf s p [0, 1] fun _ => true

/-- A data packet in progress whose VC has credit. -/
def dataPick (s : State) (p : Nat) : Option Nat := oldestOf s p [2, 3, 4, 5, 6, 7] fun o => decide (0 < o.sent)

/-- The head of a class: the oldest not begun among the heads of its two VCs that have credit (R155), packets apart that stay behind
an earlier one of the module's own (R227). -/
def classHead (s : State) (p c : Nat) : Option Nat := oldestOf s p [2 * c, 2 * c + 1] fun o => o.sent = 0 && !ownWaits s p o

/-- A packet of a port's queue. -/
def queued (s : State) (p i : Nat) : Option OutPacket := (portOf s p).queue[i]?

/-- A shaper's credit, a two's complement I32. -/
def shaperCredit (s : State) (p c : Nat) : Int := signed 32 (rd s (eShaperCredit p (c - 1)))

/-- The class is eligible (R155); ACCEPT, WINDOW_UPD and DROP_NOTICE are exempt from the shaper, and a head whose block cannot be read
yet waits (R167). -/
def eligible (s : State) (p c : Nat) : Bool :=
  match (classHead s p c).bind (queued s p) with
  | none => false
  | some o => (decide (0 ≤ shaperCredit s p c) || o.express0) && !curdWaits s o.block

/-- cost of a packet of f frames for weight w. -/
def scfqCost (f w : Nat) : Nat := (f * 65536 + w - 1) / w

/-- Cost of a class's head. -/
def headCost (s : State) (p c : Nat) : Nat :=
  match (classHead s p c).bind (queued s p) with
  | some o => scfqCost (frameCount o.pkt.h.payloadLength.toNat) (rd s (eSchedWeight p (c - 1)))
  | none => 0

/-- V of a port. -/
def schedV (s : State) (p : Nat) : Nat := cnt s (eSchedVirtualTime p)

/-- Change a port's scheduler. -/
def setSched (s : State) (p : Nat) (x : Sched) : State := setPort s p { portOf s p with sched := x }

/-- on_active for each class that has become eligible (R155). -/
def onActive (s : State) (p : Nat) : State :=
  [1, 2, 3].foldl (fun s c =>
    let x := (portOf s p).sched
    let e := eligible s p c
    let x := if e && !Tab.getD x.eligible c false then { x with s := Tab.set x.s c (max (schedV s p) (Tab.getD x.f c 0)) } else x
    setSched s p { x with eligible := Tab.set x.eligible c e }) s

/-- The finish tag a class's head would have. -/
def finishTag (s : State) (p c : Nat) : Nat := Tab.getD (portOf s p).sched.s c 0 + headCost s p c

/-- choose: the eligible class with the smallest finish tag, the lower code on a tie. -/
def chooseClass (s : State) (p : Nat) : Option Nat :=
  [1, 2, 3].foldl (fun best c =>
    if !eligible s p c then best
    else match best with
      | none => some c
      | some b => if finishTag s p c < finishTag s p b then some c else best) none

/-- The tags of the chosen class: F and V become its finish tag. -/
def chargeClass (s : State) (p c : Nat) : State :=
  let t := finishTag s p c
  let x := (portOf s p).sched
  wr (setSched s p { x with f := Tab.set x.f c t }) (eSchedVirtualTime p) (t % 2 ^ 64)

/-- After the first frame: a class still eligible starts where it finished; one no longer eligible is noted (R155). -/
def followOn (s : State) (p c : Nat) : State :=
  let x := (portOf s p).sched
  if eligible s p c then setSched s p { x with s := Tab.set x.s c (Tab.getD x.f c 0) }
  else setSched s p { x with eligible := Tab.set x.eligible c false }

/-! Sending a PKT frame. -/

/-- The number, the retry buffer, the credit and the retry timer of a new PKT frame (R73, R76, R79). -/
def numberFrame (s : State) (p vc : Nat) (sop : Bool) (flit : BitVec 512) : State :=
  let l := (portOf s p).link
  let fr : SentFrame := { seq := l.next, vc := vc, sop := sop, flit := flit, sentAt := fcNow s }
  let s := setLink s p { l with next := (l.next + 1) % 1024, lastSent := l.next, retry := l.retry ++ [fr],
                                used := Tab.set l.used vc (Tab.getD l.used vc 0 + 1),
                                t0 := if l.retry.isEmpty then timerBase s p (fcNow s) else l.t0,
                                k := if l.retry.isEmpty then 0 else l.k }
  sendFrame s p flit false vc sop l.next

/-- The last frame of a copy has been sent: its block is released, and a destination edge counts its bytes (R131, R148). -/
def finishCopy (s : State) (p : Nat) (o : OutPacket) : State :=
  let s := collSent (match o.block with | some k => releaseBlock s k | none => s) p o.pkt.h
  if isEdge p then countReturn s o.pkt.h else s

/-- Send the next frame of the packet at a position of the queue; before the first one its block is read (R165). -/
def sendPkt (s : State) (p i : Nat) (o : OutPacket) : State :=
  let r := if o.sent = 0 then curdRead s o else (s, o)
  let s := if r.2.stomped && !o.stomped then noteCopyPoison r.1 o.pkt.h else r.1
  let o := r.2
  let n := frameCount o.pkt.h.payloadLength.toNat
  let s := numberFrame s p o.vc (o.sent = 0) (flitAt o.pkt o.stomped o.sent)
  let s := if o.inBuf && o.back ≤ o.sent then returnCredits s o.arrival o.arrivalVc 1 else s
  let q := (portOf s p).queue
  if n ≤ o.sent + 1 then finishCopy (setPort s p { portOf s p with queue := q.eraseIdx i }) p o
  else setPort s p { portOf s p with queue := q.set i { o with sent := o.sent + 1 } }

/-- Count a data class's frame. -/
def countClass (s : State) (p c : Nat) : State := bump64 s (eClassFrameCount p (c - 1)) 1

/-- One new data packet begins (R155). -/
def beginData (s : State) (p c : Nat) : State :=
  match classHead s p c with
  | none => s
  | some i => match queued s p i with
    | none => s
    | some o => followOn (sendPkt (chargeClass s p c) p i o) p c

/-- What a slot carries. -/
inductive SlotKind where
  | id
  | replay
  | ctrl (i : Nat)
  | more (i : Nat)
  | begin (c : Nat)
deriving DecidableEq, Repr

/-- An ID_FRAME must be sent now (R54, R75): the NAK, 64 slots after a change, or 64 marker periods without one. -/
def idDue (s : State) (p : Nat) : Bool :=
  let l := (portOf s p).link
  l.nakDue || (l.stateDue && decide (64 ≤ l.sinceState + 1)) || decide (65536 ≤ l.sinceId + 1)

/-- What a port in ON sends in this slot: an ID_FRAME that is due, a replay, CTRL within its ceiling, the packet in
progress, a new packet, and an ID_FRAME where there is nothing (R75, R76, R154, R159). -/
def slotKind (s : State) (p : Nat) : SlotKind :=
  let q := portOf s p
  if !portOn s p || !q.farOn || idDue s p then .id
  else if q.link.replay.isSome then .replay
  else if 330 ≤ q.link.retry.length then .id
  else match (if 0 < q.sched.ceiling then ctrlPick s p else none), dataPick s p, chooseClass s p with
    | some i, _, _ => .ctrl i
    | none, some i, _ => .more i
    | none, none, some c => .begin c
    | none, none, none => .id

/-- The class that sends a frame in this slot, for the shapers: a notice does not count (R156). -/
def slotClass (s : State) (p : Nat) (k : SlotKind) : Option Nat :=
  let f (i : Option Nat) : Option Nat :=
    match i.bind (queued s p) with
    | some o => if o.express0 then none else some o.pkt.h.cls.toNat
    | none => none
  match k with
  | .more i => f (some i)
  | .begin c => f (classHead s p c)
  | _ => none

/-- Resend the next frame of a replay, with its number and contents (R76). -/
def sendReplay (s : State) (p : Nat) : State :=
  let l := (portOf s p).link
  match l.replay with
  | none => s
  | some i => match l.retry[i]? with
    | none => setLink s p { l with replay := none }
    | some x =>
      let rep := if i + 1 < l.retry.length then some (i + 1) else none
      let s := setLink s p { l with retry := l.retry.set i { x with sentAt := fcNow s }, replay := rep }
      sendFrame s p x.flit false x.vc x.sop x.seq

/-- Count a slot in which no ID_FRAME went out. -/
def slotWithoutId (s : State) (p : Nat) : State :=
  let l := (portOf s p).link
  setLink s p { l with sinceState := if l.stateDue then l.sinceState + 1 else 0, sinceId := l.sinceId + 1 }

/-- Send the slot's frame. -/
def slotSend (s : State) (p : Nat) (k : SlotKind) : State :=
  match k with
  | .id => sendId s p
  | .replay => sendReplay (slotWithoutId s p) p
  | .ctrl i =>
    let s := slotWithoutId s p
    match queued s p i with
    | none => s
    | some o =>
      let x := (portOf s p).sched
      sendPkt (setSched s p { x with ceiling := x.ceiling - 1 }) p i o
  | .more i =>
    let s := slotWithoutId s p
    match queued s p i with
    | none => s
    | some o => countClass (sendPkt s p i o) p o.pkt.h.cls.toNat
  | .begin c => countClass (beginData (slotWithoutId s p) p c) p c

/-- The shaper of a class at a slot (R156). -/
def shaperStep (s : State) (p c : Nat) (sends hasPacket : Bool) : State :=
  let cr := shaperCredit s p c
  let slope : Int := rd s (eShaperIdleSlope p (c - 1))
  let lo := signed 32 (rd s (eShaperLoCredit p (c - 1)))
  let hi := signed 32 (rd s (eShaperHiCredit p (c - 1)))
  let x := if sends then cr + slope - 1024 else if hasPacket then cr + slope else if 0 < cr then 0 else min 0 (cr + slope)
  wr s (eShaperCredit p (c - 1)) (unsigned 32 (max lo (min x hi)))

/-- Update the three shapers; `had` says which classes had a queued packet in this slot. -/
def shapers (s : State) (p : Nat) (cls : Option Nat) (had : Nat → Bool) : State :=
  [1, 2, 3].foldl (fun s c => shaperStep s p c (cls = some c) (had c)) s

/-! Spares and held packets that a slot serves. -/

/-- A SWITCH that is due goes out on the spare (R65, R67), in a slot in which the spare carries nothing else. -/
def sendSwitch (s : State) (g : Nat) : State :=
  let x := lgOf s g
  match x.switchDue with
  | none => s
  | some n =>
    if !(laneOf s (spareOf g)).txActive then s
    else
      let b := lcbMake 16 1 n x.markerSeq
      let s := setLg s g { x with switchDue := none, lastSwitch := some b, carries := if n = 31 then none else some n, switching := true,
                                  spareFrame := [] }
      bump (sendBlock s (spareOf g) b) (eLaneSwitchCount (spareOf g))

/-- A frame of port p begins a slot of its group's grid (R46): the port has had its frame in the current one, or a SWITCH waits for
the next (DESIGN CHOICE, log entry 116). -/
def slotBegins (x : LaneGroup) (p : Nat) : Bool := x.slotPorts.isEmpty || x.slotPorts.contains p || x.switchDue.isSome

/-- The spare's part of a slot: a SWITCH that is due, or its own identity frame where it carries no position (R54, R65). -/
def spareSlot (s : State) (p : Nat) : State :=
  let g := p / 4
  let x := lgOf s g
  if slotBegins x p then
    let s := setLg s g { x with slotPorts := [p], switching := false }
    if x.switchDue.isSome && !s.faults.frozen then sendSwitch s g else if x.carries.isNone then spareOwnSlot s g else s
  else setLg s g { x with slotPorts := p :: x.slotPorts }

/-- A BULK packet that waits for VC 6 credit goes to this port now (R119). -/
def heldQualifies (s : State) (p : Nat) (w : Waiter) : Bool :=
  w.outPort = 255 &&
  (match w.slice with
   | some a => sprayPort s a (idCoord w.out.pkt.h.dst) (frameCount w.out.pkt.h.payloadLength.toNat) = some p
   | none => false)

/-- Remove a waiting packet by position. -/
def dropWaiter (s : State) (i : Nat) : State := { s with pools := { s.pools with waiting := s.pools.waiting.eraseIdx i } }

/-- Serve the first such packet. -/
def serveHeld (s : State) (p : Nat) : State :=
  match s.pools.waiting.findIdx? (heldQualifies s p) with
  | none => s
  | some i => match s.pools.waiting[i]? with
    | none => s
    | some w => settle (placeOut (dropWaiter s i) p 6 1 w.stamp w.loaf w.out)

/-- The port has frames to form: its state is neither OFF nor FENCED, or lanes of it transmit all the same (R52). -/
def portSends (s : State) (p : Nat) : Bool :=
  match fnState s (ePortState p) with
  | .off | .fenced => portTransmits s p
  | _ => true

/-- A frame slot of a port (R46, R52, R154); a frozen module sends ID_FRAMEs only (R366). -/
def frameSlot (s : State) (p : Nat) : State :=
  let s := spareSlot s p
  if !portSends s p then s
  else
    if s.faults.frozen then sendFrame s p (idFlit s p) true 0 false 0
    else
      let s := onActive (serveHeld (settle s) p) p
      let k := slotKind s p
      let cls := slotClass s p k
      let had (c : Nat) : Bool := (portOf s p).queue.any fun o => o.pkt.h.cls.toNat = c
      shapers (slotSend s p k) p cls had


def execFrameSlot (port : Nat) (s : State) : Out1 :=
  onUnit (Instr.wellFormed (.frameSlot port)) (if dataUp s then recordsLeft (frameSlot s port) else s)

/-! A port leaves the usable set (R123, R158). -/

/-- The port another trunk packet of the same bundle may take: R118's choice among the usable ones. -/
def otherTrunk (s : State) (p : Nat) (h : Header) : Option Nat :=
  match Tab.find s.topo.slices h.slice.toNat with
  | none => none
  | some a => pickPort s a (h.cls = 0) h (bundleOf p)

/-- The port a queued packet may move to: one of its bundle, or an active one of its bond. -/
def moveTo (s : State) (p : Nat) (h : Header) : Option Nat :=
  if isEdge p then exitPort s (idPort h.dst) else otherTrunk s p h

/-- The port still serves a packet. -/
def stillServes (s : State) (p : Nat) (h : Header) : Bool :=
  if isEdge p then portOn s p
  else match Tab.find s.topo.slices h.slice.toNat with
    | some a => portUsable s a (h.cls = 0) p
    | none => false

/-- Move or drop one queued packet. -/
def requeueOne (s : State) (p : Nat) (o : OutPacket) : State :=
  match moveTo s p o.pkt.h with
  | some q => enqueue s q o
  | none => bump (releaseOut s o) (eEgressFlushDropCount p)


/-- A packet that waits for a block with copies toward the port: each of those goes to another port of its bundle or bond, or is lost (R125);
the packet waits on for the copies that are left. -/
def rerouteWaiter (s : State) (p : Nat) (w : Waiter) : State :=
  let dead (c : Nat × OutPacket) : Bool := c.1 = p && !stillServes s p c.2.pkt.h && (moveTo s p c.2.pkt.h).isNone
  let cs := (waiterCopies w).map fun c => if c.1 = p && !stillServes s p c.2.pkt.h then ((moveTo s p c.2.pkt.h).getD c.1, c.2) else c
  let gone := ((waiterCopies w).filter dead).map (·.2)
  match (cs.zip (waiterCopies w)).filterMap (fun c => if dead c.2 then none else some c.1) with
  | [] => gone.foldl loseRoute s
  | (q, o) :: more =>
    addWaiter (gone.foldl (fun s x => loseRoute s { x with inBuf := false, block := none }) s)
      { w with outPort := q, out := { o with inBuf := w.out.inBuf, back := w.out.back, block := w.out.block }, more := more,
               copies := if w.out.pkt.h.cls = 0 then w.copies else 1 + more.length }

/-- EGRESS_REQUEUE (R158). Tree copies that are dropped end the wait of their instances (R227, R230). -/
def egressRequeue (s : State) (p : Nat) : State :=
  let mv (o : OutPacket) : Bool := o.sent = 0 && !stillServes s p o.pkt.h
  let mw (w : Waiter) : Bool := blockWaiter w && (waiterCopies w).any fun c => c.1 = p && !stillServes s p c.2.pkt.h
  let q := portOf s p
  let ws := s.pools.waiting.filter mw
  let t := setPort { s with pools := { s.pools with waiting := s.pools.waiting.filter fun w => !mw w } } p
    { q with queue := q.queue.filter fun o => !mv o }
  afterColl (settleAll (settle (ws.foldl (fun s w => rerouteWaiter s p w) ((q.queue.filter mv).foldl (fun s o => requeueOne s p o) t))))


def execEgressRequeue (port : Nat) (s : State) : Out1 :=
  onUnit (Instr.wellFormed (.egressRequeue port)) (whenLive s fun s => recordsLeft (egressRequeue s port))

/-- LOCAL_FAILOVER (R123): the header check already reads the usable set, so the switch is counted, where the bundle of the
lost port has another port in use. -/
def localFailover (s : State) (p : Nat) : State :=
  if !isEdge p && !portOn s p && (bundlePorts (bundleOf p)).any (portOn s) then bump s eLocalFailoverCount else s

def execLocalFailover (port : Nat) (s : State) : Out1 :=
  onUnit (Instr.wellFormed (.localFailover port)) (whenLive s fun s => localFailover s port)

/-! Escape, stall (R119, R122). -/

/-- The first packet held with a mark at an input VC. -/
def heldAt (s : State) (mark p vc : Nat) : Option Nat :=
  s.pools.waiting.findIdx? fun w => w.outPort = mark && w.out.arrival = p && (p = 255 || w.out.arrivalVc = vc)

/-- Put a packet on the escape channel: to its port, waiting for credit, or without a route. -/
def toEscape (s : State) (w : Waiter) : State :=
  match w.slice with
  | none => loseRoute s w.out
  | some a => match escapeHop s a w.out.pkt.h w.out.arrival with
    | .out q vc => settle (placeOut s q vc 1 w.stamp w.loaf w.out)
    | .hold m vc => holdOut s a m vc w.stamp w.out
    | .none => settle (loseRoute s w.out)

/-- BULK_ESCAPE_WAIT: the packet moves to VC 7 and is counted. -/
def bulkEscapeWait (s : State) (p vc : Nat) : State :=
  match heldAt s 255 p vc with
  | none => s
  | some i => match s.pools.waiting[i]? with
    | none => s
    | some w => toEscape (bump64 (dropWaiter s i) eBulkEscapeCount 1) w

def execBulkEscapeWait (port vc : Nat) (s : State) : Out1 :=
  onUnit (Instr.wellFormed (.bulkEscapeWait port vc)) (whenLive s fun s => bulkEscapeWait s port vc)

/-- ESCAPE_PROCEED: a packet on VC 7 proceeds once the credit is there. -/
def escapeProceed (s : State) (p vc : Nat) : State :=
  match heldAt s 254 p vc with
  | none => s
  | some i => match s.pools.waiting[i]? with
    | none => s
    | some w => toEscape (dropWaiter s i) w

def execEscapeProceed (port vc : Nat) (s : State) : Out1 :=
  onUnit (Instr.wellFormed (.escapeProceed port vc)) (whenLive s fun s => escapeProceed s port vc)

/-- A packet stands in the input buffer of a port, on a VC. -/
def atInput (p vc : Nat) (o : OutPacket) : Bool := o.inBuf && o.arrival = p && o.arrivalVc = vc

/-- The output queues that hold packets of an input VC, with the order of the oldest packet of it there. -/
def stalledQueues (s : State) (p vc : Nat) : List (Nat × Nat) :=
  s.ports.filterMap fun x => ((x.2.queue.filter (atInput p vc)).map (·.order)).min?.map fun n => (n, x.1)

/-- The waiting packets of an input VC. -/
def stalledWaiters (s : State) (p vc : Nat) : List Nat := (s.pools.waiting.filter fun w => atInput p vc w.out).map (·.out.order)

/-- Drop a stalled packet from an output queue: one that has begun is completed and stomped (R93). -/
def dropStalled (s : State) (q p vc n : Nat) : State :=
  match (portOf s q).queue.findIdx? fun o => atInput p vc o && o.order = n with
  | none => s
  | some i => match queued s q i with
    | none => s
    | some o =>
      let s := releaseOut s o
      let x := portOf s q
      if o.sent = 0 then setPort s q { x with queue := x.queue.eraseIdx i }
      else setPort s q { x with queue := x.queue.set i { o with stomped := true, inBuf := false, block := none } }

/-- Drop a stalled packet that waits. -/
def dropWaiting (s : State) (p vc n : Nat) : State :=
  match s.pools.waiting.findIdx? fun w => atInput p vc w.out && w.out.order = n with
  | none => s
  | some i => match s.pools.waiting[i]? with
    | some w => settle (releaseOut (dropWaiter s i) w.out)
    | none => s

/-- STALL_TIMEOUT (R122): counted, ROUTE_STALL raised, the packet at the head of the input VC, the oldest there, dropped. -/
def stallTimeout (s : State) (p vc : Nat) : State :=
  let hit (s : State) : State := raiseFault (bump s eStallDropCount) 21 1 p 0
  let qs := stalledQueues s p vc
  match ((qs.map (·.1)) ++ stalledWaiters s p vc).min? with
  | some n => match qs.find? fun x => x.1 = n with
    | some x => hit (dropStalled s x.2 p vc n)
    | none => hit (dropWaiting s p vc n)
  | none => match Tab.find (portOf s p).rx vc with
    | some r => hit (setPort s p { portOf s p with rx := Tab.set (portOf s p).rx vc { r with fate := .drop } })
    | none => s

def execStallTimeout (port vc : Nat) (s : State) : Out1 :=
  onUnit (Instr.wellFormed (.stallTimeout port vc)) (whenLive s fun s => recordsLeft (stallTimeout s port vc))


end Sys2Proof.Machine
end

