-- ==== Sys2Proof/Machine/Firmware.lean ====
section
/-! DEFINITION. Writing, activating, confirming and attesting the firmware (18, R421 to R429). -/
namespace Sys2Proof.Machine

abbrev fwOK : Nat := 0
abbrev fwLIVE_INCOMPATIBLE : Nat := 5
abbrev fwLEVEL_CONFLICT : Nat := 6
abbrev fwIN_PROGRESS : Nat := 7
abbrev fwREVERTED : Nat := 8
abbrev fwNO_IMAGE : Nat := 9
abbrev fwNOT_TRIAL : Nat := 10
abbrev fwRUNNING : Nat := 11

/-- Show a FirmwareResult (Table 18.3). -/
def fwResult (s : State) (r : Nat) : State := wr s eFirmwareResult r

/-- Some slot is TRIAL. -/
def someTrial (s : State) : Bool := s.fw.slotA.state = 3 || s.fw.slotB.state = 3

/-- Programming or a live update is in progress: what FirmwareResult RUNNING says until a command shows IN_PROGRESS
(log entry 35). -/
def fwBusy (s : State) : Bool := s.fw.programming || s.fw.live.isSome

/-- Change a slot's state. -/
def setSlotState (s : State) (k st : Nat) : State := setFwSlot s k { fwSlot s k with state := st }

/-- Make a slot active in a state; TRIAL counts its boots from 0. -/
def makeActive (s : State) (k st : Nat) : State :=
  let s := setFwSlot s k { fwSlot s k with state := st, trialBoots := 0 }
  { s with fw := { s.fw with active := k } }

/-! LoafImage (R421). -/

/-- A write of LoafImage is refused. -/
def loafImageStatus (s : State) : Nat := if someTrial s || fwBusy s then stSTATE else stOK

/-- The inactive slot is INVALID at once, and programming starts. -/
def loafImageApply (s : State) (img : List Byte) : State :=
  let s := setFwSlot s (inactiveSlot s) { state := 1, image := img }
  fwResult { s with fw := { s.fw with programming := true } } fwRUNNING

def execLoafImageWrite (src : Source) (image : List Byte) (s : State) : Out1 :=
  .next (whenWritten s src eLoafImage image (loafImageStatus s = stOK) fun s => loafImageApply s image)

/-- LOAF_PROGRAM_DONE: the image is checked. -/
def loafProgramDone (s : State) (signatureOk : Bool) : State :=
  if !s.fw.programming then s
  else
    let k := inactiveSlot s
    let r := imageCheck s (fwSlot s k).image signatureOk
    let s := setSlotState s k (if r = 0 then 2 else 1)
    fwResult { s with fw := { s.fw with programming := false } } r

def execLoafProgramDone (signatureOk : Bool) (s : State) : Out1 :=
  .next (if loafUp s then whenLive s fun s => loafProgramDone s signatureOk else s)

/-! FirmwareCommand (R422, R423, Table 18.2). -/

/-- VERIFY: a VALID slot that fails becomes INVALID (R419). -/
def fwVerify (s : State) (signatureOk : Bool) : State :=
  let k := inactiveSlot s
  if (fwSlot s k).state = 0 then fwResult s fwNO_IMAGE
  else
    let r := imageCheck s (fwSlot s k).image signatureOk
    fwResult (if r ≠ 0 && (fwSlot s k).state = 2 then setSlotState s k 1 else s) r

/-- Every port in ON runs at a level that the image has. -/
def levelsHeld (s : State) (img : List Byte) : Bool :=
  (List.range 128).all fun p => !portOn s p || (levelMin img ≤ rd s (ePortNegotiatedLevel p) && rd s (ePortNegotiatedLevel p) ≤ levelMax img)

/-- ACTIVATE_LIVE: the requirements of Table 18.2, then group 0 starts. -/
def fwActivateLive (s : State) : State :=
  let x := fwSlot s (inactiveSlot s)
  if x.state ≠ 2 then fwResult s fwNO_IMAGE
  else if liveFrom x.image = 0xFFFFFFFF || loafRevision s < liveFrom x.image then fwResult s fwLIVE_INCOMPATIBLE
  else if !levelsHeld s x.image then fwResult s fwLEVEL_CONFLICT
  else wr (fwResult { s with fw := { s.fw with live := some 0 } } fwRUNNING) eFirmwareProgress 0

/-- ACTIVATE_AT_RESET. -/
def fwActivateAtReset (s : State) : State :=
  let k := inactiveSlot s
  if (fwSlot s k).state ≠ 2 || (fwSlot s s.fw.running).state ≠ 4 then fwResult s fwNO_IMAGE
  else fwResult (makeActive (setSlotState s s.fw.running 2) k 3) fwOK

/-- CONFIRM: the counter rises, keys are revoked, and a VALID image now below the counter becomes INVALID (R423). -/
def fwConfirm (s : State) : State :=
  let x := fwSlot s s.fw.running
  if x.state ≠ 3 then fwResult s fwNOT_TRIAL
  else
    let s := setSlotState s s.fw.running 4
    let s := { s with fw := { s.fw with rollback := max s.fw.rollback (imgSecurity x.image),
                                        revokedFirmware := s.fw.revokedFirmware ||| BitVec.ofNat 4 (imgRevoke x.image) } }
    let y := fwSlot s (inactiveSlot s)
    fwResult (if y.state = 2 && imgSecurity y.image < s.fw.rollback then setSlotState s (inactiveSlot s) 1 else s) fwOK

/-- REJECT. -/
def fwReject (s : State) : State :=
  let k := inactiveSlot s
  let r := s.fw.running
  if (fwSlot s r).state = 3 then
    if (fwSlot s k).state = 2 then fwResult (makeActive (setSlotState s r 2) k 4) fwOK else fwResult s fwNO_IMAGE
  else if (fwSlot s k).state = 3 then fwResult (makeActive (setSlotState s k 2) r 4) fwOK
  else fwResult s fwNOT_TRIAL

/-- The status of a write of FirmwareCommand: 1 to 5; an activation while a slot is TRIAL is refused with STATE. -/
def fwCommandStatus (s : State) (v : Nat) : Nat :=
  if v = 0 || 5 < v then stRANGE else if (v = 2 || v = 3) && someTrial s then stSTATE else stOK

/-- A written FirmwareCommand; the signature verdict is VERIFY's. -/
def fwCommand (s : State) (v : Nat) (signatureOk : Bool) : State :=
  if fwBusy s then fwResult s fwIN_PROGRESS
  else match v with
    | 1 => fwVerify s signatureOk
    | 2 => fwActivateLive s
    | 3 => fwActivateAtReset s
    | 4 => fwConfirm s
    | _ => fwReject s

/-- Write FirmwareCommand from a source. -/
def fwWrite (src : Source) (v : Nat) (signatureOk : Bool) (s : State) : State :=
  whenWritten s src eFirmwareCommand [BitVec.ofNat 8 v] (fwCommandStatus s v = stOK) fun s => fwCommand s v signatureOk

def execVerify (src : Source) (signatureOk : Bool) (s : State) : Out1 := .next (fwWrite src 1 signatureOk s)
def execActivateLive (src : Source) (s : State) : Out1 := .next (fwWrite src 2 true s)
def execActivateAtReset (src : Source) (s : State) : Out1 := .next (fwWrite src 3 true s)
def execConfirm (src : Source) (s : State) : Out1 := .next (fwWrite src 4 true s)
def execReject (src : Source) (s : State) : Out1 := .next (fwWrite src 5 true s)

/-! Live update (R424 to R427). -/

/-- After group 3: the updated slot is active, running and TRIAL; the other is VALID (R426). -/
def liveFinish (s : State) : State :=
  let k := inactiveSlot s
  let s := makeActive (setSlotState s s.fw.running 2) k 3
  let s := { s with fw := { s.fw with running := k, live := none } }
  let d := loafDigest s (fwSlot s k).image
  let s := showLevels (extendMeasure d.2 3 d.1)
  proofNext (wr (fwResult (bump s eLiveUpdateCount) fwOK) eFirmwareProgress 0xFF)

/-- LIVE_UPDATE_GROUP_DONE: the next group, the end, or on a start failure the return to the running image (Table 18.4). -/
def liveUpdateGroupDone (s : State) (started : Bool) : State :=
  match s.fw.live with
  | none => s
  | some g =>
    if !started then proofNext (liveRevert s)
    else if g < 3 then wr { s with fw := { s.fw with live := some (g + 1) } } eFirmwareProgress (g + 1)
    else liveFinish s

def execLiveUpdateGroupDone (started : Bool) (s : State) : Out1 := .next (whenLive s fun s => liveUpdateGroupDone s started)

/-! Attestation (R429). -/

/-- The report of Table 18.5 without its signature. -/
def attestBody (s : State) (nonce : List Byte) : List Byte :=
  leBytes 8 (0x4154 + 1 * 2 ^ 16) ++ sliceZ nonce 0 32 ++ sliceZ Config.serialNumber 0 16 ++ leBytes 4 (loafRevision s) ++
  leBytes 4 Config.starterRevision.toNat ++ leBytes 4 s.fw.rollback ++ leBytes 1 s.fw.running ++ leBytes 3 (fwSlot s s.fw.running).state ++
  leBytes 4 s.fw.bootCount ++ leBytes 4 (rd s eLiveUpdateCount) ++ (s.fw.measures.take 4).flatMap fun m => leBytes 64 m.toNat

/-- A written nonce: the report over it, its signature a free value (log entry 4). -/
def attestApply (s : State) (nonce : List Byte) : State :=
  let sig := drawBytes s 132
  setBlob (setBlob sig.2 eAttestNonce nonce) eAttestReport (attestBody s nonce ++ sig.1)

def execAttestNonceWrite (src : Source) (nonce : List Byte) (s : State) : Out1 :=
  .next (whenWritten s src eAttestNonce nonce true fun s => attestApply s nonce)

end Sys2Proof.Machine
end

