-- ==== Sys2Proof/Machine/Invoke.lean ====
section
/-! DEFINITION. INVOKE messages (R295 to R299, R341), starting an invocation, and the commands of recipe steps and expert routing
(13, 14). -/
namespace Sys2Proof.Machine

/-! The invocation header (Table 13.2). -/

def ivStepTag (v : Nat) : Nat := bitsAt v 96 32
def ivInputBytes (v : Nat) : Nat := bitsAt v 64 32
def ivTokenBase (v : Nat) : Nat := bitsAt v 41 23
def ivTokens (v : Nat) : Nat := bitsAt v 8 16

/-- input_bytes, token_count and the reserved bits keep Table 13.2. -/
def invokeHeaderOk (r : Recipe) (v : Nat) : Bool :=
  ivInputBytes v ≤ 4096 * rhIn r.header && 1 ≤ ivTokens v && ivTokens v ≤ rhMaxTokens r.header && bitsAt v 24 17 = 0 && bitsAt v 0 8 = 0

/-- The open invocation of a source and tag at an edge port. -/
def openOf (s : State) (p : Nat) (h : Header) : Option Nat :=
  (s.recipes.invs.find? fun x => x.2.port = p && x.2.srcId = h.src && x.2.tag = hEpoch h).map (·.1)

/-- The kept record of a source and tag at an edge port, the last one. -/
def keptOf (s : State) (p : Nat) (h : Header) : Option (BitVec 512) :=
  ((Tab.getD s.recipes.histories p []).reverse.find? fun x => x.1 = h.src && x.2.1 = hEpoch h).map (·.2.2)

/-- A record sent outside an open invocation: a replay or a refusal. -/
def sendRecord (s : State) (h : Header) (r : BitVec 512) : State :=
  sendPacket s { opcode := opRECIPE_RESULT, cls := 1, dst := h.src, src := h.dst, payloadLength := 0, slice := h.slice,
                 loc := locOf (hGroup h) (hEpoch h) 0, aux := BitVec.ofNat 64 (2 ^ 56) } (leBytes 64 r.toNat)

/-- The record of a refused packet 0 (R296): nothing ran. -/
def refusedRecord (h : Header) (status : Nat) : BitVec 512 :=
  BitVec.ofNat 512 (status + hEpoch h * 2 ^ 32 + 0xFFFF * 2 ^ 48 + 0xFFFF * 2 ^ 160 + 0xFFFF * 2 ^ 176 + 0xFFFFFFFF * 2 ^ 256
    + 0xFFFFFFFF * 2 ^ 352 + 0xFFFFFFFF * 2 ^ 384 + (2 ^ 64 - 1) * 2 ^ 448)

def refuseInvoke (s : State) (h : Header) (status : Nat) : State := sendRecord (bump s (eRecipeEndCount status)) h (refusedRecord h status)

/-- The lowest free invocation index. -/
def freeIndex (s : State) : Option Nat := (List.range 1024).find? fun i => (invOf s i).isNone

/-- The three areas of a recipe, allocated and cleared (R297). -/
def workArea (s : State) (r : Recipe) : Option (Nat × Nat × Nat × State) :=
  match allocSlabs s (rhIn r.header) with
  | none => none
  | some (a, s) => match allocSlabs s (rhScratch r.header) with
    | none => none
    | some (b, s) => match allocSlabs s (rhOut r.header) with
      | none => none
      | some (c, s) => some (a, b, c, clearSlabs (clearSlabs (clearSlabs s a (rhIn r.header)) b (rhScratch r.header)) c (rhOut r.header))

/-- Stash rows run past their field (R341). -/
def stashPast (s : State) (v : Inv) (r : Recipe) : Bool :=
  r.tensors.any fun t => tdSpace t = 3 && tdPerToken t && (match fieldNamed s t with
    | some f => sfKind f = kiSTASH && decide (sfRows f < v.tokenBase * tdRows t + v.tokenCount * tdRows t)
    | none => false)

/-! Taking input (R297, R298). -/

/-- An invocation ends BAD_INPUT before it has run. -/
def badInput (s : State) (i : Nat) : State := endInv s i isBAD_INPUT 0 0

/-- Bytes of a packet that count as input: of a last packet of 16 bytes, up to 15 zero bytes beyond input_bytes do not (R298). -/
def inputLength (v : Inv) (h : Header) (before : Nat) (pay : List Byte) : Nat :=
  let left := v.inputBytes - before
  if h.last && hChunk h ≠ 0 && pay.length = 16 && left < 16 && 0 < left && (pay.drop left).all (· = 0) then left else pay.length

/-- Input bytes of one packet arrive: written, or the message breaks R297 or R298. `pay` excludes the invocation header, `whole` is
the packet's payload length. -/
def takeInput (s : State) (i : Nat) (h : Header) (whole : Nat) (pay : List Byte) : State :=
  match invOf s i with
  | none => s
  | some v => match recipeOf s v.recipe with
    | none => s
    | some r =>
      let n := inputLength v h v.received pay
      if 4096 * rhIn r.header < v.received + n then badInput s i
      else
        let full := v.lastPayload = 4096 || hChunk h = 0
        let s := vatPut s (4096 * v.inputBase + v.received) (pay.take n)
        let s := setInv s i { v with received := v.received + n, nextChunk := hChunk h + 1, lastPayload := if full then whole else 0 }
        if !h.last then s
        else if !full || v.received + n ≠ v.inputBytes then badInput s i
        else
          let s := modInv s i fun v => { v with readyAt := some (fcNow s) }
          { s with recipes := { s.recipes with ready := s.recipes.ready ++ [i] } }

/-- Admit a new invocation (R296, R297, R341). -/
def admitInvoke (s : State) (p : Nat) (pkt : Packet) (r : Recipe) (i : Nat) (a b c : Nat) : State :=
  let h := pkt.h
  let x := leNat (sliceZ pkt.payload 0 16)
  let gen := (Tab.getD s.recipes.generations i 63 + 1) % 64
  let v : Inv := { port := p, srcId := h.src, dstId := h.dst, tag := hEpoch h, recipe := hGroup h, slice := h.slice, generation := gen,
                   inputBytes := ivInputBytes x, tokenBase := ivTokenBase x, tokenCount := ivTokens x, stepTag := ivStepTag x, inputBase := a,
                   scratchBase := b, outputBase := c, order := s.recipes.nextOrder }
  let s := setInv (bump64 s eInvokeCount 1) i v
  let s := { s with recipes := { s.recipes with nextOrder := s.recipes.nextOrder + 1, generations := Tab.set s.recipes.generations i gen } }
  if stashPast s v r then badInput (bump s eStashRangeErrorCount) i else takeInput s i h pkt.payload.length (pkt.payload.drop 16)

/-- A new packet 0, decided in the order of R296. -/
def newInvoke (s : State) (p : Nat) (pkt : Packet) : State :=
  let h := pkt.h
  if !isEdge p then refuseInvoke s h isNOT_LOCAL
  else match recipeOf s (hGroup h) with
    | none => refuseInvoke s h isNOT_INSTALLED
    | some r =>
      if r.removing || rhSlice r.header ≠ h.slice.toNat then refuseInvoke s h isNOT_INSTALLED
      else if !invokeHeaderOk r (leNat (sliceZ pkt.payload 0 16)) then refuseInvoke s h isBAD_INPUT
      else if rd s eRecipeOpenLimit ≤ s.recipes.invs.length then refuseInvoke s h isBUSY
      else match freeIndex s, workArea s r with
        | some i, some (a, b, c, s) => admitInvoke s p pkt r i a b c
        | _, _ => refuseInvoke s h isBUSY

/-- INVOKE_RECEIVED (R299): a repeat of an open invocation, a replay, or a new one. -/
def invokeReceived (s : State) (p : Nat) (pkt : Packet) : State :=
  if pkt.h.opcode ≠ opINVOKE || hChunk pkt.h ≠ 0 then s
  else
    let s := takeInbox s p pkt
    match openOf s p pkt.h with
    | some i => modInv (bump s eRecipeDuplicateCount) i fun v => { v with dup := true }
    | none => match keptOf s p pkt.h with
      | some r => sendRecord s pkt.h (r ||| BitVec.ofNat 512 (2 ^ 27))
      | none => newInvoke s p pkt

/-- INVOKE_PACKET_RECEIVED: a later packet (R296, R297, R299). A packet behind the last one of a message is discarded. -/
def invokePacketReceived (s : State) (p : Nat) (pkt : Packet) : State :=
  if pkt.h.opcode ≠ opINVOKE || hChunk pkt.h = 0 then s
  else
    let s := takeInbox s p pkt
    match openOf s p pkt.h with
    | none => bump s eRecipeDiscardCount
    | some i => match invOf s i with
      | none => s
      | some v =>
        if v.dup then bump s eRecipeDuplicateCount
        else if v.readyAt.isSome || v.closing.isSome then bump s eRecipeDiscardCount
        else if hChunk pkt.h ≠ v.nextChunk then badInput s i
        else takeInput s i pkt.h pkt.payload.length pkt.payload

/-- RECIPE_INPUT_TIMEOUT. -/
def recipeInputTimeout (s : State) (i : Nat) : State :=
  match invOf s i with
  | some v => if v.readyAt.isNone then badInput s i else s
  | none => s

/-- INVOCATION_START (R301): the invocation that became ready first takes a free context. -/
def invocationStart (s : State) (i : Nat) : State :=
  let busy := (s.recipes.invs.filter fun x => x.2.context).length
  if s.recipes.ready.head? = some i && busy < rd s eRecipeContextCount then
    let s := modInv s i fun v => { v with context := true, started := true, step := 0, phase := .idle }
    { s with recipes := { s.recipes with ready := s.recipes.ready.drop 1 } }
  else s

/-! Commands. -/

def execInvokeReceived (port : Nat) (pkt : Packet) (s : State) : Out1 :=
  onUnit (Instr.wellFormed (.invokeReceived port pkt)) (whenLive s fun s => clearTaken (invokeReceived s port pkt))
def execInvokePacketReceived (port : Nat) (pkt : Packet) (s : State) : Out1 :=
  onUnit (Instr.wellFormed (.invokePacketReceived port pkt)) (whenLive s fun s => clearTaken (invokePacketReceived s port pkt))
def execRecipeInputTimeout (inv : Nat) (s : State) : Out1 := .next (whenLive s fun s => recipeInputTimeout s inv)
def execInvocationStart (inv : Nat) (s : State) : Out1 := .next (whenLive s fun s => invocationStart s inv)

/-- The command of a step: it starts, or tries again, where the invocation stands at such a step. -/
def stepCommand (ok : BitVec 128 → Bool) (s : State) (i : Nat) : State :=
  match runOf s i with
  | some x => if ok x.w then resume (runStep false s i) else s
  | none => s

/-- A step word of an operation and a sub-operation. -/
def isStep (op sub : Nat) (w : BitVec 128) : Bool := swOp w = op && swSub w = sub

def execMatmulForward (inv : Nat) (s : State) : Out1 :=
  .next (whenLive s fun s => stepCommand (fun w => swOp w = soMATMUL && mmKind w = 0) s inv)
def execMatmulBackwardPair (inv : Nat) (s : State) : Out1 :=
  .next (whenLive s fun s => stepCommand (fun w => swOp w = soMATMUL && mmKind w = 1) s inv)
def execTopk (inv : Nat) (s : State) : Out1 := .next (whenLive s fun s => stepCommand (isStep soTOPK 0) s inv)
def execSoftmax (inv : Nat) (s : State) : Out1 := .next (whenLive s fun s => stepCommand (isStep soSOFTMAX 0) s inv)
def execNormRms (inv : Nat) (s : State) : Out1 := .next (whenLive s fun s => stepCommand (isStep soNORM 0) s inv)
def execNormLayer (inv : Nat) (s : State) : Out1 := .next (whenLive s fun s => stepCommand (isStep soNORM 1) s inv)
def execScaleMul (inv : Nat) (s : State) : Out1 := .next (whenLive s fun s => stepCommand (isStep soSCALE 0) s inv)
def execScaleRowvec (inv : Nat) (s : State) : Out1 := .next (whenLive s fun s => stepCommand (isStep soSCALE 1) s inv)
def execScaleColvec (inv : Nat) (s : State) : Out1 := .next (whenLive s fun s => stepCommand (isStep soSCALE 2) s inv)
def execScaleRelu (inv : Nat) (s : State) : Out1 := .next (whenLive s fun s => stepCommand (isStep soSCALE 3) s inv)
def execScaleSilu (inv : Nat) (s : State) : Out1 := .next (whenLive s fun s => stepCommand (isStep soSCALE 4) s inv)
def execAddStep (inv : Nat) (s : State) : Out1 := .next (whenLive s fun s => stepCommand (isStep soADD 0) s inv)
def execSubStep (inv : Nat) (s : State) : Out1 := .next (whenLive s fun s => stepCommand (isStep soADD 1) s inv)
def execMulStep (inv : Nat) (s : State) : Out1 := .next (whenLive s fun s => stepCommand (isStep soADD 2) s inv)
def execConvert (inv : Nat) (s : State) : Out1 := .next (whenLive s fun s => stepCommand (isStep soCONVERT 0) s inv)
def execStageIn (inv : Nat) (s : State) : Out1 := .next (whenLive s fun s => stepCommand (isStep soSTAGE 0) s inv)
def execStageOut (inv : Nat) (s : State) : Out1 := .next (whenLive s fun s => stepCommand (isStep soSTAGE 1) s inv)
def execDispatch (inv : Nat) (s : State) : Out1 := .next (whenLive s fun s => stepCommand (isStep soDISPATCH 0) s inv)
def execCombine (inv : Nat) (s : State) : Out1 := .next (whenLive s fun s => stepCommand (isStep soCOMBINE 0) s inv)
def execReduceInit (inv : Nat) (s : State) : Out1 := .next (whenLive s fun s => stepCommand (isStep soREDUCE 2) s inv)
def execReduceAccumulate (inv : Nat) (s : State) : Out1 := .next (whenLive s fun s => stepCommand (isStep soREDUCE 0) s inv)
def execReduceRows (inv : Nat) (s : State) : Out1 := .next (whenLive s fun s => stepCommand (isStep soREDUCE 1) s inv)
def execUpdateSgdM (inv : Nat) (s : State) : Out1 := .next (whenLive s fun s => stepCommand (isStep soUPDATE 0) s inv)
def execUpdateAdamw (inv : Nat) (s : State) : Out1 := .next (whenLive s fun s => stepCommand (isStep soUPDATE 1) s inv)
def execDigestCompute (inv : Nat) (s : State) : Out1 := .next (whenLive s fun s => stepCommand (isStep soDIGEST 0) s inv)
def execDigestCompare (inv : Nat) (s : State) : Out1 := .next (whenLive s fun s => stepCommand (isStep soDIGEST 1) s inv)
def execDigestAuto (inv : Nat) (s : State) : Out1 := .next (whenLive s fun s => stepCommand (isStep soDIGEST 2) s inv)
def execBarrier (inv : Nat) (s : State) : Out1 := .next (whenLive s fun s => stepCommand (isStep soBARRIER 0) s inv)

/-- RETURN_BUFFER_ALLOCATED (R336). -/
def returnBufferAllocated (s : State) (i : Nat) : State :=
  match runOf s i with
  | some x => if waitsBuffer s x then resume (runStep false s i) else s
  | none => s

/-- UPDATE_SLOT_TAKEN (R324). -/
def updateSlotTaken (s : State) (i : Nat) : State :=
  match runOf s i with
  | some x => if swOp x.w = soUPDATE && x.v.phase = .waiting && x.v.slotTaken.isNone then resume (runStep true s i) else s
  | none => s

def execReturnBufferAllocated (inv : Nat) (s : State) : Out1 := .next (whenLive s fun s => returnBufferAllocated s inv)
def execUpdateSlotTaken (inv : Nat) (s : State) : Out1 := .next (whenLive s fun s => updateSlotTaken s inv)
def execStepComplete (inv : Nat) (s : State) : Out1 := .next (whenLive s fun s => stepComplete s inv)
def execRecipeStepTimeout (inv : Nat) (s : State) : Out1 := .next (whenLive s fun s => recipeStepTimeout s inv)

/-- COMBINE_DATA_RECEIVED (R335); the last part of a DISPATCH lets its COMBINE go on. -/
def combineDataReceived (s : State) (p : Nat) (pkt : Packet) : State :=
  if pkt.h.opcode ≠ opCOMBINE_DATA then s else clearTaken (resume (combineData (takeInbox s p pkt) pkt (statusFromOutside isPOISONED)))

def execCombineDataReceived (port : Nat) (pkt : Packet) (s : State) : Out1 :=
  onUnit (Instr.wellFormed (.combineDataReceived port pkt)) (whenLive s fun s => combineDataReceived s port pkt)
def execOwnerWindowFree (inv token slot : Nat) (s : State) : Out1 := .next (whenLive s fun s => ownerWindowFree s inv token slot)
def execExpertRetry (inv token slot : Nat) (s : State) : Out1 := .next (whenLive s fun s => expertRetry s inv token slot)
def execExpertReturnTimeout (inv token slot : Nat) (s : State) : Out1 :=
  .next (whenLive s fun s => resume (expertReturnTimeout s inv token slot))

end Sys2Proof.Machine
end

