-- ==== Sys2Proof/Machine/Write.lean ====
section
/-! DEFINITION. A dictionary write through either path: the owners' own checks, and what a written value does (17, R391 to R396,
and the owners' rules). -/
namespace Sys2Proof.Machine

/-! The owners' checks (R395). -/

/-- The grant of one VC with a staged value in its place. -/
def grantTotal (s : State) (p k v : Nat) : Nat := (List.range 8).foldl (fun n j => n + if j = k then v else rd s (ePortCreditGrant p j)) 0

/-- A port's entries (R61, R80, R102). -/
def portOwner (s : State) (p sub v : Nat) : Nat :=
  if sub = 0x02 then (if isEdge p then stOK else stACCESS)
  else if 0x13 ≤ sub && sub ≤ 0x1A then
    (if 1024 < grantTotal s p (sub - 0x13) v || (isEdge p && (sub - 0x13) % 2 = 1 && v ≠ 0) then stRANGE else stOK)
  else if sub = 0x21 then (if bondOk s p v then stOK else stACCESS)
  else stOK

/-- A value written to a state entry without its reserved bits 6–3, which are ignored (R4, Table 02.7). -/
def stateRequest (v : Nat) : Nat := v &&& 0x87

/-- A function's state entry (Tables 02.6, 02.7). -/
def stateOwner (s : State) (a v : Nat) : Nat :=
  if !requestable a then stACCESS
  else if stateRequest v ≠ 0 && stateRequest v ≠ 2 then stRANGE
  else if stateRequest v = 2 && fnState s a = .fenced then stSTATE
  else stOK

/-- Commits and commands. -/
def actionOwner (s : State) (a v : Nat) : Nat :=
  if a = eTorusSizeCommit then (if sizesValid (stagedSizes s) then stOK else stSTATE)
  else if a = eFabricAdmit then (if s.topo.state = .ready then stOK else stSTATE)
  else if a = eGroupStageCommit then (if s.groupCommit.isNone then stOK else stSTATE)
  else if a = eFaultUnfence then (if isStateEntry (v / 256) (v % 256) then stOK else stRANGE)
  else if a = eProofNow then (if v < 893 then stOK else stRANGE)
  else if a = eFirmwareCommand then fwCommandStatus s v
  else if a = eLoafImage then loafImageStatus s
  else if a = ePoolLowMark then (if v < rd s ePoolHighMark then stOK else stRANGE)
  else if a = eVatSlabTagRead then (if v < vatSlabs then stOK else stRANGE)
  else stOK

/-- The owner's status of a value that has passed the checks of every entry. -/
def ownerStatus (s : State) (a : Nat) (v : List Byte) : Nat :=
  let i := a / 256
  let n := leNat (v.take 8)
  if isStateEntry i (a % 256) then stateOwner s a n
  else if 0x2400 ≤ i && i < 0x2480 then portOwner s (i - 0x2400) (a % 256) n
  else if i = 0x4100 then stACCESS
  else actionOwner s a n

/-- The status of one write item (R396). -/
def itemStatus (s : State) (src : Source) (it : Item) : Nat :=
  let e := entryStatus s src it.index it.sub it.value
  if e ≠ stOK then e else ownerStatus s (it.index * 256 + it.sub) it.value

/-! The effects. -/

/-- Values whose reserved bits are ignored (R4). -/
def valueMask (a : Nat) : Option Nat :=
  if a = eProofEnable then some 0x1F
  else if a = eCrumbLogMask then some 0x0E
  else if 0x4100 ≤ a / 256 && a / 256 < 0x4500 then
    (if a % 256 = 3 || a % 256 = 4 then some 0x7FFF else if a % 256 = 5 then some 7 else none)
  else none

/-- Keys: a written slot or role closes the sessions opened with it (R403). -/
def closeSession (s : State) (id : Nat) : State :=
  { s with mgmt := { s.mgmt with sessions := s.mgmt.sessions.filter (fun x => x.id ≠ id),
                                 sessionRegs := s.mgmt.sessionRegs.filter (fun e => e.1.1 ≠ .session id) } }
def closeSlot (s : State) (slot : Nat) : State := ((s.mgmt.sessions.filter (fun x => x.slot = slot)).map (·.id)).foldl closeSession s

/-- Stage bytes of the selected recipe and station. -/
def stageRecipe (s : State) (src : Source) (f : RecipeStage → RecipeStage) : State :=
  let k := recipeSelected s src
  { s with recipes := { s.recipes with stages := Tab.set s.recipes.stages k (f (recipeStage s k)) } }
def stageStation (s : State) (src : Source) (f : StationStage → StationStage) : State :=
  let k := stationSelected s src
  { s with stations := { s.stations with stages := Tab.set s.stations.stages k (f (stationStage s k)) } }

/-- Entries of a port, a policer and a scheduler. -/
def applyPort (s : State) (a v : Nat) : State :=
  let i := a / 256
  let sub := a % 256
  if 0x2400 ≤ i && i < 0x2480 then
    if sub = 0x02 then expectedEndpointApply s (i - 0x2400) v
    else if sub = 0x21 then bondApply s (i - 0x2400) v
    else writeReg s a v
  else if 0x3100 ≤ i && i < 0x3168 then
    let p := i - 0x3100
    if sub = 1 then policerEnableApply s p v
    else if sub ≤ 4 then policerRateApply s p (sub - 2) v
    else policerBurstApply s p (sub - 5) v
  else if 0x1110 = i then closeSlot s (sub - 1)
  else if 0x1111 = i then closeSlot (writeReg s a v) (sub - 1)
  else if a = ePoolHighMark || a = ePoolLowMark then (List.range 4).foldl pressure (writeReg s a v)
  else if 0x4100 ≤ i && i < 0x4500 && sub = 7 then commitTables s (i - 0x4100)
  else writeReg s a v

/-- Commits and commands of one writer. -/
def applyAction (s : State) (src : Source) (a v : Nat) : State :=
  if a = eTorusSizeCommit then torusSizeCommit s
  else if a = eFabricAdmit then fabricAdmit s
  else if a = ePolicerWindow then policerWindowApply s v
  else if a = eGroupStageCommit then resume (if v = 1 then beginInstall s src else beginRemove s src)
  else if a = eRecipeCommit then (if v = 1 then installRecipe s (recipeSelected s src) else removeRecipe s (recipeSelected s src))
  else if a = eStationCommit then
    (if v = 1 then installStation s (stationSelected s src) else if v = 2 then removeStation s (stationSelected s src)
     else if v = 3 then readyStation s (stationSelected s src) else reloadStation s (stationSelected s src))
  else if a = eStationInitTag then markPersist (stageStation s src fun x => { x with initTag := v }) a
  else if a = eDeterminismStrict then strictApply s v
  else if a = eSaveCommand then (if v = 1 then saveStart s else restoreStart s)
  else if a = eFaultUnfence then unfence s v
  else if a = eProofNow then proofEnqueue s v false
  else if a = eProofPeriod then proofPeriodApply s v
  else if a = ePersistFlush then storeWaiting s
  else if a = ePersistReset then { s with mgmt := { s.mgmt with resetAtBoot := max s.mgmt.resetAtBoot v } }
  else if a = eFirmwareCommand then (let b := drawBytes s 1; fwCommand b.2 v (leNat b.1 % 2 = 1))
  else applyPort s a v

/-- Byte strings and blocks. -/
def applyBytes (s : State) (src : Source) (a : Nat) (v : List Byte) : State :=
  if a = eRecipeHeader then markPersist (stageRecipe s src fun x => { x with header := v }) a
  else if a = eRecipeSteps then markPersist (stageRecipe s src fun x => { x with steps := v }) a
  else if a = eRecipeTensors then markPersist (stageRecipe s src fun x => { x with tensors := v }) a
  else if a = eStationHeader then markPersist (stageStation s src fun x => { x with header := v }) a
  else if a = eStationFields then markPersist (stageStation s src fun x => { x with fields := v }) a
  else if a = eLoafImage then loafImageApply s v
  else if a = eAttestNonce then attestApply s v
  else if a / 256 = 0x1110 then closeSlot (writeBlob s a v) (a % 256 - 1)
  else writeBlob s a v

/-- What a written value does. -/
def applyWrite (s : State) (src : Source) (a : Nat) (v : List Byte) : State :=
  match entryRow (a / 256) (a % 256) with
  | none => s
  | some r =>
    if isStateEntry (a / 256) (a % 256) then (if stateRequest (leNat v) = 2 then enableWritten s a else disableWritten s a)
    else if r.session then setScoped s src a v
    else if 10 < r.ty then applyBytes s src a v
    else match valueMask a with
      | some m => writeReg s a (leNat v &&& m)
      | none => applyAction s src a (leNat v)

/-- Write one item: a rejected write changes nothing (R395). -/
def writeItem (s : State) (src : Source) (it : Item) : State :=
  if itemStatus s src it = stOK then applyWrite s src (it.index * 256 + it.sub) it.value else s

/-- A value that an item of a WRITE stages for the checks of the items after it (log entry 40). -/
def stageItem (s : State) (it : Item) : State :=
  let a := it.index * 256 + it.sub
  match entryRow it.index it.sub with
  | none => s
  | some r =>
    if isStateEntry it.index it.sub || r.session || 10 < r.ty then s
    else wr s a ((valueMask a).elim (leNat it.value) (leNat it.value &&& ·))

/-- The statuses of the items of one WRITE: each is checked with the values that the items before it stage (R396). -/
def itemStatuses (s : State) (src : Source) : List Item → List Nat
  | [] => []
  | it :: t => itemStatus s src it :: itemStatuses (stageItem s it) src t

/-! Commands that are one write. -/

/-- REGISTER_WRITE. -/
def execRegisterWrite (src : Source) (item : Item) (s : State) : Out1 := .next (writeItem s src item)

/-- MANAGER_KEY_WRITE: of a key slot or its role, by the mailbox or an ADMIN session. -/
def execManagerKeyWrite (src : Source) (item : Item) (s : State) : Out1 :=
  .next (if item.index = 0x1110 || item.index = 0x1111 then writeItem s src item else s)

/-- PLIHOTU_PROBE_WRITE: the writer's copy, from which PlihotuProbeOutput is formed (R191, R394). -/
def execPlihotuProbeWrite (src : Source) (value : List Byte) (s : State) : Out1 :=
  .next (writeItem s src ⟨ePlihotuProbeInput / 256, ePlihotuProbeInput % 256, value⟩)

/-- PERSIST_STORE. -/
def execPersistStore (s : State) : Out1 := .next (if mgmtUp s then storeWaiting s else s)

/-- PERSIST_FLUSH: every waiting value is stored before the response. -/
def execPersistFlush (src : Source) (s : State) : Out1 := .next (whenWritten s src ePersistFlush [1] true storeWaiting)

/-- PERSIST_RESET: at the next boot; of several, the widest. -/
def execPersistReset (src : Source) (value : Nat) (s : State) : Out1 :=
  .next (if value < 256 then writeItem s src ⟨ePersistReset / 256, ePersistReset % 256, [BitVec.ofNat 8 value]⟩ else s)

end Sys2Proof.Machine
end

