-- ==== Sys2Proof/Machine/Mdp.lean ====
section
/-! DEFINITION. MDP on the field network: framing, sessions, requests, block transfers, events and watches (17, R398 to R408). -/
namespace Sys2Proof.Machine

/-! Framing (R399, Table 17.4). -/

abbrev hdMagic (h : BitVec 128) : Nat := bitsAt h.toNat 0 16
abbrev hdVersion (h : BitVec 128) : Nat := bitsAt h.toNat 16 8
abbrev hdType (h : BitVec 128) : Nat := bitsAt h.toNat 24 8
abbrev hdSession (h : BitVec 128) : Nat := bitsAt h.toNat 32 32
abbrev hdSeq (h : BitVec 128) : Nat := bitsAt h.toNat 64 32
abbrev hdBodyLength (h : BitVec 128) : Nat := bitsAt h.toNat 96 16
abbrev hdLast (h : BitVec 128) : Bool := h.getLsbD 121

/-- The types a manager sends (Table 17.5). -/
def mdpTypes : List Nat := [0x01, 0x02, 0x04, 0x05, 0x06, 0x10, 0x11, 0x12, 0x13, 0x14, 0x16]

/-- Magic, version, type, body_length and the reserved bits are right. -/
def mdpFrameOk (m : Datagram) : Bool :=
  hdMagic m.header = 0x444D && hdVersion m.header = 1 && mdpTypes.contains (hdType m.header) &&
  hdBodyLength m.header = m.body.length && m.body.length ≤ 1420 && bitsAt m.header.toNat 123 5 = 0

/-- A dictionary counter of the management path; frozen counters stay as they stood (R367). -/
def countMdp (s : State) (a : Nat) : State := if s.faults.frozen then s else bump s a

/-- Discarded without a response. -/
def mdpDiscard (s : State) : State := countMdp s eMdpFrameErrorCount

/-- MDP_FRAME_ERROR. -/
def execMdpFrameError (msg : Datagram) (s : State) : Out1 :=
  .next (if mgmtUp s && !mdpFrameOk msg then mdpDiscard s else s)

/-! Before a session (R400, R401). -/

/-- A message that carries no tag. -/
def sendPlain (s : State) (addr : BitVec 128) (type status session seq : Nat) (body : List Byte) : State :=
  emit s (.mdp addr (mdpHeader type status session seq body.length true false false) body [])

/-- DISCOVER's answer. -/
def discoverBody (s : State) : List Byte :=
  sliceZ Config.serialNumber 0 16 ++ leBytes 2 (myCoord s) ++ leBytes 1 (bootStage s) ++ leBytes 1 1 ++ leBytes 4 (loafRevision s) ++ leBytes 8 0

/-- DISCOVER: from boot step 2 onward. -/
def discover (s : State) (m : Datagram) : State :=
  if !mdpFrameOk m then mdpDiscard s
  else if hdType m.header ≠ 0x01 then s
  else if m.body.isEmpty then sendPlain s m.addr 0x01 stOK 0 (hdSeq m.header) (discoverBody s)
  else sendPlain s m.addr 0x01 stLENGTH 0 (hdSeq m.header) []

def execDiscover (msg : Datagram) (s : State) : Out1 := .next (if mgmtUp s then discover s msg else s)

/-- Cycles in 60 s. -/
abbrev fcPerMinute : Nat := 84000000000

/-- An authentication failure: counted, and the eighth from one address within 60 s locks it out. -/
def authFail (s : State) (addr : BitVec 128) : State :=
  let s := countMdp s eMdpAuthFailCount
  let l := s.mgmt.authFails.filter (fun f => fcNow s < f.2 + fcPerMinute) ++ [(addr, fcNow s)]
  if 8 ≤ (l.filter fun f => f.1 = addr).length then
    { s with mgmt := { s.mgmt with authFails := l.filter (fun f => f.1 ≠ addr),
                                   lockouts := if s.mgmt.lockouts.contains addr then s.mgmt.lockouts else s.mgmt.lockouts ++ [addr] } }
  else { s with mgmt := { s.mgmt with authFails := l } }

/-- A key slot holds a key and a role. -/
def slotUsable (s : State) (slot : Nat) : Bool := slot < 8 && leNat (blob s (eManagerKey slot)) ≠ 0 && rd s (eManagerKeyRole slot) ≠ 0

/-- The info string of R402: "MDP1" and the session_id. -/
def keyInfo (id : Nat) : List Byte := [0x4D#8, 0x44#8, 0x50#8, 0x31#8] ++ leBytes 4 id

/-- CHALLENGE: a session between CHALLENGE and PROVE, its nonce, ephemeral key and signature free values (log entry 4). -/
def challenge (s : State) (m : Datagram) : State :=
  let slot := leNat (m.body.take 1)
  let id := s.mgmt.nextSession
  let secret := Config.ecdhSecret s.draws (m.body.drop 36)
  let d := drawBytes s 297
  let s := d.2
  let keys := hkdf64 secret (sliceZ m.body 4 32 ++ d.1.take 32) (keyInfo id)
  let x : Session := { id := id, addr := m.addr, slot := slot, isOpen := false, role := 0,
                       managerKey := keys.take 32, moduleKey := (keys.drop 32).take 32 }
  let s := { s with mgmt := { s.mgmt with sessions := s.mgmt.sessions ++ [x], nextSession := id + 1 } }
  sendPlain s m.addr 0x03 stOK id (hdSeq m.header) d.1

/-- OPEN (log entry 36: a refusal is an OPEN response). -/
def mdpOpen (s : State) (m : Datagram) : State :=
  let refuse (st : Nat) (s : State) : State := sendPlain s m.addr 0x02 st 0 (hdSeq m.header) []
  if !mdpFrameOk m then mdpDiscard s
  else if hdType m.header ≠ 0x02 || s.mgmt.lockouts.contains m.addr then s
  else if !loafUp s then refuse stNOT_READY s
  else if m.body.length ≠ 169 then refuse stLENGTH s
  else if 8 ≤ s.mgmt.sessions.length then refuse stBUSY s
  else if !slotUsable s (leNat (m.body.take 1)) then refuse stAUTH (authFail s m.addr)
  else challenge s m

def execMdpOpen (msg : Datagram) (s : State) : Out1 := .next (if mgmtUp s then mdpOpen s msg else s)

/-- A session by its id. -/
def sessionOf (s : State) (id : Nat) : Option Session := s.mgmt.sessions.find? fun x => x.id = id

/-- PROVE: the session opens with its slot's role, or AUTH. -/
def prove (s : State) (m : Datagram) (signatureOk : Bool) : State :=
  if !mdpFrameOk m then mdpDiscard s
  else if hdType m.header ≠ 0x04 then s
  else match sessionOf s (hdSession m.header) with
    | none => mdpDiscard s
    | some x =>
      if x.isOpen then mdpDiscard s
      else if m.body.length ≠ 132 then sendPlain s m.addr 0x04 stLENGTH x.id (hdSeq m.header) []
      else if !signatureOk || !slotUsable s x.slot then
        sendPlain (authFail (closeSession s x.id) m.addr) m.addr 0x04 stAUTH x.id (hdSeq m.header) []
      else
        let y := { x with isOpen := true, role := rd s (eManagerKeyRole x.slot) }
        sendSession (setSession s y) y (mdpHeader 0x04 stOK x.id (hdSeq m.header) 0 true false false) []

def execProve (msg : Datagram) (signatureOk : Bool) (s : State) : Out1 := .next (if loafUp s then prove s msg signatureOk else s)

/-- PROVE_TIMEOUT. -/
def proveTimeout (s : State) (id : Nat) : State :=
  match sessionOf s id with
  | none => s
  | some x => if x.isOpen then s else sendPlain (authFail (closeSession s id) x.addr) x.addr 0x04 stAUTH id 0 []

def execProveTimeout (session : Nat) (s : State) : Out1 := .next (proveTimeout s session)

/-- OPEN_LOCKOUT_EXPIRY. -/
def execOpenLockoutExpiry (addr : BitVec 128) (s : State) : Out1 :=
  .next { s with mgmt := { s.mgmt with lockouts := s.mgmt.lockouts.filter (· ≠ addr) } }

/-! Requests of a session (R402). -/

/-- What a request is answered with. -/
structure Reply where
  status : Nat
  body : List Byte := []
  last : Bool := false
deriving DecidableEq, Repr

/-- Send a response and keep it for a repeat. -/
def respond (s : State) (x : Session) (type seq : Nat) (r : Reply) : State :=
  let h := mdpHeader type r.status x.id seq r.body.length true r.last false
  let s := match sessionOf s x.id with
    | some y => setSession s { y with lastSeq := seq, cached := some (h, r.body) }
    | none => s
  sendSession s x h r.body

/-- A request of a type in an open session: framing and tag, then its seq, then its effect. -/
def request (s : State) (m : Datagram) (type : Nat) (f : State → Session → Reply × State) : State :=
  if !mdpFrameOk m then mdpDiscard s
  else if hdType m.header ≠ type then s
  else match sessionOf s (hdSession m.header) with
    | none => mdpDiscard s
    | some x =>
      if !x.isOpen || m.tag ≠ mdpTag x.managerKey m.header m.body then mdpDiscard s
      else if hdSeq m.header = x.lastSeq + 1 then
        let r := f s x
        respond r.2 x type (hdSeq m.header) r.1
      else match x.cached with
        | some c =>
          if hdSeq m.header = x.lastSeq then sendSession s x (c.1 ||| BitVec.ofNat 128 (2 ^ 122)) c.2
          else countMdp s eMdpSeqErrorCount
        | none => countMdp s eMdpSeqErrorCount

/-- A request with an empty body. -/
def emptyRequest (s : State) (m : Datagram) (type : Nat) (f : State → Session → State) : State :=
  request s m type fun s x => if m.body.isEmpty then ({ status := stOK }, f s x) else ({ status := stLENGTH }, s)

/-- CLOSE. -/
def execMdpClose (msg : Datagram) (s : State) : Out1 := .next (emptyRequest s msg 0x05 fun s x => closeSession s x.id)

/-- PING. -/
def execPing (msg : Datagram) (s : State) : Out1 := .next (emptyRequest s msg 0x06 fun s _ => s)

/-- SESSION_TIMEOUT. -/
def sessionTimeout (s : State) (id : Nat) : State :=
  match sessionOf s id with
  | some x => if x.isOpen then closeSession s id else s
  | none => s

def execSessionTimeout (session : Nat) (s : State) : Out1 := .next (sessionTimeout s session)

/-! READ and WRITE (R396, R400); the mailbox applies the same bodies (R412). -/

/-- The (index, sub) pairs of a READ body; none where it is malformed. -/
def readItems (b : List Byte) : Option (List (Nat × Nat)) :=
  let n := leNat (b.take 1)
  if n < 1 || 64 < n || b.length ≠ 4 + 4 * n then none
  else some ((List.range n).map fun i => (leNat (sliceZ b (4 + 4 * i) 2), leNat (sliceZ b (6 + 4 * i) 1)))

/-- One item of a READ response. -/
def readItem (s : State) (src : Source) (e : Nat × Nat) : List Byte :=
  let st := readStatus s e.1 e.2
  let v := entryValue s src e.1 e.2
  if st ≠ stOK then leBytes 4 st
  else if 1024 < v.length then leBytes 4 stLENGTH
  else leBytes 2 st ++ leBytes 2 v.length ++ v

/-- READ: every item from one state; what the reads clear is cleared after them. -/
def readBody (s : State) (src : Source) (b : List Byte) (room : Nat) : Reply × State :=
  match readItems b with
  | none => ({ status := stLENGTH }, s)
  | some es =>
    let out := leBytes 4 es.length ++ es.flatMap (readItem s src)
    if room < out.length then ({ status := stLENGTH }, s)
    else ({ status := stOK, body := out }, es.foldl (fun s e => if readStatus s e.1 e.2 = stOK then afterRead s e.1 e.2 else s) s)

/-- The items of a WRITE body after its count. -/
def parseItems : Nat → List Byte → Option (List Item)
  | 0, b => if b.isEmpty then some [] else none
  | n + 1, b =>
    let k := leNat (sliceZ b 4 2)
    if b.length < 6 + k then none
    else (parseItems n (b.drop (6 + k))).map fun t => ⟨leNat (b.take 2), leNat (sliceZ b 2 1), (b.drop 6).take k⟩ :: t

/-- A WRITE body. -/
def writeItems (b : List Byte) : Option (List Item) :=
  let n := leNat (b.take 1)
  if n < 1 || 64 < n || b.length < 4 then none else parseItems n (b.drop 4)

/-- The transfer a source has open. -/
def transferOf (s : State) (src : Source) : Option Transfer :=
  match src with
  | .mailbox => s.mgmt.mailboxTransfer
  | .session i => (sessionOf s i).bind (·.transfer)

/-- Change it. -/
def setTransfer (s : State) (src : Source) (t : Option Transfer) : State :=
  match src with
  | .mailbox => { s with mgmt := { s.mgmt with mailboxTransfer := t } }
  | .session i => match sessionOf s i with
    | some x => setSession s { x with transfer := t }
    | none => s

/-- A write to another entry ends the transfer (R404). -/
def endOtherTransfer (s : State) (src : Source) (es : List (Nat × Nat)) : State :=
  match transferOf s src with
  | some t => if es.any (fun e => e ≠ (t.index, t.sub)) then setTransfer s src none else s
  | none => s

/-- An enable request to a slice, a disable request to a slice, and a slice commit, among the items of a WRITE. -/
def enablesSlice (it : Item) : Bool := 0x1F30 ≤ it.index && it.index < 0x1F34 && leNat it.value = 2
def disablesSlice (k : Nat) (it : Item) : Bool := it.index * 256 + it.sub = eSliceState k && leNat it.value = 0
def commitsSlice (it : Item) : Bool := 0x4100 ≤ it.index && it.index < 0x4500 && it.sub = 7

/-- An enable request put among others by slice number; an earlier one of the same slice stays first. -/
def putEnable (it : Item) : List Item → List Item
  | [] => [it]
  | e :: t => if it.index * 256 + it.sub ≤ e.index * 256 + e.sub then it :: e :: t else e :: putEnable it t

/-- The items of a WRITE, which fall in one MCLK cycle, as they take effect: in item order (R396), except that a slice's
commit comes after a disable request of that slice (R113), and that enable requests to slices, unless the WRITE asks
something else of that slice after them, come last in ascending slice order (R112). The three lists are what keeps its
place, the commits put back, and the enable requests. -/
def writeParts : List Item → List Item × List Item × List Item
  | [] => ([], [], [])
  | it :: t =>
    let r := writeParts t
    if enablesSlice it && !(t.any fun e => e.index = it.index && e.sub = it.sub) then (r.1, r.2.1, putEnable it r.2.2)
    else if commitsSlice it && t.any (disablesSlice (it.index - 0x4100)) then (r.1, it :: r.2.1, r.2.2)
    else (it :: r.1, r.2.1, r.2.2)
def writeOrder (es : List Item) : List Item := (writeParts es).1 ++ (writeParts es).2.1 ++ (writeParts es).2.2

/-- WRITE: every item is checked, then all are applied or none. -/
def writeBody (s : State) (src : Source) (b : List Byte) : Reply × State :=
  match writeItems b with
  | none => ({ status := stLENGTH }, s)
  | some es =>
    let sts := itemStatuses s src es
    let s := endOtherTransfer s src (es.map fun e => (e.index, e.sub))
    let ok := sts.all (· = stOK)
    let out := leBytes 4 es.length ++ sts.flatMap fun st => leBytes 1 (if st = stOK && !ok then stNOT_APPLIED else st)
    ({ status := stOK, body := out },
     if ok then (writeOrder es).foldl (fun s e => applyWrite s src (e.index * 256 + e.sub) e.value) s else s)

/-- An OBSERVER's write is refused (R403). -/
def adminOnly (x : Session) (s : State) (f : Reply × State) : Reply × State := if x.role = 2 then f else ({ status := stACCESS }, s)

def execMdpRead (msg : Datagram) (s : State) : Out1 :=
  .next (request s msg 0x10 fun s x => readBody s (.session x.id) msg.body 1420)

def execMdpWrite (msg : Datagram) (s : State) : Out1 :=
  .next (request s msg 0x11 fun s x => adminOnly x s (writeBody s (.session x.id) msg.body))

/-! Block transfers (R404). -/

/-- READ_BLOCK: up to `most` bytes from an offset. -/
def readBlock (s : State) (src : Source) (b : List Byte) (most : Nat) : Reply × State :=
  let i := leNat (b.take 2)
  let sub := leNat (sliceZ b 2 1)
  let off := leNat (sliceZ b 4 4)
  let n := leNat (sliceZ b 8 2)
  if b.length ≠ 10 || n = 0 || most < n then ({ status := stLENGTH }, s)
  else if readStatus s i sub ≠ stOK then ({ status := readStatus s i sub }, s)
  else
    let v := entryValue s src i sub
    ({ status := stOK, body := leBytes 4 v.length ++ (v.drop off).take n, last := decide (v.length ≤ off + n) }, afterRead s i sub)

/-- The size of a write transfer fits its entry. -/
def totalOk (i sub total : Nat) : Bool :=
  match entryRow i sub with
  | some r => total ≤ r.len && (!r.exact || total = r.len)
  | none => true

/-- WRITE_BLOCK: collect one segment of at most `most` bytes; the last applies the whole as one write. -/
def writeBlock (s : State) (src : Source) (b : List Byte) (last : Bool) (most : Nat) : Reply × State :=
  let i := leNat (b.take 2)
  let sub := leNat (sliceZ b 2 1)
  let off := leNat (sliceZ b 4 4)
  let total := leNat (sliceZ b 8 4)
  let data := b.drop 12
  let stop : Reply × State := ({ status := stLENGTH }, setTransfer s src none)
  if sourceStatus s src ≠ stOK then ({ status := sourceStatus s src }, setTransfer s src none)
  else if b.length < 13 || most < data.length then stop
  else
    let s := endOtherTransfer s src [(i, sub)]
    let t := (transferOf s src).getD { index := i, sub := sub, total := total, got := [] }
    let got := t.got ++ data
    if off ≠ t.got.length || total ≠ t.total || total < got.length || !totalOk i sub total || (last && got.length ≠ total) then stop
    else if !last then ({ status := stOK }, setTransfer s src (some { t with got := got }))
    else
      let s := setTransfer s src none
      let st := itemStatus s src ⟨i, sub, got⟩
      ({ status := st }, if st = stOK then applyWrite s src (i * 256 + sub) got else s)

def execReadBlock (msg : Datagram) (s : State) : Out1 :=
  .next (request s msg 0x12 fun s x => readBlock s (.session x.id) msg.body 1024)

def execWriteBlock (msg : Datagram) (s : State) : Out1 :=
  .next (request s msg 0x13 fun s x => adminOnly x s (writeBlock s (.session x.id) msg.body (hdLast msg.header) 1024))

/-- BLOCK_TRANSFER_TIMEOUT. -/
def execBlockTransferTimeout (src : Source) (s : State) : Out1 := .next (setTransfer s src none)

/-! Events and watches (R407, R408). -/

/-- The watches of a SUBSCRIBE body. -/
def parseWatches (b : List Byte) : List Watch :=
  (List.range (leNat (sliceZ b 8 1))).map fun i =>
    { index := leNat (sliceZ b (12 + 8 * i) 2), sub := leNat (sliceZ b (14 + 8 * i) 1), interval := max 10 (leNat (sliceZ b (16 + 8 * i) 4)) }

/-- SUBSCRIBE: the mask, its bit 0 reserved, and the watches; a bad watch changes nothing. -/
def subscribe (s : State) (x : Session) (b : List Byte) : Reply × State :=
  let n := leNat (sliceZ b 8 1)
  if b.length ≠ 12 + 8 * n || 16 < n then ({ status := stLENGTH }, s)
  else
    let ws := parseWatches b
    match ws.find? fun w => readStatus s w.index w.sub ≠ stOK with
    | some w => ({ status := readStatus s w.index w.sub }, s)
    | none => ({ status := stOK }, setSession s { x with mask := w64 (leNat (b.take 8)) &&& ~~~1#64, watches := ws })

def execSubscribe (msg : Datagram) (s : State) : Out1 := .next (request s msg 0x14 fun s x => subscribe s x msg.body)

/-- Where a queue has room and events were lost, one EVENT_LOST with their count is queued and sent. -/
def lostToSession (s : State) (id : Nat) : State :=
  match sessionOf s id with
  | none => s
  | some x =>
    if x.lost = 0 || 256 ≤ x.queue.length then s
    else
      let seq := s.mgmt.eventSeq + 1
      let er := eventRecord 21 seq (fcNow s) (leBytes 4 x.lost)
      let y := { x with queue := x.queue ++ [(seq, er, 1)], lost := 0 }
      let s := { s with mgmt := { s.mgmt with eventSeq := seq } }
      sendEvents (setSession s y) y [er]

/-- EVENT_ACK: seq 0, no response. -/
def eventAck (s : State) (m : Datagram) : State :=
  if !mdpFrameOk m then mdpDiscard s
  else if hdType m.header ≠ 0x16 then s
  else match sessionOf s (hdSession m.header) with
    | none => mdpDiscard s
    | some x =>
      if !x.isOpen || m.tag ≠ mdpTag x.managerKey m.header m.body then mdpDiscard s
      else if hdSeq m.header ≠ 0 then countMdp s eMdpSeqErrorCount
      else if m.body.length ≠ 4 then s
      else lostToSession (setSession s { x with queue := x.queue.filter fun r => leNat m.body < r.1 }) x.id

def execEventAck (msg : Datagram) (s : State) : Out1 := .next (eventAck s msg)

/-- EVENT_RESEND: sent again, or after 8 sends dropped and counted as lost. -/
def eventResend (s : State) (id seq : Nat) : State :=
  match sessionOf s id with
  | none => s
  | some x => match x.queue.find? fun r => r.1 = seq with
    | none => s
    | some r =>
      if r.2.2 < 8 then
        let y := { x with queue := x.queue.map fun q => if q.1 = seq then (q.1, q.2.1, q.2.2 + 1) else q }
        sendEvents (setSession s y) y [r.2.1]
      else
        let s := setSession s { x with queue := x.queue.filter (fun q => q.1 ≠ seq), lost := x.lost + 1 }
        lostToSession (countMdp s eMdpEventLostCount) id

def execEventResend (session seq : Nat) (s : State) : Out1 := .next (eventResend s session seq)

/-- The data of an ENTRY_CHANGE. -/
def entryChange (w : Watch) (v : List Byte) : List Byte :=
  leBytes 2 w.index ++ leBytes 1 w.sub ++ leBytes 1 0 ++ if 64 < v.length then [] else v

/-- WATCH_CHECK: a changed value raises ENTRY_CHANGE for that session. -/
def watchCheck (s : State) (id n : Nat) : State :=
  match sessionOf s id with
  | none => s
  | some x => match x.watches[n]? with
    | none => s
    | some w =>
      let v := entryValue s (.session id) w.index w.sub
      if !x.isOpen || w.last = some v then s
      else
        let seq := s.mgmt.eventSeq + 1
        let s := { s with mgmt := { s.mgmt with eventSeq := seq } }
        let s := setSession s { x with watches := x.watches.set n { w with last := some v } }
        eventToSession s 20 seq (eventRecord 20 seq (fcNow s) (entryChange w v)) id

def execWatchCheck (session watch : Nat) (s : State) : Out1 := .next (watchCheck s session watch)

/-! Network layer (R398). -/

/-- The module's own addresses. -/
def ownAddress (s : State) (a : BitVec 128) : Bool :=
  a.toNat = beNat linkLocal || (a ≠ 0 && a.toNat = beNat (sliceZ (blob s eIpv6Address) 0 16))

/-- ICMPV6_ECHO: answered with its payload. -/
def execIcmpv6Echo (dst src : BitVec 128) (payload : List Byte) (s : State) : Out1 :=
  .next (if mgmtUp s && ownAddress s dst then emit s (.icmp src payload) else s)

/-- NEIGHBOR_DISCOVERY: answered with the MAC address. -/
def execNeighborDiscovery (target src : BitVec 128) (s : State) : Out1 :=
  .next (if mgmtUp s && ownAddress s target then emit s (.neighbor src target Config.macAddress) else s)

end Sys2Proof.Machine
end

