-- ==== Sys2Proof/Machine/Mailbox.lean ====
section
/-! DEFINITION. The mailbox of the PCI Express function: rings, DICT, DMA, completions and interrupts (17, R409 to R415). -/
namespace Sys2Proof.Machine

/-! Submission entries (Table 17.9). -/

abbrev sbOpcode (e : BitVec 512) : Nat := bitsAt e.toNat 0 8
abbrev sbType (e : BitVec 512) : Nat := bitsAt e.toNat 8 8
abbrev sbId (e : BitVec 512) : Nat := bitsAt e.toNat 16 16
abbrev sbHost (e : BitVec 512) : Nat := bitsAt e.toNat 256 64
abbrev sbModule (e : BitVec 512) : Nat := bitsAt e.toNat 320 64
abbrev sbLength (e : BitVec 512) : Nat := bitsAt e.toNat 384 32
abbrev sbRespLength (e : BitVec 512) : Nat := bitsAt e.toNat 416 32
abbrev sbResp (e : BitVec 512) : Nat := bitsAt e.toNat 448 64

/-- The opcodes of Table 17.9. -/
def sbOpcodes : List Nat := [0x01, 0x10, 0x11, 0x12, 0x13, 0x20, 0x30]

/-- BAR0 has its registers: the link is up and boot step 5 is complete (R410). -/
def barReady (s : State) : Bool := s.host.linkUp && loafUp s

/-- The mailbox runs. -/
def mailboxOn (s : State) : Bool := barReady s && s.host.enable

/-! Rings (R411, R415). -/

/-- The completion ring is full. -/
def cqFull (s : State) : Bool := s.host.cqSize = 0 || (s.host.cqTail + 1) % s.host.cqSize = s.host.cqHead

/-- A completion entry (Table 17.10). -/
def completion (s : State) (id status done detail : Nat) : List Byte :=
  leBytes 16 (id % 2 ^ 16 + status % 2 ^ 8 * 2 ^ 16 + b2n s.host.phase * 2 ^ 31 + done % 2 ^ 32 * 2 ^ 32 + detail % 2 ^ 64 * 2 ^ 64)

/-- Write one completion, where the ring has room; the phase turns at its wrap. -/
def putCompletion (s : State) (id status done detail : Nat) : State :=
  let s := emit s (.hostMem (s.host.cqBase.toNat + 16 * s.host.cqTail) (completion s id status done detail))
  let next := (s.host.cqTail + 1) % s.host.cqSize
  raiseMsix { s with host := { s.host with cqTail := next, phase := if next = 0 then !s.host.phase else s.host.phase } } (rd s eMailboxMsixVector)

/-- ABORTED completions come first, in fetch order, as far as the ring has room; the kept list is then cleared. -/
def flushAborted : List (BitVec 16) → State → State
  | [], s => { s with host := { s.host with aborted := [], abortPending := false } }
  | i :: t, s =>
    if cqFull s then { s with host := { s.host with aborted := i :: t } } else flushAborted t (putCompletion s i.toNat stABORTED 0 0)

/-- Fetch what stands behind the doorbell, in ring order, while the completion ring is not full. -/
def fetchRung (s : State) : State :=
  if cqFull s || s.host.sqSize = 0 then s
  else { s with host := { s.host with fetched := s.host.fetched ++ s.host.ringed, ringed := [],
                                      sqHead := (s.host.sqHead + s.host.ringed.length) % s.host.sqSize } }

/-- SQ_DOORBELL: the new tail, and the entries that the host wrote up to it. -/
def sqDoorbell (s : State) (tail : Nat) (entries : List (BitVec 512)) : State :=
  if !mailboxOn s || s.host.sqSize ≤ tail then s
  else
    let n := (tail + s.host.sqSize - s.host.sqTail % s.host.sqSize) % s.host.sqSize
    if entries.length < n then s
    else fetchRung { s with host := { s.host with ringed := s.host.ringed ++ entries.take n, sqTail := tail } }

def execSqDoorbell (tail : Nat) (entries : List (BitVec 512)) (s : State) : Out1 := .next (sqDoorbell s tail entries)

/-- A fetched command of an opcode that has not finished. -/
def runnable (s : State) (e : BitVec 512) (op : Nat) : Bool :=
  mailboxOn s && decide (sbOpcode e = op) && decide ((s.host.finished.map (·.1)).count e < s.host.fetched.count e)

/-- Note a command as done: status, done_bytes, detail. -/
def finish (s : State) (e : BitVec 512) (status done detail : Nat) : State :=
  { s with host := { s.host with finished := s.host.finished ++ [(e, status, done, detail)] } }

/-! DICT (R412). -/

/-- The request that a body of a type makes. The mailbox's last segment is the one that reaches the total (log entry 37). -/
def dictRequest (s : State) (e : BitVec 512) (body : List Byte) : Reply × State :=
  if sbType e = 0x10 then readBody s .mailbox body (sbRespLength e)
  else if sbType e = 0x11 then writeBody s .mailbox body
  else if sbType e = 0x12 then readBlock s .mailbox body 65536
  else if sbType e = 0x13 then
    writeBlock s .mailbox body (leNat (sliceZ body 4 4) + (body.length - 12) = leNat (sliceZ body 8 4)) 65536
  else ({ status := stRANGE }, s)

/-- DICT: the response goes to the host where it fits. -/
def dict (s : State) (e : BitVec 512) (body : List Byte) : State :=
  if !runnable s e 0x01 || body.length ≠ sbLength e then s
  else if 65536 < sbLength e then finish s e stLENGTH 0 0
  else
    let r := dictRequest s e body
    if sbRespLength e < r.1.body.length then finish r.2 e stLENGTH 0 0
    else
      let s := if r.1.body.isEmpty then r.2 else emit r.2 (.hostMem (sbResp e) r.1.body)
      finish s e r.1.status r.1.body.length 0

def execDict (entry : BitVec 512) (body : List Byte) (s : State) : Out1 := .next (dict s entry body)

/-! DMA (R413, Table 17.11). -/

/-- Whole slabs, an aligned host buffer, at most 1 GiB. -/
def dmaShape (e : BitVec 512) : Nat :=
  if sbModule e % 4096 ≠ 0 || sbHost e % 64 ≠ 0 then stRANGE
  else if sbLength e % 4096 ≠ 0 || 2 ^ 30 < sbLength e then stLENGTH
  else stOK

/-- The slabs a command names. -/
def dmaSlabs (e : BitVec 512) : List Nat := (List.range (sbLength e / 4096)).map (· + sbModule e / 4096)

/-- The station and field whose Vat copies hold a slab. -/
def copyOwner (s : State) (n : Nat) : Option (Station × BitVec 256) :=
  s.stations.installed.findSome? fun y =>
    ((y.2.bases.zip y.2.fields).find? fun b =>
      sfKind b.2 ≠ kiUNUSED && b.1 ≤ n && n < b.1 + sfSlabs b.2 * fieldCopies y.2.header b.2).map fun b => (y.2, b.2)

/-- The station whose homes hold a Cellar slab. -/
def homeOwner (s : State) (c : Nat) : Option Station :=
  (s.stations.installed.find? fun y => (homesOf y.2.fields).any fun r => r.1 ≤ c && c < r.1 + r.2).map (·.2)

/-- The status of a write to some slabs: outside what is permitted RANGE, in a station that is not LOADING STATE. -/
def vatWriteStatus (s : State) (l : List Nat) : Nat :=
  if l.any fun n => (copyOwner s n).isNone then stRANGE
  else if l.any fun n => (match copyOwner s n with | some y => sfVersioned y.2 && y.1.state ≠ 1 | none => false) then stSTATE
  else stOK
def cellarWriteStatus (s : State) (l : List Nat) : Nat :=
  if l.any fun c => (homeOwner s c).isNone then stRANGE
  else if l.any fun c => (match homeOwner s c with | some y => y.state ≠ 1 | none => false) then stSTATE
  else stOK

/-- A DMA write to the module: nothing moves after a FATAL fault or where the command breaks its row. -/
def dmaWrite (s : State) (e : BitVec 512) (status : Nat) (move : State → State) : State :=
  if s.faults.frozen then finish s e stFROZEN 0 0
  else if dmaShape e ≠ stOK then finish s e (dmaShape e) 0 0
  else if status ≠ stOK then finish s e status 0 0
  else finish (bump64 (move s) eDmaBytesToModule (sbLength e)) e stOK (sbLength e) 0

/-- VAT_WRITE: new CRCs; source_valid and poisoned cleared. A slab that is being written elsewhere makes the command wait. -/
def vatWrite (s : State) (e : BitVec 512) (data : List Byte) : State :=
  if !runnable s e 0x10 || data.length ≠ sbLength e || (!s.faults.frozen && (dmaSlabs e).any (slabPending s)) then s
  else dmaWrite s e (vatWriteStatus s (dmaSlabs e)) fun s => vatPut s (sbModule e) data

def execVatWrite (entry : BitVec 512) (data : List Byte) (s : State) : Out1 := .next (vatWrite s entry data)

/-- CELLAR_WRITE: a CRC with each slab. -/
def cellarWrite (s : State) (e : BitVec 512) (data : List Byte) : State :=
  if !runnable s e 0x12 || data.length ≠ sbLength e then s
  else dmaWrite s e (cellarWriteStatus s (dmaSlabs e)) fun s => cellarPut s (sbModule e) data

def execCellarWrite (entry : BitVec 512) (data : List Byte) (s : State) : Out1 := .next (cellarWrite s entry data)

/-- The slabs before the first bad one. -/
def goodPrefix (good : Nat → Bool) (l : List Nat) : List Nat := l.takeWhile good

/-- A DMA read: the good prefix goes to the host; a bad slab ends the command POISONED with its address, after `fail`. -/
def dmaRead (s : State) (e : BitVec 512) (status : Nat) (good : Nat → Bool) (bytes : Nat → List Byte) (fail : State → Nat → State) : State :=
  if dmaShape e ≠ stOK then finish s e (dmaShape e) 0 0
  else if status ≠ stOK then finish s e status 0 0
  else
    let l := goodPrefix good (dmaSlabs e)
    let n := 4096 * l.length
    let s := if l.isEmpty then s else emit s (.hostMem (sbHost e) (l.flatMap bytes))
    let s := if s.faults.frozen then s else bump64 s eDmaBytesToHost n
    match (dmaSlabs e)[l.length]? with
    | none => finish s e stOK n 0
    | some b => finish (if s.faults.frozen then s else fail s b) e stPOISONED n (4096 * b)

/-- VAT_READ: each slab is checked. -/
def vatRead (s : State) (e : BitVec 512) : State :=
  if !runnable s e 0x11 || (!s.faults.frozen && (dmaSlabs e).any (slabPending s)) then s
  else dmaRead s e (if (dmaSlabs e).any fun n => (copyOwner s n).isNone then stRANGE else stOK)
    (fun n => !slabPoisoned s n && unitGood s n 0) (fun n => unitBytes s n 0)
    fun s n => if slabPoisoned s n then s else failUnit s n 0

def execVatRead (entry : BitVec 512) (s : State) : Out1 := .next (vatRead s entry)

/-- CELLAR_READ: each slab is checked (R175). -/
def cellarRead (s : State) (e : BitVec 512) : State :=
  if !runnable s e 0x13 then s
  else dmaRead s e (if (dmaSlabs e).any fun c => cellarSlabs ≤ c then stRANGE else stOK)
    (cellarGood s) (cellarBytes s)
    fun s c => raiseFault (bump s eCellarCrcErrorCount) 17 4 (channelOf c) (w64 c)

def execCellarRead (entry : BitVec 512) (s : State) : Out1 := .next (cellarRead s entry)

/-- SET_SAVE_BUFFER. -/
def setSaveBuffer (s : State) (e : BitVec 512) : State :=
  if !runnable s e 0x20 then s
  else if s.faults.frozen then finish s e stFROZEN 0 0
  else finish { s with save := { s.save with buffer := some (sbHost e, sbLength e) } } e stOK 0 0

def execSetSaveBuffer (entry : BitVec 512) (s : State) : Out1 := .next (setSaveBuffer s entry)

/-- NOP. -/
def execNop (entry : BitVec 512) (s : State) : Out1 := .next (if runnable s entry 0x30 then finish s entry stOK 0 0 else s)

/-! Completion (R411). -/

/-- How the command at the head of the ring ended: an opcode outside Table 17.9 ends with RANGE (log entry 38). -/
def headResult (s : State) (e : BitVec 512) : Option (Nat × Nat × Nat) :=
  if !sbOpcodes.contains (sbOpcode e) then some (stRANGE, 0, 0) else (s.host.finished.find? fun f => f.1 = e).map (·.2)

/-- Remove the first record of an entry. -/
def dropFinished (l : List (BitVec 512 × Nat × Nat × Nat)) (e : BitVec 512) : List (BitVec 512 × Nat × Nat × Nat) :=
  match l with
  | [] => []
  | f :: t => if f.1 = e then t else f :: dropFinished t e

/-- MAILBOX_COMMAND_COMPLETE: the oldest fetched command, once it is done and the ring has room. -/
def mailboxComplete (s : State) : State :=
  match s.host.fetched with
  | [] => s
  | e :: t => match headResult s e with
    | none => s
    | some r =>
      if !mailboxOn s || !s.host.aborted.isEmpty || cqFull s then s
      else
        let s := putCompletion s (sbId e) r.1 r.2.1 r.2.2
        fetchRung { s with host := { s.host with fetched := t, finished := dropFinished s.host.finished e } }

def execMailboxCommandComplete (s : State) : Out1 := .next (mailboxComplete s)

/-- CQ_HEAD_WRITE. -/
def cqHeadWrite (s : State) (v : Nat) : State :=
  if !barReady s || s.host.cqSize ≤ v then s
  else
    let s := { s with host := { s.host with cqHead := v } }
    if s.host.enable then fetchRung (flushAborted s.host.aborted s) else s

def execCqHeadWrite (value : Nat) (s : State) : Out1 := .next (cqHeadWrite s value)

/-- EVENT_LOST in the event ring, once it has room (R414). -/
def lostToHost (s : State) : State :=
  let next := (s.host.eqTail + 1) % s.host.eqSize
  if !hostRing s || s.host.eventLost = 0 || next = s.host.eqHead then s
  else
    let seq := s.mgmt.eventSeq + 1
    let er := eventRecord 21 seq (fcNow s) (leBytes 4 s.host.eventLost)
    let s := emit s (.hostMem (s.host.eqBase.toNat + 128 * s.host.eqTail) (leBytes 128 er.toNat))
    deferMsix { s with mgmt := { s.mgmt with eventSeq := seq }, host := { s.host with eqTail := next, eventLost := 0 } } (rd s eEventMsixVector)

/-- EQ_HEAD_WRITE. -/
def eqHeadWrite (s : State) (v : Nat) : State :=
  if !barReady s || s.host.eqSize ≤ v then s else lostToHost { s with host := { s.host with eqHead := v } }

def execEqHeadWrite (value : Nat) (s : State) : Out1 := .next (eqHeadWrite s value)

/-! MB_CONTROL (R410, R415). -/

/-- A ring size is a power of two within its range, and a base is 4 KiB aligned; no other value is taken (log entry 39). -/
def ringSizeOk (lo hi n : Nat) : Bool := lo ≤ n && n ≤ hi && (List.range 17).any fun k => n = 2 ^ k
def ringBaseOk (b : BitVec 64) : Bool := b.toNat % 4096 = 0

/-- The ring registers, written only while enable is 0. -/
def setRings (h : HostIf) (sq cq eq : BitVec 64) (sqN cqN eqN : Nat) : HostIf :=
  { h with sqBase := if ringBaseOk sq then sq else h.sqBase,
           cqBase := if ringBaseOk cq then cq else h.cqBase,
           eqBase := if ringBaseOk eq then eq else h.eqBase,
           sqSize := if ringSizeOk 16 4096 sqN then sqN else h.sqSize,
           cqSize := if ringSizeOk 16 4096 cqN then cqN else h.cqSize,
           eqSize := if ringSizeOk 64 65536 eqN then eqN else h.eqSize }

/-- MB_CONTROL_WRITE: setting enable reports the aborted commands first. -/
def mbControlWrite (s : State) (value : BitVec 32) (sq cq eq : BitVec 64) (sqN cqN eqN : Nat) : State :=
  if !barReady s then s
  else
    let was := s.host.enable
    let h := if was then s.host else setRings s.host sq cq eq sqN cqN eqN
    let s := { s with host := { h with enable := value.getLsbD 0 } }
    if !was && s.host.enable then fetchRung (flushAborted s.host.aborted s) else s

def execMbControlWrite (value : BitVec 32) (sqBase cqBase eqBase : BitVec 64) (sqSize cqSize eqSize : Nat) (s : State) : Out1 :=
  .next (mbControlWrite s value sqBase cqBase eqBase sqSize cqSize eqSize)

/-- EVENT_MSIX_TIMER: the vector is raised if records were written. -/
def eventMsixTimer (s : State) (v : Nat) : State :=
  if s.host.linkUp && s.host.unraised.contains v then raiseMsix { s with host := { s.host with unraised := s.host.unraised.filter (· ≠ v) } } v
  else s

def execEventMsixTimer (vector : Nat) (s : State) : Out1 := .next (eventMsixTimer s vector)

end Sys2Proof.Machine
end

