-- ==== Sys2Proof/Machine/Dispatch.lean ====
section
/-! DEFINITION. What each command does: one arm per constructor, each a direct call of its meaning. -/
namespace Sys2Proof.Machine
open Sys2Proof

def exec (i : Instr) (s : State) : Host.Outcome State Fault Refusal :=
  match i with
  | .alwaysOnStart mv => Sys2Proof.Machine.execAlwaysOnStart mv s
  | .mainPowerStart mv => Sys2Proof.Machine.execMainPowerStart mv s
  | .supplyLow mv => Sys2Proof.Machine.execSupplyLow mv s
  | .supplyHigh mv => Sys2Proof.Machine.execSupplyHigh mv s
  | .supplyUv => Sys2Proof.Machine.execSupplyUv s
  | .supplyOv => Sys2Proof.Machine.execSupplyOv s
  | .mainRailsShutdown => Sys2Proof.Machine.execMainRailsShutdown s
  | .inputLost => Sys2Proof.Machine.execInputLost s
  | .alwaysOnLoss => Sys2Proof.Machine.execAlwaysOnLoss s
  | .mateNChange high => Sys2Proof.Machine.execMateNChange high s
  | .modReset => Sys2Proof.Machine.execModReset s
  | .modResetRelease straps mv => Sys2Proof.Machine.execModResetRelease straps mv s
  | .perstNAssert => Sys2Proof.Machine.execPerstNAssert s
  | .perstNRelease speed width => Sys2Proof.Machine.execPerstNRelease speed width s
  | .functionLevelReset => Sys2Proof.Machine.execFunctionLevelReset s
  | .refclkLost => Sys2Proof.Machine.execRefclkLost s
  | .fallbackRelock => Sys2Proof.Machine.execFallbackRelock s
  | .refclkRestored => Sys2Proof.Machine.execRefclkRestored s
  | .pllLoss => Sys2Proof.Machine.execPllLoss s
  | .bootPllLock => Sys2Proof.Machine.execBootPllLock s
  | .starterSelect sigA sigB => Sys2Proof.Machine.execStarterSelect sigA sigB s
  | .bootLanes refclkGood => Sys2Proof.Machine.execBootLanes refclkGood s
  | .bootLoaf => Sys2Proof.Machine.execBootLoaf s
  | .bootMemory trained => Sys2Proof.Machine.execBootMemory trained s
  | .bootProof failed pes rows => Sys2Proof.Machine.execBootProof failed pes rows s
  | .bootTopology => Sys2Proof.Machine.execBootTopology s
  | .bootReady ms => Sys2Proof.Machine.execBootReady ms s
  | .enableRequest index sub => Sys2Proof.Machine.execEnableRequest index sub s
  | .disableRequest index sub => Sys2Proof.Machine.execDisableRequest index sub s
  | .functionStartDone index sub outcome => Sys2Proof.Machine.execFunctionStartDone index sub outcome s
  | .functionStopDone index sub => Sys2Proof.Machine.execFunctionStopDone index sub s
  | .stopTimeout index sub => Sys2Proof.Machine.execStopTimeout index sub s
  | .thermalLevelChange milliC => Sys2Proof.Machine.execThermalLevelChange milliC s
  | .thermalTrip milliC => Sys2Proof.Machine.execThermalTrip milliC s
  | .powerWindow10us watts => Sys2Proof.Machine.execPowerWindow10us watts s
  | .powerWindow1ms mv ma watts => Sys2Proof.Machine.execPowerWindow1ms mv ma watts s
  | .supplyPeakPowerRead src => Sys2Proof.Machine.execSupplyPeakPowerRead src s
  | .frameSlot port => Sys2Proof.Machine.execFrameSlot port s
  | .markerSlot group => Sys2Proof.Machine.execMarkerSlot group s
  | .signalDetect lane => Sys2Proof.Machine.execSignalDetect lane s
  | .cdrLock lane => Sys2Proof.Machine.execCdrLock lane s
  | .markerReceived lane slot skew block => Sys2Proof.Machine.execMarkerReceived lane slot skew block s
  | .idFrameReceived port onSpare flit trailer => Sys2Proof.Machine.execIdFrameReceived port onSpare flit trailer s
  | .quarantineRelease port => Sys2Proof.Machine.execQuarantineRelease port s
  | .portExpectedEndpointWrite src port ident => Sys2Proof.Machine.execPortExpectedEndpointWrite src port ident s
  | .lossOfSignal lane => Sys2Proof.Machine.execLossOfSignal lane s
  | .cdrLossOfLock lane => Sys2Proof.Machine.execCdrLossOfLock lane s
  | .markerLoss lane => Sys2Proof.Machine.execMarkerLoss lane s
  | .marginWindowEnd lane errors => Sys2Proof.Machine.execMarginWindowEnd lane errors s
  | .lossClassify port => Sys2Proof.Machine.execLossClassify port s
  | .switchReceived group block => Sys2Proof.Machine.execSwitchReceived group block s
  | .laneUserCalWrite src group sub value => Sys2Proof.Machine.execLaneUserCalWrite src group sub value s
  | .pktFrameReceived port flit trailer => Sys2Proof.Machine.execPktFrameReceived port flit trailer s
  | .retryTimerExpiry port => Sys2Proof.Machine.execRetryTimerExpiry port s
  | .roundTripFixed port => Sys2Proof.Machine.execRoundTripFixed port s
  | .torusSizeCommit src => Sys2Proof.Machine.execTorusSizeCommit src s
  | .portBondLeaderWrite src port leader => Sys2Proof.Machine.execPortBondLeaderWrite src port leader s
  | .sliceCommit src slice => Sys2Proof.Machine.execSliceCommit src slice s
  | .sliceDrainTimeout slice => Sys2Proof.Machine.execSliceDrainTimeout slice s
  | .bulkEscapeWait port vc => Sys2Proof.Machine.execBulkEscapeWait port vc s
  | .escapeProceed port vc => Sys2Proof.Machine.execEscapeProceed port vc s
  | .stallTimeout port vc => Sys2Proof.Machine.execStallTimeout port vc s
  | .localFailover port => Sys2Proof.Machine.execLocalFailover port s
  | .egressRequeue port => Sys2Proof.Machine.execEgressRequeue port s
  | .detourInstall entries => Sys2Proof.Machine.execDetourInstall entries s
  | .detourRemove modules => Sys2Proof.Machine.execDetourRemove modules s
  | .fabricAdmit src => Sys2Proof.Machine.execFabricAdmit src s
  | .routeAdmission port => Sys2Proof.Machine.execRouteAdmission port s
  | .windowUpdDelay srcId cls => Sys2Proof.Machine.execWindowUpdDelay srcId cls s
  | .windowLeakTimeout srcId module cls => Sys2Proof.Machine.execWindowLeakTimeout srcId module cls s
  | .reorderHoldTimeout srcId dstId => Sys2Proof.Machine.execReorderHoldTimeout srcId dstId s
  | .reorderContextIdle srcId dstId => Sys2Proof.Machine.execReorderContextIdle srcId dstId s
  | .curdGrant pool => Sys2Proof.Machine.execCurdGrant pool s
  | .wheyGrant => Sys2Proof.Machine.execWheyGrant s
  | .policerRefill => Sys2Proof.Machine.execPolicerRefill s
  | .policerRateWrite src port cls value => Sys2Proof.Machine.execPolicerRateWrite src port cls value s
  | .policerBurstWrite src port cls value => Sys2Proof.Machine.execPolicerBurstWrite src port cls value s
  | .policerEnableWrite src port value => Sys2Proof.Machine.execPolicerEnableWrite src port value s
  | .policerWindowWrite src value => Sys2Proof.Machine.execPolicerWindowWrite src value s
  | .shaperConfigWrite src port sub value => Sys2Proof.Machine.execShaperConfigWrite src port sub value s
  | .ctrlCeilingFill port => Sys2Proof.Machine.execCtrlCeilingFill port s
  | .vatAccess slab unit write flips => Sys2Proof.Machine.execVatAccess slab unit write flips s
  | .vatRefetchDone slab flips => Sys2Proof.Machine.execVatRefetchDone slab flips s
  | .vatReadbackDone slab flips => Sys2Proof.Machine.execVatReadbackDone slab flips s
  | .vatRemapDone slab => Sys2Proof.Machine.execVatRemapDone slab s
  | .vatBankMoveDone bank => Sys2Proof.Machine.execVatBankMoveDone bank s
  | .tbufParityError cluster half => Sys2Proof.Machine.execTbufParityError cluster half s
  | .tbufReload cluster half => Sys2Proof.Machine.execTbufReload cluster half s
  | .cellarSlabReadDone cslab slab flips => Sys2Proof.Machine.execCellarSlabReadDone cslab slab flips s
  | .cellarRefresh waited rate milliC => Sys2Proof.Machine.execCellarRefresh waited rate milliC s
  | .cellarChannel channel => Sys2Proof.Machine.execCellarChannel channel s
  | .fabricState => Sys2Proof.Machine.execFabricState s
  | .plihotuProbeWrite src value => Sys2Proof.Machine.execPlihotuProbeWrite src value s
  | .groupInstall src => Sys2Proof.Machine.execGroupInstall src s
  | .groupRemove src => Sys2Proof.Machine.execGroupRemove src s
  | .groupEntryMsg group origin entry => Sys2Proof.Machine.execGroupEntryMsg group origin entry s
  | .groupEntryAck group module refusal => Sys2Proof.Machine.execGroupEntryAck group module refusal s
  | .joinReceived port pkt => Sys2Proof.Machine.execJoinReceived port pkt s
  | .dataReceived port pkt => Sys2Proof.Machine.execDataReceived port pkt s
  | .contribReceived port pkt => Sys2Proof.Machine.execContribReceived port pkt s
  | .joinUpReceived port pkt => Sys2Proof.Machine.execJoinUpReceived port pkt s
  | .doneUpReceived port pkt => Sys2Proof.Machine.execDoneUpReceived port pkt s
  | .commitReceived port pkt => Sys2Proof.Machine.execCommitReceived port pkt s
  | .collResultReceived port pkt => Sys2Proof.Machine.execCollResultReceived port pkt s
  | .endReceived port pkt => Sys2Proof.Machine.execEndReceived port pkt s
  | .rerunReceived port pkt => Sys2Proof.Machine.execRerunReceived port pkt s
  | .reportReceived port pkt => Sys2Proof.Machine.execReportReceived port pkt s
  | .memberAbortReceived port pkt => Sys2Proof.Machine.execMemberAbortReceived port pkt s
  | .poisonNoticeReceived port pkt => Sys2Proof.Machine.execPoisonNoticeReceived port pkt s
  | .joinTimeout group => Sys2Proof.Machine.execJoinTimeout group s
  | .progressTimeout group => Sys2Proof.Machine.execProgressTimeout group s
  | .treeLossReport group lostModule isMember => Sys2Proof.Machine.execTreeLossReport group lostModule isMember s
  | .treeRecompute group entry => Sys2Proof.Machine.execTreeRecompute group entry s
  | .contextSwap group => Sys2Proof.Machine.execContextSwap group s
  | .maximaReceived port pkt => Sys2Proof.Machine.execMaximaReceived port pkt s
  | .finalReceived port pkt => Sys2Proof.Machine.execFinalReceived port pkt s
  | .churnTake group acc => Sys2Proof.Machine.execChurnTake group acc s
  | .skewWindowEnd group acc => Sys2Proof.Machine.execSkewWindowEnd group acc s
  | .accumulatorComplete group acc lane residueOk convertOk => Sys2Proof.Machine.execAccumulatorComplete group acc lane residueOk convertOk s
  | .churnSpareTakeover lane => Sys2Proof.Machine.execChurnSpareTakeover lane s
  | .kneadTileLoaded unit => Sys2Proof.Machine.execKneadTileLoaded unit s
  | .kneadPassDone unit array verdict => Sys2Proof.Machine.execKneadPassDone unit array verdict s
  | .kneadUnitDone unit verdict => Sys2Proof.Machine.execKneadUnitDone unit verdict s
  | .kneadRepairApply array => Sys2Proof.Machine.execKneadRepairApply array s
  | .clusterTakeover cluster reason => Sys2Proof.Machine.execClusterTakeover cluster reason s
  | .recipeInstall src => Sys2Proof.Machine.execRecipeInstall src s
  | .recipeRemove src => Sys2Proof.Machine.execRecipeRemove src s
  | .invokeReceived port pkt => Sys2Proof.Machine.execInvokeReceived port pkt s
  | .invokePacketReceived port pkt => Sys2Proof.Machine.execInvokePacketReceived port pkt s
  | .recipeInputTimeout inv => Sys2Proof.Machine.execRecipeInputTimeout inv s
  | .invocationStart inv => Sys2Proof.Machine.execInvocationStart inv s
  | .matmulForward inv => Sys2Proof.Machine.execMatmulForward inv s
  | .matmulBackwardPair inv => Sys2Proof.Machine.execMatmulBackwardPair inv s
  | .topk inv => Sys2Proof.Machine.execTopk inv s
  | .softmax inv => Sys2Proof.Machine.execSoftmax inv s
  | .normRms inv => Sys2Proof.Machine.execNormRms inv s
  | .normLayer inv => Sys2Proof.Machine.execNormLayer inv s
  | .scaleMul inv => Sys2Proof.Machine.execScaleMul inv s
  | .scaleRowvec inv => Sys2Proof.Machine.execScaleRowvec inv s
  | .scaleColvec inv => Sys2Proof.Machine.execScaleColvec inv s
  | .scaleRelu inv => Sys2Proof.Machine.execScaleRelu inv s
  | .scaleSilu inv => Sys2Proof.Machine.execScaleSilu inv s
  | .addStep inv => Sys2Proof.Machine.execAddStep inv s
  | .subStep inv => Sys2Proof.Machine.execSubStep inv s
  | .mulStep inv => Sys2Proof.Machine.execMulStep inv s
  | .convert inv => Sys2Proof.Machine.execConvert inv s
  | .stageIn inv => Sys2Proof.Machine.execStageIn inv s
  | .stageOut inv => Sys2Proof.Machine.execStageOut inv s
  | .dispatch inv => Sys2Proof.Machine.execDispatch inv s
  | .returnBufferAllocated inv => Sys2Proof.Machine.execReturnBufferAllocated inv s
  | .combine inv => Sys2Proof.Machine.execCombine inv s
  | .reduceInit inv => Sys2Proof.Machine.execReduceInit inv s
  | .reduceAccumulate inv => Sys2Proof.Machine.execReduceAccumulate inv s
  | .reduceRows inv => Sys2Proof.Machine.execReduceRows inv s
  | .updateSgdM inv => Sys2Proof.Machine.execUpdateSgdM inv s
  | .updateAdamw inv => Sys2Proof.Machine.execUpdateAdamw inv s
  | .updateSlotTaken inv => Sys2Proof.Machine.execUpdateSlotTaken inv s
  | .digestCompute inv => Sys2Proof.Machine.execDigestCompute inv s
  | .digestCompare inv => Sys2Proof.Machine.execDigestCompare inv s
  | .digestAuto inv => Sys2Proof.Machine.execDigestAuto inv s
  | .barrier inv => Sys2Proof.Machine.execBarrier inv s
  | .stepComplete inv => Sys2Proof.Machine.execStepComplete inv s
  | .recipeStepTimeout inv => Sys2Proof.Machine.execRecipeStepTimeout inv s
  | .stationInstall src => Sys2Proof.Machine.execStationInstall src s
  | .stationRemove src => Sys2Proof.Machine.execStationRemove src s
  | .stationReady src => Sys2Proof.Machine.execStationReady src s
  | .stationReload src => Sys2Proof.Machine.execStationReload src s
  | .combineDataReceived port pkt => Sys2Proof.Machine.execCombineDataReceived port pkt s
  | .ownerWindowFree inv token slot => Sys2Proof.Machine.execOwnerWindowFree inv token slot s
  | .expertRetry inv token slot => Sys2Proof.Machine.execExpertRetry inv token slot s
  | .expertReturnTimeout inv token slot => Sys2Proof.Machine.execExpertReturnTimeout inv token slot s
  | .strictWrite src value => Sys2Proof.Machine.execStrictWrite src value s
  | .save src => Sys2Proof.Machine.execSave src s
  | .saveComplete => Sys2Proof.Machine.execSaveComplete s
  | .restore src => Sys2Proof.Machine.execRestore src s
  | .restoreVerifyDone hostImage => Sys2Proof.Machine.execRestoreVerifyDone hostImage s
  | .restoreApplyDone failedStation => Sys2Proof.Machine.execRestoreApplyDone failedStation s
  | .fatalRecordFlash => Sys2Proof.Machine.execFatalRecordFlash s
  | .faultRecordClose record => Sys2Proof.Machine.execFaultRecordClose record s
  | .faultUnfence src value => Sys2Proof.Machine.execFaultUnfence src value s
  | .coreFault core => Sys2Proof.Machine.execCoreFault core s
  | .coreEcc core => Sys2Proof.Machine.execCoreEcc core s
  | .coreRestartDone core => Sys2Proof.Machine.execCoreRestartDone core s
  | .fenceNoticeDelay port => Sys2Proof.Machine.execFenceNoticeDelay port s
  | .fenceRefresh => Sys2Proof.Machine.execFenceRefresh s
  | .fenceNoticeReceived port pkt => Sys2Proof.Machine.execFenceNoticeReceived port pkt s
  | .fenceBitExpiry module port => Sys2Proof.Machine.execFenceBitExpiry module port s
  | .proofDue unit => Sys2Proof.Machine.execProofDue unit s
  | .proofNow src unit => Sys2Proof.Machine.execProofNow src unit s
  | .proofPeriodWrite src hours => Sys2Proof.Machine.execProofPeriodWrite src hours s
  | .proofTakeoverDone => Sys2Proof.Machine.execProofTakeoverDone s
  | .proofTestDone pass failing => Sys2Proof.Machine.execProofTestDone pass failing s
  | .proofDeferralEnd => Sys2Proof.Machine.execProofDeferralEnd s
  | .discover msg => Sys2Proof.Machine.execDiscover msg s
  | .mdpOpen msg => Sys2Proof.Machine.execMdpOpen msg s
  | .prove msg signatureOk => Sys2Proof.Machine.execProve msg signatureOk s
  | .mdpClose msg => Sys2Proof.Machine.execMdpClose msg s
  | .ping msg => Sys2Proof.Machine.execPing msg s
  | .mdpRead msg => Sys2Proof.Machine.execMdpRead msg s
  | .mdpWrite msg => Sys2Proof.Machine.execMdpWrite msg s
  | .readBlock msg => Sys2Proof.Machine.execReadBlock msg s
  | .writeBlock msg => Sys2Proof.Machine.execWriteBlock msg s
  | .subscribe msg => Sys2Proof.Machine.execSubscribe msg s
  | .eventAck msg => Sys2Proof.Machine.execEventAck msg s
  | .eventResend session seq => Sys2Proof.Machine.execEventResend session seq s
  | .watchCheck session watch => Sys2Proof.Machine.execWatchCheck session watch s
  | .proveTimeout session => Sys2Proof.Machine.execProveTimeout session s
  | .openLockoutExpiry addr => Sys2Proof.Machine.execOpenLockoutExpiry addr s
  | .sessionTimeout session => Sys2Proof.Machine.execSessionTimeout session s
  | .blockTransferTimeout src => Sys2Proof.Machine.execBlockTransferTimeout src s
  | .managerKeyWrite src item => Sys2Proof.Machine.execManagerKeyWrite src item s
  | .persistStore => Sys2Proof.Machine.execPersistStore s
  | .persistFlush src => Sys2Proof.Machine.execPersistFlush src s
  | .persistReset src value => Sys2Proof.Machine.execPersistReset src value s
  | .sqDoorbell tail entries => Sys2Proof.Machine.execSqDoorbell tail entries s
  | .dict entry body => Sys2Proof.Machine.execDict entry body s
  | .vatWrite entry data => Sys2Proof.Machine.execVatWrite entry data s
  | .vatRead entry => Sys2Proof.Machine.execVatRead entry s
  | .cellarWrite entry data => Sys2Proof.Machine.execCellarWrite entry data s
  | .cellarRead entry => Sys2Proof.Machine.execCellarRead entry s
  | .setSaveBuffer entry => Sys2Proof.Machine.execSetSaveBuffer entry s
  | .nop entry => Sys2Proof.Machine.execNop entry s
  | .mailboxCommandComplete => Sys2Proof.Machine.execMailboxCommandComplete s
  | .cqHeadWrite value => Sys2Proof.Machine.execCqHeadWrite value s
  | .eqHeadWrite value => Sys2Proof.Machine.execEqHeadWrite value s
  | .mbControlWrite value sqBase cqBase eqBase sqSize cqSize eqSize => Sys2Proof.Machine.execMbControlWrite value sqBase cqBase eqBase sqSize cqSize eqSize s
  | .eventMsixTimer vector => Sys2Proof.Machine.execEventMsixTimer vector s
  | .loafImageWrite src image => Sys2Proof.Machine.execLoafImageWrite src image s
  | .loafProgramDone signatureOk => Sys2Proof.Machine.execLoafProgramDone signatureOk s
  | .verify src signatureOk => Sys2Proof.Machine.execVerify src signatureOk s
  | .activateLive src => Sys2Proof.Machine.execActivateLive src s
  | .liveUpdateGroupDone started => Sys2Proof.Machine.execLiveUpdateGroupDone started s
  | .activateAtReset src => Sys2Proof.Machine.execActivateAtReset src s
  | .confirm src => Sys2Proof.Machine.execConfirm src s
  | .reject src => Sys2Proof.Machine.execReject src s
  | .attestNonceWrite src nonce => Sys2Proof.Machine.execAttestNonceWrite src nonce s
  | .insertSeated cage insert => Sys2Proof.Machine.execInsertSeated cage insert s
  | .insertRemoved cage => Sys2Proof.Machine.execInsertRemoved cage s
  | .engineFault cage cause => Sys2Proof.Machine.execEngineFault cage cause s
  | .laserHoursTick cage => Sys2Proof.Machine.execLaserHoursTick cage s
  | .registerWrite src item => Sys2Proof.Machine.execRegisterWrite src item s
  | .icmpv6Echo dst src payload => Sys2Proof.Machine.execIcmpv6Echo dst src payload s
  | .neighborDiscovery target src => Sys2Proof.Machine.execNeighborDiscovery target src s
  | .mdpFrameError msg => Sys2Proof.Machine.execMdpFrameError msg s

end Sys2Proof.Machine
end

