-- ==== Sys2Proof/Machine/Tick.lean ====
section
/-! DEFINITION. What a fabric cycle in which no command waits does: the counter, and the entries that count time (R31, R41, R78,
R145, R146, R159, R245, R324, R332; log entry 7). -/
namespace Sys2Proof.Machine

/-- Add one to a time entry where a condition holds in this cycle. -/
def countTime (s : State) (a : Nat) (c : Bool) : State := if c then bump64 s a 1 else s

/-- ACLK edge i of a block of 16 is skipped at level t (R41). -/
def edgeSkipped (t i : Nat) : Bool := decide (i * t / 16 < (i + 1) * t / 16)

/-- Every second FCLK edge is an ACLK edge (R30). -/
def tickAclk (s : State) : State :=
  if s.now % 2 = 1 then s
  else
    let i := s.clk.aclkEdge
    let s := { s with clk := { s.clk with aclkEdge := (i + 1) % 16 } }
    countTime s eAclkSkippedCount (edgeSkipped (rd s eThrottleLevel) i)

/-- CTRL frames wait for an empty ceiling bucket (R159). -/
def ceilingWaits (q : Port) : Bool := q.sched.ceiling = 0 && q.queue.any fun o => decide (o.vc ≤ 1)

/-- The times of one port. -/
def tickPort (s : State) (p : Nat) : State :=
  let q := portOf s p
  let s := countTime s (eRetryBufferFullTime p) (decide (330 ≤ q.link.retry.length))
  let s := countTime s (ePortBlockWaitTime p) (s.pools.waiting.any fun w => w.out.arrival = p && blockWaiter w)
  countTime s (eCtrlCeilingWaitTime p) (portOn s p && ceilingWaits q)

/-- Pools with no free shared block. -/
def tickPools (s : State) : State :=
  let full (s : State) (k : Nat) : Bool := memUp s && decide (poolTotal s k ≤ poolUsed s k)
  let s := (List.range 3).foldl (fun s k => countTime s (eCurdFullTime k) (full s k)) s
  countTime s eWheyFullTime (full s 3)

/-- A contribution waits for gather space (R245). -/
def gatherWaits (s : State) : Bool :=
  decide (4096 ≤ gatherInUse s) && decide (s.vat.churnSlabs ≤ s.vat.churnUsed.length) &&
  s.groups.any fun g => match g.2.inst with
    | some i => match i.desc with
      | some d => i.waiting.any fun t => (accsOf d t).any fun a => (Tab.find i.accs a).isNone
      | none => false
    | none => false

/-- UPDATEs of a station that wait for a slot (R324). -/
def slotWaiters (s : State) (y : Station) : Nat :=
  (y.updateQueue.filter fun i => match invOf s i with | some v => v.slotTaken.isNone | none => false).length

/-- Expert slots that wait for their owner's window (R332). -/
def windowWaiters (s : State) : Nat := s.recipes.invs.foldl (fun n v => n + (v.2.slots.filter fun e => e.state = .waiting).length) 0

/-- The times of steps. -/
def tickSteps (s : State) : State :=
  let s := countTime s eChurnPartitionFullTime (gatherWaits s)
  let l := s.stations.installed.map fun y => (y.1, { y.2 with waitTime := min (2 ^ 64 - 1) (y.2.waitTime + slotWaiters s y.2) })
  bump64 { s with stations := { s.stations with installed := l } } eExpertWindowWaitTime (windowWaiters s)

/-- One fabric cycle (R31); a frozen module's counters stay (R367). -/
def tick (s : State) : State :=
  if live s then
    let s := tickSteps (tickPools ((List.range 128).foldl tickPort (tickAclk s)))
    { s with now := s.now + 1 }
  else s

end Sys2Proof.Machine
end

