-- ==== Sys2Proof/Safety.lean ====
section
/-! DEFINITION. What counts as a safe state: both memories hold their canonical form, a frozen module shows the fault pair FAULT
and MOD_READY low, the error log and the session table keep their size, and the torus sizes are in bounds. -/
namespace Sys2Proof

/-- The module's addressed memories hold their canonical form, so that equal contents are equal data. -/
def MemoriesCanonical (s : Machine.State) : Prop := Machine.Memory.wf s.vat.mem = true ∧ Machine.Memory.wf s.cellar.mem = true

/-- After a FATAL fault the fault pair reads FAULT (R23) and MOD_READY is low (R19, R366). -/
def FrozenShows (s : Machine.State) : Prop :=
  s.faults.frozen = true → s.pins.ready = false ∧ s.pins.fltP = false ∧ s.pins.fltN = true

/-- The error log holds 1,024 records (R368) and at most eight sessions exist (R401). -/
def Bounded (s : Machine.State) : Prop := s.faults.records.length ≤ 1024 ∧ s.mgmt.sessions.length ≤ 8

/-- Sizes in force, and sizes that a boot would put in force, are in bounds (R95). -/
def SizesValid (s : Machine.State) : Prop :=
  (∀ z, s.topo.sizes = some z → Machine.sizesValid z = true) ∧ (∀ z, s.topo.committed = some z → Machine.sizesValid z = true)

/-- A safe state. -/
def Safe (s : Machine.State) : Prop := MemoriesCanonical s ∧ FrozenShows s ∧ Bounded s ∧ SizesValid s

/-! The terms in which the statements say what a command leaves alone. -/

/-- The counters that raising an event may change: an event that a full queue or ring lost (R407, R414). -/
def eventCounters : List Nat := [Machine.eMdpEventLostCount, Machine.eHostEventDropCount]

/-- The counters that raising a fault may change besides (R371, R372, Table 16.2). -/
def faultCounters : List Nat :=
  [Machine.eFaultClassCount 0, Machine.eFaultClassCount 1, Machine.eFaultClassCount 2, Machine.eFaultLogHead,
   Machine.eFaultUnreportedCount] ++ eventCounters

/-- Only events went out between two states: event numbers, queues of the sinks, counters of lost events, and what left the module. -/
def EventsOnly (s t : Machine.State) : Prop :=
  t = { s with regs := t.regs, outbox := t.outbox,
               mgmt := { s.mgmt with sessions := t.mgmt.sessions, eventSeq := t.mgmt.eventSeq },
               host := { s.host with eqTail := t.host.eqTail, eventLost := t.host.eventLost, unraised := t.host.unraised } } ∧
  ∀ a, a ∉ eventCounters → Machine.Tab.find t.regs a = Machine.Tab.find s.regs a

/-- Only faults were raised between two states: their records and counters, the freeze and what it shows, and their events. -/
def FaultsOnly (s t : Machine.State) : Prop :=
  t = { s with regs := t.regs, outbox := t.outbox,
               faults := { s.faults with records := t.faults.records, fatal := t.faults.fatal, frozen := t.faults.frozen },
               pins := { s.pins with ready := t.pins.ready, fltP := t.pins.fltP, fltN := t.pins.fltN },
               mgmt := { s.mgmt with sessions := t.mgmt.sessions, eventSeq := t.mgmt.eventSeq },
               host := { s.host with eqTail := t.host.eqTail, eventLost := t.host.eventLost, unraised := t.host.unraised } } ∧
  ∀ a, a ∉ faultCounters → Machine.Tab.find t.regs a = Machine.Tab.find s.regs a

/-- A FATAL fault was raised between two states: it is on record, the module is frozen, and it shows it. -/
def FatalRaised (s : Machine.State) (code : Nat) (t : Machine.State) : Prop :=
  FaultsOnly s t ∧ t.faults.frozen = true ∧ t.pins.ready = false ∧ t.pins.fltP = false ∧ t.pins.fltN = true ∧
  ∃ r ∈ t.faults.records, r.opened = true ∧ r.lastCode = code ∧ r.lastFc = Machine.fcNow s

/-- A fault that is not FATAL was raised between two states: it is on record, and the module stays as frozen as it was. -/
def FaultRaised (s : Machine.State) (code : Nat) (t : Machine.State) : Prop :=
  FaultsOnly s t ∧ t.faults.frozen = s.faults.frozen ∧ t.pins = s.pins ∧
  ∃ r ∈ t.faults.records, r.opened = true ∧ r.lastCode = code ∧ r.lastFc = Machine.fcNow s

/-- Only the listed scalar entries changed between two states. -/
def EntriesOnly (l : List Nat) (s t : Machine.State) : Prop :=
  t = { s with regs := t.regs } ∧ ∀ a, a ∉ l → Machine.Tab.find t.regs a = Machine.Tab.find s.regs a

/-- What a reset leaves: everything volatile is at its reset value, and what is stored stays. -/
def OnlyStored (s t : Machine.State) : Prop :=
  t.boot = .held ∧ t.now = 0 ∧ t.vat = {} ∧ t.cellar = {} ∧ t.ports = [] ∧ t.groups = [] ∧ t.recipes.invs = [] ∧ t.recipes.installed = [] ∧
  t.stations.installed = [] ∧ t.mgmt.sessions = [] ∧ (t.faults.records = [] ∧ t.faults.frozen = false) ∧
  (∀ a, Machine.isPersist a = false → Machine.Tab.find t.regs a = none) ∧ (∀ a, Machine.fnOf t a = Machine.fnOf Machine.State.reset a) ∧
  t.topo.committed = s.topo.committed ∧ t.recipes.kept = s.recipes.kept ∧ t.stations.kept = s.stations.kept ∧
  t.fw.rollback = s.fw.rollback ∧ t.fw.revokedFirmware = s.fw.revokedFirmware ∧ t.fw.bootCount = s.fw.bootCount ∧
  t.pending = s.pending ∧ t.lanes = []

/-- Only one entry's value changed between two states, and the note that a persistent one waits for flash (R393). -/
def EntryOnly (a : Nat) (s t : Machine.State) : Prop :=
  t = { s with regs := t.regs, mgmt := { s.mgmt with waiting := t.mgmt.waiting } } ∧
  ∀ b, b ≠ a → Machine.Tab.find t.regs b = Machine.Tab.find s.regs b

/-- A dictionary write passes every check that comes before its owner's: the writer, the entry, its right, and the value. -/
def Accepted (s : Machine.State) (src : Source) (a : Nat) (v : List Byte) : Prop := Machine.addrStatus s src a v = Machine.stOK

/-! A packet of an open collective instance, as R206, R446 and R447 place it. -/

/-- The packet belongs to the open, resident instance of a group of this module, in the group's epoch; an endpoint's came by its port. -/
def GroupPacket (s : Machine.State) (p : Nat) (pkt : Packet) (g : Machine.Group) (i : Machine.Inst) : Prop :=
  Machine.live s = true ∧ (p < 128 ∨ p = 255) ∧
  (Machine.idPort pkt.h.src ≤ 103 → Machine.isEdge p = true ∧ Machine.sourceOk s p pkt.h.src = true) ∧
  Machine.installing s (Machine.hGroup pkt.h) = false ∧ Machine.groupOf s (Machine.hGroup pkt.h) = some g ∧ g.inst = some i ∧
  i.resident = true ∧ g.epoch ≠ 0 ∧ Machine.hEpoch pkt.h = g.epoch

/-- The group once it has noted the packet's time. -/
def takenGroup (s : Machine.State) (g : Machine.Group) (i : Machine.Inst) : Machine.Group :=
  { g with inst := some { i with lastPacket := Machine.fcNow s } }

/-- The state once the packet is taken: it has left the inbox, and the instance has noted its time. -/
def packetTaken (s : Machine.State) (p : Nat) (pkt : Packet) (g : Machine.Group) (i : Machine.Inst) : Machine.State :=
  Machine.setGroup (Machine.takeInbox s p pkt) (Machine.hGroup pkt.h) (takenGroup s g i)

/-- An invocation stands at a step that nothing ends or holds before its locks (R301, R309, R323, R325): `u` is the state once it holds its
versions, `y` the step as it stands there. -/
def StepReady (s : Machine.State) (i : Nat) (x : Machine.Run) (u : Machine.State) (y : Machine.Run) : Prop :=
  Machine.live s = true ∧ Machine.runOf s i = some x ∧ x.problem s = none ∧ Machine.matmulProblem s x.w = none ∧
  Machine.takeVersions s x x.versions = some u ∧ Machine.runOf u i = some y ∧ y.w = x.w

/-- It also has every lock it needs (R302): `t` is the state in which the step has its effect. -/
def StepStarts (s : Machine.State) (i : Nat) (x : Machine.Run) (t : Machine.State) (y : Machine.Run) : Prop :=
  ∃ u, StepReady s i x u y ∧ Machine.takeLocks u y = (t, true)

/-- The end of a command of the collectives or of the recipes: the steps that waited go on, and the space of the packets that units are
done with is free. -/
def served (s : Machine.State) : Machine.State := Machine.clearTaken (Machine.resume s)

/-! The requests of an MDP session. -/

/-- The answer to a request that has no body, with the state after it: LENGTH where the body is not empty. -/
def bodyless (m : Datagram) (t s : Machine.State) : Machine.Reply × Machine.State :=
  if m.body.isEmpty then ({ status := Machine.stOK }, t) else ({ status := Machine.stLENGTH }, s)

/-- The commands that are a session's requests, with their types of Table 17.5, what each answers and the state it leaves (R400, R403). -/
def sessionRequests : List ((Datagram → Instr) × Nat × (Datagram → Machine.State → Machine.Session → Machine.Reply × Machine.State)) :=
  [(.mdpClose, 0x05, fun m s x => bodyless m (Machine.closeSession s x.id) s), (.ping, 0x06, fun m s _ => bodyless m s s),
   (.mdpRead, 0x10, fun m s x => Machine.readBody s (.session x.id) m.body 1420),
   (.mdpWrite, 0x11, fun m s x =>
     if x.role = 2 then Machine.writeBody s (.session x.id) m.body else ({ status := Machine.stACCESS }, s)),
   (.readBlock, 0x12, fun m s x => Machine.readBlock s (.session x.id) m.body 1024),
   (.writeBlock, 0x13, fun m s x =>
     if x.role = 2 then Machine.writeBlock s (.session x.id) m.body (Machine.hdLast m.header) 1024 else ({ status := Machine.stACCESS }, s)),
   (.subscribe, 0x14, fun m s x => Machine.subscribe s x m.body)]

/-- The commands of the supply, of the reset and of boot: those that may move the fabric cycle counter or the boot step (R31, Table 02.5). -/
def clockCommands : Instr → Bool
  | .mainPowerStart _ | .mainRailsShutdown | .alwaysOnLoss | .modReset | .modResetRelease _ _ => true
  | .bootPllLock | .starterSelect _ _ | .bootLanes _ | .bootLoaf | .bootMemory _ | .bootProof _ _ _ | .bootTopology | .bootReady _ => true
  | _ => false

end Sys2Proof
end

