-- ==== Sys2Proof/Certificates/Slice0/Obligations.lean ====
section
/-! DEFINITION. The statements for the provers: what each command does, what the whole module keeps, and what reset leaves. -/
section
open Sys2Proof Sys2Proof.Machine

/-- The supply starts the domains at 40 V and 45 V, and its bands outside 46 to 60 V are counted and reported -/
def Obligations.SupplyStartsDomainsAndRaisesItsEvents : Prop :=
  ((∀ s mv, s.pins.alwaysOn = false → 40000 ≤ mv →
    exec (.alwaysOnStart mv) s = .next { s with pins := { s.pins with alwaysOn := true, resetLow := true, fltP := true, fltN := false },
                                                faults := { s.faults with frozen := false } }) ∧
  (∀ s mv, s.pins.alwaysOn = true ∧ s.pins.inputLost = false ∨ mv < 40000 → exec (.alwaysOnStart mv) s = .next s) ∧
  (∀ s mv, s.pins.alwaysOn = true → s.pins.inputLost = true → 40000 ≤ mv →
    let fault := s.faults.frozen || (s.pins.shutdown && !s.pins.asserted)
    exec (.alwaysOnStart mv) s = .next { s with pins := { s.pins with inputLost := false, fltP := !fault, fltN := fault } }) ∧
  (∀ s mv, s.pins.alwaysOn = true → s.pins.mainUp = false → s.pins.mateHigh = false → s.pins.shutdown = false → 45000 ≤ mv →
    exec (.mainPowerStart mv) s =
      .next { s with pins := { s.pins with mainUp := true }, boot := if s.pins.resetLow then .held else .pll }) ∧
  (∀ s mv, s.pins.alwaysOn = false ∨ s.pins.mainUp = true ∨ s.pins.mateHigh = true ∨ s.pins.shutdown = true ∨ mv < 45000 →
    exec (.mainPowerStart mv) s = .next s) ∧
  (∀ s high, exec (.mateNChange high) s = .next { s with pins := { s.pins with mateHigh := high } }) ∧
  (∀ s, s.pins.alwaysOn = true → exec .inputLost s = .next { s with pins := { s.pins with inputLost := true, fltP := false, fltN := true } }) ∧
  (∀ s, s.pins.alwaysOn = false → exec .inputLost s = .next s)) ∧
  ((∀ s mv, mgmtUp s = true → s.faults.frozen = false → 44000 ≤ mv → mv < 46000 →
    ∃ t, exec (.supplyLow mv) s = .next t ∧ EventsOnly (bump s eSupplyLowCount) t ∧ t.mgmt.eventSeq = s.mgmt.eventSeq + 1 ∧
      cnt t eSupplyLowCount = min (2 ^ 32 - 1) (cnt s eSupplyLowCount + 1)) ∧
  (∀ s mv, mgmtUp s = true → s.faults.frozen = false → 60000 < mv → mv ≤ 62000 →
    ∃ t, exec (.supplyHigh mv) s = .next t ∧ EventsOnly (bump s eSupplyHighCount) t ∧ t.mgmt.eventSeq = s.mgmt.eventSeq + 1 ∧
      cnt t eSupplyHighCount = min (2 ^ 32 - 1) (cnt s eSupplyHighCount + 1)) ∧
  (∀ s mv, mv < 44000 ∨ 46000 ≤ mv ∨ s.faults.frozen = true → exec (.supplyLow mv) s = .next s) ∧
  (∀ s mv, mv ≤ 60000 ∨ 62000 < mv ∨ s.faults.frozen = true → exec (.supplyHigh mv) s = .next s))

/-- Undervoltage, overvoltage, thermal trip, PLL loss, fabric and Cellar channel faults freeze the module, show FAULT and keep a record -/
def Obligations.FatalFaultsFreezeModule : Prop :=
  (∀ s, s.pins.mainUp = true → mgmtUp s = true → s.faults.frozen = false →
    let u := { s with pins := { s.pins with uvOv := true } }
    (∃ t, exec .supplyUv s = .next t ∧ FatalRaised u 32 t) ∧ (∃ t, exec .supplyOv s = .next t ∧ FatalRaised u 33 t)) ∧
  (∀ s, s.pins.mainUp = true → mgmtUp s = false →
    exec .supplyUv s = .next { s with pins := { s.pins with uvOv := true, fltP := false, fltN := true, ready := false },
                                      faults := { s.faults with frozen := true } } ∧
    exec .supplyOv s = exec .supplyUv s) ∧
  (∀ s, s.pins.mainUp = true → mgmtUp s = true → s.faults.frozen = true →
    exec .supplyUv s = .next { s with pins := { s.pins with uvOv := true } } ∧ exec .supplyOv s = exec .supplyUv s) ∧
  (∀ s, s.pins.mainUp = false → exec .supplyUv s = .next s ∧ exec .supplyOv s = .next s) ∧
  (∀ s (c : Int), mgmtUp s = true → s.faults.frozen = false → 110000 < c →
    ∃ t, exec (.thermalTrip c) s = .next t ∧ FatalRaised (wr s eDieTempMax (unsigned 32 c)) 34 t) ∧
  (∀ s (c : Int), c ≤ 110000 → exec (.thermalTrip c) s = .next s) ∧
  (∀ s, mgmtUp s = true → s.faults.frozen = false →
    ∃ t, exec .pllLoss s = .next t ∧ FatalRaised { s with clk := { s.clk with rootLocked := false } } 39 t) ∧
  (∀ s, live s = true → ∃ t, exec .fabricState s = .next t ∧ FatalRaised s 37 t) ∧
  (∀ s channel, live s = true → channel < 32 → ∃ t, exec (.cellarChannel channel) s = .next t ∧ FatalRaised s 38 t)

/-- MOD_RESET, the shutdown of the rails and the loss of the supply clear everything but flash, OTP and the inserts -/
def Obligations.ResetKeepsOnlyWhatIsStored : Prop :=
  (∀ s, s.pins.alwaysOn = true → ∃ t, exec .modReset s = .next t ∧ OnlyStored s t ∧
    t.pins = { s.pins with resetLow := true, asserted := s.pins.asserted || !s.pins.resetLow, fltP := !s.pins.inputLost, fltN := s.pins.inputLost,
                           ready := false } ∧
    ∀ a, isPersist a = true → Tab.find t.regs a = Tab.find s.regs a) ∧
  (∀ s, s.pins.mainUp = true → s.pins.uvOv = true → ∃ t u, exec .mainRailsShutdown s = .next t ∧ OnlyStored s u ∧
    t = { u with regs := t.regs, pins := { s.pins with mainUp := false, uvOv := false, shutdown := true, asserted := false, ready := false } } ∧
    Tab.find t.regs eStrapSample = Tab.find s.regs eStrapSample ∧ (∀ a, a ≠ eStrapSample → Tab.find t.regs a = Tab.find u.regs a) ∧
    ∀ a, isPersist a = true → a ∉ s.mgmt.waiting → Tab.find t.regs a = Tab.find s.regs a) ∧
  (∀ s, s.pins.alwaysOn = true → ∃ t, exec .alwaysOnLoss s = .next t ∧ OnlyStored s t ∧
    t.pins = { s.pins with alwaysOn := false, mainUp := false, uvOv := false, shutdown := false, asserted := false, inputLost := false,
                           resetLow := true, fltP := false, fltN := false, ready := false } ∧
    ∀ a, isPersist a = true → a ∉ s.mgmt.waiting → Tab.find t.regs a = Tab.find s.regs a) ∧
  (∀ s, s.pins.alwaysOn = false → exec .modReset s = .next s ∧ exec .alwaysOnLoss s = .next s) ∧
  (∀ s, s.pins.mainUp = false ∨ s.pins.uvOv = false → exec .mainRailsShutdown s = .next s)

/-- MOD_RESET_RELEASE samples the straps once, ends a shutdown where the input is in range, and starts boot -/
def Obligations.ReleaseSamplesStrapsAndBoots : Prop :=
  (∀ s straps mv, s.pins.alwaysOn = true → s.pins.resetLow = true → s.mgmt.resetAtBoot = 0 →
    exec (.modResetRelease straps mv) s =
      .next { wr s eStrapSample straps.toNat with
        pins := { s.pins with resetLow := false,
                              shutdown := s.pins.shutdown && !(s.pins.asserted && decide (46000 ≤ mv) && decide (mv ≤ 60000)) },
        boot := if s.pins.mainUp then .pll else .held }) ∧
  (∀ s straps mv, s.pins.alwaysOn = true → s.pins.resetLow = true → s.mgmt.resetAtBoot ≠ 0 →
    ∃ t, exec (.modResetRelease straps mv) s = .next t ∧ t.mgmt.resetAtBoot = 0 ∧ rd t eStrapSample = straps.toNat ∧
      t.pins = { s.pins with resetLow := false,
                             shutdown := s.pins.shutdown && !(s.pins.asserted && decide (46000 ≤ mv) && decide (mv ≤ 60000)) } ∧
      t.boot = (if s.pins.mainUp then .pll else .held) ∧
      ∀ a, a ≠ eStrapSample →
        Tab.find t.regs a = if isPersist a && !survivesPersistReset s.mgmt.resetAtBoot a then none else Tab.find s.regs a) ∧
  (∀ s straps mv, s.pins.alwaysOn = false ∨ s.pins.resetLow = false → exec (.modResetRelease straps mv) s = .next s)

/-- PERST_N and a function level reset clear the PCI Express domain alone; the link returns at the release of PERST_N -/
def Obligations.PcieResetsTouchOnlyPcie : Prop :=
  (∀ s, exec .perstNAssert s =
    .next { (if s.faults.frozen then s else bumpBy 4 s eMailboxAbortCount s.host.fetched.length) with
      pins := { s.pins with perstLow := true },
      host := { link := s.host.link, linkUp := false,
                aborted := s.host.aborted ++ s.host.fetched.map fun e => BitVec.ofNat 16 (bitsAt e.toNat 16 16),
                abortPending := s.host.abortPending || !s.host.fetched.isEmpty },
      mgmt := { s.mgmt with mailboxTransfer := none } }) ∧
  (∀ s, s.host.linkUp = true → exec .functionLevelReset s =
    .next { (if s.faults.frozen then s else bumpBy 4 s eMailboxAbortCount s.host.fetched.length) with
      host := { link := s.host.link, linkUp := true,
                aborted := s.host.aborted ++ s.host.fetched.map fun e => BitVec.ofNat 16 (bitsAt e.toNat 16 16),
                abortPending := s.host.abortPending || !s.host.fetched.isEmpty },
      mgmt := { s.mgmt with mailboxTransfer := none } }) ∧
  (∀ s, s.host.linkUp = false → exec .functionLevelReset s = .next s) ∧
  (∀ s speed width, exec (.perstNRelease speed width) s =
    .next { s with pins := { s.pins with perstLow := false },
                   host := { s.host with link := speed + 16 * width, linkUp := mgmtUp s && decide (speed + 16 * width ≠ 0) } })

/-- REFCLK loss, re-lock and return move RefClkSource 0, 1, 2 and back with their fault and event, and stop nothing -/
def Obligations.ReferenceClockSourceFollows : Prop :=
  (∀ s, mgmtUp s = true → s.faults.frozen = false → rd s eRefClkSource = 0 →
    ∃ t, exec .refclkLost s = .next t ∧ rd t eRefClkSource = 1 ∧
      FaultRaised (bump (wr { s with clk := { s.clk with refGood := false } } eRefClkSource 1) eRefClkLostCount) 1 t) ∧
  (∀ s, rd s eRefClkSource ≠ 0 ∨ s.faults.frozen = true →
    exec .refclkLost s = .next { s with clk := { s.clk with refGood := false } }) ∧
  (∀ s, mgmtUp s = true → s.faults.frozen = false → rd s eRefClkSource = 1 →
    exec .fallbackRelock s = .next (wr s eRefClkSource 2)) ∧
  (∀ s, rd s eRefClkSource ≠ 1 ∨ s.faults.frozen = true → exec .fallbackRelock s = .next s) ∧
  (∀ s, mgmtUp s = true → s.faults.frozen = false → rd s eRefClkSource ≠ 0 →
    ∃ t, exec .refclkRestored s = .next t ∧ rd t eRefClkSource = 0 ∧ t.mgmt.eventSeq = s.mgmt.eventSeq + 1 ∧
      EventsOnly (wr { s with clk := { s.clk with refGood := true } } eRefClkSource 0) t) ∧
  (∀ s, rd s eRefClkSource = 0 ∨ s.faults.frozen = true →
    exec .refclkRestored s = .next { s with clk := { s.clk with refGood := true } })

/-- The thermal and the power level move by at most one step as R42 says, and the throttle level is the larger -/
def Obligations.ThrottleFollowsHeatAndPower : Prop :=
  (∀ s (c : Int), mgmtUp s = true → s.faults.frozen = false →
    ∃ t, exec (.thermalLevelChange c) s = .next t ∧ EntriesOnly [eDieTempMax, eThermalLevel, eThrottleLevel] s t ∧
      rd t eDieTempMax = unsigned 32 c ∧
      rd t eThermalLevel = (if rd s eThermalLevel < 12 ∧ 95000 + 1000 * ((rd s eThermalLevel : Int) + 1) ≤ c then rd s eThermalLevel + 1
        else if 0 < rd s eThermalLevel ∧ c ≤ 93000 + 1000 * (rd s eThermalLevel : Int) then rd s eThermalLevel - 1 else rd s eThermalLevel) ∧
      rd t eThrottleLevel = max (rd t eThermalLevel) (rd s ePowerLevel)) ∧
  (∀ s w, mgmtUp s = true → s.faults.frozen = false →
    ∃ t, exec (.powerWindow10us w) s = .next t ∧
      EntriesOnly [eSupplyPeakPower, ePowerLevel, eThrottleLevel]
        { s with clk := { s.clk with msPeakHigh := s.clk.msPeakHigh || decide (1662 < w) } } t ∧
      rd t eSupplyPeakPower = max (rd s eSupplyPeakPower) w ∧
      rd t ePowerLevel = (if 1750 < w then min 12 (rd s ePowerLevel + 1) else rd s ePowerLevel) ∧
      (1750 < w → rd t eThrottleLevel = max (rd s eThermalLevel) (rd t ePowerLevel))) ∧
  (∀ s mv ma w, mgmtUp s = true → s.faults.frozen = false →
    ∃ t, exec (.powerWindow1ms mv ma w) s = .next t ∧
      EntriesOnly [eSupplyVoltage, eSupplyCurrent, eSupplyPower, ePowerLevel, eThrottleLevel]
        { s with clk := { s.clk with prevMsAbove := decide (1450 < w), msPeakHigh := false } } t ∧
      rd t eSupplyVoltage = mv ∧ rd t eSupplyCurrent = ma ∧ rd t eSupplyPower = w ∧
      rd t ePowerLevel = (if 1450 < w ∧ s.clk.prevMsAbove = true then min 12 (rd s ePowerLevel + 1)
        else if w ≤ 1377 ∧ s.clk.msPeakHigh = false then rd s ePowerLevel - 1 else rd s ePowerLevel) ∧
      rd t eThrottleLevel = max (rd s eThermalLevel) (rd t ePowerLevel)) ∧
  (∀ s, loafUp s = true → s.faults.frozen = false → exec (.supplyPeakPowerRead .mailbox) s = .next (wr s eSupplyPeakPower 0)) ∧
  (∀ s i, loafUp s = true → s.faults.frozen = false → s.mgmt.sessions.any (fun x => x.id = i && x.isOpen) = true →
    exec (.supplyPeakPowerRead (.session i)) s = .next (wr s eSupplyPeakPower 0))

/-- Each boot step from 2 to 9 but Starter's has its effect at its own stage and moves boot to the next; out of turn, or frozen, it has none -/
def Obligations.BootStepsRunInOrder : Prop :=
  (∀ s, s.boot = .pll → s.faults.frozen = false → exec .bootPllLock s =
    .next { s with boot := .starter, clk := { s.clk with rootLocked := true },
                   host := { s.host with linkUp := !s.pins.perstLow && decide (s.host.link ≠ 0) } }) ∧
  (∀ s, s.boot = .lanes ∨ s.boot = .refWait → s.faults.frozen = false →
    exec (.bootLanes false) s = .next { s with boot := .refWait, clk := { s.clk with refGood := false } } ∧
    exec (.bootLanes true) s =
      .next ((List.range 128).foldl (fun u p => requestEnable u (ePortState p))
        ((List.range 544).foldl (fun u l => requestEnable u (eLaneState l))
          { s with boot := .loaf, now := 0, clk := { s.clk with refGood := true, lanePll := BitVec.allOnes 32 } }))) ∧
  (∀ s, s.boot = .loaf → s.faults.frozen = false →
    let u := showLevels { extendMeasure s 2 (sha512 (persistBytes s)) with boot := .memory }
    let v := storeOne (wr u eFenceNoticeGeneration ((rd u eFenceNoticeGeneration + 1) % 2 ^ 16)) eFenceNoticeGeneration
    exec .bootLoaf s = .next ((List.range 6).foldl (fun w n => checkInsert w n true) (showCages v)) ∧
    (Safe s → ∃ t, exec .bootLoaf s = .next t ∧ t.boot = .memory ∧ t.now = s.now)) ∧
  (∀ s, s.boot = .memory → s.faults.frozen = false →
    let mib := rd s eCurdPartitionSize
    let churn := rd s eChurnPartitionSize
    let z := curdShares s
    exec (.bootMemory true) s = .next (reinstall (shareEvent { s with
      boot := .proof, cellar := {},
      vat := { packetSlabs := 256 * mib, churnSlabs := 256 * churn, stationSlabs := 524288 - 256 * mib - 256 * churn },
      pools := { s.pools with reserve := rd s eVcReserveBlocks, shared := [(0, z.1 * mib * 256), (1, z.2.1 * mib * 64),
                                                                        (2, z.2.2 * mib * 16 - 6 * rd s eVcReserveBlocks)] } })) ∧
    (Safe s → ∃ t, exec (.bootMemory true) s = .next t ∧ t.boot = .proof ∧ t.now = s.now) ∧
    ∃ t, exec (.bootMemory false) s = .next t ∧ FatalRaised s 35 t) ∧
  (∀ s failed pes rows, s.boot = .proof → s.faults.frozen = false →
    let u := (List.range 68).foldl (bootChurn failed) (dealClusters ((List.range 9).foldl (bootCluster failed pes) s))
    let v := (List.range 256).foldl (bootBank failed rows) ((List.range 4).foldl dealCores ((List.range 16).foldl (bootCore failed) u))
    ((∀ g, g < 4 → ∃ c ∈ groupCores g, rd v (eControlCoreState c) ≠ 2) ∧ 32 ≤ ((List.range 68).filter fun l => rd v (eChurnLaneStatus l) ≠ 3).length ∧
        rd v eVatBanksFenced < 16 →
      exec (.bootProof failed pes rows) s = .next { v with boot := .topology }) ∧
    ((∃ g, g < 4 ∧ ∀ c ∈ groupCores g, rd v (eControlCoreState c) = 2) ∨ ((List.range 68).filter fun l => rd v (eChurnLaneStatus l) ≠ 3).length < 32 ∨
        16 ≤ rd v eVatBanksFenced →
      exec (.bootProof failed pes rows) s = .next (raiseFault v 35 0 0 0)) ∧
    (Safe s → ∃ t, exec (.bootProof failed pes rows) s = .next t ∧ t.now = s.now ∧ (t.boot = .topology ∨ t.boot = .proof ∧ t.faults.frozen = true))) ∧
  (∀ s, s.boot = .topology → s.faults.frozen = false →
    let u := installSlice0 (topoEval { s with boot := .readyStep, topo := { s.topo with sizes := s.topo.committed } })
    let v := ((List.range 24).map (· + 104)).foldl portRecheck (if coordInvalid u then holdPorts (coordInvalidEvent u) else u)
    let w := (List.range 104).foldl portTryOn v
    exec .bootTopology s = .next ((sortBy (· ≤ ·) (w.topo.wanted.filter (· ≠ 0))).foldl sliceEnable w) ∧
    (Safe s → ∃ t, exec .bootTopology s = .next t ∧ t.boot = .readyStep ∧ t.now = s.now)) ∧
  (∀ s ms, s.boot = .readyStep → s.faults.frozen = false →
    let u := wr (wr { s with boot := .done, pins := { s.pins with ready := true } } eBootTime ms) eProofOrigin (fcNow s)
    exec (.bootReady ms) s = .next (setFwSlot u u.fw.running { fwSlot u u.fw.running with trialBoots := 0 }) ∧
    ∃ t, exec (.bootReady ms) s = .next t ∧ t.boot = .done ∧ t.pins = { s.pins with ready := true } ∧
      rd t eBootTime = ms ∧ rd t eProofOrigin = fcNow s ∧ (fwSlot t t.fw.running).trialBoots = 0) ∧
  (∀ s ms failed pes rows a b, s.boot ≠ .pll ∧ s.boot ≠ .starter ∧ s.boot ≠ .lanes ∧ s.boot ≠ .refWait ∧ s.boot ≠ .loaf ∧ s.boot ≠ .memory ∧
      s.boot ≠ .proof ∧ s.boot ≠ .topology ∧ s.boot ≠ .readyStep ∨ s.faults.frozen = true →
    ∀ c ∈ [.bootPllLock, .starterSelect a b, .bootLanes a, .bootLoaf, .bootMemory a, .bootProof failed pes rows, .bootTopology, .bootReady ms],
      exec c s = .next s) ∧
  (∀ s ms failed pes rows a b,
    (s.boot ≠ .pll → exec .bootPllLock s = .next s) ∧ (s.boot ≠ .starter → exec (.starterSelect a b) s = .next s) ∧
    (s.boot ≠ .lanes → s.boot ≠ .refWait → exec (.bootLanes a) s = .next s) ∧ (s.boot ≠ .loaf → exec .bootLoaf s = .next s) ∧
    (s.boot ≠ .memory → exec (.bootMemory a) s = .next s) ∧ (s.boot ≠ .proof → exec (.bootProof failed pes rows) s = .next s) ∧
    (s.boot ≠ .topology → exec .bootTopology s = .next s) ∧ (s.boot ≠ .readyStep → exec (.bootReady ms) s = .next s))

/-- Starter boots the active slot if its image passes, else the other, and fails the boot if neither does -/
def Obligations.StarterTakesTheFirstGoodSlot : Prop :=
  (∀ s sigA sigB, s.boot = .starter → s.faults.frozen = false →
    (∀ k u, starterChoice s sigA sigB = (some k, u) → ∃ t, exec (.starterSelect sigA sigB) s = .next t ∧ t.boot = .lanes ∧
      t.fw.running = k ∧ t.fw.bootCount = u.fw.bootCount + 1 ∧
      t = { u with boot := .lanes, draws := t.draws,
                   fw := { u.fw with running := k, bootCount := u.fw.bootCount + 1, measures := t.fw.measures } }) ∧
    (∀ u, starterChoice s sigA sigB = (none, u) → ∃ t, exec (.starterSelect sigA sigB) s = .next t ∧ FatalRaised u 35 t)) ∧
  (∀ s sigA sigB, s.fw.active < 2 →
    let sig (k : Nat) : Bool := if k = 0 then sigA else sigB
    let a := s.fw.active
    let passes (k : Nat) : Bool := decide (2 ≤ (fwSlot s k).state) && !(decide ((fwSlot s k).state = 3) && decide (3 ≤ (fwSlot s k).trialBoots)) &&
      decide (imageCheck s (fwSlot s k).image (sig k) = 0)
    (starterChoice s sigA sigB).1 = (if passes a then some a else if passes (1 - a) then some (1 - a) else none) ∧
    (passes a = false → (fwSlot (starterChoice s sigA sigB).2 a).state = 1) ∧
    (passes a = false → passes (1 - a) = true → (starterChoice s sigA sigB).2.fw.active = 1 - a ∧
      (fwSlot (starterChoice s sigA sigB).2 (1 - a)).state = 4) ∧
    (passes a = true → (starterChoice s sigA sigB).2.fw.active = a ∧
      fwSlot (starterChoice s sigA sigB).2 a = (if (fwSlot s a).state = 3 then { fwSlot s a with trialBoots := (fwSlot s a).trialBoots + 1 } else fwSlot s a)))

/-- Enable, disable, end of STOPPING and unit fault move a function as Table 02.6 and R40 say, with and without PENDING_ON -/
def Obligations.FunctionStatesFollowTable : Prop :=
  ∀ f : Fn,
    (f.state = .off → fnEnable f = { f with state := .starting } ∧ fnDisable f = f) ∧
    (f.state = .starting ∨ f.state = .on → fnEnable f = f ∧ fnDisable f = { f with state := .stopping }) ∧
    (f.state = .stopping ∨ f.state = .quarantined → fnEnable f = { f with pendingOn := true } ∧ fnDisable f = { f with pendingOn := false }) ∧
    (f.state = .fenced → fnEnable f = f ∧ fnDisable f = f) ∧
    (f.pendingOn = true → fnRest f = { state := .starting, pendingOn := false }) ∧
    (f.pendingOn = false → fnRest f = { state := .off, pendingOn := false }) ∧
    (f.state ≠ .quarantined → fnFence f = { state := .fenced, pendingOn := false }) ∧ (f.state = .quarantined → fnFence f = f)

/-- ENABLE_REQUEST and DISABLE_REQUEST act on the function their entry names; FENCED rejects an enable, slice 0 any request -/
def Obligations.RequestsReachEveryKindOfFunction : Prop :=
  (∀ s index sub, isStateEntry index sub = true → Accepted s .mailbox (entryAddr index sub) [2] → entryAddr index sub ≠ eSliceState 0 →
    fnState s (entryAddr index sub) ≠ .fenced →
    exec (.enableRequest index sub) s = .next (requestEnable (noteWanted s (entryAddr index sub) true) (entryAddr index sub))) ∧
  (∀ s index sub, isStateEntry index sub = true → Accepted s .mailbox (entryAddr index sub) [0] → entryAddr index sub ≠ eSliceState 0 →
    exec (.disableRequest index sub) s = .next (requestDisable (noteWanted s (entryAddr index sub) false) (entryAddr index sub))) ∧
  (∀ s g, g < 4 → Accepted s .mailbox (eControlGroupState g) [2] → Accepted s .mailbox (eControlGroupState g) [0] →
    exec (.enableRequest 0x1F21 g) s =
      .next (if fnState s (eControlGroupState g) = .fenced then s else setFn s (eControlGroupState g) (fnEnable (fnOf s (eControlGroupState g)))) ∧
    exec (.disableRequest 0x1F21 g) s = .next (setFn s (eControlGroupState g) (fnDisable (fnOf s (eControlGroupState g))))) ∧
  (∀ s p, p < 128 → requestEnable s (ePortState p) = portTo s p (fnEnable (fnOf s (ePortState p))) ∧
    requestDisable s (ePortState p) = portDisable s p) ∧
  (∀ s l, l < 544 → requestEnable s (eLaneState l) = laneEnable s l ∧ requestDisable s (eLaneState l) = laneDisable s l) ∧
  (∀ s c, c < 9 → requestEnable s (eClusterState c) = setFn s (eClusterState c) (fnEnable (fnOf s (eClusterState c))) ∧
    requestDisable s (eClusterState c) = clusterDisable s c) ∧
  (∀ s k, k < 1024 → requestEnable s (eSliceState k) = sliceEnable s k ∧ requestDisable s (eSliceState k) = sliceDisable s k) ∧
  (∀ s n, n < 6 → requestEnable s (eEngineState n) = engineTo s n (fnEnable (fnOf s (eEngineState n))) ∧
    requestDisable s (eEngineState n) = engineTo s n (fnDisable (fnOf s (eEngineState n)))) ∧
  (∀ s index sub, isStateEntry index sub = true → fnState s (entryAddr index sub) = .fenced ∨ entryAddr index sub = eSliceState 0 ∨
    ¬ Accepted s .mailbox (entryAddr index sub) [2] → exec (.enableRequest index sub) s = .next s) ∧
  (∀ s index sub, isStateEntry index sub = true → entryAddr index sub = eSliceState 0 ∨ ¬ Accepted s .mailbox (entryAddr index sub) [0] →
    exec (.disableRequest index sub) s = .next s) ∧
  (∀ s index sub, isStateEntry index sub = false →
    exec (.enableRequest index sub) s = .fault .noSuchUnit ∧ exec (.disableRequest index sub) s = .fault .noSuchUnit)

/-- The end of STARTING, the end of STOPPING and a STOPPING past its bound have their effect only in that state -/
def Obligations.FunctionCompletionsTaken : Prop :=
  (∀ s index sub, isStateEntry index sub = true → live s = true → fnState s (entryAddr index sub) = .starting →
    exec (.functionStartDone index sub .success) s = .next (proofPoll (startSucceeds s (entryAddr index sub))) ∧
    exec (.functionStartDone index sub .unitFault) s = .next (unitFault s (entryAddr index sub)) ∧
    exec (.functionStartDone index sub .otherFailure) s = .next (startFails s (entryAddr index sub))) ∧
  (∀ s index sub, isStateEntry index sub = true → live s = true → fnState s (entryAddr index sub) = .stopping →
    exec (.functionStopDone index sub) s = .next (stopDone s (entryAddr index sub)) ∧
    ((fnSite (entryAddr index sub)).1 ≠ 13 → ∃ t, exec (.stopTimeout index sub) s = .next t ∧ FaultRaised (unitFault s (entryAddr index sub)) 8 t)) ∧
  (∀ s index sub o, isStateEntry index sub = true → live s = false ∨ fnState s (entryAddr index sub) ≠ .starting →
    exec (.functionStartDone index sub o) s = .next s) ∧
  (∀ s index sub, isStateEntry index sub = true → live s = false ∨ fnState s (entryAddr index sub) ≠ .stopping →
    exec (.functionStopDone index sub) s = .next s ∧ exec (.stopTimeout index sub) s = .next s) ∧
  (∀ s g, g < 4 → stopDone s (eControlGroupState g) = setFn s (eControlGroupState g) (fnRest (fnOf s (eControlGroupState g))) ∧
    startSucceeds s (eControlGroupState g) = setFnState s (eControlGroupState g) .on ∧
    unitFault s (eControlGroupState g) = setFn s (eControlGroupState g) (fnFence (fnOf s (eControlGroupState g))) ∧
    EventsOnly (setFn s (eControlGroupState g) {}) (startFails s (eControlGroupState g)))

/-- Every physical lane has its group, its port and port lane or its place as the spare, and its entry index, as R12 says -/
def Obligations.LaneNumberingFollowsMap : Prop :=
  ∀ L, L < 544 →
    laneGroup L = L / 17 ∧ laneIdx L = L % 17 ∧ L / 17 < 32 ∧
    (L % 17 < 16 → lanePort L = some (4 * (L / 17) + L % 17 / 4) ∧ 4 * (L / 17) + L % 17 / 4 < 128 ∧
      ownLane (4 * (L / 17) + L % 17 / 4) (L % 17 % 4) = L) ∧
    (L % 17 = 16 → lanePort L = none ∧ spareOf (L / 17) = L ∧ ∀ p j, p < 128 → j < 4 → ownLane p j ≠ L) ∧
    (∀ p j, p < 128 → j < 4 → ownLane p j = L → lanePort L = some p ∧ L % 17 % 4 = j) ∧
    eLaneStatus L / 256 = 0x2000 + L

/-- Signal, CDR lock, loss of signal, of lock and of markers, the margin window and user calibration have their effect on their lane -/
def Obligations.LaneSignalsAndLossesTaken : Prop :=
  (∀ s l, live s = true → l < 544 →
    exec (.signalDetect l) s = .next (setLane s l { laneOf s l with signal := true, los := false }) ∧
    ((laneOf s l).signal = true → exec (.cdrLock l) s = .next (setLane s l { laneOf s l with cdrLocked := true })) ∧
    ((laneOf s l).signal = false → exec (.cdrLock l) s = .next s ∧ exec (.cdrLossOfLock l) s = .next s) ∧
    exec (.lossOfSignal l) s = .next (laneLost (setLane (bump s (eLaneLosCount l)) l
      { laneOf s l with signal := false, cdrLocked := false, los := true, aligned := false, deskewed := false }) l) ∧
    ((laneOf s l).signal = true → exec (.cdrLossOfLock l) s = .next (laneLost (setLane (bump s (eLaneCdrUnlockCount l)) l
      { laneOf s l with cdrLocked := false, aligned := false, deskewed := false }) l)) ∧
    exec (.markerLoss l) s = .next (laneLost (setLane (bumpBy 4 s (eLaneMarkerErrorCount l) (2 - (laneOf s l).badBlocks)) l
      { laneOf s l with aligned := false, deskewed := false, lastMarker := none, badBlocks := 0 }) l)) ∧
  (∀ s l n, live s = true → l < 544 → n ≤ rd s eLaneMarginLimit ∨ fnState s (eLaneState l) = .fenced →
    exec (.marginWindowEnd l n) s = .next (bump64 s (eLaneMarginErrorCount l) n)) ∧
  (∀ s l n, live s = true → l < 544 → rd s eLaneMarginLimit < n → fnState s (eLaneState l) ≠ .fenced →
    ∃ t, exec (.marginWindowEnd l n) s = .next t ∧ FaultRaised (laneFence (bump64 s (eLaneMarginErrorCount l) n) l) 2 t) ∧
  (∀ s g, dataUp s = true → g < 32 →
    let u := setLg s g { lgOf s g with markerSeq := ((lgOf s g).markerSeq + 1) % 2 ^ 16, slotPorts := [], switching := false }
    exec (.markerSlot g) s = .next ((groupPorts g).foldl echoAdvance (sendMarkers u g)) ∧
    ∀ i, i < 17 → (laneOf s (17 * g + i)).txActive = true → laneOf ((groupPorts g).foldl echoAdvance (sendMarkers u g)) (17 * g + i) =
      { laneOf s (17 * g + i) with line := levels (blockBits (lcbMake i 0 (if i = 16 then (lgOf s g).carries.getD 31 else 31)
        (((lgOf s g).markerSeq + 1) % 2 ^ 16))) }) ∧
  (∀ s g, dataUp s = false → g < 32 → exec (.markerSlot g) s = .next s) ∧
  (∀ s src g sub v, g < 32 → 1 ≤ sub → sub ≤ 0x44 → Accepted s src ((0x2E00 + g) * 256 + sub) [v] →
    exec (.laneUserCalWrite src g sub v) s = .next (writeReg s ((0x2E00 + g) * 256 + sub) v.toNat)) ∧
  (∀ s l g n b p, live s = false → l < 544 → g < 32 → p < 128 →
    ∀ c ∈ [.signalDetect l, .cdrLock l, .lossOfSignal l, .cdrLossOfLock l, .markerLoss l, .marginWindowEnd l n,
           .markerReceived l n n b, .switchReceived g b, .lossClassify p, .quarantineRelease p], exec c s = .next s)

/-- Two valid MARKERs 1,025 slots apart align a lane and bring it ON; bad and missing ones are counted; SWITCH moves a position -/
def Obligations.MarkersAlignLanes : Prop :=
  (∀ s l slot skew raw, live s = true → l < 544 → fnState s (eLaneState l) ≠ .starting → fnState s (eLaneState l) ≠ .on →
    exec (.markerReceived l slot skew raw) s = .next s) ∧
  (∀ s l slot skew raw b, live s = true → l < 544 → fnState s (eLaneState l) = .starting ∨ fnState s (eLaneState l) = .on → b = lcbUpright raw →
    (lcbSynced b = false ∨ lcbGood b = false → exec (.markerReceived l slot skew raw) s =
      .next (bump (setLane s l { laneOf s l with
        badBlocks := if markerExpected (laneOf s l) slot then (laneOf s l).badBlocks + 1 else (laneOf s l).badBlocks }) (eLaneMarkerErrorCount l))) ∧
    (lcbSynced b = true → lcbGood b = true → lcbType b ≠ 0 →
      exec (.markerReceived l slot skew raw) s = if l % 17 = 16 then exec (.switchReceived (l / 17) raw) s else .next s)) ∧
  (∀ raw, lcbUpright raw = if !lcbSynced raw && lcbSynced (lcbInvert raw) then lcbInvert raw else raw) ∧
  (∀ s l slot skew raw b, live s = true → l < 544 → fnState s (eLaneState l) = .starting → (laneOf s l).cdrLocked = true →
    (laneOf s l).lastMarker = some slot → b = lcbUpright raw → lcbSynced b = true → lcbGood b = true → lcbType b = 0 →
    ∃ x : Lane, x = { laneOf s l with inverted := !lcbSynced raw && lcbSynced (lcbInvert raw), markerLane := lcbLane b, markerSeq := lcbSeq b,
                                      skew := skew, lastMarker := some (slot + 1025), badBlocks := 0, aligned := true, lost := false } ∧
      ∃ u, laneOf u l = x ∧ fnState u (eLaneState l) = .on ∧ (∀ m, m ≠ l → laneOf u m = laneOf s m) ∧
        (∀ a, a ≠ eLaneState l → fnOf u a = fnOf s a) ∧ u = { s with lanes := u.lanes, fns := u.fns } ∧
        exec (.markerReceived l (slot + 1025) skew raw) s = .next (deskewGroup u (l / 17) (some (laneOf s l).markerSeq))) ∧
  (∀ s l t slot skew raw b, live s = true → l < 544 → fnState s (eLaneState l) = .on → (laneOf s l).aligned = true →
    (laneOf s l).lastMarker = some t → b = lcbUpright raw → lcbSynced b = true → lcbGood b = true → lcbType b = 0 →
    let missed := (slot - t - 1) / 1025 - (laneOf s l).badBlocks
    exec (.markerReceived l slot skew raw) s = .next (deskewGroup (setLane
      (if missed = 0 then s else bumpBy 4 s (eLaneMarkerErrorCount l) missed) l
      { laneOf s l with inverted := !lcbSynced raw && lcbSynced (lcbInvert raw), markerLane := lcbLane b, markerSeq := lcbSeq b, skew := skew,
                        lastMarker := some slot, badBlocks := 0 }) (l / 17) (some (laneOf s l).markerSeq))) ∧
  (∀ s g raw b, live s = true → g < 32 → b = lcbUpright raw →
    let good := lcbSynced b && lcbGood b && decide (lcbType b = 1)
    let v := bump (setLane s (spareOf g) { laneOf s (spareOf g) with inverted := !lcbSynced raw && lcbSynced (lcbInvert raw), deskewed := false })
      (eLaneSwitchCount (spareOf g))
    let x := lgOf s g
    let n := lcbCarried b
    (good = false → exec (.switchReceived g raw) s = .next (bump s (eLaneMarkerErrorCount (spareOf g)))) ∧
    (good = true → n = 31 ∧ x.reads = none ∨ 16 ≤ n ∧ n < 31 → exec (.switchReceived g raw) s = .next v) ∧
    (good = true → n < 16 →
      let fence (u : State) : State := if fnState s (eLaneState (17 * g + n)) = .fenced then u
        else let w := laneIdle u (17 * g + n) (fnFence (fnOf s (eLaneState (17 * g + n))))
          setLane w (17 * g + n) { laneOf w (17 * g + n) with fencedBySwitch := true }
      (x.carries = none → exec (.switchReceived g raw) s =
        .next (fence (setLg v g { x with reads := some n, carries := some n, switchDue := some n }))) ∧
      (x.carries = some n → exec (.switchReceived g raw) s = .next (fence (setLg v g { x with reads := some n }))) ∧
      (∀ j, x.carries = some j → n < j → exec (.switchReceived g raw) s =
        .next (portFail (fence (setLg v g { x with reads := some n, carries := some n, switchDue := some n })) (4 * g + j / 4))) ∧
      (∀ j, x.carries = some j → j < n → exec (.switchReceived g raw) s = .next v)) ∧
    (∀ i, good = true → n = 31 → x.reads = some i → i < 16 →
      let l := 17 * g + i
      let bySwitch := (laneOf s l).fencedBySwitch = true ∧ fnState s (eLaneState l) = .fenced
      let restart (u : State) : State := laneStarting (setLane u l { laneOf s l with fencedBySwitch := false }) l {}
      (x.carries = some i → bySwitch →
        exec (.switchReceived g raw) s = .next (restart (setLg v g { x with reads := none, carries := none, switchDue := some 31 }))) ∧
      (x.carries = some i → laneOn s l = true →
        exec (.switchReceived g raw) s = .next (setLg v g { x with reads := none, carries := none, switchDue := some 31 })) ∧
      (x.carries = some i → ¬ bySwitch → laneOn s l = false →
        exec (.switchReceived g raw) s = .next (setLg v g { x with reads := none, switchDue := some i })) ∧
      (x.carries ≠ some i → bySwitch → exec (.switchReceived g raw) s = .next (restart (setLg v g { x with reads := none }))) ∧
      (x.carries ≠ some i → ¬ bySwitch → exec (.switchReceived g raw) s = .next (setLg v g { x with reads := none }))))

/-- ID_FRAMEs are counted, run, recorded at four alike and checked; a quarantine and a lost position end as the rules say -/
def Obligations.PortIdentityRulesHold : Prop :=
  (∀ s p f t, live s = true → p < 128 →
    let h := hearLanes s p (frameBytes f t)
    let r := runNext (portOf s p).run f
    let u := setPort h p { portOf s p with run := some r }
    (portHears s p = false → exec (.idFrameReceived p false f t) s = .next h) ∧
    (portHears s p = true → frameOk f t = false →
      exec (.idFrameReceived p false f t) s =
        .next (let v := bump (setPort h p { portOf s p with run := none }) (eLinkCrcErrorCount p); if portOn s p then enterNak v p else v)) ∧
    (portHears s p = true → frameOk f t = true → trLink t = true → idRecordable f = false →
      exec (.idFrameReceived p false f t) s = .next (bump (setPort h p { portOf s p with run := none }) (eLinkUnknownFrameCount p))) ∧
    (portHears s p = true → frameOk f t = true → trLink t = false ∨ idRecordable f = true ∧ fnState s (ePortState p) = .stopping →
      exec (.idFrameReceived p false f t) s = .next h) ∧
    (portHears s p = true → fnState s (ePortState p) ≠ .stopping → frameOk f t = true → trLink t = true → idRecordable f = true →
      (portOn s p = false → r.2 ≠ 4 → exec (.idFrameReceived p false f t) s = .next u) ∧
      (r.2 = 4 → let w := recordIdentity u p f
        exec (.idFrameReceived p false f t) s =
          .next (if portOn w p && (portOf w p).farOn && decide (idState f = 2) then applyLinkState w p f else w)) ∧
      (portOn s p = true → r.2 ≠ 4 → exec (.idFrameReceived p false f t) s =
        .next (if (portOf s p).farOn && decide (idState f = 2) then applyLinkState u p f else u)))) ∧
  (∀ s p f, p < 128 → ∃ u, (portOf u p).recorded = some f ∧ blob u (ePortFarIdentity p) = leBytes 64 f.toNat ∧
    rd u (ePortFarPort p) = (if idRole f = 0 then idPort (idFarId f) else 0xFF) ∧ (∀ a, fnOf u a = fnOf s a) ∧
    (fnState s (ePortState p) = .starting → recordIdentity s p f = portCheck u p) ∧
    (fnState s (ePortState p) = .quarantined → recordIdentity s p f = portRecheck u p) ∧
    (fnState s (ePortState p) = .on → idState f ≠ 2 → recordIdentity s p f = portFail u p) ∧
    (fnState s (ePortState p) = .on → idState f = 2 → (portOf s p).recorded.map idContent = some (idContent f) → recordIdentity s p f = u)) ∧
  (∀ s p f t, live s = true → p < 128 →
    let h := hearSpare s (p / 4) (frameBytes f t)
    let x := lgOf s (p / 4)
    (x.reads ≠ none → exec (.idFrameReceived p true f t) s = .next h) ∧
    (x.reads = none → frameOk f t = true → trLink t = true → idRecordable f = true →
      exec (.idFrameReceived p true f t) s = .next (setLg h (p / 4) { x with
        spareRun := some (runNext x.spareRun f),
        spareIdent := if (runNext x.spareRun f).2 = 4 then some (runNext x.spareRun f).1 else x.spareIdent })) ∧
    (x.reads = none → frameOk f t = true → trLink t = true → idRecordable f = false →
      exec (.idFrameReceived p true f t) s = .next (bump (setLg h (p / 4) { x with spareRun := none }) (eLinkUnknownFrameCount p))) ∧
    (x.reads = none → frameOk f t = false ∨ trLink t = false →
      exec (.idFrameReceived p true f t) s = .next (setLg h (p / 4) { x with spareRun := none }))) ∧
  (∀ s p, live s = true → p < 128 →
    (fnState s (ePortState p) = .quarantined → (∀ j, j < 4 → (laneOf s (servingLane s p j)).los = true) →
      exec (.quarantineRelease p) s = .next (portTo (wr s (ePortQuarantineCause p) 0) p (fnRest (fnOf s (ePortState p))))) ∧
    (fnState s (ePortState p) ≠ .quarantined ∨ (∃ j, j < 4 ∧ (laneOf s (servingLane s p j)).los = false) →
      exec (.quarantineRelease p) s = .next s)) ∧
  (∀ s p, live s = true → p < 128 → portOn s p = true → (portOf s p).lossPending = true →
    let u := setPort s p { portOf s p with lossPending := false }
    (lostPositions u p = [] → exec (.lossClassify p) s = .next u) ∧
    (∀ j, lostPositions u p = [j] → spareAvailable u (p / 4) p = true →
      exec (.lossClassify p) s = .next (substituteSpare u (p / 4) (posIdx p j))) ∧
    ((∃ j, lostPositions u p = [j] ∧ spareAvailable u (p / 4) p = false) ∨ 2 ≤ (lostPositions u p).length →
      exec (.lossClassify p) s = .next (portFail u p))) ∧
  (∀ s p, live s = true → p < 128 → portOn s p = false ∨ (portOf s p).lossPending = false → exec (.lossClassify p) s = .next s) ∧
  (∀ s src p (v : BitVec 64), p < 104 → Accepted s src (ePortExpectedEndpoint p) (leBytes 8 v.toNat) →
    (fnState s (ePortState p) = .starting → exec (.portExpectedEndpointWrite src p v) s = .next (writeReg s (ePortExpectedEndpoint p) v.toNat)) ∧
    (fnState s (ePortState p) ≠ .starting →
      exec (.portExpectedEndpointWrite src p v) s = .next (portRecheck (writeReg s (ePortExpectedEndpoint p) v.toNat) p))) ∧
  (∀ s src p (v : BitVec 64), p < 128 → 104 ≤ p ∨ ¬ Accepted s src (ePortExpectedEndpoint p) (leBytes 8 v.toNat) →
    exec (.portExpectedEndpointWrite src p v) s = .next s)

/-- A PKT frame is accepted only in sequence and within its credit; the retry timer replays and at the eighth fails the port -/
def Obligations.PktFramesAcceptedInSequence : Prop :=
  (∀ s p f t, live s = true → p < 128 →
    let h := hearLanes s p (frameBytes f t)
    (fnState s (ePortState p) = .off ∨ fnState s (ePortState p) = .fenced → exec (.pktFrameReceived p f t) s = .next h) ∧
    (fnState s (ePortState p) ≠ .off → fnState s (ePortState p) ≠ .fenced →
      (frameOk f t = true → trLink t = true → exec (.pktFrameReceived p f t) s = .next h) ∧
      (frameOk f t = false → exec (.pktFrameReceived p f t) s =
        .next (let u := bump (setPort h p { portOf s p with run := none }) (eLinkCrcErrorCount p); if portOn s p then enterNak u p else u))) ∧
    (fnState s (ePortState p) = .quarantined → frameOk f t = true → trLink t = false →
      exec (.pktFrameReceived p f t) s = .next (bump h (ePortQuarantineDropCount p))) ∧
    (fnState s (ePortState p) = .starting ∨ fnState s (ePortState p) = .stopping → frameOk f t = true → trLink t = false →
      exec (.pktFrameReceived p f t) s = .next (bump h (eLinkFramingErrorCount p))) ∧
    (fnState s (ePortState p) = .on → frameOk f t = true → trLink t = false →
      let l := (portOf s p).link
      (trSeq t = l.expected → l.expected < 1024 → Tab.getD l.farUsed (trVc t) 0 < rd s (ePortCreditGrant p (trVc t)) →
        exec (.pktFrameReceived p f t) s = .next (feedPacket (setLink h p { l with
          expected := (l.expected + 1) % 1024, nakState := false, lastAccepted := some (trSeq t), stateDue := true,
          sinceState := if l.stateDue then l.sinceState else 0,
          farUsed := Tab.set l.farUsed (trVc t) (Tab.getD l.farUsed (trVc t) 0 + 1) }) p (trVc t) (trSop t) f)) ∧
      (trSeq t = l.expected → l.expected < 1024 → rd s (ePortCreditGrant p (trVc t)) ≤ Tab.getD l.farUsed (trVc t) 0 →
        exec (.pktFrameReceived p f t) s = .next (portFail (raiseEvent (bump h (eLinkProtocolErrorCount p)) 9 [BitVec.ofNat 8 p]) p)) ∧
      (1 ≤ (trSeq t + 1024 - l.expected) % 1024 → (trSeq t + 1024 - l.expected) % 1024 ≤ 511 →
        exec (.pktFrameReceived p f t) s = .next (if l.nakState then h
          else bump (setLink h p { l with nakState := true, nakDue := true }) (eLinkNakSentCount p))) ∧
      (512 ≤ (trSeq t + 1024 - l.expected) % 1024 → exec (.pktFrameReceived p f t) s = .next (bump h (eLinkDuplicateCount p))))) ∧
  (∀ s p, live s = true → p < 128 → portOn s p = true → (portOf s p).link.retry ≠ [] →
    (portOf s p).link.t0 + 560 * ((portOf s p).link.k + 1) ≤ fcNow s →
    let u := bump (setLink s p { (portOf s p).link with k := (portOf s p).link.k + 1 }) (eLinkTimerExpiryCount p)
    exec (.retryTimerExpiry p) s =
      .next (if 7 ≤ (portOf s p).link.k then portFail (bump u (ePortRetryExhaustCount p)) p else startReplay u p)) ∧
  (∀ s p, live s = true → p < 128 → portOn s p = false ∨ (portOf s p).link.retry = [] ∨
      fcNow s < (portOf s p).link.t0 + 560 * ((portOf s p).link.k + 1) → exec (.retryTimerExpiry p) s = .next s) ∧
  (∀ s p, (portOf s p).link.retry ≠ [] → startReplay s p = if (portOf s p).link.replay = some 0 then s
    else bump (setLink s p { (portOf s p).link with replay := some 0 }) (eLinkReplayCount p)) ∧
  (∀ s p, live s = true → p < 128 → portOn s p = true → (portOf s p).echo.fixed = false →
    exec (.roundTripFixed p) s = .next (wr (setPort s p { portOf s p with echo := { (portOf s p).echo with fixed := true } }) (ePortRoundTrip p)
      (match (portOf s p).echo.largest with | some x => min 65528 ((x + 7) / 8 * 8) | none => 1680))) ∧
  (∀ s p, live s = true → p < 128 → portOn s p = false ∨ (portOf s p).echo.fixed = true → exec (.roundTripFixed p) s = .next s)

/-- A frame slot serves the spare, then sends an ID_FRAME, a replay, CTRL, the packet in progress or a new packet; a frozen one FENCED -/
def Obligations.FrameSlotSendsWhatIsDue : Prop :=
  (∀ s p, p < 128 → dataUp s = true → let u := spareSlot s p
    (portSends u p = false → exec (.frameSlot p) s = .next (recordsLeft u)) ∧
    (portSends u p = true → s.faults.frozen = true →
      exec (.frameSlot p) s = .next (recordsLeft (sendFrame u p (idFlit u p) true 0 false 0)) ∧ idStateCode u p = 4) ∧
    (portSends u p = true → s.faults.frozen = false → let v := onActive (serveHeld (settle u) p) p
      exec (.frameSlot p) s = .next (recordsLeft (shapers (slotSend v p (slotKind v p)) p (slotClass v p (slotKind v p))
        fun c => (portOf v p).queue.any fun o => decide (o.pkt.h.cls.toNat = c))))) ∧
  (∀ s p, p < 128 → dataUp s = false → exec (.frameSlot p) s = .next s) ∧
  (∀ s p, portSends s p = true ↔ (fnState s (ePortState p) ≠ .off ∧ fnState s (ePortState p) ≠ .fenced) ∨
    ∃ j, j < 4 ∧ (laneOf s (if (lgOf s (p / 4)).carries = some (posIdx p j) then spareOf (p / 4) else ownLane p j)).txActive = true) ∧
  (∀ s p, let g := p / 4
    let x := lgOf s g
    let u := setLg s g { x with slotPorts := [p], switching := false }
    let begins := x.slotPorts = [] ∨ p ∈ x.slotPorts ∨ x.switchDue ≠ none
    (¬ begins → spareSlot s p = setLg s g { x with slotPorts := p :: x.slotPorts }) ∧
    (∀ n, x.switchDue = some n → s.faults.frozen = false → (laneOf s (spareOf g)).txActive = true →
      let b := lcbMake 16 1 n x.markerSeq
      let y := { x with slotPorts := [p], switching := true, switchDue := none, lastSwitch := some b, spareFrame := [] }
      spareSlot s p = bump (sendBlock (setLg s g { y with carries := if n = 31 then none else some n }) (spareOf g) b) (eLaneSwitchCount (spareOf g))) ∧
    (x.switchDue ≠ none → s.faults.frozen = false → (laneOf s (spareOf g)).txActive = false → spareSlot s p = u) ∧
    (begins → x.switchDue = none ∨ s.faults.frozen = true → x.carries ≠ none → spareSlot s p = u) ∧
    (begins → x.switchDue = none ∨ s.faults.frozen = true → x.carries = none → (laneOf s (spareOf g)).txActive = false → spareSlot s p = u) ∧
    (begins → x.switchDue = none ∨ s.faults.frozen = true → x.carries = none → (laneOf s (spareOf g)).txActive = true →
      let fr := if x.spareFrame = [] then spareIdFrame u g else x.spareFrame
      spareSlot s p = sendOnLane (setLg s g { x with slotPorts := [p], switching := false, spareFrame := fr.drop 17 }) (spareOf g) (fr.take 17))) ∧
  (∀ s p,
    (portOn s p = false ∨ (portOf s p).farOn = false ∨ idDue s p = true → slotKind s p = .id) ∧
    (portOn s p = true → (portOf s p).farOn = true → idDue s p = false →
      ((portOf s p).link.replay ≠ none → slotKind s p = .replay) ∧
      ((portOf s p).link.replay = none →
        (330 ≤ (portOf s p).link.retry.length → slotKind s p = .id) ∧
        ((portOf s p).link.retry.length < 330 →
          (∀ i, 0 < (portOf s p).sched.ceiling → ctrlPick s p = some i → slotKind s p = .ctrl i) ∧
          ((portOf s p).sched.ceiling = 0 ∨ ctrlPick s p = none →
            (∀ i, dataPick s p = some i → slotKind s p = .more i) ∧
            (dataPick s p = none → (∀ c, chooseClass s p = some c → slotKind s p = .begin c) ∧
              (chooseClass s p = none → slotKind s p = .id)))))))

/-- TORUS_SIZE_COMMIT puts staged sizes in force only within 2 to 32 and 4,096 modules; equal or bad sizes change nothing -/
def Obligations.TorusSizeCommitChecksBounds : Prop :=
  (∀ x y z, sizesValid (x, y, z) = true ↔ 2 ≤ x ∧ x ≤ 32 ∧ 2 ≤ y ∧ y ≤ 32 ∧ 2 ≤ z ∧ z ≤ 32 ∧ x * y * z ≤ 4096) ∧
  (∀ s src, Accepted s src eTorusSizeCommit [1] → sizesValid (rd s eTorusSizeX, rd s eTorusSizeY, rd s eTorusSizeZ) = true →
    s.topo.sizes ≠ some (rd s eTorusSizeX, rd s eTorusSizeY, rd s eTorusSizeZ) →
    exec (.torusSizeCommit src) s = .next (sizesTakeEffect { s with topo := { s.topo with
      committed := some (rd s eTorusSizeX, rd s eTorusSizeY, rd s eTorusSizeZ), sizes := some (rd s eTorusSizeX, rd s eTorusSizeY, rd s eTorusSizeZ) } })) ∧
  (∀ s src, ¬ Accepted s src eTorusSizeCommit [1] ∨ sizesValid (rd s eTorusSizeX, rd s eTorusSizeY, rd s eTorusSizeZ) = false ∨
      s.topo.sizes = some (rd s eTorusSizeX, rd s eTorusSizeY, rd s eTorusSizeZ) →
    exec (.torusSizeCommit src) s = .next s)

/-- Bond leaders obey R102; a commit swaps a TABLE slice's banks only if the table is right; a drain drops what has not begun -/
def Obligations.BondsAndSlicesCommit : Prop :=
  (∀ s src p v, p < 104 → v < 256 → Accepted s src (ePortBondLeader p) (leBytes 1 v) →
    exec (.portBondLeaderWrite src p v) s = .next (if bondOk s p v then
      (let u := bondEval (writeReg s (ePortBondLeader p) v) p
       if rd s (ePortBondLeader p) < 104 then bondEval u (rd s (ePortBondLeader p)) else u) else s)) ∧
  (∀ s src k, 0 < k → k < 1024 → Accepted s src (eSliceCommit k) [1] → rd s (eSliceKind k) = 1 →
    (fnState s (eSliceState k) = .starting ∨ fnState s (eSliceState k) = .stopping →
      exec (.sliceCommit src k) s = .next (wr s (eSliceInstallResult k) 5)) ∧
    (fnState s (eSliceState k) = .off ∨ fnState s (eSliceState k) = .quarantined ∨ fnState s (eSliceState k) = .fenced →
      exec (.sliceCommit src k) s = .next s) ∧
    (fnState s (eSliceState k) = .on → s.topo.sizes = none → exec (.sliceCommit src k) s = .next (wr s (eSliceInstallResult k) 4)) ∧
    (∀ z, fnState s (eSliceState k) = .on → s.topo.sizes = some z →
      let table := sliceZ (blob s (eSliceRouteTable k)) 0 8192
      (tableOk s z table (stagedMask s k) = false → exec (.sliceCommit src k) s = .next (wr s (eSliceInstallResult k) 3)) ∧
      (tableOk s z table (stagedMask s k) = true → overlaps s k (stagedMask s k) = true →
        exec (.sliceCommit src k) s = .next (wr s (eSliceInstallResult k) 1)) ∧
      (tableOk s z table (stagedMask s k) = true → overlaps s k (stagedMask s k) = false →
        exec (.sliceCommit src k) s = .next (retree (wr { s with topo := { s.topo with slices := (Tab.set s.topo.slices k
          { kind := 1, links := BitVec.ofNat 128 (stagedMask s k), table := table, origin := 0, extent := 0, wrap := 0 }) } } (eSliceInstallResult k) 0)
            ((s.groups.filter fun x => decide (x.2.gdef.slice = k)).map (·.1)))))) ∧
  (∀ s src k, k < 1024 → k = 0 ∨ rd s (eSliceKind k) ≠ 1 ∨ ¬ Accepted s src (eSliceCommit k) [1] → exec (.sliceCommit src k) s = .next s) ∧
  (∀ s k, live s = true → k < 1024 → fnState s (eSliceState k) = .stopping →
    ∃ u, exec (.sliceDrainTimeout k) s = .next (recordsLeft (sliceStopped (drainDrop u k ((s.ports.flatMap fun x => x.2.queue.filter (drainable k)) ++
        ((s.pools.waiting.filter fun w => w.out.pkt.h.slice.toNat = k).map (·.out)) ++ s.e2e.reorder.flatMap fun r => r.held.filter (drainable k))) k)) ∧
      (∀ x ∈ u.ports, ∀ o ∈ x.2.queue, drainable k o = false) ∧ (∀ w ∈ u.pools.waiting, w.out.pkt.h.slice.toNat ≠ k) ∧
      u = { s with ports := u.ports, pools := { s.pools with waiting := u.pools.waiting }, e2e := { s.e2e with reorder := u.e2e.reorder } }) ∧
  (∀ s k, k < 1024 → live s = false ∨ fnState s (eSliceState k) ≠ .stopping → exec (.sliceDrainTimeout k) s = .next s)

/-- Escape waits, stalls, failover counts and requeues act on the packet or port they name, and not where nothing waits -/
def Obligations.EscapeStallAndFailoverAct : Prop :=
  (∀ s p vc i w, live s = true → p < 128 ∨ p = 255 → vc < 8 → heldAt s 255 p vc = some i → s.pools.waiting[i]? = some w →
    exec (.bulkEscapeWait p vc) s =
      .next (toEscape (bump64 { s with pools := { s.pools with waiting := s.pools.waiting.eraseIdx i } } eBulkEscapeCount 1) w)) ∧
  (∀ s p vc i w, live s = true → p < 128 ∨ p = 255 → vc < 8 → heldAt s 254 p vc = some i → s.pools.waiting[i]? = some w →
    exec (.escapeProceed p vc) s = .next (toEscape { s with pools := { s.pools with waiting := s.pools.waiting.eraseIdx i } } w)) ∧
  (∀ s w, (w.slice = none → toEscape s w = loseRoute s w.out) ∧
    (∀ a, w.slice = some a →
      (∀ q v, escapeHop s a w.out.pkt.h w.out.arrival = .out q v → toEscape s w = settle (placeOut s q v 1 w.stamp w.loaf w.out)) ∧
      (∀ m v, escapeHop s a w.out.pkt.h w.out.arrival = .hold m v → toEscape s w = { s with pools := { s.pools with waiting := s.pools.waiting ++
        [{ out := { w.out with vc := v }, outPort := m, copies := 1, stamp := w.stamp, slice := some a }] } }) ∧
      (escapeHop s a w.out.pkt.h w.out.arrival = .none → toEscape s w = settle (loseRoute s w.out)))) ∧
  (∀ s p vc, p < 128 ∨ p = 255 → vc < 8 →
    (heldAt s 255 p vc = none → exec (.bulkEscapeWait p vc) s = .next s) ∧ (heldAt s 254 p vc = none → exec (.escapeProceed p vc) s = .next s)) ∧
  (∀ s p vc n, live s = true → p < 128 → vc < 8 → ((stalledQueues s p vc).map (·.1) ++ stalledWaiters s p vc).min? = some n →
    (∀ x, (stalledQueues s p vc).find? (fun x => decide (x.1 = n)) = some x → ∃ t, exec (.stallTimeout p vc) s = .next (recordsLeft t) ∧
      FaultRaised (bump (dropStalled s x.2 p vc n) eStallDropCount) 21 t) ∧
    (∀ i w, (stalledQueues s p vc).find? (fun x => decide (x.1 = n)) = none →
      (s.pools.waiting.findIdx? fun w => atInput p vc w.out && decide (w.out.order = n)) = some i → s.pools.waiting[i]? = some w →
      ∃ t, exec (.stallTimeout p vc) s = .next (recordsLeft t) ∧
        FaultRaised (bump (settle (releaseOut { s with pools := { s.pools with waiting := s.pools.waiting.eraseIdx i } } w.out)) eStallDropCount) 21 t)) ∧
  (∀ s p vc, live s = true → p < 128 → vc < 8 → stalledQueues s p vc = [] → stalledWaiters s p vc = [] →
    (∀ r, Tab.find (portOf s p).rx vc = some r → ∃ t, exec (.stallTimeout p vc) s = .next (recordsLeft t) ∧
      FaultRaised (bump (setPort s p { portOf s p with rx := (Tab.set (portOf s p).rx vc { r with fate := .drop }) }) eStallDropCount) 21 t) ∧
    (Tab.find (portOf s p).rx vc = none → exec (.stallTimeout p vc) s = .next (recordsLeft s))) ∧
  (∀ s p, live s = true → 104 ≤ p → p < 128 → portOn s p = false → (∃ q ∈ bundlePorts (bundleOf p), portOn s q = true) →
    exec (.localFailover p) s = .next (bump s eLocalFailoverCount)) ∧
  (∀ s p, p < 128 → p < 104 ∨ portOn s p = true ∨ (∀ q ∈ bundlePorts (bundleOf p), portOn s q = false) →
    exec (.localFailover p) s = .next s) ∧
  (∀ s p, live s = true → p < 128 →
    let queued (o : OutPacket) : Bool := decide (o.sent = 0) && !stillServes s p o.pkt.h
    let waits (w : Waiter) : Bool := blockWaiter w && (waiterCopies w).any fun c => decide (c.1 = p) && !stillServes s p c.2.pkt.h
    exec (.egressRequeue p) s = .next (recordsLeft (afterColl (settleAll (settle (
      (s.pools.waiting.filter waits).foldl (fun u w => rerouteWaiter u p w)
        (((portOf s p).queue.filter queued).foldl (fun u o => requeueOne u p o)
          (setPort { s with pools := { s.pools with waiting := (s.pools.waiting.filter fun w => !waits w) } } p
            { portOf s p with queue := ((portOf s p).queue.filter fun o => !queued o) })))))))) ∧
  (∀ s p o, (∀ q, moveTo s p o.pkt.h = some q → requeueOne s p o = enqueue s q o) ∧
    (moveTo s p o.pkt.h = none → requeueOne s p o = bump (releaseOut s o) (eEgressFlushDropCount p))) ∧
  (∀ s p vc, live s = false → p < 128 → vc < 8 →
    ∀ c ∈ [Instr.bulkEscapeWait p vc, .escapeProceed p vc, .stallTimeout p vc, .localFailover p, .egressRequeue p], exec c s = .next s)

/-- Detours, admission, admission windows and reorder contexts change as their commands say -/
def Obligations.RoutesWindowsAndReorderingAct : Prop :=
  (∀ s es, live s = true → exec (.detourInstall es) s = .next { s with topo := { s.topo with detours :=
    (es.foldl (fun t e => if e.1 < 4096 && e.2 < 6 then Tab.set t e.1 e.2 else t) s.topo.detours) } }) ∧
  (∀ s ms, live s = true → exec (.detourRemove ms) s =
    .next (retree { s with topo := { s.topo with detours := (ms.foldl Tab.erase s.topo.detours) } } (detoured s ms))) ∧
  (∀ s es ms, live s = false → exec (.detourInstall es) s = .next s ∧ exec (.detourRemove ms) s = .next s) ∧
  (∀ s src, Accepted s src eFabricAdmit [1] → s.topo.state = .ready → rd s eFabricAdmitted ≠ 1 →
    exec (.fabricAdmit src) s = .next ((((List.range 24).map (· + 104)).filter (portOn s)).foldl sendAdmission (wr s eFabricAdmitted 1))) ∧
  (∀ s src, s.topo.state ≠ .ready ∨ rd s eFabricAdmitted = 1 ∨ ¬ Accepted s src eFabricAdmit [1] → exec (.fabricAdmit src) s = .next s) ∧
  (∀ s p, live s = true → 104 ≤ p → p < 128 → portOn s p = true →
    exec (.routeAdmission p) s = .next (if (portOf s p).admSent then wr (setPort s p { portOf s p with admReceived := true }) (ePortRoutable p) 1
      else setPort s p { portOf s p with admReceived := true })) ∧
  (∀ s p, p < 128 → p < 104 ∨ portOn s p = false → exec (.routeAdmission p) s = .next s) ∧
  (∀ s src c r, live s = true → (s.e2e.returns.find? fun r => r.src = src && r.cls = c) = some r →
    exec (.windowUpdDelay src c) s = .next (sendWindowUpd { s with e2e := { s.e2e with returns :=
      (s.e2e.returns.filter fun r => !(r.src = src && r.cls = c)) } } src r.bytes (myCoord s) c r.slice)) ∧
  (∀ s src c, (s.e2e.returns.find? fun r => r.src = src && r.cls = c) = none → exec (.windowUpdDelay src c) s = .next s) ∧
  (∀ s src m c, live s = true → m < 32768 → windowBytes s src m c ≠ 0 →
    ∃ slice d, exec (.windowLeakTimeout src m c) s =
      .next (sendWindowUpd { bump (setWindow s src m c 0) eWindowLeakResetCount with draws := d } src (windowBytes s src m c) m c slice)) ∧
  (∀ s src m c, m < 32768 → windowBytes s src m c = 0 → exec (.windowLeakTimeout src m c) s = .next s) ∧
  (∀ s src dst r, live s = true → reorderOf s src dst = some r →
    (r.held ≠ [] → exec (.reorderHoldTimeout src dst) s =
      .next (bump (setReorder (r.held.foldl (fun u o => deliverEdge false u (fcNow u) o) s) { r with held := [], gap := true }) eReorderTimeoutCount) ∧
      exec (.reorderContextIdle src dst) s = .next s) ∧
    (r.held = [] → exec (.reorderHoldTimeout src dst) s = .next s ∧
      exec (.reorderContextIdle src dst) s = .next { s with e2e := { s.e2e with reorder := (s.e2e.reorder.filter fun x => !(x.src = src && x.dst = dst)) } })) ∧
  (∀ s src dst, reorderOf s src dst = none → exec (.reorderHoldTimeout src dst) s = .next s ∧ exec (.reorderContextIdle src dst) s = .next s)

/-- A block goes to the oldest waiting header the pool can serve, once a cycle; without one, or granted already, nothing changes -/
def Obligations.GrantsGoToTheOldestHeaderServed : Prop :=
  (∀ s (ok : Waiter → Bool) (i : Nat), oldestWaiter s ok = some i → ∃ w, s.pools.waiting[i]? = some w ∧ ok w = true ∧
    ∀ (j : Nat) v, s.pools.waiting[j]? = some v → ok v = true → waitKey s w ≤ waitKey s v) ∧
  (∀ s (ok : Waiter → Bool), oldestWaiter s ok = none ↔ ∀ w ∈ s.pools.waiting, ok w = false) ∧
  (∀ s k (i : Nat) w, live s = true → k < 3 → mayGrant s k = true → oldestWaiter s (canServe s k) = some i → s.pools.waiting[i]? = some w →
    exec (.curdGrant k) s = .next (settle (grantBlock s k i w))) ∧
  (∀ s (i : Nat) w, live s = true → let u := loafTurn s
    mayGrant u 3 = true → oldestWaiter u (wheyServe u) = some i → u.pools.waiting[i]? = some w → exec .wheyGrant s = .next (settle (grantWhey u i w))) ∧
  (∀ s k, k < 3 → mayGrant s k = false ∨ (∀ w ∈ s.pools.waiting, canServe s k w = false) → exec (.curdGrant k) s = .next s) ∧
  (∀ s, live s = true → let u := loafTurn s
    mayGrant u 3 = false ∨ (∀ w ∈ u.pools.waiting, wheyServe u w = false) → exec .wheyGrant s = .next u) ∧
  (∀ s, (∀ w ∈ s.pools.waiting, loafRefused s w = false) → wheyShort s = true ∨ s.pools.loafQueue = [] → loafTurn s = s) ∧
  (∀ s k, live s = false → k < 3 → exec (.curdGrant k) s = .next s ∧ exec .wheyGrant s = .next s)

/-- A refill adds the rate to every enabled bucket up to its burst; policer and shaper writes store their value; the ceiling fills by one -/
def Obligations.PolicersRefillAndTakeTheirSettings : Prop :=
  ((∀ s, live s = true → ∃ t, exec .policerRefill s = .next t ∧
    t = { s with regs := t.regs, pools := { s.pools with windowStart := fcNow s, pendingWindow := none } } ∧
    (∀ p k, p < 104 → k < 3 → (rd s (ePolicerEnable p)).testBit k = true →
      rd t (ePolicerTokens p k) = min (rd s (ePolicerBurst p k)) (rd s (ePolicerTokens p k) + rd s (ePolicerRate p k))) ∧
    (∀ a, (∀ p k, p < 104 → k < 3 → (rd s (ePolicerEnable p)).testBit k = true → a ≠ ePolicerTokens p k) →
      Tab.find t.regs a = Tab.find s.regs a)) ∧
  (∀ s, live s = false → exec .policerRefill s = .next s)) ∧
  ((∀ s src p k v, p < 104 → k < 3 → v < 2 ^ 32 → Accepted s src (ePolicerRate p k) (leBytes 4 v) →
    exec (.policerRateWrite src p k v) s = .next (writeReg s (ePolicerRate p k) v)) ∧
  (∀ s src p k v, p < 104 → k < 3 → v < 2 ^ 32 → Accepted s src (ePolicerBurst p k) (leBytes 4 v) →
    exec (.policerBurstWrite src p k v) s = .next (if v < rd s (ePolicerTokens p k) then wr (writeReg s (ePolicerBurst p k) v) (ePolicerTokens p k) v
      else writeReg s (ePolicerBurst p k) v)) ∧
  (∀ s src p v, p < 104 → v < 256 → Accepted s src (ePolicerEnable p) (leBytes 1 v) → ∃ t, exec (.policerEnableWrite src p v) s = .next t ∧
    t = { s with regs := t.regs, mgmt := { s.mgmt with waiting := t.mgmt.waiting } } ∧ rd t (ePolicerEnable p) = v % 8 ∧
    (∀ k, k < 3 → rd t (ePolicerTokens p k) = if v.testBit k && !(rd s (ePolicerEnable p)).testBit k then rd s (ePolicerBurst p k) else rd s (ePolicerTokens p k)) ∧
    (∀ a, a ≠ ePolicerEnable p → (∀ k, k < 3 → a ≠ ePolicerTokens p k) → Tab.find t.regs a = Tab.find s.regs a)) ∧
  (∀ s src v, v < 2 ^ 32 → Accepted s src ePolicerWindow (leBytes 4 v) → ∃ w, exec (.policerWindowWrite src v) s = .next w ∧
    rd w ePolicerWindow = v ∧ w.pools = { s.pools with pendingWindow := some v } ∧ EntryOnly ePolicerWindow { s with pools := w.pools } w) ∧
  (∀ s src p sub v, p < 128 → 4 ≤ sub → sub ≤ 12 → Accepted s src ((0x3200 + p) * 256 + sub) v →
    exec (.shaperConfigWrite src p sub v) s = .next (writeReg s ((0x3200 + p) * 256 + sub) (leNat v))) ∧
  (∀ s src p k v, p < 104 → k < 3 →
    (¬ Accepted s src (ePolicerRate p k) (leBytes 4 v) → exec (.policerRateWrite src p k v) s = .next s) ∧
    (¬ Accepted s src (ePolicerBurst p k) (leBytes 4 v) → exec (.policerBurstWrite src p k v) s = .next s) ∧
    (¬ Accepted s src (ePolicerEnable p) (leBytes 1 v) → exec (.policerEnableWrite src p v) s = .next s) ∧
    (¬ Accepted s src ePolicerWindow (leBytes 4 v) → exec (.policerWindowWrite src v) s = .next s)) ∧
  (∀ s p, p < 128 → live s = true → exec (.ctrlCeilingFill p) s =
    .next (setPort s p { portOf s p with sched := { (portOf s p).sched with ceiling := min 130 ((portOf s p).sched.ceiling + 1) } })))

/-- A whole-unit write is read back, good and unpoisoned; a partial one changes its bytes only; an access to a pending slab waits -/
def Obligations.VatUnitsKeepWhatIsWritten : Prop :=
  (∀ s n u flips b, live s = true → n < 524288 → u < 16 → slabPending s n = false → u < unitCount (crcModeOf s n) → b.length = unitSize (crcModeOf s n) →
    ∃ t, exec (.vatAccess n u (some (0, b)) flips) s = .next t ∧ unitBytes t n u = b ∧ unitGood t n u = true ∧ unitPoisoned t n u = false ∧
      (∀ a, a < 4096 * n + u * unitSize (crcModeOf s n) ∨ 4096 * n + (u + 1) * unitSize (crcModeOf s n) ≤ a →
        Memory.get t.vat.mem a = Memory.get s.vat.mem a) ∧
      (∀ m, m ≠ n → tagOf t m = tagOf s m) ∧ t = { s with vat := { s.vat with mem := t.vat.mem, tags := t.vat.tags } }) ∧
  (∀ s n u off b, live s = true → n < 524288 → u < 16 → slabPending s n = false → u < unitCount (crcModeOf s n) →
    off + b.length ≤ unitSize (crcModeOf s n) → b.length < unitSize (crcModeOf s n) → (unitPoisoned s n u = true ∨ unitGood s n u = true) →
    ∃ t, exec (.vatAccess n u (some (off, b)) []) s = .next t ∧ unitGood t n u = true ∧ unitPoisoned t n u = unitPoisoned s n u ∧
      Memory.read t.vat.mem (4096 * n + u * unitSize (crcModeOf s n) + off) b.length = b ∧
      (∀ a, a < 4096 * n + u * unitSize (crcModeOf s n) + off ∨ 4096 * n + u * unitSize (crcModeOf s n) + off + b.length ≤ a →
        Memory.get t.vat.mem a = Memory.get s.vat.mem a) ∧
      (∀ m, m ≠ n → tagOf t m = tagOf s m) ∧ t = { s with vat := { s.vat with mem := t.vat.mem, tags := t.vat.tags } }) ∧
  (∀ s n u flips, live s = true → n < 524288 → u < 16 → slabPending s n = false → u < unitCount (crcModeOf s n) →
    exec (.vatAccess n u none flips) s = .next (
      if unitPoisoned (corruptUnit s n u flips) n u || unitGood (corruptUnit s n u flips) n u then corruptUnit s n u flips
      else failUnit (corruptUnit s n u flips) n u) ∧ corruptUnit s n u [] = s) ∧
  (∀ s n u off b, live s = true → n < 524288 → u < 16 → slabPending s n = false → u < unitCount (crcModeOf s n) →
    off + b.length ≤ unitSize (crcModeOf s n) → b.length < unitSize (crcModeOf s n) → unitPoisoned s n u = false → unitGood s n u = false →
    let f := failUnit s n u
    exec (.vatAccess n u (some (off, b)) []) s =
      .next (if slabPending f n then { f with vat := { f.vat with queue := f.vat.queue ++ [⟨n, u, some (off, b), []⟩] } } else writeUnit f n u off b)) ∧
  (∀ s n u w flips, live s = true → n < 524288 → u < 16 → u < unitCount (crcModeOf s n) → slabPending s n = true →
    exec (.vatAccess n u w flips) s = .next { s with vat := { s.vat with queue := s.vat.queue ++ [⟨n, u, w, flips⟩] } }) ∧
  (∀ s n u w flips, n < 524288 → u < 16 → live s = false ∨ unitCount (crcModeOf s n) ≤ u → exec (.vatAccess n u w flips) s = .next s) ∧
  (∀ s n u off b, n < 524288 → u < 16 → slabPending s n = false → unitSize (crcModeOf s n) < off + b.length →
    exec (.vatAccess n u (some (off, b)) []) s = .next s)

/-- Refetch, read-back, remap, bank move, transpose reload and Cellar reads complete what is due, and nothing where nothing is due -/
def Obligations.VatRepairsComplete : Prop :=
  (∀ s n fl r q, live s = true → n < 524288 → (tagOf s n).pend = .refetch → s.cellar.queue = r :: q →
    r.refetch = true → r.cslab = (tagOf s n).sourceSlab → r.slab = n →
    let c := (tagOf s n).sourceSlab
    let u := corruptCellar { s with cellar := { s.cellar with queue := q } } c fl
    let goOn (v : State) : State :=
      let w := resume { v with vat := { v.vat with delivered := some n } }
      { w with vat := { w.vat with delivered := none } }
    (cellarGood u c = true → let v := sealUnit (rawPut u (4096 * n) (cellarBytes u c)) n 0
      ∃ t, FaultRaised (bump64 (serveReaders (setTag v n { tagOf v n with pend := .readback }) n) eVatRefetchCount 1) 3 t ∧
        exec (.vatRefetchDone n fl) s = .next (goOn t)) ∧
    (cellarGood u c = false → exec (.vatRefetchDone n fl) s =
      .next (goOn (serveWaiting (poisonUnit (bump (setTag u n { tagOf u n with sourceValid := false }) eCellarCrcErrorCount) n 0))))) ∧
  (∀ s n, live s = true → n < 524288 → (tagOf s n).pend = .readback → unitGood s n 0 = true →
    exec (.vatReadbackDone n []) s = .next (resume (serveWaiting (setTag s n { tagOf s n with pend := .none })))) ∧
  (∀ s n fl, live s = true → n < 524288 → (tagOf s n).pend = .readback → unitGood (corruptUnit s n 0 fl) n 0 = false →
    let u := setTag (corruptUnit s n 0 fl) n { tagOf (corruptUnit s n 0 fl) n with pend := .none }
    exec (.vatReadbackDone n fl) s =
      .next (resume (startRemap (wr (bump (bump64 u eVatCrcErrorCount 1) (eVatBankCrcErrorCount (bankOf u n))) eVatLastErrorSlab n) n))) ∧
  (∀ s n r, live s = true → n < 524288 → (s.vat.remaps.find? fun x => decide (x.1 = n)) = some r →
    let b := r.2 / 4096
    let used := rd s (eVatBankSpareRowsUsed b)
    let rest := s.vat.remaps.filter fun x => decide (x ≠ r)
    (used < 128 → exec (.vatRemapDone n) s = .next (resume (serveWaiting (bump (wr { s with vat := { s.vat with
      remaps := rest, place := (Tab.set s.vat.place ((slabAt s r.2).getD n) (b * 4096 + 2048 + used)) } }
        (eVatBankSpareRowsUsed b) (used + 1)) eVatRowRemapCount)))) ∧
    (128 ≤ used → exec (.vatRemapDone n) s = .next (resume (fenceBank { s with vat := { s.vat with remaps := rest } } b)))) ∧
  (∀ s b, live s = true → b < 256 → b ∈ s.vat.moves → exec (.vatBankMoveDone b) s = .next (resume (vatBankMoveDone s b))) ∧
  (∀ s n fl, n < 524288 → ((tagOf s n).pend ≠ .refetch ∨ cellarServes s true (tagOf s n).sourceSlab n = false → exec (.vatRefetchDone n fl) s = .next s) ∧
    ((tagOf s n).pend ≠ .readback → exec (.vatReadbackDone n fl) s = .next s) ∧
    ((∀ x ∈ s.vat.remaps, x.1 ≠ n) → exec (.vatRemapDone n) s = .next s)) ∧
  (∀ s b, b < 256 → b ∉ s.vat.moves → exec (.vatBankMoveDone b) s = .next s) ∧
  (∀ s c h, live s = true → c < 9 → h < 2 →
    let x := halfOf s c h
    let r := readSlabs s x.slabs
    exec (.tbufParityError c h) s = .next (setHalf s c h { x with reloading := true }) ∧
    (x.reloading = false → exec (.tbufReload c h) s = .next s) ∧
    (x.reloading = true → r.2 = .wait → exec (.tbufReload c h) s = .next r.1) ∧
    (x.reloading = true → r.2 ≠ .wait → ∃ t, exec (.tbufReload c h) s = .next t ∧
      FaultRaised (bump (setHalf r.1 c h { x with reloading := false, tile := if r.2 = .poison then none else x.tile.bind (tileAgain r.1) })
        (eTbufReloadCount c)) 4 t)) ∧
  (∀ s c n fl r q, live s = true → c < 33554432 → n < 524288 → s.cellar.queue = r :: q → r.refetch = false → r.cslab = c → r.slab = n →
    let u := corruptCellar { s with cellar := { s.cellar with queue := q } } c fl
    let v := writeUnit u n 0 0 (cellarBytes u c)
    (cellarGood u c = true → exec (.cellarSlabReadDone c n fl) s = .next (resume (stageSlabDone
      (serveWaiting (setTag v n { tagOf v n with sourceValid := true, sourceSlab := c, pend := .none })) (c, n)))) ∧
    (cellarGood u c = false → ∃ t, FaultRaised (bump (bump (setTag u n { tagOf u n with poisoned := true, sourceValid := false, pend := .none })
        eCellarCrcErrorCount) eVatPoisonCount) 17 t ∧
      exec (.cellarSlabReadDone c n fl) s = .next (resume (stageSlabDone (serveWaiting t) (c, n))))) ∧
  (∀ s c n fl, c < 33554432 → n < 524288 → cellarServes s false c n = false → exec (.cellarSlabReadDone c n fl) s = .next s) ∧
  (∀ s w r m, live s = true → exec (.cellarRefresh w r m) s =
    .next (wr (wr (bump64 s eCellarRefreshStallTime w) eCellarRefreshRate (r % 4)) eCellarTempMax (unsigned 32 m))) ∧
  (∀ s src v, exec (.plihotuProbeWrite src v) s = .next (writeItem s src ⟨ePlihotuProbeInput / 256, ePlihotuProbeInput % 256, v⟩))

/-- Group installs and removals begin once at a time; entries, answers and recomputed trees take effect; refused ones only say why -/
def Obligations.GroupCommitsAndEntriesApply : Prop :=
  (∀ s src, Accepted s src eGroupStageCommit [1] → s.groupCommit = none →
    exec (.groupInstall src) s = .next (resume (if stageRefusal s src ≠ 0 then wr s eGroupInstallResult (stageRefusal s src) else beginInstall s src))) ∧
  (∀ s src, Accepted s src eGroupStageCommit [2] → s.groupCommit = none →
    exec (.groupRemove src) s = .next (resume (if groupOf s (scopedNum s src eGroupStageId) = none then wr s eGroupInstallResult 8 else beginRemove s src))) ∧
  (∀ s src, s.groupCommit ≠ none ∨ ¬ Accepted s src eGroupStageCommit [1] → exec (.groupInstall src) s = .next s) ∧
  (∀ s src, s.groupCommit ≠ none ∨ ¬ Accepted s src eGroupStageCommit [2] → exec (.groupRemove src) s = .next s) ∧
  (∀ s g o d, live s = true → g < 65536 →
    let told (t : State) : State := match s.topo.sizes with | some z => sendMgmt t (coordOfNum z o) | none => t
    (entryRefusal s g d.slice = 0 → exec (.groupEntryMsg g o (some d)) s = .next (served (told (setGroup s g { gdef := d })))) ∧
    (entryRefusal s g d.slice ≠ 0 → exec (.groupEntryMsg g o (some d)) s = .next (served (told s))) ∧
    (groupOf s g = none → exec (.groupEntryMsg g o none) s = .next (served (told { s with groups := Tab.erase s.groups g }))) ∧
    (groupOf s g ≠ none → let t := endInst s g csREMOVED 0xFFFFFFFF 0xFFFFFFFF
      exec (.groupEntryMsg g o none) s = .next (served (match t.topo.sizes with
        | some z => sendMgmt { t with groups := Tab.erase t.groups g } (coordOfNum z o)
        | none => { t with groups := Tab.erase t.groups g })))) ∧
  (∀ s g m r c z, live s = true → g < 65536 → m < 4096 → s.groupCommit = some c → s.topo.sizes = some z →
    let c' := { c with awaiting := (c.awaiting.filter fun x => x ≠ coordOfNum z m), accepted := if r = 0 then c.accepted ++ [coordOfNum z m] else c.accepted,
                       refusal := worseOf c.refusal r }
    (c.group = g → coordOfNum z m ∈ c.awaiting →
      exec (.groupEntryAck g m r) s = .next (served (if c'.awaiting = [] then commitOutcome s c' else { s with groupCommit := some c' }))) ∧
    (c.group ≠ g ∨ coordOfNum z m ∉ c.awaiting → exec (.groupEntryAck g m r) s = .next (served s))) ∧
  (∀ s g m r, live s = true → g < 65536 → m < 4096 → s.groupCommit = none ∨ s.topo.sizes = none →
    exec (.groupEntryAck g m r) s = .next (served s)) ∧
  (∀ s k d, live s = true → k < 65536 →
    (recomputed s k d = false → exec (.treeRecompute k (some d)) s = .next (served s)) ∧
    (groupOf s k = none → exec (.treeRecompute k none) s = .next (served s) ∧
      (recomputed s k d = true → exec (.treeRecompute k (some d)) s = .next (served (setGroup s k { gdef := d, epoch := 0 }))))) ∧
  (∀ s k g d, live s = true → k < 65536 → groupOf s k = some g →
    (g.inst = none → (recomputed s k d = true → exec (.treeRecompute k (some d)) s = .next (served (setGroup s k { g with gdef := d, lost := [] }))) ∧
      exec (.treeRecompute k none) s = .next (served { s with groups := Tab.erase s.groups k })) ∧
    (g.inst ≠ none → (recomputed s k d = true → exec (.treeRecompute k (some d)) s =
        .next (served (setGroup s k { g with nextDef := some d, leaving := false, lost := [] }))) ∧
      exec (.treeRecompute k none) s = .next (served (setGroup s k { g with leaving := true }))))

/-- JOIN, DATA, MAXIMA and MEMBER_ABORT of a member act on its open instance; strangers and stale packets are counted and dropped -/
def Obligations.MemberPacketsReachTheirInstance : Prop :=
  (∀ s p pkt g i, GroupPacket s p pkt g i → fromMember s pkt.h g = true →
    (pkt.h.opcode = opDATA → auxKind pkt.h = kCONTRIB → exec (.dataReceived p pkt) s =
      .next (served (afterPacket (memberData (packetTaken s p pkt g i) p pkt (hGroup pkt.h) (takenGroup s g i)) (hGroup pkt.h)))) ∧
    (pkt.h.opcode = opANCHOR → bitsAt pkt.h.aux.toNat 0 8 = 0 → exec (.maximaReceived p pkt) s =
      .next (served (afterPacket (memberMaxima (packetTaken s p pkt g i) p pkt (hGroup pkt.h) (takenGroup s g i)) (hGroup pkt.h)))) ∧
    (∀ r, pkt.h.opcode = opABORT → abCause pkt.payload = caMEMBER_ABORT → rankOf g.gdef pkt.h.src = some r → exec (.memberAbortReceived p pkt) s =
      .next (served (afterColl (report (packetTaken s p pkt g i) (hGroup pkt.h) csMEMBER_ABORT r (rankIdNum g.gdef r)))))) ∧
  (∀ s p pkt g r, live s = true → p < 104 → sourceOk s p pkt.h.src = true → pkt.h.opcode = opJOIN → installing s (hGroup pkt.h) = false →
    groupOf s (hGroup pkt.h) = some g → rankOf g.gdef pkt.h.src = some r →
    let t := takeInbox s p pkt
    let n := hGroup pkt.h
    let i : Inst := match g.inst with
      | some i => { i with lastPacket := fcNow s }
      | none => { runs := g.runs + 1, resident := decide (residentCount s < 4096), lastPacket := fcNow s, waiting := g.early }
    let g' : Group := { g with inst := some i, early := if g.inst = none then [] else g.early }
    (hEpoch pkt.h = g.epoch → i.resident = true → exec (.joinReceived p pkt) s =
      .next (served (afterPacket (checkedJoin (setGroup t n g') n g' r (BitVec.ofNat 512 (leNat pkt.payload))) n))) ∧
    (hEpoch pkt.h = g.epoch → i.resident = false → exec (.joinReceived p pkt) s =
      .next (served (afterPacket (setGroup t n { g' with inst := some { i with parked := i.parked ++ [(p, pkt)] } }) n))) ∧
    (hEpoch pkt.h = nextEpoch g.epoch → g.inst ≠ none → (∃ x ∈ g.heldJoins, x.2.h.src = pkt.h.src) → exec (.joinReceived p pkt) s =
      .next (served (afterPacket (bump64 t eCollDuplicateCount 1) n))) ∧
    (hEpoch pkt.h = nextEpoch g.epoch → g.inst ≠ none → (∀ x ∈ g.heldJoins, x.2.h.src ≠ pkt.h.src) → exec (.joinReceived p pkt) s =
      .next (served (afterPacket (setGroup t n { g with heldJoins := g.heldJoins ++ [(p, pkt)] }) n))) ∧
    (hEpoch pkt.h ≠ g.epoch → hEpoch pkt.h ≠ nextEpoch g.epoch ∨ g.inst = none → exec (.joinReceived p pkt) s =
      .next (served (afterPacket (sendAbort (bump t eCollStaleDiscardCount) n g.epoch g.gdef.slice pkt.h.src
        (abortBytes caSTALE_EPOCH 0 g.epoch 0xFFFFFFFF 0xFFFFFFFF)) n)))) ∧
  (∀ s p pkt, live s = true → (p < 128 ∨ p = 255) → pkt.h.opcode = opJOIN →
    (groupOf s (hGroup pkt.h) = none ∨ installing s (hGroup pkt.h) = true ∨ (isEdge p && sourceOk s p pkt.h.src) = false ∨
      ∃ g, groupOf s (hGroup pkt.h) = some g ∧ rankOf g.gdef pkt.h.src = none) →
    exec (.joinReceived p pkt) s = .next (served (afterPacket (sendAbort (bump (takeInbox s p pkt) eCollNotMemberCount) (hGroup pkt.h) (hEpoch pkt.h)
      pkt.h.slice.toNat pkt.h.src (abortBytes caNOT_MEMBER 0 0 0xFFFFFFFF 0xFFFFFFFF)) (hGroup pkt.h)))) ∧
  (∀ s p pkt, live s = true → (p < 128 ∨ p = 255) → pkt.h.opcode ≠ opJOIN →
    exec (.joinReceived p pkt) s = .next (served (bump (takeInbox s p pkt) eCollStaleDiscardCount))) ∧
  (∀ s p pkt c, live s = true → (p < 128 ∨ p = 255) →
    c ∈ [Instr.dataReceived p pkt, .contribReceived p pkt, .joinUpReceived p pkt, .doneUpReceived p pkt, .commitReceived p pkt, .collResultReceived p pkt,
      .endReceived p pkt, .rerunReceived p pkt, .reportReceived p pkt, .memberAbortReceived p pkt, .poisonNoticeReceived p pkt, .maximaReceived p pkt,
      .finalReceived p pkt] →
    ((idPort pkt.h.src ≤ 103 ∧ (isEdge p && sourceOk s p pkt.h.src) = false) → exec c s = .next (served (bump (takeInbox s p pkt) eCollNotMemberCount))) ∧
    ((idPort pkt.h.src ≤ 103 → isEdge p = true ∧ sourceOk s p pkt.h.src = true) →
      (groupOf s (hGroup pkt.h) = none ∨ installing s (hGroup pkt.h) = true ∨
        ∃ g, groupOf s (hGroup pkt.h) = some g ∧ g.epoch ≠ 0 ∧ hEpoch pkt.h ≠ g.epoch) →
      exec c s = .next (served (bump (takeInbox s p pkt) eCollStaleDiscardCount))))

/-- Packets of the parent and of children act on the open instance they belong to, each by its kind -/
def Obligations.TreePacketsReachTheirInstance : Prop :=
  (∀ s p pkt g i, GroupPacket s p pkt g i → fromParent s pkt.h g = true →
    (pkt.h.opcode = opCOLL_RESULT → auxKind pkt.h = kCOMMIT → exec (.commitReceived p pkt) s =
      .next (served (afterColl (commitLocal (packetTaken s p pkt g i) (hGroup pkt.h) (recOf (leNat pkt.payload)))))) ∧
    (pkt.h.opcode = opCOLL_RESULT → auxKind pkt.h = kRESULT → exec (.collResultReceived p pkt) s =
      .next (served (afterColl (takeResult (packetTaken s p pkt g i) pkt (hGroup pkt.h) (takenGroup s g i))))) ∧
    (pkt.h.opcode = opABORT → abCause pkt.payload = caEND → exec (.endReceived p pkt) s =
      .next (served (afterColl (endInst (packetTaken s p pkt g i) (hGroup pkt.h) (abStatus pkt.payload) (abRank pkt.payload) (abId pkt.payload))))) ∧
    (pkt.h.opcode = opABORT → abCause pkt.payload = caRERUN → exec (.rerunReceived p pkt) s =
      .next (served (afterColl (rerunLocal (packetTaken s p pkt g i) (hGroup pkt.h))))) ∧
    (pkt.h.opcode = opPOISON → exec (.poisonNoticeReceived p pkt) s =
      .next (served (passPoison (packetTaken s p pkt g i) pkt (hGroup pkt.h) (takenGroup s g i)))) ∧
    (pkt.h.opcode = opANCHOR → bitsAt pkt.h.aux.toNat 0 8 = 1 → exec (.finalReceived p pkt) s =
      .next (served (afterPacket (noteFinal (packetTaken s p pkt g i) p pkt (hGroup pkt.h) (takenGroup s g i)) (hGroup pkt.h))))) ∧
  (∀ s p pkt g i d, GroupPacket s p pkt g i → fromChild s pkt.h g = none → fromEdgeOf pkt.h g = true → localRanks s g.gdef ≠ [] → i.desc = some d →
    dOp d = 6 ∨ dOp d = 7 → pkt.h.opcode = opDATA → auxKind pkt.h = kCONTRIB → exec (.contribReceived p pkt) s =
      .next (served (afterPacket (takeContrib (packetTaken s p pkt g i) p pkt (hGroup pkt.h) (takenGroup s g i)) (hGroup pkt.h)))) ∧
  (∀ s p pkt g i b, GroupPacket s p pkt g i → fromChild s pkt.h g = some b →
    (pkt.h.opcode = opDATA → auxKind pkt.h = kCONTRIB → (∀ d, i.desc = some d → dOp d ≠ 6 ∧ dOp d ≠ 7) → exec (.contribReceived p pkt) s =
      .next (served (afterPacket (takeContrib (packetTaken s p pkt g i) p pkt (hGroup pkt.h) (takenGroup s g i)) (hGroup pkt.h)))) ∧
    (pkt.h.opcode = opANCHOR → bitsAt pkt.h.aux.toNat 0 8 = 0 → exec (.maximaReceived p pkt) s =
      .next (served (afterPacket (childMaxima (packetTaken s p pkt g i) b p pkt (hGroup pkt.h) (takenGroup s g i)) (hGroup pkt.h)))) ∧
    (pkt.h.opcode = opDATA → auxKind pkt.h = kJOIN_UP → exec (.joinUpReceived p pkt) s =
      .next (served (afterPacket (takeJoinUp (packetTaken s p pkt g i) pkt (hGroup pkt.h) (takenGroup s g i)) (hGroup pkt.h)))) ∧
    (pkt.h.opcode = opDATA → auxKind pkt.h = kDONE_UP → exec (.doneUpReceived p pkt) s =
      .next (served (afterColl (settleGroup (setInst (packetTaken s p pkt g i) (hGroup pkt.h)
        { i with lastPacket := fcNow s, doneUps := Tab.set i.doneUps b (doneOf pkt.payload) }) (hGroup pkt.h))))) ∧
    (pkt.h.opcode = opABORT → abCause pkt.payload = caREPORT → exec (.reportReceived p pkt) s =
      .next (served (afterColl (report (packetTaken s p pkt g i) (hGroup pkt.h) (abStatus pkt.payload) (abRank pkt.payload) (abId pkt.payload))))))

/-- Join and progress timeouts, tree losses and context swaps act on the open instance, and not where there is none or nothing is due -/
def Obligations.CollectiveTimersAct : Prop :=
  (∀ s k g i, live s = true → k < 65536 → groupOf s k = some g → g.inst = some i →
    (isRoot g.gdef = true → i.joinDone = false → exec (.joinTimeout k) s =
      .next (served (afterColl (endInst s k csJOIN_TIMEOUT (firstAbsent s g i) (rankIdNum g.gdef (firstAbsent s g i)))))) ∧
    (isRoot g.gdef = false ∨ i.joinDone = true → exec (.joinTimeout k) s = .next (served s)) ∧
    (owedData s g i = true → exec (.progressTimeout k) s = .next (served (afterColl (report s k csSTALL 0xFFFFFFFF 0xFFFFFFFF)))) ∧
    (owedData s g i = false → exec (.progressTimeout k) s = .next (served s)) ∧
    (i.resident = true → exec (.contextSwap k) s = .next (served s)) ∧
    (i.resident = false → exec (.contextSwap k) s = .next (served (
      let u := if residentCount s < 4096 then s else match longestIdle s with | some o => setResident s o false | none => s
      i.parked.foldl replayPacket (bump64 (setInst u k { i with resident := true, parked := [] }) eCollContextSwapCount 1))))) ∧
  (∀ s k g z m b, live s = true → k < 65536 → m < 4096 → groupOf s k = some g → s.topo.sizes = some z →
    let id := (idOf (coordOfNum z m) 0xFF).toNat
    let v := if b = true ∨ coordOfNum z m ∈ g.lost then s else setGroup s k { g with lost := g.lost ++ [coordOfNum z m] }
    (isRoot g.gdef = true → exec (.treeLossReport k m b) s =
      .next (served (afterColl (if b then endInst v k csMEMBER_LOST 0xFFFFFFFF id else rerunRoot v k csRERUN_LIMIT)))) ∧
    (isRoot g.gdef = false → b = true → coordOfNum z m = g.gdef.root → exec (.treeLossReport k m b) s =
      .next (served (afterColl (endInst s k csMEMBER_LOST 0xFFFFFFFF id)))) ∧
    (isRoot g.gdef = false → b = false ∨ coordOfNum z m ≠ g.gdef.root → exec (.treeLossReport k m b) s = .next (served (sendMgmt v g.gdef.root)))) ∧
  (∀ s k m b, live s = true → k < 65536 → m < 4096 → groupOf s k = none →
    ∀ c ∈ [Instr.joinTimeout k, .progressTimeout k, .contextSwap k, .treeLossReport k m b], exec c s = .next (served s))

/-- The Churn takes the oldest contribution it can, spills at the window's end, emits a full accumulator, and brings in a spare lane -/
def Obligations.ChurnTakesSpillsAndEmits : Prop :=
  (∀ s k a i d, live s = true → k < 65536 → instOf s k = some i → i.desc = some d → isReduction d = true →
    (∀ (n : Nat) t, (i.waiting.findIdx? fun t => (accsOf d t).contains a && takeable s d i t) = some n → i.waiting[n]? = some t →
      exec (.churnTake k a) s = .next (served (takeTerms (setInst s k { i with waiting := i.waiting.eraseIdx n }) k d t))) ∧
    ((∀ t ∈ i.waiting, ((accsOf d t).contains a && takeable s d i t) = false) → exec (.churnTake k a) s = .next (served s))) ∧
  (∀ s k a g i d x, live s = true → k < 65536 → groupOf s k = some g → g.inst = some i → i.desc = some d → Tab.find i.accs a = some x →
    (x.emitted = true ∨ x.closed = true → exec (.skewWindowEnd k a) s = .next (served s)) ∧
    (x.emitted = false → x.closed = false →
      let y : Acc := { x with closed := true, closedAt := fcNow s }
      let put (z : Acc) : State := setInst s k { i with accs := (Tab.set i.accs a z) }
      let missing := termsMissing s g d i a
      (x.slab ≠ none ∨ (∀ t ∈ missing, inFlight s k g t = true) → exec (.skewWindowEnd k a) s = .next (served (put y))) ∧
      (x.slab = none → (∃ t ∈ missing, inFlight s k g t = false) → (∃ t ∈ missing, inFlight s k g t = true) →
        exec (.skewWindowEnd k a) s = .next (served (put { y with spillDue := true }))) ∧
      (x.slab = none → missing ≠ [] → (∀ t ∈ missing, inFlight s k g t = false) →
        (freeChurnSlab s = none → exec (.skewWindowEnd k a) s = .next (served (put { y with spillDue := false }))) ∧
        (∀ n, freeChurnSlab s = some n → let w : Acc := { y with spillDue := false, slab := some n }
          exec (.skewWindowEnd k a) s = .next (served (storeAcc (bump64 (setInst { s with vat := { s.vat with churnUsed := n :: s.vat.churnUsed } } k
            { i with accs := (Tab.set i.accs a w) }) eChurnSpillCount 1) d w)))))) ∧
  (∀ s k a l r c g i d, live s = true → k < 65536 → l < 68 → groupOf s k = some g → g.inst = some i → i.desc = some d →
    let ready := isReduction d = true ∧ a < accCount d ∧ accFull s g.gdef d i a = true ∧ (accOf i a).emitted = false ∧
      (isRoot g.gdef = false ∨ i.joinDone = true) ∧ plainRelay s g.gdef = false ∧ (∀ n, (accOf i a).slab = some n → slabPending s n = false)
    (¬ ready → exec (.accumulatorComplete k a l r c) s = .next (served s)) ∧
    (ready → let q := checkAcc s (accOf i a)
      let ctx := w64 (k * 65536 + g.epoch)
      let s1 := if r = true then q.1 else laneFault (bump q.1 eChurnResidueErrorCount) l 18 ctx
      let bad := isRoot g.gdef && !c
      let s2 := if bad = true then laneFault (bump s1 eChurnConvertMismatchCount) l 19 ctx else s1
      let y := poisonAcc q.2 (if r = true then 0 else prCHECK)
      let s3 := if y.slab = none then bump64 s2 eChurnOnDieCount 1 else s2
      let s4 := { s3 with vat := { s3.vat with churnUsed := (s3.vat.churnUsed.filter fun n => decide (y.slab ≠ some n)) } }
      let fast := isRoot g.gdef && decide (dReduce d = 6) && decide (3 ≤ memberCount g.gdef)
      let s5 := if fast = true then timingChoice (bump64 s4 eChurnFastFloatCount 1) else s4
      let w : Acc := { y with emitted := true, slab := none, convertBad := bad }
      let s6 := setInst s5 k { i with accs := (Tab.set i.accs a w), timing := i.timing || fast }
      let s7 := if isRoot g.gdef = true then
          (piecesOf (chunkElems (outCode d)) (chunkLo (accElems d) a) (chunkHi d (accElems d) a)).foldl (fun u n => emitChunk u k d n) s6
        else emitPartial s6 k g d a w
      exec (.accumulatorComplete k a l r c) s =
        .next (served (afterColl (settleGroup (flushWaiting (releaseFinals (flushAnchors (releaseSpans s7 k) k) k) k) k))))) ∧
  (∀ s l, live s = true → l < 68 →
    (∀ j, spareChurn s (l / 17) = some j → lanesServing s (l / 17) < 16 → exec (.churnSpareTakeover l) s =
      .next (wr (wr (wr s (eChurnLaneStatus j) 2) eChurnSparesFree (rd s eChurnSparesFree - 1)) eChurnLanesActive (rd s eChurnLanesActive + 1))) ∧
    (spareChurn s (l / 17) = none ∨ 16 ≤ lanesServing s (l / 17) → exec (.churnSpareTakeover l) s = .next s))

/-- Tiles, passes, unit ends, repairs and takeovers act where their unit, array or cluster is ready for them, else nothing changes -/
def Obligations.KneadPassesUnitsAndTakeovers : Prop :=
  (∀ s u x p j, live s = true → unitOf s u = some x → unitProduct s x = some (p, j) →
    let y : KUnit := { x with bank := true }
    let r := readSlabs s (p.bSlabs x.nChunk x.chunk)
    let free := ownTile s u j x = false ∧ (halfOf s x.cluster (fillOf s x.cluster)).reloading = false
    (∀ a, loadArray s p j x = some a → passOpen s p j x a = true ∧ shadowHeld s a = false ∧ a / 3 = x.cluster) ∧
    (∀ a, loadArray s p j x = some a → free →
      (r.2 = .wait → exec (.kneadTileLoaded u) s = .next (setUnit r.1 u y)) ∧
      (r.2 = .poison → exec (.kneadTileLoaded u) s = .next (setUnit r.1 u { y with poisoned := true })) ∧
      (r.2 = .go → let t := loadTile r.1 p j u y
        let v := fillHalf r.1 x.cluster t (p.bSlabs x.nChunk x.chunk)
        exec (.kneadTileLoaded u) s = .next (setUnit (setKarray v a { karrayOf v a with shadow := some t }) u y))) ∧
    (loadArray s p j x = none ∨ ¬ free → exec (.kneadTileLoaded u) s = .next s)) ∧
  (∀ s u a v x p j, live s = true → a < 27 → unitOf s u = some x → unitProduct s x = some (p, j) →
    let y : KUnit := { x with bank := true }
    let r := readSlabs s (passReads p x)
    let ready := passOpen s p j x a = true ∧ tileReady s j x a = true ∧
      (p.transA = false ∨ (halfOf s x.cluster (fillOf s x.cluster)).reloading = false)
    (ready → (r.2 = .wait → exec (.kneadPassDone u a v) s = .next r.1) ∧
      (r.2 = .poison → exec (.kneadPassDone u a v) s = .next (setUnit r.1 u { y with poisoned := true })) ∧
      (r.2 = .go → exec (.kneadPassDone u a v) s = .next (runPass (bringTile r.1 j y a) u y p j a v))) ∧
    (¬ ready → exec (.kneadPassDone u a v) s = .next s)) ∧
  (∀ s u a v x p j, a < 27 → let t := runPass s u x p j a v
    cnt t eKneadPassCount = min (2 ^ 64 - 1) (cnt s eKneadPassCount + 1) ∧
    cnt t (eArrayPassCount a) = min (2 ^ 64 - 1) (cnt s (eArrayPassCount a) + 1) ∧ ∃ y, unitOf t u = some y ∧ x.chunk < y.chunk) ∧
  (∀ s u v x p j r, live s = true → unitOf s u = some x → unitProduct s x = some (p, j) → runningOf s x.inv = some r →
    let ready := x.finished = false ∧ (x.poisoned = true ∨ unitEnd p j x ≤ x.chunk) ∧ clusterServes s x.cluster = true ∧
      (x.bank = true ∨ banksHeld s x.cluster < 6)
    let e := readSlabs s (endReads p x)
    let w := writeSlabs e.1 (p.dWhole x.mTile) (p.dSlabs x.mTile x.nChunk)
    (ready → e.2 = .wait ∨ w.2 = .wait → exec (.kneadUnitDone u v) s = .next w.1) ∧
    (ready → e.2 ≠ .wait → w.2 ≠ .wait →
      exec (.kneadUnitDone u v) s = .next (judgeUnit w.1 u { x with bank := true, poisoned := x.poisoned || decide (e.2 = .poison) } r p j v)) ∧
    (¬ ready → exec (.kneadUnitDone u v) s = .next s)) ∧
  (∀ s u x r p j v, let f := x.failing.getD (lastVerdict x v)
    (x.poisoned = true ∨ f.1 = .pass → judgeUnit s u x r p j v = outputStage (setUnit s u { x with finished := true }) r { x with finished := true } p) ∧
    (x.poisoned = false → f.1 ≠ .pass → judgeUnit s u x r p j v = checkFailed s u x r p j f)) ∧
  (∀ s u v a, live s = true → a < 27 → unitOf s u = none →
    exec (.kneadTileLoaded u) s = .next s ∧ exec (.kneadPassDone u a v) s = .next s ∧ exec (.kneadUnitDone u v) s = .next s) ∧
  (∀ s a, live s = true → a < 27 →
    let u := (karrayOf s a).dueCols.foldl (fun s j => repairCol s a j) ((karrayOf s a).dueRows.foldl (fun s r => repairRow s a r) s)
    let t := setKarray u a { karrayOf u a with dueCols := [], dueRows := [] }
    exec (.kneadRepairApply a) s = .next (if unchecked (karrayOf t a) && !(karrayOf t a).fenced && decide (rd t eDeterminismStrict = 1) then fenceArray t a else t)) ∧
  (∀ s c w, live s = true → c < 9 →
    let v := wr s (eClusterSubstituteFor c) 0xFF
    let stays := s.proof.cover ≠ some c ∨ s.proof.active = none
    (c ∈ s.knead.order → departs s c w = true → stays →
      (∀ sp, s.knead.spare = some sp → exec (.clusterTakeover c w) s =
        .next (moveUnits (coverFor (wr (bump { v with knead := { s.knead with order := (s.knead.order.map fun k => if k = c then sp else k), spare := none } }
          eKneadSubstitutionCount) (eClusterSubstituteFor sp) c) w sp) c [sp] (decide (w = .fault)))) ∧
      (s.knead.spare = none → exec (.clusterTakeover c w) s =
        .next (moveUnits { v with knead := { s.knead with order := (s.knead.order.filter fun k => decide (k ≠ c)) } } c
          (s.knead.order.filter fun k => decide (k ≠ c)) (decide (w = .fault))))) ∧
    (∀ q, c ∈ s.knead.order → departs s c w = true → s.proof.cover = some c → s.proof.active = some q →
      let t := proofNext (proofDrop v)
      exec (.clusterTakeover c w) s =
        .next (moveUnits (coverFor (wr (bump { t with knead := { t.knead with order := (t.knead.order.map fun k => if k = c then q else k) } }
          eKneadSubstitutionCount) (eClusterSubstituteFor q) 0xFF) w q) c [q] (decide (w = .fault)))) ∧
    (c ∉ s.knead.order ∨ departs s c w = false → exec (.clusterTakeover c w) s = .next s))

/-- Recipe and station commits install what passes every check, remove what is not in use, and write the code of the first check that fails -/
def Obligations.RecipesAndStationsInstall : Prop :=
  (∀ s src, Accepted s src eRecipeCommit [1] → let k := recipeSelected s src
    let x := recipeStage s k
    (recipeCode s k x ≠ 0 → exec (.recipeInstall src) s = .next (recipeResult s k (recipeCode s k x))) ∧
    (recipeCode s k x = 0 → exec (.recipeInstall src) s = .next (recipeResult { s with recipes := { s.recipes with
      installed := (Tab.set s.recipes.installed k { header := BitVec.ofNat 256 (leNat (sliceZ x.header 0 32)), steps := stagedSteps x.steps, tensors := stagedTensors x.tensors }),
      kept := (Tab.set s.recipes.kept k x) } } k 0))) ∧
  (∀ s src, Accepted s src eRecipeCommit [2] → let k := recipeSelected s src
    (recipeOf s k = none → exec (.recipeRemove src) s = .next (recipeResult s k 9)) ∧
    (∀ r, recipeOf s k = some r → (r.removing = true → exec (.recipeRemove src) s = .next (recipeResult s k 10)) ∧
      (r.removing = false → exec (.recipeRemove src) s = .next (dropRecipe (recipeResult { s with recipes := { s.recipes with
        installed := (Tab.set s.recipes.installed k { r with removing := true }), kept := (Tab.erase s.recipes.kept k) } } k 0) k)))) ∧
  (∀ s src, Accepted s src eStationCommit [1] → let k := stationSelected s src
    let x := stationStage s k
    let h := BitVec.ofNat 128 (leNat (sliceZ x.header 0 16))
    (stationCode s k x ≠ 0 → exec (.stationInstall src) s = .next (stationResult s k (stationCode s k x))) ∧
    (stationCode s k x = 0 → allocFields h s (stagedFields x.fields) = none → exec (.stationInstall src) s = .next (stationResult s k 2)) ∧
    (∀ bs u, stationCode s k x = 0 → allocFields h s (stagedFields x.fields) = some (bs, u) → exec (.stationInstall src) s =
      .next (stationResult (setStation { u with stations := { u.stations with kept := (Tab.set u.stations.kept k x) } } k
        { header := h, fields := stagedFields x.fields, state := 1, initTag := x.initTag, bases := bs, slots := loadingSlots h x.initTag }) k 0))) ∧
  (∀ s src, Accepted s src eStationCommit [2] → let k := stationSelected s src
    (stationOf s k = none → exec (.stationRemove src) s = .next (stationResult s k 5)) ∧
    (∀ y, stationOf s k = some y → (stationNamed s k = true ∨ stationInUse s k = true → exec (.stationRemove src) s = .next (stationResult s k 4)) ∧
      (stationNamed s k = false → stationInUse s k = false → ∃ u, exec (.stationRemove src) s =
        .next (stationResult { u with stations := { u.stations with installed := (Tab.erase u.stations.installed k), kept := (Tab.erase u.stations.kept k) } } k 0) ∧
        u = (y.bases.zip y.fields).foldl (fun s b => if sfKind b.2 = kiUNUSED then s else freeSlabs s b.1) s))) ∧
  (∀ s src, Accepted s src eStationCommit [3] → let k := stationSelected s src
    (stationOf s k = none → exec (.stationReady src) s = .next (stationResult s k 5)) ∧
    (∀ y, stationOf s k = some y → (y.state = 1 → exec (.stationReady src) s = .next (stationResult (setStation (stationColmax s k y) k { y with state := 2 }) k 0)) ∧
      (y.state ≠ 1 → exec (.stationReady src) s = .next s))) ∧
  (∀ s src, Accepted s src eStationCommit [4] → let k := stationSelected s src
    (stationOf s k = none → exec (.stationReload src) s = .next (stationResult s k 5)) ∧
    (∀ y, stationOf s k = some y → (stationNamed s k = true ∨ stationInUse s k = true → exec (.stationReload src) s = .next (stationResult s k 4)) ∧
      (stationNamed s k = false → stationInUse s k = false → y.state ≠ 1 → exec (.stationReload src) s =
        .next (stationResult (setStation s k { y with state := 1, slots := (loadingSlots y.header (stationStage s k).initTag), initTag := (stationStage s k).initTag, chain := 0 }) k 0)) ∧
      (stationNamed s k = false → stationInUse s k = false → y.state = 1 → exec (.stationReload src) s = .next s))) ∧
  (∀ s src, (¬ Accepted s src eRecipeCommit [1] → exec (.recipeInstall src) s = .next s) ∧ (¬ Accepted s src eRecipeCommit [2] → exec (.recipeRemove src) s = .next s) ∧
    (¬ Accepted s src eStationCommit [1] → exec (.stationInstall src) s = .next s) ∧ (¬ Accepted s src eStationCommit [2] → exec (.stationRemove src) s = .next s) ∧
    (¬ Accepted s src eStationCommit [3] → exec (.stationReady src) s = .next s) ∧ (¬ Accepted s src eStationCommit [4] → exec (.stationReload src) s = .next s))

/-- INVOKE opens, repeats or is refused in R296's order; later packets fill it; the first ready one starts; an input timeout ends it -/
def Obligations.InvocationsOpenStartAndEnd : Prop :=
  (∀ s p pkt, live s = true → p < 128 → pkt.h.opcode = opINVOKE → hChunk pkt.h = 0 → let u := takeInbox s p pkt
    (∀ i v, openOf s p pkt.h = some i → invOf s i = some v →
      exec (.invokeReceived p pkt) s = .next (clearTaken (setInv (bump u eRecipeDuplicateCount) i { v with dup := true }))) ∧
    (∀ r, openOf s p pkt.h = none → keptOf s p pkt.h = some r →
      exec (.invokeReceived p pkt) s = .next (clearTaken (sendRecord u pkt.h (r ||| BitVec.ofNat 512 (2 ^ 27))))) ∧
    (openOf s p pkt.h = none → keptOf s p pkt.h = none →
      (isEdge p = false → exec (.invokeReceived p pkt) s = .next (clearTaken (refuseInvoke u pkt.h isNOT_LOCAL))) ∧
      (isEdge p = true → recipeOf s (hGroup pkt.h) = none → exec (.invokeReceived p pkt) s = .next (clearTaken (refuseInvoke u pkt.h isNOT_INSTALLED))) ∧
      (∀ r, isEdge p = true → recipeOf s (hGroup pkt.h) = some r →
        (r.removing = true ∨ rhSlice r.header ≠ pkt.h.slice.toNat →
          exec (.invokeReceived p pkt) s = .next (clearTaken (refuseInvoke u pkt.h isNOT_INSTALLED))) ∧
        (r.removing = false → rhSlice r.header = pkt.h.slice.toNat →
          (invokeHeaderOk r (leNat (sliceZ pkt.payload 0 16)) = false → exec (.invokeReceived p pkt) s = .next (clearTaken (refuseInvoke u pkt.h isBAD_INPUT))) ∧
          (invokeHeaderOk r (leNat (sliceZ pkt.payload 0 16)) = true →
            (rd s eRecipeOpenLimit ≤ s.recipes.invs.length ∨ freeIndex s = none ∨ workArea u r = none →
              exec (.invokeReceived p pkt) s = .next (clearTaken (refuseInvoke u pkt.h isBUSY))) ∧
            (∀ i a b c t, s.recipes.invs.length < rd s eRecipeOpenLimit → freeIndex s = some i → workArea u r = some (a, b, c, t) →
              exec (.invokeReceived p pkt) s = .next (clearTaken (admitInvoke t p pkt r i a b c)))))))) ∧
  (∀ s p pkt, live s = true → p < 128 → pkt.h.opcode = opINVOKE → hChunk pkt.h ≠ 0 → let u := takeInbox s p pkt
    (openOf s p pkt.h = none → exec (.invokePacketReceived p pkt) s = .next (clearTaken (bump u eRecipeDiscardCount))) ∧
    (∀ i v, openOf s p pkt.h = some i → invOf s i = some v →
      (v.dup = true → exec (.invokePacketReceived p pkt) s = .next (clearTaken (bump u eRecipeDuplicateCount))) ∧
      (v.dup = false → v.readyAt ≠ none ∨ v.closing ≠ none → exec (.invokePacketReceived p pkt) s = .next (clearTaken (bump u eRecipeDiscardCount))) ∧
      (v.dup = false → v.readyAt = none → v.closing = none → hChunk pkt.h ≠ v.nextChunk →
        exec (.invokePacketReceived p pkt) s = .next (clearTaken (endInv u i isBAD_INPUT 0 0))) ∧
      (v.dup = false → v.readyAt = none → v.closing = none → hChunk pkt.h = v.nextChunk → exec (.invokePacketReceived p pkt) s =
        .next (clearTaken (takeInput u i pkt.h pkt.payload.length pkt.payload))))) ∧
  (∀ s p pkt, live s = true → p < 128 →
    (pkt.h.opcode ≠ opINVOKE ∨ hChunk pkt.h ≠ 0 → exec (.invokeReceived p pkt) s = .next (clearTaken s)) ∧
    (pkt.h.opcode ≠ opINVOKE ∨ hChunk pkt.h = 0 → exec (.invokePacketReceived p pkt) s = .next (clearTaken s))) ∧
  (∀ s i, live s = true →
    (∀ v, invOf s i = some v → s.recipes.ready.head? = some i → (s.recipes.invs.filter fun x => x.2.context).length < rd s eRecipeContextCount →
      ∃ t, exec (.invocationStart i) s = .next t ∧ invOf t i = some { v with context := true, started := true, step := 0, phase := .idle } ∧
        t.recipes.ready = s.recipes.ready.drop 1 ∧ t = { s with recipes := { s.recipes with invs := t.recipes.invs, ready := t.recipes.ready } } ∧
        ∀ j, j ≠ i → invOf t j = invOf s j) ∧
    (s.recipes.ready.head? ≠ some i ∨ rd s eRecipeContextCount ≤ (s.recipes.invs.filter fun x => x.2.context).length → exec (.invocationStart i) s = .next s) ∧
    (∀ v, invOf s i = some v → v.readyAt = none → exec (.recipeInputTimeout i) s = .next (endInv s i isBAD_INPUT 0 0)) ∧
    ((∀ v, invOf s i = some v → v.readyAt ≠ none) → exec (.recipeInputTimeout i) s = .next s))

/-- A numeric step that its invocation stands at, with versions and locks held, has its operation's effect; another command does not run it -/
def Obligations.NumericStepsCompute : Prop :=
  (∀ s i x t y, StepStarts s i x t y →
    (∀ e ∈ ([(.topk i, soTOPK, 0, topkRun), (.softmax i, soSOFTMAX, 0, softmaxRun), (.normRms i, soNORM, 0, normRmsRun), (.normLayer i, soNORM, 1, normLayerRun), (.scaleMul i, soSCALE, 0, scaleMulRun), (.scaleRowvec i, soSCALE, 1, scaleRowvecRun), (.scaleColvec i, soSCALE, 2, scaleColvecRun), (.scaleRelu i, soSCALE, 3, scaleReluRun), (.scaleSilu i, soSCALE, 4, scaleSiluRun), (.addStep i, soADD, 0, addStepRun), (.subStep i, soADD, 1, subStepRun), (.mulStep i, soADD, 2, mulStepRun), (.convert i, soCONVERT, 0, convertRun), (.reduceAccumulate i, soREDUCE, 0, reduceAccumulateRun), (.reduceRows i, soREDUCE, 1, reduceRowsRun), (.reduceInit i, soREDUCE, 2, reduceInitRun)] : List (Instr × Nat × Nat × (State → Run → State))),
      swOp x.w = e.2.1 → swSub x.w = e.2.2.1 → exec e.1 s = .next (resume (e.2.2.2 t y))) ∧
    (swOp x.w = soMATMUL → mmKind x.w = 0 → exec (.matmulForward i) s = .next (resume (matmulIssue t y))) ∧
    (swOp x.w = soMATMUL → mmKind x.w = 1 → exec (.matmulBackwardPair i) s = .next (resume (matmulIssue t y)))) ∧
  (∀ s i, live s = true →
    ∀ e ∈ ([(.topk i, soTOPK, 0, topkRun), (.softmax i, soSOFTMAX, 0, softmaxRun), (.normRms i, soNORM, 0, normRmsRun), (.normLayer i, soNORM, 1, normLayerRun), (.scaleMul i, soSCALE, 0, scaleMulRun), (.scaleRowvec i, soSCALE, 1, scaleRowvecRun), (.scaleColvec i, soSCALE, 2, scaleColvecRun), (.scaleRelu i, soSCALE, 3, scaleReluRun), (.scaleSilu i, soSCALE, 4, scaleSiluRun), (.addStep i, soADD, 0, addStepRun), (.subStep i, soADD, 1, subStepRun), (.mulStep i, soADD, 2, mulStepRun), (.convert i, soCONVERT, 0, convertRun), (.reduceAccumulate i, soREDUCE, 0, reduceAccumulateRun), (.reduceRows i, soREDUCE, 1, reduceRowsRun), (.reduceInit i, soREDUCE, 2, reduceInitRun)] : List (Instr × Nat × Nat × (State → Run → State))),
      ((∀ x, runOf s i = some x → swOp x.w ≠ e.2.1 ∨ swSub x.w ≠ e.2.2.1) → exec e.1 s = .next s) ∧
      (∀ x st k, runOf s i = some x → swOp x.w = e.2.1 → swSub x.w = e.2.2.1 → x.problem s = some (st, k) →
        exec e.1 s = .next (resume (endStep s i st k)))) ∧
  (∀ s i, live s = true → (∀ x, runOf s i = some x → swOp x.w ≠ soMATMUL) →
    exec (.matmulForward i) s = .next s ∧ exec (.matmulBackwardPair i) s = .next s)

/-- BARRIER is done where no earlier asynchronous step of its invocation is left, and waits where one is -/
def Obligations.BarrierWaitsForAsynchronousSteps : Prop :=
  ∀ s i x t y, StepStarts s i x t y → swOp x.w = soBARRIER → swSub x.w = 0 →
    (y.v.asyncs = [] → exec (.barrier i) s = .next (resume (modInv t y.i fun v => { v with phase := .done, stepFlags := v.stepFlags ||| BitVec.ofNat 8 ({} : Report).flags, stepInvalid := min 0xFFFFFFFF (v.stepInvalid + ({} : Report).invalid), stepFirst := min v.stepFirst ({} : Report).first }))) ∧
    (y.v.asyncs ≠ [] → exec (.barrier i) s = .next (resume (modInv t y.i fun v => { v with phase := .blocked })))

/-- STAGE, DISPATCH, COMBINE, DIGEST and UPDATE run where their step stands ready; a done step completes, one that waits too long times out -/
def Obligations.StagesUpdatesAndStepEndings : Prop :=
  (∀ s i x t y, StepStarts s i x t y →
    ∀ e ∈ ([(.stageIn i, soSTAGE, 0, stageInRun), (.stageOut i, soSTAGE, 1, stageOutRun), (.dispatch i, soDISPATCH, 0, dispatchRun), (.combine i, soCOMBINE, 0, combineRun), (.digestCompute i, soDIGEST, 0, digestComputeRun), (.digestCompare i, soDIGEST, 1, digestCompareRun), (.digestAuto i, soDIGEST, 2, digestAutoRun)] : List (Instr × Nat × Nat × (State → Run → State))),
      swOp x.w = e.2.1 → swSub x.w = e.2.2.1 → exec e.1 s = .next (resume (e.2.2.2 t y))) ∧
  (∀ s i x u y, StepReady s i x u y → swOp x.w = soUPDATE →
    (swSub x.w = 0 → exec (.updateSgdM i) s = .next (resume (updateRun u y false false))) ∧
    (swSub x.w = 1 → exec (.updateAdamw i) s = .next (resume (updateRun u y true false))) ∧
    (x.v.phase = .waiting → x.v.slotTaken = none → exec (.updateSlotTaken i) s = .next (resume (updateRun u y (decide (swSub x.w = 1)) true)))) ∧
  (∀ s i x t y, StepStarts s i x t y → waitsBuffer s x = true → exec (.returnBufferAllocated i) s = .next (resume (dispatchRun t y))) ∧
  (∀ s i v, live s = true → invOf s i = some v → v.started = true →
    (v.phase = .done → exec (.stepComplete i) s = .next (
      let c := throughCopies s
      let a := if v.asyncs.any fun a => a.step = v.step then c else releaseStep c i v.step
      let b := modInv a i fun v => { joinReport v with phase := .idle, step := if (joinReport v).status.isSome then (joinReport v).step else (joinReport v).step + 1 }
      resume (finishIfDue (if v.status.isSome then dropUpdate b i else b) i))) ∧
    (v.phase = .waiting → v.status = none → ∃ u, exec (.recipeStepTimeout i) s =
        .next (resume (finishIfDue (modInv u i fun v => { v with status := some isTIMEOUT, phase := .idle }) i)) ∧
      FaultRaised (releaseStep (dropUpdate s i) i v.step) 24 u)) ∧
  (∀ s i, live s = true → runOf s i = none →
    (∀ e ∈ ([.stageIn i, .stageOut i, .dispatch i, .combine i, .digestCompute i, .digestCompare i, .digestAuto i, .barrier i, .updateSgdM i, .updateAdamw i, .updateSlotTaken i, .returnBufferAllocated i] : List Instr), exec e s = .next s)) ∧
  (∀ s i, live s = true → (∀ v, invOf s i = some v → v.phase ≠ .done) → exec (.stepComplete i) s = .next s) ∧
  (∀ s i, live s = true → (∀ v, invOf s i = some v → v.phase ≠ .waiting) → exec (.recipeStepTimeout i) s = .next s)

/-- A free owner window, a retry, a return timeout and a returned row act on the expert slot they name, in the state they name -/
def Obligations.ExpertSlotsGoOn : Prop :=
  (∀ s i a b v (n : Nat) e, live s = true → invOf s i = some v → sending v = true → v.slots[n]? = some e →
    ((findSlot v a b fun e => e.state = .waiting) = some n → exec (.ownerWindowFree i a b) s = .next (tryWaiting s i n e)) ∧
    ((findSlot v a b fun e => e.state = .outstanding) = some n → exec (.expertRetry i a b) s =
      .next (sendParts (bump64 (setSlot s i n { e with attempt := e.attempt + 1 }) eExpertResendCount 1) i v { e with attempt := e.attempt + 1 })) ∧
    ((findSlot v a b fun e => e.state = .outstanding || e.state = .waiting) = some n →
      (∀ k, e.backup = some k → e.toBackup = false → ownerUsable s v.slice k = true →
        exec (.expertReturnTimeout i a b) s = .next (resume (toBackup (bump s eExpertBackupCount) i n e k))) ∧
      (e.backup = none ∨ e.toBackup = true → exec (.expertReturnTimeout i a b) s = .next (resume (settleDispatch (degradeSlot
        (modInv (timingChoice (bump s eExpertTimeoutCount)) i fun v => { v with timing := v.timing + 1 }) i n e) i))))) ∧
  (∀ s i a b, live s = true → invOf s i = none → exec (.ownerWindowFree i a b) s = .next s ∧ exec (.expertRetry i a b) s = .next s ∧
    exec (.expertReturnTimeout i a b) s = .next (resume s)) ∧
  (∀ s p k, live s = true → p < 128 ∨ p = 255 →
    (k.h.opcode = opCOMBINE_DATA → exec (.combineDataReceived p k) s = .next (served (combineData (takeInbox s p k) k (statusFromOutside isPOISONED)))) ∧
    (k.h.opcode ≠ opCOMBINE_DATA → exec (.combineDataReceived p k) s = .next s))

/-- STRICT fences every UNCHECKED array; SAVE and RESTORE begin, verify, apply and end with the first result that applies -/
def Obligations.StrictSaveAndRestoreRun : Prop :=
  (∀ s src v, v ≤ 1 → Accepted s src eDeterminismStrict [BitVec.ofNat 8 v] → exec (.strictWrite src v) s =
    .next (if v = 1 then (List.range 27).foldl (fun s a => if unchecked (karrayOf s a) && !(karrayOf s a).fenced then fenceArray s a else s) (writeReg s eDeterminismStrict v)
      else writeReg s eDeterminismStrict v)) ∧
  (∀ s src v, ¬ Accepted s src eDeterminismStrict [BitVec.ofNat 8 v] → exec (.strictWrite src v) s = .next s) ∧
  (∀ s src, Accepted s src eSaveCommand [1] → let ks := u16List (blob s eSaveStationList)
    let gs := u16List (blob s eSaveGroupList)
    (s.save.phase ≠ 0 → exec (.save src) s = .next (wr s eSaveResult 6)) ∧
    (s.save.phase = 0 → (ks.any (stationInUse s) || gs.any (groupBusy s)) = true → exec (.save src) s = .next (wr s eSaveResult 1)) ∧
    (s.save.phase = 0 → (ks.any (stationInUse s) || gs.any (groupBusy s)) = false → (∃ k ∈ ks, ∀ y, stationOf s k = some y → y.state ≠ 2) →
      exec (.save src) s = .next (wr s eSaveResult 2)) ∧
    (s.save.phase = 0 → (ks.any (stationInUse s) || gs.any (groupBusy s)) = false → (∀ k ∈ ks, ∃ y, stationOf s k = some y ∧ y.state = 2) →
      ((∃ g ∈ gs, groupOf s g = none) → exec (.save src) s = .next (wr s eSaveResult 7)) ∧
      ((∀ g ∈ gs, groupOf s g ≠ none) → noSpace s (imageSlabs s ks gs) = true → exec (.save src) s = .next (wr s eSaveResult 5)) ∧
      ((∀ g ∈ gs, groupOf s g ≠ none) → noSpace s (imageSlabs s ks gs) = false → exec (.save src) s = .next (wr { s with
        save := { s.save with phase := 1, target := rd s eSaveTarget, base := rd s eSaveCellarBase, stations := ks, groups := gs },
        recipes := { s.recipes with locks := s.recipes.locks ++ saveLocks ks } } eSaveResult 9)))) ∧
  (∀ s src, Accepted s src eSaveCommand [2] →
    (s.save.phase ≠ 0 → exec (.restore src) s = .next (wr s eSaveResult 6)) ∧
    (s.save.phase = 0 → exec (.restore src) s =
      .next (wr { s with save := { s.save with phase := 2, target := rd s eSaveTarget, base := rd s eSaveCellarBase } } eSaveResult 9))) ∧
  (∀ s src, (¬ Accepted s src eSaveCommand [1] → exec (.save src) s = .next s) ∧ (¬ Accepted s src eSaveCommand [2] → exec (.restore src) s = .next s)) ∧
  (∀ s, live s = true → s.save.phase = 1 →
    let r := readSlabs s (s.save.stations.flatMap fun k => match stationOf s k with | some y => savedVat y | none => [])
    let u := { r.1 with recipes := { r.1.recipes with locks := (r.1.recipes.locks.filter fun l => l.inv ≠ 1024) }, save := { r.1.save with phase := 0 } }
    (r.2 = .wait → exec .saveComplete s = .next r.1) ∧
    (∀ k, r.2 ≠ .wait → unreadable u s.save.stations = some k → exec .saveComplete s = .next (resume (wr (wr u eSaveResult 4) eSaveLastStation k))) ∧
    (r.2 ≠ .wait → unreadable u s.save.stations = none →
      let body := imageBody u s.save.stations s.save.groups
      exec .saveComplete s = .next (resume (saveMarker (wr (wr (saveResult (putImage u
        (imageHeader u s.save.stations s.save.groups (1 + body.length / 4096) (imageDigest body) ++ body)) svOK) eSaveImageSlabs (1 + body.length / 4096))
        eSaveImageDigest (imageDigest body).toNat) 1 (1 + body.length / 4096) (imageDigest body))))) ∧
  (∀ s h, live s = true → s.save.phase = 2 → let im := readImage s h
    (imageWhole im = false → exec (.restoreVerifyDone h) s = .next (restoreEnd s svBAD_IMAGE)) ∧
    (∀ c, imageWhole im = true → badImageSlab s (ihTotal im) = some c → ∃ u, FaultRaised (bump s eCellarCrcErrorCount) 17 u ∧
      exec (.restoreVerifyDone h) s = .next (restoreEnd u svCORRUPT)) ∧
    (imageWhole im = true → badImageSlab s (ihTotal im) = none →
      ((imageDigest (sliceZ im 4096 (4096 * (ihTotal im - 1)))).toNat ≠ ihDigest im → exec (.restoreVerifyDone h) s = .next (restoreEnd s svCORRUPT)) ∧
      ((imageDigest (sliceZ im 4096 (4096 * (ihTotal im - 1)))).toNat = ihDigest im →
        ((∃ x ∈ imageSections im, stationOf s (scStation x.1) = none) ∨ (∃ g ∈ imageGroups im, groupOf s g.1 = none) →
          exec (.restoreVerifyDone h) s = .next (restoreEnd s svNOT_FOUND)) ∧
        ((∀ x ∈ imageSections im, stationOf s (scStation x.1) ≠ none) → (∀ g ∈ imageGroups im, groupOf s g.1 ≠ none) →
          (∀ x, (imageSections im).find? (fun x => !sectionMatches s x.1) = some x →
            exec (.restoreVerifyDone h) s = .next (restoreEnd (wr s eSaveLastStation (scStation x.1)) svDEF_MISMATCH)) ∧
          ((∀ x ∈ imageSections im, sectionMatches s x.1 = true) →
            ((∃ x ∈ imageSections im, stationInUse s (scStation x.1) = true) ∨ (∃ g ∈ imageGroups im, groupBusy s g.1 = true) →
              exec (.restoreVerifyDone h) s = .next (restoreEnd s svBUSY)) ∧
            ((∀ x ∈ imageSections im, stationInUse s (scStation x.1) = false) → (∀ g ∈ imageGroups im, groupBusy s g.1 = false) →
              exec (.restoreVerifyDone h) s = .next { s with save := { s.save with phase := 3, image := im } })))))) ∧
  (∀ s f, live s = true → s.save.phase = 3 → let im := s.save.image
    let u := saveMarker (wr (wr ((imageGroups im).foldl restoreGroup ((imageSections im).foldl (fun s x => restoreStation s im x) s))
      eSaveImageSlabs (ihTotal im)) eSaveImageDigest (w64 (ihDigest im)).toNat) 2 (ihTotal im) (w64 (ihDigest im))
    ((∀ k, f = some k → ∀ x ∈ imageSections im, scStation x.1 ≠ k) → exec (.restoreApplyDone f) s = .next (resume (restoreEnd u svOK))) ∧
    (∀ k, f = some k → (∃ x ∈ imageSections im, scStation x.1 = k) → exec (.restoreApplyDone f) s =
      .next (resume (restoreEnd (wr (makeInconsistent u k k) eSaveLastStation k) svCORRUPT)))) ∧
  (∀ s h f, live s = true → (s.save.phase ≠ 1 → exec .saveComplete s = .next s) ∧ (s.save.phase ≠ 2 → exec (.restoreVerifyDone h) s = .next s) ∧
    (s.save.phase ≠ 3 → exec (.restoreApplyDone f) s = .next s))

/-- FAULT_RECORD_CLOSE closes and reports an open record that is not FATAL; the FATAL record goes to flash unless a supply caused it alone -/
def Obligations.RecordsCloseAndReachFlash : Prop :=
  (∀ s i r, live s = true → (s.faults.records.find? fun r => r.id = i) = some r →
    (r.opened = true → r.cls ≠ 2 → exec (.faultRecordClose i) s = .next (reportRecord (setRecord s { r with opened := false }) { r with opened := false }) ∧
      (setRecord s { r with opened := false }).faults.records = s.faults.records.map (fun x => if x.id = i then { r with opened := false } else x)) ∧
    (r.opened = false ∨ r.cls = 2 → exec (.faultRecordClose i) s = .next s)) ∧
  (∀ s i, (s.faults.records.find? fun r => r.id = i) = none → exec (.faultRecordClose i) s = .next s) ∧
  (∀ s i r, s.pins.mainUp = true → s.faults.fatal = some i → (s.faults.records.find? fun r => r.id = i) = some r →
    ((∃ n, 34 ≤ n ∧ n < 64 ∧ r.causes.getLsbD n = true) → exec .fatalRecordFlash s = .next { s with faults := { s.faults with flash := some (recordBits r) } }) ∧
    ((∀ n, 34 ≤ n → n < 64 → r.causes.getLsbD n = false) → exec .fatalRecordFlash s = .next s)) ∧
  (∀ s, s.pins.mainUp = false ∨ s.faults.fatal = none → exec .fatalRecordFlash s = .next s)

/-- FAULT_UNFENCE releases, tests or refuses by the function it names; core faults fence the core, ECC errors do so at their limit -/
def Obligations.UnfencingAndCoresAct : Prop :=
  (∀ s src v, isStateEntry (v / 256) (v % 256) = true → Accepted s src eFaultUnfence (leBytes 4 v) → let x := fnSite v
    (x.1 = 13 ∨ fnState s v ≠ .fenced → exec (.faultUnfence src v) s = .next (wr s eFaultUnfenceResult 1)) ∧
    (fnState s v = .fenced →
      (x.1 = 9 → exec (.faultUnfence src v) s = .next (wr s eFaultUnfenceResult 3)) ∧
      (x.1 = 1 → exec (.faultUnfence src v) s = .next (wr (portTo s x.2 {}) eFaultUnfenceResult 0)) ∧
      (x.1 = 14 → exec (.faultUnfence src v) s = .next (wr (engineTo s x.2 {}) eFaultUnfenceResult 0)) ∧
      (x.1 = 7 ∨ x.1 = 2 → let u := if x.1 = 7 then x.2 else 349 + x.2
        (s.proof.active = some u → exec (.faultUnfence src v) s = .next (wr s eFaultUnfenceResult 4)) ∧
        (s.proof.active ≠ some u → exec (.faultUnfence src v) s = .next (proofEnqueue s u true))))) ∧
  (∀ s src v, isStateEntry (v / 256) (v % 256) = false ∨ ¬ Accepted s src eFaultUnfence (leBytes 4 v) → exec (.faultUnfence src v) s = .next s) ∧
  (∀ s c, live s = true → c < 16 →
    (rd s (eControlCoreState c) = 2 → exec (.coreFault c) s = .next s) ∧
    (rd s (eControlCoreState c) ≠ 2 → ∃ u, FaultRaised s 27 u ∧
      exec (.coreFault c) s = .next (fenceCore (if u.fw.live = some (c / 4) then proofNext (liveRevert u) else u) c)) ∧
    (∃ u, FaultRaised s 6 u ∧ let key := dayKey u (0x8010 + c)
      let n := Tab.getD u.faults.counted key 0 + 1
      let v := { u with faults := { u.faults with counted := Tab.set u.faults.counted key n } }
      exec (.coreEcc c) s = .next (if rd v eCoreEccLimit ≤ n then fenceCore v c else v)) ∧
    exec (.coreRestartDone c) s = .next { s with cores := { s.cores with restarting := (s.cores.restarting.filter fun k => k ≠ c) } })

/-- Fence notices are originated for edge ports that are not ON, applied when newer, counted when stale, and their bits expire -/
def Obligations.FenceNoticesAct : Prop :=
  (∀ s p, live s = true → p < 128 →
    (p < 104 → fnState s (ePortState p) ≠ .on → fnState s (ePortState p) ≠ .fenced → fnState s (ePortState p) ≠ .quarantined →
      exec (.fenceNoticeDelay p) s = .next (resume (originateNotice s p fnDOWN true))) ∧
    (104 ≤ p ∨ fnState s (ePortState p) = .on ∨ fnState s (ePortState p) = .fenced ∨ fnState s (ePortState p) = .quarantined →
      exec (.fenceNoticeDelay p) s = .next (resume s))) ∧
  (∀ s, live s = true → exec .fenceRefresh s =
    .next (resume ((List.range 104).foldl (fun s p => if portOn s p then s else originateNotice s p (noticeReason s p) true) s))) ∧
  (∀ s p k, live s = true → p < 128 ∨ p = 255 → k.h.opcode ≠ opFENCE_NOTICE → exec (.fenceNoticeReceived p k) s = .next (clearTaken (takeInbox s p k))) ∧
  (∀ s p k, live s = true → p < 128 ∨ p = 255 → k.h.opcode = opFENCE_NOTICE → s.topo.sizes = none →
    exec (.fenceNoticeReceived p k) s = .next (served (takeInbox s p k))) ∧
  (∀ s p k z, live s = true → p < 128 ∨ p = 255 → k.h.opcode = opFENCE_NOTICE → s.topo.sizes = some z →
    let u := takeInbox s p k
    let b := leNat (k.payload.take 16)
    let c := idCoord (fnSubject b)
    let m := moduleNum z c
    (c ≠ idCoord k.h.src ∨ (∃ a, Tab.find s.fence.applied m = some a ∧ fnAge b ≤ a) →
      exec (.fenceNoticeReceived p k) s = .next (served (bump u eFenceNoticeStaleCount))) ∧
    (c = idCoord k.h.src → (∀ a, Tab.find s.fence.applied m = some a → a < fnAge b) → inSizes z c = true → idPort (fnSubject b) < 104 →
      exec (.fenceNoticeReceived p k) s = .next (served (expertsFenced (forwardNotice (setFenceBit
        { u with fence := { u.fence with applied := Tab.set u.fence.applied m (fnAge b) } } (m * 104 + idPort (fnSubject b)) (fnInForce b)) (k.payload.take 16))))) ∧
    (c = idCoord k.h.src → (∀ a, Tab.find s.fence.applied m = some a → a < fnAge b) →
      inSizes z c = false ∨ 104 ≤ idPort (fnSubject b) → exec (.fenceNoticeReceived p k) s = .next (served u))) ∧
  (∀ s m p, live s = true → m < 4096 → p < 104 → ∃ t, exec (.fenceBitExpiry m p) s = .next (resume t) ∧ (m * 104 + p) ∉ t.fence.bits ∧
    (∀ k, k ≠ m * 104 + p → (k ∈ t.fence.bits ↔ k ∈ s.fence.bits)) ∧ t = { s with fence := { s.fence with bits := t.fence.bits } })

/-- A due unit waits its turn, or is skipped, covered, tested in place, taken over or deferred; PROOF_NOW queues; PROOF_PERIOD_WRITE restarts the origin -/
def Obligations.ProofUnitsAreTestedInTurn : Prop :=
  (∀ s u, live s = true → u < 893 →
    ((rd s eProofEnable).testBit (proofKind u) = false → exec (.proofDue u) s = .next s) ∧
    ((rd s eProofEnable).testBit (proofKind u) = true →
      (s.proof.active.isSome = true →
        exec (.proofDue u) s = .next { s with proof := { s.proof with queue := s.proof.queue ++ [(u, false)] } }) ∧
      (s.proof.active = none → s.proof.queue = [] →
        let w := { s with proof := { s.proof with queue := [(u, false)] } }
        let done (t : State) : State := { t with proof := { t.proof with queue := [] } }
        (proofHeld s u = true → exec (.proofDue u) s = .next w) ∧
        (proofHeld s u = false → proofFenced s u = true → exec (.proofDue u) s = .next (done (proofResult w u 4))) ∧
        (proofHeld s u = false → proofFenced s u = false →
          (proofKind u = 4 → lanePosition s (proofIndex u) = true → exec (.proofDue u) s = .next (done (proofResult w u 3))) ∧
          (¬ (proofKind u = 4 ∧ lanePosition s (proofIndex u) = true) →
            (testsInPlace s u = true → ∃ t, exec (.proofDue u) s = .next t ∧ t.proof.active = some u ∧ t.proof.phase = 2 ∧ t.proof.queue = []) ∧
            (testsInPlace s u = false → spareFree s u = true → exec (.proofDue u) s = .next (done (proofPhase w u 1))) ∧
            (testsInPlace s u = false → spareFree s u = false → ∃ t, exec (.proofDue u) s = .next t ∧
              t.proof = { s.proof with active := some u, phase := 3, queue := [] } ∧
              (proofKind u ≠ 3 → t.mgmt.eventSeq = s.mgmt.eventSeq + 1))))))) ∧
  (∀ s src u,
    (u < 893 → Accepted s src eProofNow (leBytes 2 u) → exec (.proofNow src u) s = .next (proofEnqueue s u false) ∧
      (s.proof.active.isSome = true → proofEnqueue s u false = { s with proof := { s.proof with queue := s.proof.queue ++ [(u, false)] } })) ∧
    (893 ≤ u ∨ ¬ Accepted s src eProofNow (leBytes 2 u) → exec (.proofNow src u) s = .next s)) ∧
  (∀ s src v,
    (v < 2 ^ 32 → Accepted s src eProofPeriod (leBytes 4 v) → ∃ t, exec (.proofPeriodWrite src v) s = .next t ∧
      rd t eProofPeriod = v ∧ rd t eProofOrigin = fcNow s ∧ (∀ a, a ≠ eProofPeriod → a ≠ eProofOrigin → rd t a = rd s a) ∧
      t = { s with regs := t.regs, mgmt := { s.mgmt with waiting := t.mgmt.waiting } }) ∧
    (2 ^ 32 ≤ v ∨ ¬ Accepted s src eProofPeriod (leBytes 4 v) → exec (.proofPeriodWrite src v) s = .next s)) ∧
  (∀ s, live s = true →
    (s.proof.active = none ∨ s.proof.phase ≠ 1 → exec .proofTakeoverDone s = .next s) ∧
    (∀ u, s.proof.active = some u → s.proof.phase = 1 →
      (proofFenced s u = true → exec .proofTakeoverDone s = .next (proofNext (proofDrop s))) ∧
      (proofFenced s u = false → spareFree s u = true ∨ s.proof.withheld = true ∨ takenOver s u = true →
        exec .proofTakeoverDone s = .next (proofPhase (proofTakeover s u) u 2)) ∧
      (proofFenced s u = false → spareFree s u = false → s.proof.withheld = false → takenOver s u = false →
        exec .proofTakeoverDone s = .next (proofDefer s u)) ∧
      (proofKind u = 0 → s.proof.withheld = false → proofTakeover s u = clusterTakeover s u .proof) ∧
      (proofKind u = 1 → ∀ j, spareChurn s (proofIndex u / 17) = some j → proofTakeover s u =
        { wr (wr s (eChurnLaneStatus j) 2) eChurnSparesFree (rd s eChurnSparesFree - 1) with proof := { s.proof with cover := some (9 + j) } }) ∧
      (proofKind u = 2 → ∀ c, spareCore s (proofIndex u / 4) = some c → proofTakeover s u =
        { wr (wr s (eControlCoreState c) 0) (eControlCoreState (proofIndex u)) 3 with proof := { s.proof with cover := some (77 + c) } })))

/-- A passed test is recorded and its unit returns; a failed one raises PROOF_FAIL and repairs or fences; a deferral ends in a test, withholding or a skip -/
def Obligations.ProofTestsEndAsTheyWent : Prop :=
  (∀ s p fl, live s = true →
    (s.proof.active = none ∨ s.proof.phase ≠ 2 → exec (.proofTestDone p fl) s = .next s) ∧
    (∀ u, s.proof.active = some u → s.proof.phase = 2 →
      let drop := proofFenced s u && !s.proof.unfencing
      (drop = true → exec (.proofTestDone p fl) s = .next (proofNext (proofDrop s))) ∧
      (drop = false → p = true →
        let t := proofResult (bump64 (proofDrop s) eProofRunCount 1) u 1
        exec (.proofTestDone p fl) s = .next (proofNext (proofPass t u s.proof)) ∧ Tab.find t.proof.results u = some (fcNow s, 1) ∧ t.proof.active = none) ∧
      (drop = false → p = false → ∃ t, FaultRaised (bump s eProofFailCount) 7 t ∧
        let afresh := s.proof.unfencing && anyArrayFenced t u
        let again := decide (proofKind u = 0) && !s.proof.retried && !fl.isEmpty && repairable t u fl afresh
        (again = false → exec (.proofTestDone p fl) s =
          .next (proofNext (proofFenceUnit (proofResult (bump64 (proofDrop t) eProofRunCount 1) u 2) u s.proof fl))) ∧
        (again = true → (putRepairs t u fl afresh).proof.active = some u → exec (.proofTestDone p fl) s =
          .next { putRepairs t u fl afresh with proof := { (putRepairs t u fl afresh).proof with retried := true } })))) ∧
  (∀ s, live s = true →
    (s.proof.active = none ∨ s.proof.phase ≠ 3 → exec .proofDeferralEnd s = .next s) ∧
    (∀ u, s.proof.active = some u → s.proof.phase = 3 →
      (proofFenced s u = true → exec .proofDeferralEnd s = .next (proofNext (proofDrop s))) ∧
      (proofFenced s u = false → spareFree s u = true → exec .proofDeferralEnd s = .next (proofPhase s u 1)) ∧
      (proofFenced s u = false → spareFree s u = false →
        let others := (groupCores (proofIndex u / 4)).filter fun c => c ≠ proofIndex u && rd s (eControlCoreState c) = 0
        (proofKind u = 3 ∨ (proofKind u = 2 ∧ others.length < 2) →
          exec .proofDeferralEnd s = .next (proofNext (proofResult (bump (proofDrop s) eProofSkipCount) u 4))) ∧
        (proofKind u ≠ 3 → ¬ (proofKind u = 2 ∧ others.length < 2) → ∃ t, exec .proofDeferralEnd s = .next t ∧
          cnt t eProofWithholdCount = min (2 ^ 32 - 1) (cnt s eProofWithholdCount + 1) ∧
          t.proof = { s.proof with active := some u, phase := 1, withheld := true } ∧
          (proofKind u = 0 → fnOf t (eClusterState u) = fnDisable (fnOf s (eClusterState u))) ∧
          (proofKind u ≠ 0 → t.fns = s.fns)))))

/-- DISCOVER, OPEN and PROVE answer and open a session as R401 states; timeouts close it; echoes and solicitations of an own address are answered -/
def Obligations.SessionsOpenByChallengeAndProof : Prop :=
  (∀ s m, (mgmtUp s = true → mdpFrameOk m = false →
      let t := if s.faults.frozen then s else bump s eMdpFrameErrorCount
      exec (.mdpFrameError m) s = .next t ∧ exec (.discover m) s = .next t ∧ exec (.mdpOpen m) s = .next t) ∧
    (mgmtUp s = false ∨ mdpFrameOk m = true → exec (.mdpFrameError m) s = .next s) ∧
    (mgmtUp s = false → exec (.discover m) s = .next s ∧ exec (.mdpOpen m) s = .next s)) ∧
  (∀ s m, mgmtUp s = true → mdpFrameOk m = true → hdType m.header = 0x01 →
    exec (.discover m) s = .next (if m.body.isEmpty then
      emit s (.mdp m.addr (mdpHeader 0x01 stOK 0 (hdSeq m.header) (discoverBody s).length true false false) (discoverBody s) [])
      else emit s (.mdp m.addr (mdpHeader 0x01 stLENGTH 0 (hdSeq m.header) 0 true false false) [] []))) ∧
  (∀ s m, mgmtUp s = true → mdpFrameOk m = true → hdType m.header = 0x02 →
    let no (u : State) (st : Nat) : State := emit u (.mdp m.addr (mdpHeader 0x02 st 0 (hdSeq m.header) 0 true false false) [] [])
    (m.addr ∈ s.mgmt.lockouts → exec (.mdpOpen m) s = .next s) ∧
    (m.addr ∉ s.mgmt.lockouts →
      (loafUp s = false → exec (.mdpOpen m) s = .next (no s stNOT_READY)) ∧
      (loafUp s = true → m.body.length ≠ 169 → exec (.mdpOpen m) s = .next (no s stLENGTH)) ∧
      (loafUp s = true → m.body.length = 169 → 8 ≤ s.mgmt.sessions.length → exec (.mdpOpen m) s = .next (no s stBUSY)) ∧
      (loafUp s = true → m.body.length = 169 → s.mgmt.sessions.length < 8 →
        (slotUsable s (leNat (m.body.take 1)) = false → exec (.mdpOpen m) s = .next (no (authFail s m.addr) stAUTH)) ∧
        (slotUsable s (leNat (m.body.take 1)) = true → ∃ t x b, exec (.mdpOpen m) s = .next t ∧
          t = { s with draws := s.draws + 1, outbox := t.outbox, mgmt := { s.mgmt with sessions := s.mgmt.sessions ++ [x], nextSession := s.mgmt.nextSession + 1 } } ∧
          x.id = s.mgmt.nextSession ∧ x.addr = m.addr ∧ x.slot = leNat (m.body.take 1) ∧ x.isOpen = false ∧ x.lastSeq = 0 ∧ b.length = 297 ∧
          t.outbox = s.outbox ++ [.mdp m.addr (mdpHeader 0x03 stOK x.id (hdSeq m.header) 297 true false false) b []])))) ∧
  (∀ s m ok x, loafUp s = true → mdpFrameOk m = true → hdType m.header = 0x04 → sessionOf s (hdSession m.header) = some x → x.isOpen = false →
    (m.body.length ≠ 132 → exec (.prove m ok) s = .next (emit s (.mdp m.addr (mdpHeader 0x04 stLENGTH x.id (hdSeq m.header) 0 true false false) [] []))) ∧
    (m.body.length = 132 → ok = true → slotUsable s x.slot = true →
      let y := { x with isOpen := true, role := rd s (eManagerKeyRole x.slot) }
      let h := mdpHeader 0x04 stOK x.id (hdSeq m.header) 0 true false false
      exec (.prove m ok) s = .next (emit (setSession s y) (.mdp x.addr h [] (mdpTag x.moduleKey h [])))) ∧
    (m.body.length = 132 → ok = false ∨ slotUsable s x.slot = false →
      exec (.prove m ok) s = .next (emit (authFail (closeSession s x.id) m.addr) (.mdp m.addr (mdpHeader 0x04 stAUTH x.id (hdSeq m.header) 0 true false false) [] [])))) ∧
  (∀ s i, (∀ x, sessionOf s i = some x →
      (x.isOpen = false → exec (.proveTimeout i) s =
        .next (emit (authFail (closeSession s i) x.addr) (.mdp x.addr (mdpHeader 0x04 stAUTH i 0 0 true false false) [] []))) ∧
      (x.isOpen = true → exec (.proveTimeout i) s = .next s) ∧
      (x.isOpen = true → ∃ t, exec (.sessionTimeout i) s = .next t ∧ sessionOf t i = none ∧ ∀ j, j ≠ i → sessionOf t j = sessionOf s j) ∧
      (x.isOpen = false → exec (.sessionTimeout i) s = .next s)) ∧
    (sessionOf s i = none → exec (.proveTimeout i) s = .next s ∧ exec (.sessionTimeout i) s = .next s)) ∧
  (∀ s a, ∃ t, exec (.openLockoutExpiry a) s = .next t ∧ a ∉ t.mgmt.lockouts ∧ (∀ b, b ≠ a → (b ∈ t.mgmt.lockouts ↔ b ∈ s.mgmt.lockouts)) ∧
    t = { s with mgmt := { s.mgmt with lockouts := t.mgmt.lockouts } }) ∧
  (∀ s d a p, (mgmtUp s = true → ownAddress s d = true →
      exec (.icmpv6Echo d a p) s = .next (emit s (.icmp a p)) ∧ exec (.neighborDiscovery d a) s = .next (emit s (.neighbor a d Config.macAddress))) ∧
    (mgmtUp s = false ∨ ownAddress s d = false → exec (.icmpv6Echo d a p) s = .next s ∧ exec (.neighborDiscovery d a) s = .next s))

/-- A request of an open session with a good tag takes effect once, in seq order, and is answered under the module's key; nothing else is answered anew -/
def Obligations.RequestsAreHandledOnceAndAnswered : Prop :=
  ∀ q, q ∈ sessionRequests → ∀ s m, let count (a : Nat) : State := if s.faults.frozen then s else bump s a
    (mdpFrameOk m = false → exec (q.1 m) s = .next (count eMdpFrameErrorCount)) ∧
    (mdpFrameOk m = true → hdType m.header = q.2.1 →
      (sessionOf s (hdSession m.header) = none → exec (q.1 m) s = .next (count eMdpFrameErrorCount)) ∧
      (∀ x, sessionOf s (hdSession m.header) = some x →
        (x.isOpen = false ∨ m.tag ≠ mdpTag x.managerKey m.header m.body → exec (q.1 m) s = .next (count eMdpFrameErrorCount)) ∧
        (x.isOpen = true → m.tag = mdpTag x.managerKey m.header m.body →
          (hdSeq m.header = x.lastSeq + 1 → ∃ t, exec (q.1 m) s = .next t ∧
            let r := q.2.2 m s x
            let h := mdpHeader q.2.1 r.1.status x.id (hdSeq m.header) r.1.body.length true r.1.last false
            t = { r.2 with outbox := r.2.outbox ++ [.mdp x.addr h r.1.body (mdpTag x.moduleKey h r.1.body)],
                           mgmt := { r.2.mgmt with sessions := t.mgmt.sessions } } ∧
            (∀ y, sessionOf r.2 x.id = some y → sessionOf t x.id = some { y with lastSeq := hdSeq m.header, cached := some (h, r.1.body) }) ∧
            (sessionOf r.2 x.id = none → t.mgmt.sessions = r.2.mgmt.sessions)) ∧
          (hdSeq m.header = x.lastSeq → ∀ c, x.cached = some c → let h := c.1 ||| BitVec.ofNat 128 (2 ^ 122)
            exec (q.1 m) s = .next (emit s (.mdp x.addr h c.2 (mdpTag x.moduleKey h c.2)))) ∧
          (hdSeq m.header ≠ x.lastSeq + 1 → hdSeq m.header ≠ x.lastSeq ∨ x.cached = none →
            exec (q.1 m) s = .next (count eMdpSeqErrorCount)))))

/-- EVENT_ACK clears records, EVENT_RESEND sends up to eight times and then loses, WATCH_CHECK reports changes, BLOCK_TRANSFER_TIMEOUT ends a transfer -/
def Obligations.EventsAreAckedResentAndWatched : Prop :=
  (∀ s m x, mdpFrameOk m = true → hdType m.header = 0x16 → sessionOf s (hdSession m.header) = some x → x.isOpen = true →
    m.tag = mdpTag x.managerKey m.header m.body →
    (hdSeq m.header ≠ 0 → exec (.eventAck m) s = .next (if s.faults.frozen then s else bump s eMdpSeqErrorCount)) ∧
    (hdSeq m.header = 0 → m.body.length = 4 →
      let y := { x with queue := x.queue.filter fun r => leNat m.body < r.1 }
      (x.lost = 0 → exec (.eventAck m) s = .next (lostToSession (setSession s y) x.id) ∧ lostToSession (setSession s y) x.id = setSession s y) ∧
      (x.lost ≠ 0 → y.queue.length < 256 →
        let er := eventRecord 21 (s.mgmt.eventSeq + 1) (fcNow s) (leBytes 4 x.lost)
        let z := { y with queue := y.queue ++ [(s.mgmt.eventSeq + 1, er, 1)], lost := 0 }
        exec (.eventAck m) s = .next (sendEvents (setSession { setSession s y with mgmt := { (setSession s y).mgmt with eventSeq := s.mgmt.eventSeq + 1 } } z) z [er])))) ∧
  (∀ s i q x, sessionOf s i = some x →
    (∀ r, (x.queue.find? fun r => r.1 = q) = some r →
      (r.2.2 < 8 → let y := { x with queue := x.queue.map fun e => if e.1 = q then (e.1, e.2.1, e.2.2 + 1) else e }
        exec (.eventResend i q) s = .next (sendEvents (setSession s y) y [r.2.1])) ∧
      (8 ≤ r.2.2 → let t := setSession s { x with queue := (x.queue.filter fun e => e.1 ≠ q), lost := x.lost + 1 }
        exec (.eventResend i q) s = .next (lostToSession (if s.faults.frozen then t else bump t eMdpEventLostCount) i))) ∧
    ((x.queue.find? fun r => r.1 = q) = none → exec (.eventResend i q) s = .next s) ∧
    (∀ n w, x.watches[n]? = some w → let v := entryValue s (.session i) w.index w.sub
      (x.isOpen = false ∨ w.last = some v → exec (.watchCheck i n) s = .next s) ∧
      (x.isOpen = true → w.last ≠ some v →
        let k := s.mgmt.eventSeq + 1
        let t := setSession { s with mgmt := { s.mgmt with eventSeq := k } } { x with watches := x.watches.set n { w with last := some v } }
        exec (.watchCheck i n) s = .next (eventToSession t 20 k (eventRecord 20 k (fcNow s) (entryChange w v)) i)))) ∧
  (∀ s i q, sessionOf s i = none → exec (.eventResend i q) s = .next s ∧ exec (.watchCheck i q) s = .next s) ∧
  (∀ s, exec (.blockTransferTimeout .mailbox) s = .next { s with mgmt := { s.mgmt with mailboxTransfer := none } }) ∧
  (∀ s i, (sessionOf s i = none → exec (.blockTransferTimeout (.session i)) s = .next s) ∧
    (∀ x, sessionOf s i = some x → exec (.blockTransferTimeout (.session i)) s = .next (setSession s { x with transfer := none })))

/-- A dictionary write applies where its checks pass and else changes nothing; a written key closes its sessions; flash takes every waiting value -/
def Obligations.WritesApplyOrChangeNothing : Prop :=
  (∀ s src it, (itemStatus s src it = stOK → exec (.registerWrite src it) s = .next (applyWrite s src (it.index * 256 + it.sub) it.value)) ∧
    (itemStatus s src it ≠ stOK → exec (.registerWrite src it) s = .next s ∧ exec (.managerKeyWrite src it) s = .next s) ∧
    (it.index ≠ 0x1110 → it.index ≠ 0x1111 → exec (.managerKeyWrite src it) s = .next s)) ∧
  (∀ s src k v, k < 8 →
    (itemStatus s src ⟨0x1110, k + 1, v⟩ = stOK → ∃ t, exec (.managerKeyWrite src ⟨0x1110, k + 1, v⟩) s = .next t ∧ blob t (eManagerKey k) = v ∧
      t.regs = s.regs ∧ ∀ x ∈ t.mgmt.sessions, x ∈ s.mgmt.sessions ∧ x.slot ≠ k) ∧
    (itemStatus s src ⟨0x1111, k + 1, v⟩ = stOK → ∃ t, exec (.managerKeyWrite src ⟨0x1111, k + 1, v⟩) s = .next t ∧
      rd t (eManagerKeyRole k) = leNat v ∧ t.blobs = s.blobs ∧ ∀ x ∈ t.mgmt.sessions, x ∈ s.mgmt.sessions ∧ x.slot ≠ k)) ∧
  (∀ s c, ((c = .persistStore ∧ mgmtUp s = true) ∨ ∃ src, c = .persistFlush src ∧ Accepted s src ePersistFlush [1]) →
    ∃ t, exec c s = .next t ∧ t = { s with mgmt := { s.mgmt with flash := t.mgmt.flash, waiting := [] } } ∧
      (∀ a ∈ s.mgmt.waiting, Tab.find t.mgmt.flash a = some (storedValue s a)) ∧
      (∀ a, a ∉ s.mgmt.waiting → Tab.find t.mgmt.flash a = Tab.find s.mgmt.flash a)) ∧
  (∀ s src, (mgmtUp s = false → exec .persistStore s = .next s) ∧
    (¬ Accepted s src ePersistFlush [1] → exec (.persistFlush src) s = .next s)) ∧
  (∀ s src v, v < 256 → let it : Item := ⟨ePersistReset / 256, ePersistReset % 256, [BitVec.ofNat 8 v]⟩
    (itemStatus s src it = stOK → exec (.persistReset src v) s = .next { s with mgmt := { s.mgmt with resetAtBoot := max s.mgmt.resetAtBoot v } }) ∧
    (itemStatus s src it ≠ stOK → exec (.persistReset src v) s = .next s)) ∧
  (∀ s src v, 256 ≤ v → exec (.persistReset src v) s = .next s)

/-- Each fetched mailbox command finishes with its status: DICT answers the host, DMA moves whole slabs or nothing, SET_SAVE_BUFFER names the buffer -/
def Obligations.MailboxCommandsFinish : Prop :=
  (∀ s e, (runnable s e 0x30 = true → exec (.nop e) s = .next (finish s e stOK 0 0)) ∧ (runnable s e 0x30 = false → exec (.nop e) s = .next s) ∧
    (runnable s e 0x20 = false → exec (.setSaveBuffer e) s = .next s) ∧
    (runnable s e 0x20 = true →
      (s.faults.frozen = true → exec (.setSaveBuffer e) s = .next (finish s e stFROZEN 0 0)) ∧
      (s.faults.frozen = false → exec (.setSaveBuffer e) s =
        .next (finish { s with save := { s.save with buffer := some (sbHost e, sbLength e) } } e stOK 0 0)))) ∧
  (∀ s e b, (runnable s e 0x01 = false ∨ b.length ≠ sbLength e → exec (.dict e b) s = .next s) ∧
    (runnable s e 0x01 = true → b.length = sbLength e →
      (65536 < b.length → exec (.dict e b) s = .next (finish s e stLENGTH 0 0)) ∧
      (b.length ≤ 65536 → ∀ r t, dictRequest s e b = (r, t) →
        (sbRespLength e < r.body.length → exec (.dict e b) s = .next (finish t e stLENGTH 0 0)) ∧
        (r.body.length ≤ sbRespLength e → r.body ≠ [] →
          exec (.dict e b) s = .next (finish (emit t (.hostMem (sbResp e) r.body)) e r.status r.body.length 0)) ∧
        (r.body = [] → exec (.dict e b) s = .next (finish t e r.status 0 0))))) ∧
  (∀ s e d, d.length = sbLength e → runnable s e 0x10 = true → (s.faults.frozen = true ∨ ∀ n ∈ dmaSlabs e, slabPending s n = false) →
    (s.faults.frozen = true → exec (.vatWrite e d) s = .next (finish s e stFROZEN 0 0)) ∧
    (s.faults.frozen = false →
      (dmaShape e ≠ stOK → exec (.vatWrite e d) s = .next (finish s e (dmaShape e) 0 0)) ∧
      (dmaShape e = stOK → vatWriteStatus s (dmaSlabs e) ≠ stOK → exec (.vatWrite e d) s = .next (finish s e (vatWriteStatus s (dmaSlabs e)) 0 0)) ∧
      (dmaShape e = stOK → vatWriteStatus s (dmaSlabs e) = stOK →
        exec (.vatWrite e d) s = .next (finish (bump64 (vatPut s (sbModule e) d) eDmaBytesToModule d.length) e stOK d.length 0)))) ∧
  (∀ s e d, (d.length ≠ sbLength e ∨ runnable s e 0x10 = false ∨ (s.faults.frozen = false ∧ ∃ n ∈ dmaSlabs e, slabPending s n = true) →
      exec (.vatWrite e d) s = .next s) ∧
    (d.length ≠ sbLength e ∨ runnable s e 0x12 = false → exec (.cellarWrite e d) s = .next s) ∧
    (runnable s e 0x11 = false ∨ (s.faults.frozen = false ∧ ∃ n ∈ dmaSlabs e, slabPending s n = true) → exec (.vatRead e) s = .next s) ∧
    (runnable s e 0x13 = false → exec (.cellarRead e) s = .next s)) ∧
  (∀ s e d, d.length = sbLength e → runnable s e 0x12 = true →
    (s.faults.frozen = true → exec (.cellarWrite e d) s = .next (finish s e stFROZEN 0 0)) ∧
    (s.faults.frozen = false →
      (dmaShape e ≠ stOK → exec (.cellarWrite e d) s = .next (finish s e (dmaShape e) 0 0)) ∧
      (dmaShape e = stOK → cellarWriteStatus s (dmaSlabs e) ≠ stOK → exec (.cellarWrite e d) s = .next (finish s e (cellarWriteStatus s (dmaSlabs e)) 0 0)) ∧
      (dmaShape e = stOK → cellarWriteStatus s (dmaSlabs e) = stOK →
        exec (.cellarWrite e d) s = .next (finish (bump64 (cellarPut s (sbModule e) d) eDmaBytesToModule d.length) e stOK d.length 0)))) ∧
  (∀ s e, let count (t : State) (n : Nat) : State := if t.faults.frozen then t else bump64 t eDmaBytesToHost n
    (runnable s e 0x11 = true → (s.faults.frozen = true ∨ ∀ n ∈ dmaSlabs e, slabPending s n = false) →
      (dmaShape e ≠ stOK → exec (.vatRead e) s = .next (finish s e (dmaShape e) 0 0)) ∧
      (dmaShape e = stOK →
        ((∃ n ∈ dmaSlabs e, copyOwner s n = none) → exec (.vatRead e) s = .next (finish s e stRANGE 0 0)) ∧
        ((∀ n ∈ dmaSlabs e, copyOwner s n ≠ none) → dmaSlabs e ≠ [] →
          ((∀ n ∈ dmaSlabs e, slabPoisoned s n = false ∧ unitGood s n 0 = true) →
            let u := emit s (.hostMem (sbHost e) ((dmaSlabs e).flatMap fun n => unitBytes s n 0))
            exec (.vatRead e) s = .next (finish (count u (4096 * (dmaSlabs e).length)) e stOK (4096 * (dmaSlabs e).length) 0)) ∧
          (∀ l b r, dmaSlabs e = l ++ b :: r → l ≠ [] → (∀ n ∈ l, slabPoisoned s n = false ∧ unitGood s n 0 = true) →
            (slabPoisoned s b = true ∨ unitGood s b 0 = false) →
            let u := count (emit s (.hostMem (sbHost e) (l.flatMap fun n => unitBytes s n 0))) (4096 * l.length)
            exec (.vatRead e) s = .next (finish (if u.faults.frozen || slabPoisoned u b then u else failUnit u b 0) e stPOISONED (4096 * l.length) (4096 * b)))))) ∧
    (runnable s e 0x13 = true →
      (dmaShape e ≠ stOK → exec (.cellarRead e) s = .next (finish s e (dmaShape e) 0 0)) ∧
      (dmaShape e = stOK →
        ((∃ n ∈ dmaSlabs e, cellarSlabs ≤ n) → exec (.cellarRead e) s = .next (finish s e stRANGE 0 0)) ∧
        ((∀ n ∈ dmaSlabs e, n < cellarSlabs) → dmaSlabs e ≠ [] →
          ((∀ n ∈ dmaSlabs e, cellarGood s n = true) →
            let u := emit s (.hostMem (sbHost e) ((dmaSlabs e).flatMap (cellarBytes s)))
            exec (.cellarRead e) s = .next (finish (count u (4096 * (dmaSlabs e).length)) e stOK (4096 * (dmaSlabs e).length) 0)) ∧
          (∀ l b r, dmaSlabs e = l ++ b :: r → l ≠ [] → (∀ n ∈ l, cellarGood s n = true) → cellarGood s b = false →
            let u := count (emit s (.hostMem (sbHost e) (l.flatMap (cellarBytes s)))) (4096 * l.length)
            exec (.cellarRead e) s = .next (finish (if u.faults.frozen then u else raiseFault (bump u eCellarCrcErrorCount) 17 4 (channelOf b) (w64 b))
              e stPOISONED (4096 * l.length) (4096 * b))))))) ∧
  (∀ s e b r g by_ f, dmaShape e = stOK → dmaSlabs e = b :: r → g b = false →
    dmaRead s e stOK g by_ f = let u := if s.faults.frozen then s else bump64 s eDmaBytesToHost 0
      finish (if u.faults.frozen then u else f u b) e stPOISONED 0 (4096 * b))

/-- Doorbell, completion, head and enable writes move the rings in order; aborted commands come first; a vector is raised once records wait for it -/
def Obligations.RingsMoveInOrder : Prop :=
  (∀ s n l, mailboxOn s = false ∨ s.host.sqSize ≤ n → exec (.sqDoorbell n l) s = .next s) ∧
  (∀ s n l, mailboxOn s = true → n < s.host.sqSize →
    let k := (n + s.host.sqSize - s.host.sqTail % s.host.sqSize) % s.host.sqSize
    (l.length < k → exec (.sqDoorbell n l) s = .next s) ∧
    (k ≤ l.length → cqFull s = true → exec (.sqDoorbell n l) s =
      .next { s with host := { s.host with ringed := s.host.ringed ++ l.take k, sqTail := n } }) ∧
    (k ≤ l.length → cqFull s = false → exec (.sqDoorbell n l) s =
      .next { s with host := { s.host with fetched := s.host.fetched ++ (s.host.ringed ++ l.take k), ringed := [], sqTail := n, sqHead := (s.host.sqHead + (s.host.ringed ++ l.take k).length) % s.host.sqSize } })) ∧
  (∀ s, s.host.fetched = [] → exec .mailboxCommandComplete s = .next s) ∧
  (∀ s e r, s.host.fetched = e :: r →
    (headResult s e = none ∨ mailboxOn s = false ∨ s.host.aborted ≠ [] ∨ cqFull s = true → exec .mailboxCommandComplete s = .next s) ∧
    (∀ x, headResult s e = some x → mailboxOn s = true → s.host.aborted = [] → cqFull s = false →
      let u := putCompletion s (sbId e) x.1 x.2.1 x.2.2
      exec .mailboxCommandComplete s = .next (fetchRung { u with host := { u.host with fetched := r, finished := dropFinished u.host.finished e } }) ∧
      u.outbox = s.outbox ++ [.hostMem (s.host.cqBase.toNat + 16 * s.host.cqTail) (completion s (sbId e) x.1 x.2.1 x.2.2), .msix (rd s eMailboxMsixVector)] ∧
      u.host.cqTail = (s.host.cqTail + 1) % s.host.cqSize ∧ (u.host.phase = if u.host.cqTail = 0 then !s.host.phase else s.host.phase))) ∧
  (∀ s e, ¬ sbOpcode e ∈ sbOpcodes → headResult s e = some (stRANGE, 0, 0)) ∧
  (∀ s v, (barReady s = false ∨ s.host.cqSize ≤ v → exec (.cqHeadWrite v) s = .next s) ∧
    (barReady s = false ∨ s.host.eqSize ≤ v → exec (.eqHeadWrite v) s = .next s) ∧
    (barReady s = true → v < s.host.cqSize → let t := { s with host := { s.host with cqHead := v } }
      (s.host.enable = false → exec (.cqHeadWrite v) s = .next t) ∧
      (s.host.enable = true → exec (.cqHeadWrite v) s = .next (fetchRung (flushAborted s.host.aborted t)))) ∧
    (barReady s = true → v < s.host.eqSize → let t := { s with host := { s.host with eqHead := v } }
      exec (.eqHeadWrite v) s = .next (lostToHost t) ∧
      (s.host.eventLost = 0 ∨ s.host.enable = false ∨ (s.host.eqTail + 1) % s.host.eqSize = v → lostToHost t = t))) ∧
  (∀ s v sq cq eq a b c, (barReady s = false → exec (.mbControlWrite v sq cq eq a b c) s = .next s) ∧
    (barReady s = true →
      (s.host.enable = true → exec (.mbControlWrite v sq cq eq a b c) s = .next { s with host := { s.host with enable := v.getLsbD 0 } }) ∧
      (s.host.enable = false →
        let t := { s with host := { setRings s.host sq cq eq a b c with enable := v.getLsbD 0 } }
        (v.getLsbD 0 = false → exec (.mbControlWrite v sq cq eq a b c) s = .next t) ∧
        (v.getLsbD 0 = true → exec (.mbControlWrite v sq cq eq a b c) s = .next (fetchRung (flushAborted s.host.aborted t)))))) ∧
  (∀ s v, (s.host.linkUp = true → v ∈ s.host.unraised → exec (.eventMsixTimer v) s =
      .next (emit { s with host := { s.host with unraised := s.host.unraised.filter fun x => x ≠ v } } (.msix v))) ∧
    (s.host.linkUp = false ∨ v ∉ s.host.unraised → exec (.eventMsixTimer v) s = .next s))

/-- VERIFY, ACTIVATE_LIVE, ACTIVATE_AT_RESET, CONFIRM and REJECT show their result and move the slots as Table 18.2 states -/
def Obligations.FirmwareCommandsAct : Prop :=
  let busy (s : State) : Bool := s.fw.programming || s.fw.live.isSome
  (∀ s src ok c v, (c, v) ∈ [(Instr.verify src ok, 1), (.activateLive src, 2), (.activateAtReset src, 3), (.confirm src, 4), (.reject src, 5)] →
    (¬ Accepted s src eFirmwareCommand [BitVec.ofNat 8 v] ∨ ((v = 2 ∨ v = 3) ∧ someTrial s = true) → exec c s = .next s) ∧
    (Accepted s src eFirmwareCommand [BitVec.ofNat 8 v] → ¬ ((v = 2 ∨ v = 3) ∧ someTrial s = true) → busy s = true →
      exec c s = .next (fwResult s fwIN_PROGRESS))) ∧
  (∀ s src ok, Accepted s src eFirmwareCommand [1] → busy s = false → let k := inactiveSlot s
    ((fwSlot s k).state = 0 → exec (.verify src ok) s = .next (fwResult s fwNO_IMAGE)) ∧
    ((fwSlot s k).state ≠ 0 → let r := imageCheck s (fwSlot s k).image ok
      (r = 0 ∨ (fwSlot s k).state ≠ 2 → exec (.verify src ok) s = .next (fwResult s r)) ∧
      (r ≠ 0 → (fwSlot s k).state = 2 → exec (.verify src ok) s = .next (fwResult (setSlotState s k 1) r)))) ∧
  (∀ s src, Accepted s src eFirmwareCommand [2] → busy s = false → someTrial s = false → let x := fwSlot s (inactiveSlot s)
    (x.state ≠ 2 → exec (.activateLive src) s = .next (fwResult s fwNO_IMAGE)) ∧
    (x.state = 2 → liveFrom x.image = 0xFFFFFFFF ∨ loafRevision s < liveFrom x.image → exec (.activateLive src) s = .next (fwResult s fwLIVE_INCOMPATIBLE)) ∧
    (x.state = 2 → liveFrom x.image ≠ 0xFFFFFFFF → liveFrom x.image ≤ loafRevision s →
      (levelsHeld s x.image = false → exec (.activateLive src) s = .next (fwResult s fwLEVEL_CONFLICT)) ∧
      (levelsHeld s x.image = true → ∃ t, exec (.activateLive src) s = .next t ∧ t = { s with regs := t.regs, fw := { s.fw with live := some 0 } } ∧
        rd t eFirmwareResult = fwRUNNING ∧ rd t eFirmwareProgress = 0))) ∧
  (∀ s src, Accepted s src eFirmwareCommand [3] → busy s = false → someTrial s = false → let k := inactiveSlot s
    ((fwSlot s k).state ≠ 2 ∨ (fwSlot s s.fw.running).state ≠ 4 → exec (.activateAtReset src) s = .next (fwResult s fwNO_IMAGE)) ∧
    ((fwSlot s k).state = 2 → (fwSlot s s.fw.running).state = 4 → ∃ t, exec (.activateAtReset src) s = .next t ∧ t.fw.active = k ∧
      (fwSlot t k).state = 3 ∧ (fwSlot t k).trialBoots = 0 ∧ (fwSlot t k).image = (fwSlot s k).image ∧ (fwSlot t s.fw.running).state = 2 ∧
      t.fw.running = s.fw.running ∧ rd t eFirmwareResult = fwOK)) ∧
  (∀ s src, Accepted s src eFirmwareCommand [4] → busy s = false → let x := fwSlot s s.fw.running
    (x.state ≠ 3 → exec (.confirm src) s = .next (fwResult s fwNOT_TRIAL)) ∧
    (x.state = 3 → ∃ t, exec (.confirm src) s = .next t ∧ (fwSlot t s.fw.running).state = 4 ∧ (fwSlot t s.fw.running).image = x.image ∧
      t.fw.rollback = max s.fw.rollback (imgSecurity x.image) ∧ t.fw.revokedFirmware = s.fw.revokedFirmware ||| BitVec.ofNat 4 (imgRevoke x.image) ∧
      (fwSlot t (inactiveSlot s)).state = (if (fwSlot s (inactiveSlot s)).state = 2 ∧ imgSecurity (fwSlot s (inactiveSlot s)).image < t.fw.rollback
        then 1 else (fwSlot s (inactiveSlot s)).state) ∧ rd t eFirmwareResult = fwOK)) ∧
  (∀ s src, Accepted s src eFirmwareCommand [5] → busy s = false → let k := inactiveSlot s
    let r := s.fw.running
    ((fwSlot s r).state = 3 →
      ((fwSlot s k).state ≠ 2 → exec (.reject src) s = .next (fwResult s fwNO_IMAGE)) ∧
      ((fwSlot s k).state = 2 → ∃ t, exec (.reject src) s = .next t ∧ t.fw.active = k ∧ (fwSlot t k).state = 4 ∧ (fwSlot t r).state = 2 ∧
        rd t eFirmwareResult = fwOK)) ∧
    ((fwSlot s r).state ≠ 3 →
      ((fwSlot s k).state ≠ 3 → exec (.reject src) s = .next (fwResult s fwNOT_TRIAL)) ∧
      ((fwSlot s k).state = 3 → ∃ t, exec (.reject src) s = .next t ∧ t.fw.active = r ∧ (fwSlot t r).state = 4 ∧ (fwSlot t k).state = 2 ∧
        rd t eFirmwareResult = fwOK)))

/-- LoafImage is programmed into the inactive slot and checked; a live update goes group by group and ends or reverts; AttestNonce makes the report -/
def Obligations.ImagesAreProgrammedUpdatedLiveAndAttested : Prop :=
  (∀ s src img, let busy := s.fw.programming || s.fw.live.isSome
    (Accepted s src eLoafImage img → someTrial s = false → busy = false → ∃ t, exec (.loafImageWrite src img) s = .next t ∧
      fwSlot t (inactiveSlot s) = { state := 1, image := img } ∧ fwSlot t s.fw.running = fwSlot s s.fw.running ∧ t.fw.programming = true ∧
      t.fw.active = s.fw.active ∧ rd t eFirmwareResult = fwRUNNING) ∧
    (¬ Accepted s src eLoafImage img ∨ someTrial s = true ∨ busy = true → exec (.loafImageWrite src img) s = .next s)) ∧
  (∀ s ok, loafUp s = true → s.faults.frozen = false →
    (s.fw.programming = false → exec (.loafProgramDone ok) s = .next s) ∧
    (s.fw.programming = true → ∃ t, exec (.loafProgramDone ok) s = .next t ∧ let r := imageCheck s (fwSlot s (inactiveSlot s)).image ok
      fwSlot t (inactiveSlot s) = { fwSlot s (inactiveSlot s) with state := if r = 0 then 2 else 1 } ∧ t.fw.programming = false ∧
      rd t eFirmwareResult = r)) ∧
  (∀ s b, live s = true →
    (s.fw.live = none → exec (.liveUpdateGroupDone b) s = .next s) ∧
    (∀ g, s.fw.live = some g →
      (∃ u, exec (.liveUpdateGroupDone false) s = .next (proofNext u) ∧ u = { s with regs := u.regs, fw := { s.fw with live := none } } ∧
        rd u eFirmwareResult = fwREVERTED ∧ rd u eFirmwareProgress = 0xFF) ∧
      (g < 3 → ∃ t, exec (.liveUpdateGroupDone true) s = .next t ∧ t = { s with regs := t.regs, fw := { s.fw with live := some (g + 1) } } ∧
        rd t eFirmwareProgress = g + 1) ∧
      (3 ≤ g → ∃ u, exec (.liveUpdateGroupDone true) s = .next (proofNext u) ∧ u.fw.active = inactiveSlot s ∧ u.fw.running = inactiveSlot s ∧
        u.fw.live = none ∧ (fwSlot u (inactiveSlot s)).state = 3 ∧ (fwSlot u s.fw.running).state = 2 ∧ rd u eFirmwareResult = fwOK ∧
        rd u eFirmwareProgress = 0xFF))) ∧
  (∀ s src n, (Accepted s src eAttestNonce n → ∃ t g, exec (.attestNonceWrite src n) s = .next t ∧ g.length = 132 ∧
      blob t eAttestNonce = n ∧ blob t eAttestReport = attestBody s n ++ g ∧ (∀ a, a ≠ eAttestNonce → a ≠ eAttestReport → blob t a = blob s a) ∧
      t = { s with blobs := t.blobs, draws := s.draws + 1 }) ∧
    (¬ Accepted s src eAttestNonce n → exec (.attestNonceWrite src n) s = .next s))

/-- A seated insert is identified and enabled or quarantined, its life counted; removal turns its engine off; a fault fences it; laser hours are kept -/
def Obligations.InsertsAreCheckedCountedAndFenced : Prop :=
  (∀ s n i, n < 6 → let u := setCage s n { cageOf s n with insert := some i, writeDue := false }
    (loafUp s = false ∨ s.faults.frozen = true → exec (.insertSeated n i) s = .next u) ∧
    (loafUp s = true → s.faults.frozen = false →
      let b := i.page0.getD []
      let r := identityResult s i
      let v := wr (setBlob (showCages u) (eEngineIdentity n) (sliceZ b 0 (if i.page0.isSome then 256 else 0))) (eEngineIdentityResult n) r
      rd v (eEngineIdentityResult n) = r ∧
      (r ≠ 1 → (fnState s (eEngineState n) = .fenced → exec (.insertSeated n i) s = .next v) ∧
        (fnState s (eEngineState n) ≠ .fenced → exec (.insertSeated n i) s = .next (engineTo v n { state := .quarantined, pendingOn := false }))) ∧
      (r = 1 → insKind b ≠ 2 → exec (.insertSeated n i) s = .next (engineTo v n (fnEnable (fnOf s (eEngineState n))))) ∧
      (r = 1 → insKind b = 2 →
        let hours := max (insLaserHours b) (engineRecord s (insSerial b)).1
        let ins := max (insInsertions b) (engineRecord s (insSerial b)).2 + 1
        let w := setCage v n { cageOf v n with lastSerial := insSerial b, writeDue := true }
        let x := wearEvents (showCounts w n hours ins (wearState b hours ins)) n (wearState b hours (ins - 1)) (wearState b hours ins)
        exec (.insertSeated n i) s = .next (engineTo x n (fnEnable (fnOf x (eEngineState n))))))) ∧
  (∀ s n, n < 6 → let u := setCage s n { cageOf s n with insert := none, writeDue := false }
    (loafUp s = false ∨ s.faults.frozen = true → exec (.insertRemoved n) s = .next (setCage u n { cageOf u n with laserOn := false })) ∧
    (loafUp s = true → s.faults.frozen = false →
      let v := showCounts (wr (setBlob (showCages u) (eEngineIdentity n) []) (eEngineIdentityResult n) 0) n 0 0 0
      let f := fnOf s (eEngineState n)
      (f.state = .starting → exec (.insertRemoved n) s = .next (engineTo v n {})) ∧
      (f.state = .on → exec (.insertRemoved n) s = .next (engineTo v n (fnDisable (fnOf v (eEngineState n))))) ∧
      (f.state = .quarantined → exec (.insertRemoved n) s = .next (engineTo v n (fnRest (fnOf v (eEngineState n))))) ∧
      (f.state = .off ∨ f.state = .fenced ∨ f.state = .stopping → exec (.insertRemoved n) s = .next (engineTo v n (fnOf v (eEngineState n)))))) ∧
  (∀ s n c, live s = true → n < 6 →
    (fnState s (eEngineState n) = .quarantined → exec (.engineFault n c) s = .next s) ∧
    (fnState s (eEngineState n) ≠ .quarantined →
      exec (.engineFault n c) s = .next (unitFault (wr s (eEngineFaultCause n) c) (eEngineState n)))) ∧
  (∀ s n, live s = true → n < 6 →
    ((cageOf s n).laserOn = false → exec (.laserHoursTick n) s = .next s) ∧
    ((cageOf s n).laserOn = true →
      let b := cageBytes (cageOf s n)
      let hours := rd s (eEngineLaserHours n) + 1
      let wear := wearState b hours (rd s (eEngineInsertions n))
      let u := showCounts s n hours (rd s (eEngineInsertions n)) wear
      (hours % 10 = 0 → exec (.laserHoursTick n) s = .next (wearEvents (writeCounts u n) n (cageOf s n).wear wear)) ∧
      (hours % 10 ≠ 0 → exec (.laserHoursTick n) s =
        .next (wearEvents (setEngineRecord u (insSerial b) hours (engineRecord u (insSerial b)).2) n (cageOf s n).wear wear))))

/-- A step runs the command at the front of the queue on the queue's rest; with no command waiting one fabric cycle passes (log entry 7) -/
def Obligations.StepRunsTheFrontCommand : Prop :=
  (∀ (c : Instr) (rest : List Instr) (s : State), step { s with pending := c :: rest } = exec c { s with pending := rest }) ∧
  (∀ s, s.pending = [] → step s = .next (tick s) ∧ (live s = false → tick s = s) ∧ (live s = true → Safe s → (tick s).now = s.now + 1))

/-- Every command whose operands name units of the part answers a next state and leaves the waiting commands; any other is the fault noSuchUnit -/
def Obligations.EveryCommandCompletesOrNamesNoUnit : Prop :=
  ∀ (c : Instr) (s : State),
    (c.wellFormed = true → ∃ t, exec c s = .next t ∧ (Safe s → t.pending = s.pending)) ∧
    (c.wellFormed = false → exec c s = .fault .noSuchUnit)

/-- After reset every entry reads its default, every function but the control groups is OFF, the memories are clear and nothing runs -/
def Obligations.ResetLeavesTheStatedValues : Prop :=
  State.reset.boot = .held ∧ State.reset.now = 0 ∧ State.reset.pending = [] ∧ Safe State.reset ∧ (∀ a, rd State.reset a = entryDefault a) ∧ (∀ a, blob State.reset a = []) ∧
  (∀ a, Memory.get State.reset.vat.mem a = 0 ∧ Memory.get State.reset.cellar.mem a = 0) ∧
  (∀ a, fnState State.reset a = if isControlGroup a then .on else .off) ∧
  State.reset.faults.records = [] ∧ State.reset.faults.fatal = none ∧ State.reset.faults.frozen = false ∧ State.reset.mgmt.sessions = [] ∧ State.reset.mgmt.waiting = [] ∧ State.reset.mgmt.flash = [] ∧
  State.reset.groups = [] ∧ State.reset.stations.installed = [] ∧ State.reset.recipes.installed = [] ∧ State.reset.recipes.invs = [] ∧ State.reset.topo.sizes = none ∧ State.reset.fence.bits = [] ∧
  State.reset.fw.slotA.state = 4 ∧ State.reset.fw.slotB.state = 0 ∧ State.reset.fw.active = 0 ∧ State.reset.fw.running = 0 ∧
  State.reset.pins = { alwaysOn := true, mainUp := true, shutdown := false, mateHigh := false, resetLow := true, perstLow := true, ready := false, fltP := true, fltN := false }

/-- Every step keeps a state safe: canonical memories, a frozen module showing FAULT, at most 1,024 records and 8 sessions, torus sizes in bounds -/
def Obligations.EveryStepKeepsSafe : Prop :=
  ∀ s t, Safe s → step s = .next t → Safe t

/-- A frozen module stays frozen, with FAULT shown and MOD_READY low, through every step but a reset or a loss or return of its supply -/
def Obligations.FatalFreezeLastsUntilReset : Prop :=
  ∀ s t, Safe s → s.faults.frozen = true → step s = .next t →
    (∀ mv rest, s.pending ≠ .alwaysOnStart mv :: rest) → (∀ rest, s.pending ≠ .mainRailsShutdown :: rest) →
    (∀ rest, s.pending ≠ .alwaysOnLoss :: rest) → (∀ rest, s.pending ≠ .modReset :: rest) →
    t.faults.frozen = true ∧ t.pins.ready = false ∧ t.pins.fltP = false ∧ t.pins.fltN = true ∧ (s.pending = [] → t = s)

/-- Through every step the anti-rollback counter in OTP never falls, and no revoked firmware key slot returns -/
def Obligations.OtpOnlyRises : Prop :=
  ∀ s t, Safe s → step s = .next t → s.fw.rollback ≤ t.fw.rollback ∧ s.fw.revokedFirmware &&& t.fw.revokedFirmware = s.fw.revokedFirmware

/-- No command but those of the supply, the reset and boot moves the fabric cycle counter or the boot step -/
def Obligations.OnlyBootSupplyAndResetMoveTheClock : Prop :=
  ∀ (c : Instr) s t, Safe s → clockCommands c = false → exec c s = .next t → t.now = s.now ∧ t.boot = s.boot

end
end

