-- ==== Sys2Proof/Laws/Tab.lean ====
section
/-! SUPPORT. The laws of the tables: what a write shows at its own key and at every other, and that it keeps the keys rising; and the
same laws of the register, byte-string, function, port, lane and lane-group files that are such tables. -/
namespace Sys2Proof.Machine

variable {α : Type}

/-- A written key holds what was written. -/
@[simp] theorem Tab.find_set_same (t : Tab α) (k : Nat) (v : α) : Tab.find (Tab.set t k v) k = some v := by
  induction t with
  | nil => simp [Tab.set, Tab.find]
  | cons a t ih =>
    obtain ⟨k', v'⟩ := a
    simp only [Tab.set]
    split
    · simp [Tab.find]
    · split
      · simp [Tab.find]
      · rename_i h _
        have : k' ≠ k := fun e => h e.symm
        simp [Tab.find, this, ih]

/-- Every other key holds what it held. -/
theorem Tab.find_set_other (t : Tab α) {k j : Nat} (v : α) (h : j ≠ k) : Tab.find (Tab.set t k v) j = Tab.find t j := by
  induction t with
  | nil => simp [Tab.set, Tab.find, Ne.symm h]
  | cons a t ih =>
    obtain ⟨k', v'⟩ := a
    simp only [Tab.set]
    split
    · rename_i e
      subst e
      simp [Tab.find, Ne.symm h]
    · split
      · simp [Tab.find, Ne.symm h]
      · simp [Tab.find, ih]

@[simp] theorem Tab.getD_set_same (t : Tab α) (k : Nat) (v d : α) : Tab.getD (Tab.set t k v) k d = v := by simp [Tab.getD]

theorem Tab.getD_set_other (t : Tab α) {k j : Nat} (v d : α) (h : j ≠ k) : Tab.getD (Tab.set t k v) j d = Tab.getD t j d := by
  simp [Tab.getD, Tab.find_set_other t v h]

/-- A table's keys rise strictly: as a proposition about pairs. -/
theorem Tab.sorted_iff (t : Tab α) : Tab.sorted t = true ↔ t.Pairwise (fun a b => a.1 < b.1) := by
  have : IsTrans (Nat × α) (fun a b => a.1 < b.1) := ⟨fun _ _ _ h k => Nat.lt_trans h k⟩
  rw [← List.isChain_iff_pairwise]
  induction t with
  | nil => simp [Tab.sorted]
  | cons a t ih =>
    cases t with
    | nil => simp [Tab.sorted]
    | cons b t => simp [Tab.sorted, ih, List.isChain_cons_cons]

/-- The keys of a table after a write: the old ones and the written one. -/
theorem Tab.mem_set {t : Tab α} {k : Nat} {v : α} {x : Nat × α} (h : x ∈ Tab.set t k v) : x.1 = k ∨ x ∈ t := by
  induction t with
  | nil => simp [Tab.set] at h; exact .inl (by rw [h])
  | cons a t ih =>
    obtain ⟨k', v'⟩ := a
    simp only [Tab.set] at h
    split at h
    · rcases List.mem_cons.mp h with h | h
      · exact .inl (by rw [h])
      · exact .inr (List.mem_cons_of_mem _ h)
    · split at h
      · rcases List.mem_cons.mp h with h | h
        · exact .inl (by rw [h])
        · exact .inr h
      · rcases List.mem_cons.mp h with h | h
        · exact .inr (by rw [h]; exact List.mem_cons_self ..)
        · rcases ih h with e | e
          · exact .inl e
          · exact .inr (List.mem_cons_of_mem _ e)

/-- A write keeps the keys rising. -/
theorem Tab.sorted_set {t : Tab α} (h : Tab.sorted t = true) (k : Nat) (v : α) : Tab.sorted (Tab.set t k v) = true := by
  rw [Tab.sorted_iff] at h ⊢
  induction t with
  | nil => simp [Tab.set]
  | cons a t ih =>
    obtain ⟨k', v'⟩ := a
    have hp := List.pairwise_cons.mp h
    simp only [Tab.set]
    split
    · rename_i e
      subst e
      exact List.pairwise_cons.mpr ⟨hp.1, hp.2⟩
    · split
      · rename_i hl
        refine List.pairwise_cons.mpr ⟨fun x hx => ?_, h⟩
        rcases List.mem_cons.mp hx with e | hx
        · rw [e]; exact hl
        · exact Nat.lt_trans hl (hp.1 x hx)
      · rename_i hne hnl
        refine List.pairwise_cons.mpr ⟨fun x hx => ?_, ih hp.2⟩
        rcases Tab.mem_set hx with e | hx
        · rw [e]; simp only; omega
        · exact hp.1 x hx

/-- Keys taken away leave the rest rising. -/
theorem Tab.sorted_erase {t : Tab α} (h : Tab.sorted t = true) (k : Nat) : Tab.sorted (Tab.erase t k) = true := by
  rw [Tab.sorted_iff] at h ⊢
  exact h.filter _

/-- An erased key holds nothing. -/
@[simp] theorem Tab.find_erase_same (t : Tab α) (k : Nat) : Tab.find (Tab.erase t k) k = none := by
  induction t with
  | nil => rfl
  | cons a t ih =>
    obtain ⟨k', v'⟩ := a
    unfold Tab.erase at ih ⊢
    rw [List.filter_cons]
    by_cases e : k' = k
    · simpa [e] using ih
    · simpa [e, Tab.find] using ih

/-- Every other key holds what it held. -/
theorem Tab.find_erase_other (t : Tab α) {k j : Nat} (h : j ≠ k) : Tab.find (Tab.erase t k) j = Tab.find t j := by
  induction t with
  | nil => rfl
  | cons a t ih =>
    obtain ⟨k', v'⟩ := a
    unfold Tab.erase at ih ⊢
    rw [List.filter_cons]
    by_cases e : k' = k
    · simpa [e, Tab.find, Ne.symm h] using ih
    · have ih' : Tab.find (List.filter (fun kv => !decide (kv.1 = k)) t) j = Tab.find t j := by simpa using ih
      simp [e, Tab.find, ih']

/-! Entries. -/

@[simp] theorem rd_wr_same (s : State) (a v : Nat) : rd (wr s a v) a = v := by simp [rd, wr]
theorem rd_wr_other (s : State) {a b : Nat} (v : Nat) (h : b ≠ a) : rd (wr s a v) b = rd s b := by
  simp [rd, wr, Tab.find_set_other _ _ h]
@[simp] theorem cnt_wr_same (s : State) (a v : Nat) : cnt (wr s a v) a = v := by simp [cnt, wr]
theorem cnt_wr_other (s : State) {a b : Nat} (v : Nat) (h : b ≠ a) : cnt (wr s a v) b = cnt s b := by
  simp [cnt, wr, Tab.getD_set_other _ _ _ h]

/-- A counter counts, and saturates. -/
@[simp] theorem cnt_bumpBy_same (n : Nat) (s : State) (a k : Nat) : cnt (bumpBy n s a k) a = min (2 ^ (8 * n) - 1) (cnt s a + k) := by
  simp [bumpBy]
theorem cnt_bumpBy_other (n : Nat) (s : State) {a b : Nat} (k : Nat) (h : b ≠ a) : cnt (bumpBy n s a k) b = cnt s b := by
  simp [bumpBy, cnt_wr_other s _ h]
theorem rd_bumpBy_other (n : Nat) (s : State) {a b : Nat} (k : Nat) (h : b ≠ a) : rd (bumpBy n s a k) b = rd s b := by
  simp [bumpBy, rd_wr_other s _ h]

@[simp] theorem blob_setBlob_same (s : State) (a : Nat) (v : List Byte) : blob (setBlob s a v) a = v := by simp [blob, setBlob]
theorem blob_setBlob_other (s : State) {a b : Nat} (v : List Byte) (h : b ≠ a) : blob (setBlob s a v) b = blob s b := by
  simp [blob, setBlob, Tab.getD_set_other _ _ _ h]

/-! Functions, ports, lanes and lane groups. -/

@[simp] theorem fnOf_setFn_same (s : State) (a : Nat) (f : Fn) : fnOf (setFn s a f) a = f := by simp [fnOf, setFn]
theorem fnOf_setFn_other (s : State) {a b : Nat} (f : Fn) (h : b ≠ a) : fnOf (setFn s a f) b = fnOf s b := by
  simp [fnOf, setFn, Tab.find_set_other _ _ h]
@[simp] theorem fnState_setFn_same (s : State) (a : Nat) (f : Fn) : fnState (setFn s a f) a = f.state := by simp [fnState]
theorem fnState_setFn_other (s : State) {a b : Nat} (f : Fn) (h : b ≠ a) : fnState (setFn s a f) b = fnState s b := by
  simp [fnState, fnOf_setFn_other s f h]
@[simp] theorem portOf_setPort_same (s : State) (p : Nat) (q : Port) : portOf (setPort s p q) p = q := by simp [portOf, setPort]
theorem portOf_setPort_other (s : State) {p r : Nat} (q : Port) (h : r ≠ p) : portOf (setPort s p q) r = portOf s r := by
  simp [portOf, setPort, Tab.getD_set_other _ _ _ h]
@[simp] theorem laneOf_setLane_same (s : State) (l : Nat) (q : Lane) : laneOf (setLane s l q) l = q := by simp [laneOf, setLane]
theorem laneOf_setLane_other (s : State) {l m : Nat} (q : Lane) (h : m ≠ l) : laneOf (setLane s l q) m = laneOf s m := by
  simp [laneOf, setLane, Tab.getD_set_other _ _ _ h]
@[simp] theorem lgOf_setLg_same (s : State) (g : Nat) (q : LaneGroup) : lgOf (setLg s g q) g = q := by simp [lgOf, setLg]
theorem lgOf_setLg_other (s : State) {g k : Nat} (q : LaneGroup) (h : k ≠ g) : lgOf (setLg s g q) k = lgOf s k := by
  simp [lgOf, setLg, Tab.getD_set_other _ _ _ h]

/-! What the operations answer. -/

@[simp] theorem onUnit_true (s : State) : onUnit true s = .next s := rfl
@[simp] theorem onUnit_false (s : State) : onUnit false s = .fault .noSuchUnit := rfl
theorem whenLive_live {s : State} (h : live s = true) (f : State → State) : whenLive s f = f s := by simp [whenLive, h]
theorem whenLive_not {s : State} (h : live s = false) (f : State → State) : whenLive s f = s := by simp [whenLive, h]

end Sys2Proof.Machine
end

