-- ==== Sys2Proof/Laws/Access.lean ====
section
/-! SUPPORT. What the checks before a dictionary write decide: the write has its effect, or nothing changes. -/
namespace Sys2Proof.Machine

/-- A write that the checks and the owner accept has its effect. -/
theorem whenWritten_accepted {s : State} {src : Source} {a : Nat} {v : List Byte} {owner : Bool} (h : Accepted s src a v)
    (ho : owner = true) (f : State → State) : whenWritten s src a v owner f = f s := by
  unfold whenWritten
  rw [if_pos]
  rw [Accepted] at h
  rw [h, ho]
  rfl

/-- A write that the checks refuse changes nothing (R395). -/
theorem whenWritten_refused {s : State} {src : Source} {a : Nat} {v : List Byte} {owner : Bool} (h : ¬ Accepted s src a v)
    (f : State → State) : whenWritten s src a v owner f = s := by
  unfold whenWritten
  rw [if_neg]
  intro k
  rw [Bool.and_eq_true, decide_eq_true_iff] at k
  exact h k.1

/-- A write that the owner refuses changes nothing (R395). -/
theorem whenWritten_owner {s : State} {src : Source} {a : Nat} {v : List Byte} {owner : Bool} (h : owner = false)
    (f : State → State) : whenWritten s src a v owner f = s := by
  unfold whenWritten
  rw [h, Bool.and_false]
  rfl

/-- Nobody writes before Loaf runs, or in a frozen module (R367, R395). -/
theorem accepted_up {s : State} {src : Source} {a : Nat} {v : List Byte} (h : Accepted s src a v) :
    loafUp s = true ∧ s.faults.frozen = false := by
  unfold Accepted addrStatus entryStatus sourceStatus at h
  cases h1 : loafUp s <;> cases h2 : s.faults.frozen <;> simp [h1, h2] at h <;> simp

/-- Where a write is accepted, the data path works. -/
theorem accepted_live {s : State} {src : Source} {a : Nat} {v : List Byte} (h : Accepted s src a v) : live s = true := by
  obtain ⟨h1, h2⟩ := accepted_up h
  unfold live
  rw [h2]
  unfold loafUp at h1
  unfold dataUp
  cases hb : s.boot <;> simp [hb] at h1 ⊢

/-- A stored value changes the scalar entries and the list of what waits for flash, nothing else (R393). -/
theorem writeReg_shape (s : State) (a v : Nat) :
    ∃ w, writeReg s a v = { s with regs := Tab.set s.regs a v, mgmt := { s.mgmt with waiting := w } } := by
  unfold writeReg markPersist
  split
  · split
    · exact ⟨_, rfl⟩
    · exact ⟨_, rfl⟩
  · exact ⟨_, rfl⟩

/-- A stored value is what its entry reads. -/
@[simp] theorem writeReg_rd_same (s : State) (a v : Nat) : rd (writeReg s a v) a = v := by
  obtain ⟨w, hw⟩ := writeReg_shape s a v
  rw [hw]
  show (match Tab.find (Tab.set s.regs a v) a with | some n => n | none => _) = v
  rw [Tab.find_set_same]

/-- Every other entry holds what it held. -/
theorem writeReg_find_other (s : State) (a v b : Nat) (h : b ≠ a) : Tab.find (writeReg s a v).regs b = Tab.find s.regs b := by
  obtain ⟨w, hw⟩ := writeReg_shape s a v
  rw [hw]
  exact Tab.find_set_other _ _ h

theorem writeReg_rd_other (s : State) (a v b : Nat) (h : b ≠ a) : rd (writeReg s a v) b = rd s b := by
  unfold rd
  rw [writeReg_find_other s a v b h]

/-- A stored value changes one entry only. -/
theorem writeReg_entryOnly (s : State) (a v : Nat) : EntryOnly a s (writeReg s a v) := by
  refine ⟨?_, fun b h => writeReg_find_other s a v b h⟩
  obtain ⟨w, hw⟩ := writeReg_shape s a v
  rw [hw]

end Sys2Proof.Machine
end

