-- ==== Sys2Proof/Laws/Coll.lean ====
section
/-! SUPPORT. How a group packet is placed (R206, R446, R447): taken for its open instance, or counted and dropped. -/
namespace Sys2Proof.Machine

/-- Of two writes of one key the later stands. -/
@[simp] theorem Tab.set_set_same {α : Type} (t : Tab α) (k : Nat) (v w : α) : Tab.set (Tab.set t k v) k w = Tab.set t k w := by
  induction t with
  | nil => simp [Tab.set]
  | cons a t ih =>
    obtain ⟨k', v'⟩ := a
    simp only [Tab.set]
    split
    · simp [Tab.set]
    · split
      · simp [Tab.set]
      · rename_i h1 h2
        simp [Tab.set, h1, h2, ih]

/-- A group's entry, once written, is what stands there. -/
@[simp] theorem groupOf_setGroup_same (s : State) (gid : Nat) (g : Group) : groupOf (setGroup s gid g) gid = some g := Tab.find_set_same _ _ _

/-- Of two writes of one group's entry the later stands. -/
@[simp] theorem setGroup_setGroup_same (s : State) (gid : Nat) (g k : Group) : setGroup (setGroup s gid g) gid k = setGroup s gid k := by
  unfold setGroup
  rw [Tab.set_set_same]

theorem groupOf_setGroup_other (s : State) {gid k : Nat} (g : Group) (h : k ≠ gid) : groupOf (setGroup s gid g) k = groupOf s k :=
  Tab.find_set_other _ _ h

/-- Taking a packet touches the inbox and the pools only. -/
theorem takeInbox_parts (s : State) (p : Nat) (pkt : Packet) :
    takeInbox s p pkt = { s with inbox := (takeInbox s p pkt).inbox, pools := (takeInbox s p pkt).pools } := by
  unfold takeInbox
  split
  · rfl
  · split <;> rfl

@[simp] theorem takeInbox_now (s : State) (p : Nat) (pkt : Packet) : fcNow (takeInbox s p pkt) = fcNow s := by rw [takeInbox_parts]; rfl

@[simp] theorem takeInbox_regs (s : State) (p : Nat) (pkt : Packet) : (takeInbox s p pkt).regs = s.regs := by rw [takeInbox_parts]

@[simp] theorem takeInbox_groups (s : State) (p : Nat) (pkt : Packet) : (takeInbox s p pkt).groups = s.groups := by rw [takeInbox_parts]

@[simp] theorem takeInbox_ports (s : State) (p : Nat) (pkt : Packet) : (takeInbox s p pkt).ports = s.ports := by rw [takeInbox_parts]

@[simp] theorem takeInbox_topo (s : State) (p : Nat) (pkt : Packet) : (takeInbox s p pkt).topo = s.topo := by rw [takeInbox_parts]

@[simp] theorem takeInbox_fence (s : State) (p : Nat) (pkt : Packet) : (takeInbox s p pkt).fence = s.fence := by rw [takeInbox_parts]

@[simp] theorem takeInbox_recipes (s : State) (p : Nat) (pkt : Packet) : (takeInbox s p pkt).recipes = s.recipes := by rw [takeInbox_parts]

@[simp] theorem groupOf_takeInbox (s : State) (p : Nat) (pkt : Packet) (k : Nat) : groupOf (takeInbox s p pkt) k = groupOf s k := by
  rw [takeInbox_parts]; rfl

@[simp] theorem installing_takeInbox (s : State) (p : Nat) (pkt : Packet) (k : Nat) : installing (takeInbox s p pkt) k = installing s k := by
  rw [takeInbox_parts]; rfl

@[simp] theorem sourceOk_takeInbox (s : State) (p : Nat) (pkt : Packet) (q : Nat) (id : BitVec 23) :
    sourceOk (takeInbox s p pkt) q id = sourceOk s q id := by
  rw [takeInbox_parts]; rfl

/-- A packet of an open instance that its sender may send is taken. -/
theorem placed_taken {s : State} {p : Nat} {pkt : Packet} {g : Group} {i : Inst} (h : GroupPacket s p pkt g i) {ok : Group → Bool}
    (hok : ok g = true) (opens : Bool) (f : State → Nat → Group → State) :
    placed (takeInbox s p pkt) p pkt ok opens f = f (packetTaken s p pkt g i) (hGroup pkt.h) (takenGroup s g i) := by
  obtain ⟨-, -, hm, hin, hg, hi, hr, he, hep⟩ := h
  have go : groupOf (takeInbox s p pkt) (hGroup pkt.h) = some g := (groupOf_takeInbox _ _ _ _).trans hg
  have ii : installing (takeInbox s p pkt) (hGroup pkt.h) = false := (installing_takeInbox _ _ _ _).trans hin
  have c1 : (decide (idPort pkt.h.src ≤ 103) && !(isEdge p && sourceOk (takeInbox s p pkt) p pkt.h.src)) = false := by
    by_cases c : idPort pkt.h.src ≤ 103
    · obtain ⟨a, b⟩ := hm c
      have b' : sourceOk (takeInbox s p pkt) p pkt.h.src = true := (sourceOk_takeInbox _ _ _ _ _).trans b
      rw [a, b']
      simp
    · simp [c]
  have c2 : (decide (g.epoch ≠ 0) && decide (hEpoch pkt.h ≠ g.epoch)) = false := by simp [hep]
  have ad : adoptEpoch (takeInbox s p pkt) (hGroup pkt.h) (hEpoch pkt.h) = takeInbox s p pkt := by
    simp only [adoptEpoch, go, if_neg he]
  have op : openInst (takeInbox s p pkt) (hGroup pkt.h) = takeInbox s p pkt := by
    simp only [openInst, go, hi, Option.isSome_some, ↓reduceIte]
  have tou : touchInst (takeInbox s p pkt) (hGroup pkt.h) = packetTaken s p pkt g i := by
    simp only [touchInst, instOf, setInst, go, Option.bind_some, hi, takeInbox_now, packetTaken, takenGroup]
  have gt : groupOf (packetTaken s p pkt g i) (hGroup pkt.h) = some (takenGroup s g i) := groupOf_setGroup_same _ _ _
  unfold placed
  dsimp only
  rw [c1]
  simp only [Bool.false_eq_true, ↓reduceIte, go, ii, hok, Bool.not_true, Bool.or_false, ad, c2, op, ite_self, tou, gt]
  simp only [takenGroup, hr, ↓reduceIte]

/-- An endpoint's packet that did not come by the endpoint's port is counted and dropped. -/
theorem placed_stranger {s : State} {p : Nat} {pkt : Packet} (h : idPort pkt.h.src ≤ 103) (k : (isEdge p && sourceOk s p pkt.h.src) = false)
    (ok : Group → Bool) (opens : Bool) (f : State → Nat → Group → State) :
    placed (takeInbox s p pkt) p pkt ok opens f = bump (takeInbox s p pkt) eCollNotMemberCount := by
  have k' : (isEdge p && sourceOk (takeInbox s p pkt) p pkt.h.src) = false := by rw [sourceOk_takeInbox]; exact k
  unfold placed
  dsimp only
  rw [k']
  simp [h]

/-- A packet of no group of this module, of a group still being installed, or of another epoch is counted and dropped. -/
theorem placed_stale {s : State} {p : Nat} {pkt : Packet}
    (hm : idPort pkt.h.src ≤ 103 → isEdge p = true ∧ sourceOk s p pkt.h.src = true)
    (h : groupOf s (hGroup pkt.h) = none ∨ installing s (hGroup pkt.h) = true ∨
      ∃ g, groupOf s (hGroup pkt.h) = some g ∧ g.epoch ≠ 0 ∧ hEpoch pkt.h ≠ g.epoch)
    (ok : Group → Bool) (opens : Bool) (f : State → Nat → Group → State) :
    placed (takeInbox s p pkt) p pkt ok opens f = bump (takeInbox s p pkt) eCollStaleDiscardCount := by
  have c1 : (decide (idPort pkt.h.src ≤ 103) && !(isEdge p && sourceOk (takeInbox s p pkt) p pkt.h.src)) = false := by
    by_cases c : idPort pkt.h.src ≤ 103
    · obtain ⟨a, b⟩ := hm c
      have b' : sourceOk (takeInbox s p pkt) p pkt.h.src = true := (sourceOk_takeInbox _ _ _ _ _).trans b
      rw [a, b']
      simp
    · simp [c]
  have gs : groupOf (takeInbox s p pkt) (hGroup pkt.h) = groupOf s (hGroup pkt.h) := groupOf_takeInbox _ _ _ _
  have is : installing (takeInbox s p pkt) (hGroup pkt.h) = installing s (hGroup pkt.h) := installing_takeInbox _ _ _ _
  unfold placed
  dsimp only
  rw [c1]
  simp only [Bool.false_eq_true, ↓reduceIte, gs, is]
  cases hg : groupOf s (hGroup pkt.h) with
  | none => rfl
  | some g =>
    rcases h with h | h | ⟨g', e, h1, h2⟩
    · rw [h] at hg
      cases hg
    · simp [h, staleDiscard]
    · rw [e] at hg
      cases hg
      dsimp only
      have ad : adoptEpoch (takeInbox s p pkt) (hGroup pkt.h) (hEpoch pkt.h) = takeInbox s p pkt := by
        simp only [adoptEpoch, gs, e, if_neg h1]
      rw [ad]
      split
      · rfl
      · rw [if_pos (by simp [h1, h2])]
        rfl

end Sys2Proof.Machine
end

