-- ==== Sys2Proof/Laws/Events.lean ====
section
/-! SUPPORT. What raising an event and raising a fault can do, once: what changes, and that nothing else does. -/
namespace Sys2Proof.Machine

theorem eventsOnly_refl (s : State) : EventsOnly s s := ⟨rfl, fun _ _ => rfl⟩

theorem eventsOnly_trans {s t u : State} (h : EventsOnly s t) (k : EventsOnly t u) : EventsOnly s u := by
  refine ⟨?_, fun a ha => (k.2 a ha).trans (h.2 a ha)⟩
  rw [k.1, h.1]

theorem faultsOnly_refl (s : State) : FaultsOnly s s := ⟨rfl, fun _ _ => rfl⟩

theorem faultsOnly_trans {s t u : State} (h : FaultsOnly s t) (k : FaultsOnly t u) : FaultsOnly s u := by
  refine ⟨?_, fun a ha => (k.2 a ha).trans (h.2 a ha)⟩
  rw [k.1, h.1]

theorem faultsOnly_of_events {s t : State} (h : EventsOnly s t) : FaultsOnly s t := by
  refine ⟨?_, fun a ha => h.2 a fun e => ha (List.mem_append_right _ e)⟩
  rw [h.1]

/-- A counter of lost events counts. -/
theorem bump_eventsOnly (s : State) {a : Nat} (h : a ∈ eventCounters) : EventsOnly s (bump s a) := by
  refine ⟨rfl, fun b hb => ?_⟩
  have : b ≠ a := fun e => hb (e ▸ h)
  exact Tab.find_set_other _ _ this

theorem setSession_eventsOnly (s : State) (x : Session) : EventsOnly s (setSession s x) := ⟨rfl, fun _ _ => rfl⟩
theorem emit_eventsOnly (s : State) (o : Out) : EventsOnly s (emit s o) := ⟨rfl, fun _ _ => rfl⟩

theorem sendEvents_eventsOnly (s : State) (x : Session) (l : List (BitVec 1024)) : EventsOnly s (sendEvents s x l) := ⟨rfl, fun _ _ => rfl⟩

theorem eventToSession_eventsOnly (s : State) (code seq : Nat) (er : BitVec 1024) (id : Nat) :
    EventsOnly s (eventToSession s code seq er id) := by
  unfold eventToSession
  split
  · exact eventsOnly_refl s
  · split
    · exact eventsOnly_refl s
    · split
      · exact eventsOnly_trans (setSession_eventsOnly _ _) (bump_eventsOnly _ (by simp [eventCounters]))
      · exact eventsOnly_trans (setSession_eventsOnly _ _) (sendEvents_eventsOnly _ _ _)

theorem foldl_eventsOnly {α : Type} {f : State → α → State} (hf : ∀ s a, EventsOnly s (f s a)) (l : List α) (s : State) :
    EventsOnly s (l.foldl f s) := by
  induction l generalizing s with
  | nil => exact eventsOnly_refl s
  | cons a t ih => exact eventsOnly_trans (hf s a) (ih _)

theorem deferMsix_eventsOnly (s : State) (v : Nat) : EventsOnly s (deferMsix s v) := by
  unfold deferMsix
  split
  · exact eventsOnly_refl s
  · exact ⟨rfl, fun _ _ => rfl⟩

theorem eventToHost_eventsOnly (s : State) (code : Nat) (er : BitVec 1024) : EventsOnly s (eventToHost s code er) := by
  unfold eventToHost
  split
  · exact eventsOnly_refl s
  · dsimp only
    split
    · refine eventsOnly_trans (t := { s with host := { s.host with eventLost := s.host.eventLost + 1 } }) ⟨rfl, fun _ _ => rfl⟩ ?_
      exact bump_eventsOnly _ (by simp [eventCounters])
    · split
      · exact ⟨rfl, fun _ _ => rfl⟩
      · exact eventsOnly_trans (t := { emit s _ with host := { s.host with eqTail := _ } }) ⟨rfl, fun _ _ => rfl⟩
          (deferMsix_eventsOnly _ _)

/-- Raising an event changes nothing but the sinks' queues and rings. -/
theorem raiseEvent_eventsOnly (s : State) (code : Nat) (data : List Byte) : EventsOnly s (raiseEvent s code data) := by
  unfold raiseEvent
  dsimp only
  refine eventsOnly_trans ?_ (eventToHost_eventsOnly _ _ _)
  refine eventsOnly_trans ?_ (foldl_eventsOnly (fun s id => eventToSession_eventsOnly s _ _ _ id) _ _)
  exact ⟨rfl, fun _ _ => rfl⟩

theorem eventToSession_seq (s : State) (code seq : Nat) (er : BitVec 1024) (id : Nat) :
    (eventToSession s code seq er id).mgmt.eventSeq = s.mgmt.eventSeq := by
  unfold eventToSession
  split
  · rfl
  · split
    · rfl
    · split <;> rfl

theorem eventToHost_seq (s : State) (code : Nat) (er : BitVec 1024) : (eventToHost s code er).mgmt.eventSeq = s.mgmt.eventSeq := by
  unfold eventToHost deferMsix
  split
  · rfl
  · dsimp only
    split
    · rfl
    · split
      · rfl
      · split <;> rfl

/-- Every event takes the next number (R406). -/
theorem raiseEvent_seq (s : State) (code : Nat) (data : List Byte) : (raiseEvent s code data).mgmt.eventSeq = s.mgmt.eventSeq + 1 := by
  unfold raiseEvent
  dsimp only
  rw [eventToHost_seq]
  have : ∀ (l : List Nat) (er : BitVec 1024) (n : Nat) (w : State),
      (l.foldl (fun s id => eventToSession s code n er id) w).mgmt.eventSeq = w.mgmt.eventSeq := by
    intro l er n
    induction l with
    | nil => intro w; rfl
    | cons a t ih => intro w; rw [List.foldl_cons, ih, eventToSession_seq]
  rw [this]

/-- Raising an event keeps the error log, the freeze and the pins. -/
theorem raiseEvent_faults (s : State) (code : Nat) (data : List Byte) : (raiseEvent s code data).faults = s.faults := by
  rw [(raiseEvent_eventsOnly s code data).1]
theorem raiseEvent_pins (s : State) (code : Nat) (data : List Byte) : (raiseEvent s code data).pins = s.pins := by
  rw [(raiseEvent_eventsOnly s code data).1]

/-! Faults. -/

theorem bump_faultsOnly (s : State) {a : Nat} (n k : Nat) (h : a ∈ faultCounters) : FaultsOnly s (bumpBy n s a k) := by
  refine ⟨rfl, fun b hb => ?_⟩
  have : b ≠ a := fun e => hb (e ▸ h)
  exact Tab.find_set_other _ _ this

theorem reportRecord_faultsOnly (s : State) (r : Record) : FaultsOnly s (reportRecord s r) := by
  unfold reportRecord
  dsimp only
  split
  · exact faultsOnly_of_events (raiseEvent_eventsOnly _ _ _)
  · exact faultsOnly_trans (bump_faultsOnly s 4 1 (by simp [faultCounters])) (faultsOnly_of_events (raiseEvent_eventsOnly _ _ _))

theorem reportRecord_faults (s : State) (r : Record) : (reportRecord s r).faults = s.faults := by
  unfold reportRecord
  dsimp only
  rw [raiseEvent_faults]
  split <;> rfl

theorem mergeRecord_faultsOnly (s : State) (r : Record) (code : Nat) : FaultsOnly s (mergeRecord s r code) := by
  unfold mergeRecord
  dsimp only
  have h : ∀ x, FaultsOnly s (setRecord s x) := fun x => ⟨rfl, fun _ _ => rfl⟩
  split
  · exact faultsOnly_trans (h _) (reportRecord_faultsOnly _ _)
  · exact h _

theorem logSet_faultsOnly (s : State) (l : List Record) : FaultsOnly s { s with faults := { s.faults with records := l } } :=
  ⟨rfl, fun _ _ => rfl⟩
theorem fatalSet_faultsOnly (s : State) (f : Option Nat) : FaultsOnly s { s with faults := { s.faults with fatal := f } } :=
  ⟨rfl, fun _ _ => rfl⟩

theorem openRecord_faultsOnly (s : State) (code kind index : Nat) (context : Word) : FaultsOnly s (openRecord s code kind index context) := by
  unfold openRecord
  dsimp only
  refine faultsOnly_trans ?_ (reportRecord_faultsOnly _ _)
  exact faultsOnly_trans (logSet_faultsOnly s _) (bump_faultsOnly _ 4 1 (by simp [faultCounters]))

theorem safeIdle_faultsOnly (s : State) : FaultsOnly s (safeIdle s) := ⟨rfl, fun _ _ => rfl⟩

/-- Raising a fault changes nothing but the error log, its counters, the freeze, and the report's events. -/
theorem raiseFault_faultsOnly (s : State) (code kind index : Nat) (context : Word) : FaultsOnly s (raiseFault s code kind index context) := by
  unfold raiseFault
  dsimp only
  have hc : FaultsOnly s (bump64 s (eFaultClassCount (faultClass code)) 1) := by
    refine bump_faultsOnly s 8 1 ?_
    unfold faultClass
    split
    · simp [faultCounters]
    · split <;> simp [faultCounters]
  have hr : ∀ w o, FaultsOnly w (match (o : Option Record) with
      | some r => mergeRecord w r code
      | none => openRecord w code kind index context) := by
    intro w o
    cases o
    · exact openRecord_faultsOnly _ _ _ _ _
    · exact mergeRecord_faultsOnly _ _ _
  have hw := faultsOnly_trans hc (hr _ (openFor (bump64 s (eFaultClassCount (faultClass code)) 1) kind index))
  split
  · exact faultsOnly_trans hw (faultsOnly_trans (fatalSet_faultsOnly _ _) (safeIdle_faultsOnly _))
  · exact hw

/-- A FATAL fault freezes the module (R366, R367). -/
theorem raiseFault_fatal (s : State) {code : Nat} (kind index : Nat) (context : Word) (h : 32 ≤ code) :
    (raiseFault s code kind index context).faults.frozen = true ∧ (raiseFault s code kind index context).pins.ready = false ∧
    (raiseFault s code kind index context).pins.fltP = false ∧ (raiseFault s code kind index context).pins.fltN = true := by
  have hc : faultClass code = 2 := by unfold faultClass; rw [if_neg (by omega), if_neg (by omega)]
  unfold raiseFault safeIdle
  dsimp only
  rw [if_pos hc]
  exact ⟨rfl, rfl, rfl, rfl⟩

/-- After a fault, an open record shows its code (R368, R370). -/
theorem raiseFault_record (s : State) (code kind index : Nat) (context : Word) :
    ∃ r ∈ (raiseFault s code kind index context).faults.records,
      r.opened = true ∧ r.lastCode = code ∧ r.causes = r.causes ||| BitVec.ofNat 64 (2 ^ code) ∧ r.lastFc = fcNow s := by
  have hrec : ∀ w : State, w.faults = s.faults → fcNow w = fcNow s →
      ∃ r ∈ (match openFor w kind index with
        | some r => mergeRecord w r code
        | none => openRecord w code kind index context).faults.records,
      r.opened = true ∧ r.lastCode = code ∧ r.causes = r.causes ||| BitVec.ofNat 64 (2 ^ code) ∧ r.lastFc = fcNow s := by
    intro w hw hn
    cases ho : openFor w kind index with
    | some r =>
      have hm : r ∈ w.faults.records ∧ r.opened = true := by
        unfold openFor at ho
        split at ho
        · rename_i x hx
          cases ho
          refine ⟨List.mem_of_find?_eq_some hx, ?_⟩
          have := List.find?_some hx
          simp at this; exact this.1
        · refine ⟨List.mem_of_find?_eq_some ho, ?_⟩
          have := List.find?_some ho
          simp at this; exact this.1.1
      unfold mergeRecord
      dsimp only
      have hs : ∀ x : Record, x.id = r.id → x ∈ (setRecord w x).faults.records := by
        intro x hx
        exact List.mem_map.mpr ⟨r, hm.1, by simp [hx]⟩
      split
      · rw [reportRecord_faults]
        exact ⟨_, hs _ rfl, hm.2, rfl, by dsimp only; rw [BitVec.or_assoc, BitVec.or_self], hn⟩
      · exact ⟨_, hs _ rfl, hm.2, rfl, by dsimp only; rw [BitVec.or_assoc, BitVec.or_self], hn⟩
    | none =>
      unfold openRecord
      dsimp only
      rw [reportRecord_faults]
      have hm : ∀ (l : List Record) (r : Record), r ∈ (l ++ [r]).drop ((l ++ [r]).length - 1024) := by
        intro l r
        rw [List.drop_append_of_le_length (by rw [List.length_append, List.length_singleton]; omega)]
        exact List.mem_append_right _ (List.mem_singleton.mpr rfl)
      dsimp only [bump, bumpBy, wr]
      with_reducible refine ⟨_, hm _ _, ?_⟩
      exact ⟨rfl, rfl, (BitVec.or_self).symm, hn⟩
  have hk := hrec (bump64 s (eFaultClassCount (faultClass code)) 1) rfl rfl
  unfold raiseFault
  dsimp only
  split
  · exact hk
  · exact hk

/-- A fault that is not FATAL leaves the freeze and the pins as they were. -/
theorem raiseFault_contained (s : State) {code : Nat} (kind index : Nat) (context : Word) (h : code < 32) :
    (raiseFault s code kind index context).faults.frozen = s.faults.frozen ∧ (raiseFault s code kind index context).pins = s.pins := by
  have hc : faultClass code ≠ 2 := by
    unfold faultClass
    rw [if_pos h]
    split <;> decide
  have hm : ∀ (w : State) r, (mergeRecord w r code).faults.frozen = w.faults.frozen ∧ (mergeRecord w r code).pins = w.pins := by
    intro w r
    unfold mergeRecord reportRecord
    dsimp only
    split
    · rw [raiseEvent_faults, raiseEvent_pins]; split <;> exact ⟨rfl, rfl⟩
    · exact ⟨rfl, rfl⟩
  have ho : ∀ w : State, (openRecord w code kind index context).faults.frozen = w.faults.frozen ∧
      (openRecord w code kind index context).pins = w.pins := by
    intro w
    unfold openRecord reportRecord
    dsimp only
    rw [raiseEvent_faults, raiseEvent_pins]
    split <;> (dsimp only [bump, bumpBy, wr]; with_reducible exact ⟨rfl, rfl⟩)
  have hall : ∀ (w : State) (o : Option Record),
      (match o with | some r => mergeRecord w r code | none => openRecord w code kind index context).faults.frozen = w.faults.frozen ∧
      (match o with | some r => mergeRecord w r code | none => openRecord w code kind index context).pins = w.pins := by
    intro w o
    cases o with
    | some r => exact hm w r
    | none => exact ho w
  have h1 := hall (bump64 s (eFaultClassCount (faultClass code)) 1) (openFor (bump64 s (eFaultClassCount (faultClass code)) 1) kind index)
  unfold raiseFault
  dsimp only
  rw [if_neg hc]
  exact h1

/-- A fault that is not FATAL, in the words of the statements. -/
theorem raiseFault_raised (s : State) {code : Nat} (kind index : Nat) (context : Word) (h : code < 32) :
    FaultRaised s code (raiseFault s code kind index context) := by
  obtain ⟨r, hr, h1, h2, _, h4⟩ := raiseFault_record s code kind index context
  have a := raiseFault_contained s kind index context h
  exact ⟨raiseFault_faultsOnly _ _ _ _ _, a.1, a.2, r, hr, h1, h2, h4⟩

/-- A FATAL fault, in the words of the statements. -/
theorem raiseFault_fatalRaised (s : State) {code : Nat} (kind index : Nat) (context : Word) (h : 32 ≤ code) :
    FatalRaised s code (raiseFault s code kind index context) := by
  obtain ⟨r, hr, h1, h2, _, h4⟩ := raiseFault_record s code kind index context
  have a := raiseFault_fatal s kind index context h
  exact ⟨raiseFault_faultsOnly _ _ _ _ _, a.1, a.2.1, a.2.2.1, a.2.2.2, r, hr, h1, h2, h4⟩

/-! One entry after another. -/

theorem entriesOnly_refl (l : List Nat) (s : State) : EntriesOnly l s s := ⟨rfl, fun _ _ => rfl⟩

theorem entriesOnly_trans {l : List Nat} {s t u : State} (h : EntriesOnly l s t) (k : EntriesOnly l t u) : EntriesOnly l s u := by
  refine ⟨?_, fun a ha => (k.2 a ha).trans (h.2 a ha)⟩
  rw [k.1, h.1]

theorem entriesOnly_wr {l : List Nat} {s t : State} (h : EntriesOnly l s t) {a : Nat} (v : Nat) (ha : a ∈ l) : EntriesOnly l s (wr t a v) :=
  entriesOnly_trans h ⟨rfl, fun _ hb => Tab.find_set_other _ _ (fun e => hb (e ▸ ha))⟩

theorem entriesOnly_bumpBy {l : List Nat} {s t : State} (h : EntriesOnly l s t) {a : Nat} (n k : Nat) (ha : a ∈ l) :
    EntriesOnly l s (bumpBy n t a k) := entriesOnly_wr h _ ha

end Sys2Proof.Machine
end

