-- ==== Sys2Proof/Laws/Memory.lean ====
section
/-! SUPPORT. The laws of the addressed memories: every write keeps the canonical form, a read after a write of the same bytes gives
them, and a write leaves every other byte alone. -/
namespace Sys2Proof.Machine

/-- The addresses of a memory rise strictly and none of its cells is 0: the canonical form as a proposition about pairs. -/
theorem Memory.wf_iff (m : Memory) :
    m.wf = true ↔ m.Pairwise (fun a b => a.1 < b.1) ∧ ∀ c ∈ m, c.2 ≠ 0 := by
  have hr : ∀ l : Memory, l.rising = true ↔ l.IsChain (fun a b => a.1 < b.1) := by
    intro l
    induction l with
    | nil => simp [Memory.rising]
    | cons a t ih =>
      cases t with
      | nil => simp [Memory.rising]
      | cons b t => simp [Memory.rising, ih, List.isChain_cons_cons]
  have : IsTrans Host.Cell (fun a b => a.1 < b.1) := ⟨fun _ _ _ h k => Nat.lt_trans h k⟩
  simp [Memory.wf, hr, List.isChain_iff_pairwise]

/-- No cell is the canonical form. -/
theorem Memory.wf_nil : Memory.wf [] = true := rfl

/-- Cells taken away leave the canonical form. -/
theorem Memory.wf_filter {m : Memory} (h : m.wf = true) (f : Host.Cell → Bool) : Memory.wf (m.filter f) = true := by
  rw [Memory.wf_iff] at h ⊢
  exact ⟨h.1.filter f, fun c hc => h.2 c (List.mem_filter.mp hc).1⟩

/-- The cells written lie within the bytes written, and none is 0. -/
theorem Memory.mem_cells {a : Nat} {b : List Byte} {c : Host.Cell} (h : c ∈ Memory.cells a b) :
    a ≤ c.1 ∧ c.1 < a + b.length ∧ c.2 ≠ 0 := by
  induction b generalizing a with
  | nil => simp [Memory.cells] at h
  | cons x t ih =>
    simp only [Memory.cells] at h
    split at h
    · have k := ih h; simp only [List.length_cons]; exact ⟨by omega, by omega, k.2.2⟩
    · rcases List.mem_cons.mp h with rfl | h
      · simp only [List.length_cons]; exact ⟨le_refl _, by omega, by assumption⟩
      · have k := ih h; simp only [List.length_cons]; exact ⟨by omega, by omega, k.2.2⟩

/-- The cells written rise. -/
theorem Memory.cells_rise (a : Nat) (b : List Byte) : (Memory.cells a b).Pairwise (fun x y => x.1 < y.1) := by
  induction b generalizing a with
  | nil => simp [Memory.cells]
  | cons x t ih =>
    simp only [Memory.cells]
    split
    · exact ih _
    · exact List.pairwise_cons.mpr ⟨fun y hy => by have := (Memory.mem_cells hy).1; simp only; omega, ih _⟩

/-- A write keeps the canonical form. -/
theorem Memory.wf_write {m : Memory} (h : m.wf = true) (a : Nat) (b : List Byte) : Memory.wf (m.write a b) = true := by
  rw [Memory.wf_iff] at h ⊢
  unfold Memory.write
  constructor
  · refine List.pairwise_append.mpr ⟨List.pairwise_append.mpr ⟨h.1.filter _, Memory.cells_rise a b, ?_⟩, h.1.filter _, ?_⟩
    · intro x hx y hy
      have := (Memory.mem_cells hy).1
      have := (List.mem_filter.mp hx).2
      simp at this; omega
    · intro x hx y hy
      have hy := (List.mem_filter.mp hy).2
      simp at hy
      rcases List.mem_append.mp hx with hx | hx
      · have := (List.mem_filter.mp hx).2; simp at this; omega
      · have := (Memory.mem_cells hx).2.1; omega
  · intro c hc
    rcases List.mem_append.mp hc with hc | hc
    · rcases List.mem_append.mp hc with hc | hc
      · exact h.2 c (List.mem_filter.mp hc).1
      · exact (Memory.mem_cells hc).2.2
    · exact h.2 c (List.mem_filter.mp hc).1

/-- A byte of a joined memory: the first part's, where it lists the address. -/
theorem Memory.get_append_of_not_mem {l r : Memory} {a : Nat} (h : ∀ c ∈ l, c.1 ≠ a) : Memory.get (l ++ r) a = Memory.get r a := by
  induction l with
  | nil => rfl
  | cons c t ih =>
    have hc : c.1 ≠ a := h c (by simp)
    simp [Memory.get, hc, ih fun d hd => h d (by simp [hd])]

/-- An address that no cell lists reads 0. -/
theorem Memory.get_of_not_mem {l : Memory} {a : Nat} (h : ∀ c ∈ l, c.1 ≠ a) : Memory.get l a = 0 := by
  have := Memory.get_append_of_not_mem (r := []) h
  simpa [Memory.get] using this

/-- Taking away cells of other addresses changes no read. -/
theorem Memory.get_filter {m : Memory} {f : Host.Cell → Bool} {a : Nat} (h : ∀ v, f (a, v) = true) :
    Memory.get (m.filter f) a = Memory.get m a := by
  induction m with
  | nil => rfl
  | cons c t ih =>
    obtain ⟨k, v⟩ := c
    by_cases hk : k = a
    · subst hk; simp [List.filter, h v, Memory.get]
    · by_cases hf : f (k, v) = true
      · simp [List.filter, hf, Memory.get, hk, ih]
      · simp [List.filter, hf, Memory.get, hk, ih]

/-- The cells written read as the bytes. -/
theorem Memory.get_cells (a : Nat) (b : List Byte) (r : Memory) (i : Nat) (hi : i < b.length) (hr : ∀ c ∈ r, c.1 ≠ a + i) :
    Memory.get (Memory.cells a b ++ r) (a + i) = b[i] := by
  induction b generalizing a i with
  | nil => simp at hi
  | cons x t ih =>
    cases i with
    | zero =>
      simp only [Memory.cells]
      split
      · rename_i hx
        simp only [Nat.add_zero, List.getElem_cons_zero, hx]
        refine Memory.get_of_not_mem ?_
        intro c hc
        rcases List.mem_append.mp hc with hc | hc
        · have := (Memory.mem_cells hc).1; omega
        · have := hr c hc; omega
      · simp [Memory.get]
    | succ i =>
      have e : a + (i + 1) = (a + 1) + i := by omega
      simp only [List.length_cons] at hi
      have ih' := ih (a + 1) i (by omega) (fun c hc => by have := hr c hc; omega)
      simp only [Memory.cells]
      split
      · rw [e]; simpa using ih'
      · rw [e]
        have : a ≠ a + 1 + i := by omega
        simp only [List.cons_append, Memory.get, this, if_false]
        simpa using ih'

/-- A byte written reads as written. -/
theorem Memory.get_write_inside (m : Memory) (a : Nat) (b : List Byte) (i : Nat) (hi : i < b.length) :
    Memory.get (m.write a b) (a + i) = b[i] := by
  unfold Memory.write
  rw [List.append_assoc, Memory.get_append_of_not_mem]
  · refine Memory.get_cells a b _ i hi ?_
    intro c hc
    have := (List.mem_filter.mp hc).2
    simp at this; omega
  · intro c hc
    have := (List.mem_filter.mp hc).2
    simp at this; omega

/-- A write leaves every byte outside it alone. -/
theorem Memory.get_write_outside (m : Memory) (a : Nat) (b : List Byte) (x : Nat) (hx : x < a ∨ a + b.length ≤ x) :
    Memory.get (m.write a b) x = Memory.get m x := by
  unfold Memory.write
  rcases hx with hx | hx
  · have h1 : ∀ l : Memory, Memory.get (l.filter fun c => c.1 < a) x = Memory.get l x :=
      fun l => Memory.get_filter (by simp [hx])
    rw [List.append_assoc, ← h1 m]
    generalize hl : m.filter (fun c => c.1 < a) = l
    have : ∀ c ∈ Memory.cells a b ++ m.filter (fun c => a + b.length ≤ c.1), c.1 ≠ x := by
      intro c hc
      rcases List.mem_append.mp hc with hc | hc
      · have := (Memory.mem_cells hc).1; omega
      · have := (List.mem_filter.mp hc).2; simp at this; omega
    generalize Memory.cells a b ++ m.filter (fun c => a + b.length ≤ c.1) = r at this
    clear hl
    induction l with
    | nil => simp [Memory.get_of_not_mem this, Memory.get]
    | cons c t ih => simp [Memory.get, ih]
  · rw [Memory.get_append_of_not_mem, Memory.get_filter (by simp [hx])]
    intro c hc
    rcases List.mem_append.mp hc with hc | hc
    · have := (List.mem_filter.mp hc).2; simp at this; omega
    · have := (Memory.mem_cells hc).2.1; omega

/-- A read is the bytes at its addresses. -/
theorem Memory.read_eq (m : Memory) (a n : Nat) : Memory.read m a n = (List.range n).map fun i => Memory.get m (a + i) := by
  unfold Memory.read
  refine List.map_congr_left ?_
  intro i hi
  exact Memory.get_filter (by simp at hi; simp [hi])

/-- A read of what was just written gives it back. -/
theorem Memory.read_write_same (m : Memory) (a : Nat) (b : List Byte) : Memory.read (m.write a b) a b.length = b := by
  rw [Memory.read_eq]
  refine List.ext_getElem (by simp) ?_
  intro i h1 h2
  simp only [List.getElem_map, List.getElem_range]
  exact Memory.get_write_inside m a b i h2

/-- A read of other bytes gives what it gave before. -/
theorem Memory.read_write_apart (m : Memory) (a : Nat) (b : List Byte) (x n : Nat) (h : x + n ≤ a ∨ a + b.length ≤ x) :
    Memory.read (m.write a b) x n = Memory.read m x n := by
  rw [Memory.read_eq, Memory.read_eq]
  refine List.map_congr_left ?_
  intro i hi
  simp at hi
  exact Memory.get_write_outside m a b (x + i) (by omega)

end Sys2Proof.Machine
end

