-- ==== Sys2Proof/Laws/Keeps.lean ====
section
/-! SUPPORT. What every operation of the model keeps: the queue of waiting commands, the canonical form of both memories, the
freeze and what it shows, the bounds of the error log and the session table, valid torus sizes, the OTP's direction, and the
fabric cycle counter with the boot step. -/
namespace Sys2Proof.Machine

/-- What a run of operations is held to: the queue, whether a freeze must last, the rollback number and the revoked
keys so far, and the cycle and boot step, where they must stand. -/
structure Kept where
  pending : List Instr
  frozen : Bool
  rollback : Nat
  revoked : BitVec 4
  clock : Option (Nat × Boot)

/-- The parts of a state, against what it is held to. -/
structure KeepsParts (κ : Kept) (pending : List Instr) (vat cellar : Memory) (frozen ready fltP fltN : Bool) (records : List Record)
    (sessions : List Session) (rollback : Nat) (revoked : BitVec 4) (sizes committed : Option (Nat × Nat × Nat))
    (now : Nat) (boot : Boot) : Prop where
  queue : pending = κ.pending
  vatWf : Memory.wf vat = true
  cellarWf : Memory.wf cellar = true
  lasts : κ.frozen = true → frozen = true
  shows : frozen = true → ready = false ∧ fltP = false ∧ fltN = true
  logSize : records.length ≤ 1024
  sessionCount : sessions.length ≤ 8
  rises : κ.rollback ≤ rollback
  stays : κ.revoked &&& revoked = κ.revoked
  sizesOk : ∀ z, sizes = some z → sizesValid z = true
  committedOk : ∀ z, committed = some z → sizesValid z = true
  stands : ∀ c, κ.clock = some c → now = c.1 ∧ boot = c.2

/-- A state keeps what it is held to. -/
def Keeps (κ : Kept) (s : State) : Prop :=
  KeepsParts κ s.pending s.vat.mem s.cellar.mem s.faults.frozen s.pins.ready s.pins.fltP s.pins.fltN s.faults.records s.mgmt.sessions
    s.fw.rollback s.fw.revokedFirmware s.topo.sizes s.topo.committed s.now s.boot

variable {κ : Kept} {s : State}

theorem keeps_parts (h : Keeps κ s) :
    KeepsParts κ s.pending s.vat.mem s.cellar.mem s.faults.frozen s.pins.ready s.pins.fltP s.pins.fltN s.faults.records s.mgmt.sessions
      s.fw.rollback s.fw.revokedFirmware s.topo.sizes s.topo.committed s.now s.boot := h

theorem keeps_of_parts {t : State}
    (h : KeepsParts κ t.pending t.vat.mem t.cellar.mem t.faults.frozen t.pins.ready t.pins.fltP t.pins.fltN t.faults.records
      t.mgmt.sessions t.fw.rollback t.fw.revokedFirmware t.topo.sizes t.topo.committed t.now t.boot) : Keeps κ t := h

/-- Vat bytes written. -/
theorem keepsParts_vat (h : Keeps κ s) (a : Nat) (b : List Byte) :
    KeepsParts κ s.pending (Memory.write s.vat.mem a b) s.cellar.mem s.faults.frozen s.pins.ready s.pins.fltP s.pins.fltN
      s.faults.records s.mgmt.sessions s.fw.rollback s.fw.revokedFirmware s.topo.sizes s.topo.committed s.now s.boot :=
  { h with vatWf := Memory.wf_write h.vatWf a b }

/-- Cellar bytes written. -/
theorem keepsParts_cellar (h : Keeps κ s) (a : Nat) (b : List Byte) :
    KeepsParts κ s.pending s.vat.mem (Memory.write s.cellar.mem a b) s.faults.frozen s.pins.ready s.pins.fltP s.pins.fltN
      s.faults.records s.mgmt.sessions s.fw.rollback s.fw.revokedFirmware s.topo.sizes s.topo.committed s.now s.boot :=
  { h with cellarWf := Memory.wf_write h.cellarWf a b }

/-- Vat cells removed. -/
theorem keepsParts_vatFilter (h : Keeps κ s) (f : Host.Cell → Bool) :
    KeepsParts κ s.pending (s.vat.mem.filter f) s.cellar.mem s.faults.frozen s.pins.ready s.pins.fltP s.pins.fltN
      s.faults.records s.mgmt.sessions s.fw.rollback s.fw.revokedFirmware s.topo.sizes s.topo.committed s.now s.boot :=
  { h with vatWf := Memory.wf_filter h.vatWf f }

/-- Another cycle or boot step, where nothing holds them. -/
theorem keepsParts_clock (h : Keeps κ s) (n : Nat) (b : Boot) (hc : κ.clock = none) :
    KeepsParts κ s.pending s.vat.mem s.cellar.mem s.faults.frozen s.pins.ready s.pins.fltP s.pins.fltN s.faults.records
      s.mgmt.sessions s.fw.rollback s.fw.revokedFirmware s.topo.sizes s.topo.committed n b :=
  { h with stands := fun c e => by rw [hc] at e; cases e }

/-- The error log replaced by one that holds its size. -/
theorem keepsParts_log (h : Keeps κ s) (rs : List Record) (hl : rs.length ≤ 1024) :
    KeepsParts κ s.pending s.vat.mem s.cellar.mem s.faults.frozen s.pins.ready s.pins.fltP s.pins.fltN rs s.mgmt.sessions
      s.fw.rollback s.fw.revokedFirmware s.topo.sizes s.topo.committed s.now s.boot :=
  { h with logSize := hl }

/-- The session table replaced by one that holds its size. -/
theorem keepsParts_sessions (h : Keeps κ s) (xs : List Session) (hl : xs.length ≤ 8) :
    KeepsParts κ s.pending s.vat.mem s.cellar.mem s.faults.frozen s.pins.ready s.pins.fltP s.pins.fltN s.faults.records xs
      s.fw.rollback s.fw.revokedFirmware s.topo.sizes s.topo.committed s.now s.boot :=
  { h with sessionCount := hl }

/-- The last records of a log. -/
theorem length_drop_log (rs : List Record) (n : Nat) : (rs.drop (rs.length - n)).length ≤ n := by
  rw [List.length_drop]
  omega

/-- A choice between two states that are kept. -/
theorem keeps_ite {c : Prop} [Decidable c] {a b : State} (ha : Keeps κ a) (hb : Keeps κ b) : Keeps κ (if c then a else b) := by
  split
  · exact ha
  · exact hb

theorem keeps_id (h : Keeps κ s) : Keeps κ (id s) := h

/-- An answer that a failed test withholds. -/
theorem eq_of_ite_none {α : Type} {c : Prop} [Decidable c] {x w : α} (h : (if c then none else some x) = some w) : x = w := by
  split at h
  · cases h
  · exact Option.some.inj h

/-- An answer of two that are kept. -/
theorem keeps_of_ite_some {c : Prop} [Decidable c] {a b : Option State} {w : State} (ha : ∀ w, a = some w → Keeps κ w)
    (hb : ∀ w, b = some w → Keeps κ w) (h : (if c then a else b) = some w) : Keeps κ w := by
  split at h
  · exact ha w h
  · exact hb w h

/-- A run over a list keeps what each of its rounds keeps. -/
theorem keeps_foldl {α : Type} {f : State → α → State} (hf : ∀ s, Keeps κ s → ∀ a, Keeps κ (f s a)) (h : Keeps κ s) (l : List α) :
    Keeps κ (l.foldl f s) := by
  induction l generalizing s with
  | nil => exact h
  | cons a t ih => exact ih (hf s h a)

/-- The same for a run that carries a second result. -/
theorem keeps_foldlFst {α β : Type} {f : State × β → α → State × β} (hf : ∀ s, Keeps κ s → ∀ b a, Keeps κ (f (s, b) a).1)
    {x : State × β} (h : Keeps κ x.1) (l : List α) : Keeps κ (l.foldl f x).1 := by
  induction l generalizing x with
  | nil => exact h
  | cons a t ih => exact ih (hf x.1 h x.2 a)

/-- A next state, where the outcome is one, is kept. -/
def KeepsOut (κ : Kept) (o : Out1) : Prop := ∀ t, o = .next t → Keeps κ t

theorem keepsOut_next (h : Keeps κ s) : KeepsOut κ (.next s) := by rintro t ⟨⟩; exact h

theorem keepsOut_onUnit {ok : Bool} (h : Keeps κ s) : KeepsOut κ (onUnit ok s) := by
  unfold onUnit
  split
  · exact keepsOut_next h
  · rintro t ⟨⟩

end Sys2Proof.Machine
end

