-- ==== Sys2Proof/Laws/KeepsBase.lean ====
section
/-! SUPPORT. What the shared operations, the network, the Vat and Proof's queue keep: the queue and both memories' canonical form, one lemma per operation. -/
namespace Sys2Proof.Machine

variable {κ : Kept}

theorem keeps_wr (s : State) (a v : Nat) (hκ : Keeps κ s) : Keeps κ (wr s a v) := by
  unfold wr
  repeat' (first | with_reducible assumption | intro _ | split | dsimp only | (refine keeps_of_parts ?_; dsimp only; with_reducible (first | refine keeps_parts ?_ | refine keepsParts_vat ?_ _ _ | refine keepsParts_cellar ?_ _ _ | refine keepsParts_vatFilter ?_ _)))

theorem keeps_bumpBy (bytes : Nat) (s : State) (a n : Nat) (hκ : Keeps κ s) : Keeps κ (bumpBy bytes s a n) := by
  unfold bumpBy
  repeat' (first | with_reducible assumption | intro _ | with_reducible apply keeps_wr)

theorem keeps_bump (s : State) (a : Nat) (hκ : Keeps κ s) : Keeps κ (bump s a) := by
  unfold bump
  repeat' (first | with_reducible assumption | intro _ | with_reducible apply keeps_bumpBy)

theorem keeps_bump64 (s : State) (a n : Nat) (hκ : Keeps κ s) : Keeps κ (bump64 s a n) := by
  unfold bump64
  repeat' (first | with_reducible assumption | intro _ | with_reducible apply keeps_bumpBy)

theorem keeps_timingChoice (s : State) (hκ : Keeps κ s) : Keeps κ (timingChoice s) := by
  unfold timingChoice
  repeat' (first | with_reducible assumption | intro _ | with_reducible apply keeps_bump64)

theorem keeps_setBlob (s : State) (a : Nat) (v : List Byte) (hκ : Keeps κ s) : Keeps κ (setBlob s a v) := by
  unfold setBlob
  repeat' (first | with_reducible assumption | intro _ | split | dsimp only | (refine keeps_of_parts ?_; dsimp only; with_reducible (first | refine keeps_parts ?_ | refine keepsParts_vat ?_ _ _ | refine keepsParts_cellar ?_ _ _ | refine keepsParts_vatFilter ?_ _)))

theorem keeps_setScoped (s : State) (src : Source) (a : Nat) (v : List Byte) (hκ : Keeps κ s) : Keeps κ (setScoped s src a v) := by
  unfold setScoped
  repeat' (first | with_reducible assumption | intro _ | split | dsimp only | (refine keeps_of_parts ?_; dsimp only; with_reducible (first | refine keeps_parts ?_ | refine keepsParts_vat ?_ _ _ | refine keepsParts_cellar ?_ _ _ | refine keepsParts_vatFilter ?_ _)))

theorem keeps_whenLive (s : State) (f : State → State) (hκ : Keeps κ s) (hκf : ∀ z1, Keeps κ z1 → Keeps κ (f z1)) : Keeps κ (whenLive s f) := by
  unfold whenLive
  repeat' (first | with_reducible assumption | with_reducible apply hκf | intro _ | with_reducible refine keeps_ite ?_ ?_)

theorem keeps_setPort (s : State) (p : Nat) (q : Port) (hκ : Keeps κ s) : Keeps κ (setPort s p q) := by
  unfold setPort
  repeat' (first | with_reducible assumption | intro _ | split | dsimp only | (refine keeps_of_parts ?_; dsimp only; with_reducible (first | refine keeps_parts ?_ | refine keepsParts_vat ?_ _ _ | refine keepsParts_cellar ?_ _ _ | refine keepsParts_vatFilter ?_ _)))

theorem keeps_setLane (s : State) (l : Nat) (q : Lane) (hκ : Keeps κ s) : Keeps κ (setLane s l q) := by
  unfold setLane
  repeat' (first | with_reducible assumption | intro _ | split | dsimp only | (refine keeps_of_parts ?_; dsimp only; with_reducible (first | refine keeps_parts ?_ | refine keepsParts_vat ?_ _ _ | refine keepsParts_cellar ?_ _ _ | refine keepsParts_vatFilter ?_ _)))

theorem keeps_setLg (s : State) (g : Nat) (q : LaneGroup) (hκ : Keeps κ s) : Keeps κ (setLg s g q) := by
  unfold setLg
  repeat' (first | with_reducible assumption | intro _ | split | dsimp only | (refine keeps_of_parts ?_; dsimp only; with_reducible (first | refine keeps_parts ?_ | refine keepsParts_vat ?_ _ _ | refine keepsParts_cellar ?_ _ _ | refine keepsParts_vatFilter ?_ _)))

theorem keeps_setFn (s : State) (a : Nat) (f : Fn) (hκ : Keeps κ s) : Keeps κ (setFn s a f) := by
  unfold setFn
  repeat' (first | with_reducible assumption | intro _ | split | dsimp only | (refine keeps_of_parts ?_; dsimp only; with_reducible (first | refine keeps_parts ?_ | refine keepsParts_vat ?_ _ _ | refine keepsParts_cellar ?_ _ _ | refine keepsParts_vatFilter ?_ _)))

theorem keeps_setFnState (s : State) (a : Nat) (st : FnState) (hκ : Keeps κ s) : Keeps κ (setFnState s a st) := by
  unfold setFnState
  repeat' (first | with_reducible assumption | intro _ | with_reducible apply keeps_setFn)

theorem keeps_emit (s : State) (o : Out) (hκ : Keeps κ s) : Keeps κ (emit s o) := by
  unfold emit
  repeat' (first | with_reducible assumption | intro _ | split | dsimp only | (refine keeps_of_parts ?_; dsimp only; with_reducible (first | refine keeps_parts ?_ | refine keepsParts_vat ?_ _ _ | refine keepsParts_cellar ?_ _ _ | refine keepsParts_vatFilter ?_ _)))

theorem keeps_sendSession (s : State) (x : Session) (header : BitVec 128) (body : List Byte) (hκ : Keeps κ s) : Keeps κ (sendSession s x header body) := by
  unfold sendSession
  repeat' (first | with_reducible assumption | intro _ | with_reducible apply keeps_emit)

theorem keeps_setSession (s : State) (x : Session) (hκ : Keeps κ s) : Keeps κ (setSession s x) :=
  keeps_of_parts (keepsParts_sessions hκ _ (by simpa [setSession] using hκ.sessionCount))

theorem keeps_sendEvents (s : State) (x : Session) (recs : List (BitVec 1024)) (hκ : Keeps κ s) : Keeps κ (sendEvents s x recs) := by
  unfold sendEvents
  repeat' (first | with_reducible assumption | intro _ | with_reducible apply keeps_sendSession | with_reducible apply keeps_setSession)

theorem keeps_eventToSession (s : State) (code seq : Nat) (er : BitVec 1024) (id : Nat) (hκ : Keeps κ s) : Keeps κ (eventToSession s code seq er id) := by
  unfold eventToSession
  repeat' (first | with_reducible assumption | intro _ | with_reducible apply keeps_bump | with_reducible apply keeps_setSession | with_reducible apply keeps_sendEvents | with_reducible apply keeps_id | with_reducible refine keeps_ite ?_ ?_ | split)

theorem keeps_raiseMsix (s : State) (v : Nat) (hκ : Keeps κ s) : Keeps κ (raiseMsix s v) := by
  unfold raiseMsix
  repeat' (first | with_reducible assumption | intro _ | with_reducible apply keeps_emit)

theorem keeps_deferMsix (s : State) (v : Nat) (hκ : Keeps κ s) : Keeps κ (deferMsix s v) := by
  unfold deferMsix
  repeat' (first | with_reducible assumption | intro _ | with_reducible refine keeps_ite ?_ ?_ | split | dsimp only | (refine keeps_of_parts ?_; dsimp only; with_reducible (first | refine keeps_parts ?_ | refine keepsParts_vat ?_ _ _ | refine keepsParts_cellar ?_ _ _ | refine keepsParts_vatFilter ?_ _)))

theorem keeps_eventToHost (s : State) (code : Nat) (er : BitVec 1024) (hκ : Keeps κ s) : Keeps κ (eventToHost s code er) := by
  unfold eventToHost
  repeat' (first | with_reducible assumption | intro _ | with_reducible apply keeps_bump | with_reducible apply keeps_emit | with_reducible apply keeps_raiseMsix | with_reducible apply keeps_deferMsix | with_reducible refine keeps_ite ?_ ?_ | split | dsimp only | (refine keeps_of_parts ?_; dsimp only; with_reducible (first | refine keeps_parts ?_ | refine keepsParts_vat ?_ _ _ | refine keepsParts_cellar ?_ _ _ | refine keepsParts_vatFilter ?_ _)))

theorem keeps_raiseEvent (s : State) (code : Nat) (data : List Byte) (hκ : Keeps κ s) : Keeps κ (raiseEvent s code data) := by
  unfold raiseEvent
  repeat' (first | with_reducible assumption | intro _ | with_reducible apply keeps_eventToSession | with_reducible apply keeps_eventToHost | with_reducible refine keeps_foldl ?_ ?_ _ | with_reducible refine keeps_foldlFst ?_ ?_ _ | with_reducible apply keeps_id | split | dsimp only | (refine keeps_of_parts ?_; dsimp only; with_reducible (first | refine keeps_parts ?_ | refine keepsParts_vat ?_ _ _ | refine keepsParts_cellar ?_ _ _ | refine keepsParts_vatFilter ?_ _)))

theorem keeps_reportRecord (s : State) (r : Record) (hκ : Keeps κ s) : Keeps κ (reportRecord s r) := by
  unfold reportRecord
  repeat' (first | with_reducible assumption | intro _ | with_reducible apply keeps_bump | with_reducible apply keeps_raiseEvent | with_reducible refine keeps_ite ?_ ?_)

theorem keeps_setRecord (s : State) (r : Record) (hκ : Keeps κ s) : Keeps κ (setRecord s r) :=
  keeps_of_parts (keepsParts_log hκ _ (by simpa [setRecord] using hκ.logSize))

theorem keeps_mergeRecord (s : State) (r : Record) (code : Nat) (hκ : Keeps κ s) : Keeps κ (mergeRecord s r code) := by
  unfold mergeRecord
  repeat' (first | with_reducible assumption | intro _ | with_reducible apply keeps_setRecord | with_reducible apply keeps_reportRecord | with_reducible refine keeps_ite ?_ ?_)

theorem keeps_openRecord (s : State) (code kind index : Nat) (context : Word) (hκ : Keeps κ s) :
    Keeps κ (openRecord s code kind index context) := by
  unfold openRecord
  dsimp only
  with_reducible apply keeps_reportRecord
  with_reducible apply keeps_bump
  refine keeps_of_parts ?_
  dsimp only
  with_reducible exact keepsParts_log hκ _ (length_drop_log _ _)

theorem keeps_safeIdle (s : State) (hκ : Keeps κ s) : Keeps κ (safeIdle s) :=
  { keeps_parts hκ with lasts := fun _ => rfl, shows := fun _ => ⟨rfl, rfl, rfl⟩ }

theorem keeps_liveRevert (s : State) (hκ : Keeps κ s) : Keeps κ (liveRevert s) := by
  unfold liveRevert
  repeat' (first | with_reducible assumption | intro _ | with_reducible apply keeps_wr | split | dsimp only | (refine keeps_of_parts ?_; dsimp only; with_reducible (first | refine keeps_parts ?_ | refine keepsParts_vat ?_ _ _ | refine keepsParts_cellar ?_ _ _ | refine keepsParts_vatFilter ?_ _)))

theorem keeps_raiseFault (s : State) (code kind index : Nat) (context : Word) (hκ : Keeps κ s) : Keeps κ (raiseFault s code kind index context) := by
  unfold raiseFault
  repeat' (first | with_reducible assumption | intro _ | with_reducible apply keeps_bump64 | with_reducible apply keeps_mergeRecord | with_reducible apply keeps_openRecord | with_reducible apply keeps_safeIdle | with_reducible apply keeps_id | with_reducible refine keeps_ite ?_ ?_ | split | dsimp only | (refine keeps_of_parts ?_; dsimp only; with_reducible (first | refine keeps_parts ?_ | refine keepsParts_vat ?_ _ _ | refine keepsParts_cellar ?_ _ _ | refine keepsParts_vatFilter ?_ _)))

theorem keeps_drawBytes (s : State) (n : Nat) (hκ : Keeps κ s) : Keeps κ (drawBytes s n).2 := by
  unfold drawBytes
  repeat' (first | with_reducible assumption | intro _ | split | dsimp only | (refine keeps_of_parts ?_; dsimp only; with_reducible (first | refine keeps_parts ?_ | refine keepsParts_vat ?_ _ _ | refine keepsParts_cellar ?_ _ _ | refine keepsParts_vatFilter ?_ _)))

theorem keeps_markPersist (s : State) (a : Nat) (hκ : Keeps κ s) : Keeps κ (markPersist s a) := by
  unfold markPersist
  repeat' (first | with_reducible assumption | intro _ | with_reducible refine keeps_ite ?_ ?_ | split | dsimp only | (refine keeps_of_parts ?_; dsimp only; with_reducible (first | refine keeps_parts ?_ | refine keepsParts_vat ?_ _ _ | refine keepsParts_cellar ?_ _ _ | refine keepsParts_vatFilter ?_ _)))

theorem keeps_writeReg (s : State) (a v : Nat) (hκ : Keeps κ s) : Keeps κ (writeReg s a v) := by
  unfold writeReg
  repeat' (first | with_reducible assumption | intro _ | with_reducible apply keeps_markPersist | with_reducible apply keeps_wr)

theorem keeps_writeBlob (s : State) (a : Nat) (v : List Byte) (hκ : Keeps κ s) : Keeps κ (writeBlob s a v) := by
  unfold writeBlob
  repeat' (first | with_reducible assumption | intro _ | with_reducible apply keeps_markPersist | with_reducible apply keeps_setBlob)

theorem keeps_whenWritten (s : State) (src : Source) (a : Nat) (v : List Byte) (owner : Bool) (f : State → State) (hκ : Keeps κ s) (hκf : ∀ z1, Keeps κ z1 → Keeps κ (f z1)) : Keeps κ (whenWritten s src a v owner f) := by
  unfold whenWritten
  repeat' (first | with_reducible assumption | with_reducible apply hκf | intro _ | with_reducible refine keeps_ite ?_ ?_)

theorem keeps_setLink (s : State) (p : Nat) (l : Link) (hκ : Keeps κ s) : Keeps κ (setLink s p l) := by
  unfold setLink
  repeat' (first | with_reducible assumption | intro _ | with_reducible apply keeps_setPort)

theorem keeps_returnCredits (s : State) (p vc n : Nat) (hκ : Keeps κ s) : Keeps κ (returnCredits s p vc n) := by
  unfold returnCredits
  repeat' (first | with_reducible assumption | intro _ | with_reducible apply keeps_setLink | with_reducible refine keeps_ite ?_ ?_)

theorem keeps_pressure (s : State) (k : Nat) (hκ : Keeps κ s) : Keeps κ (pressure s k) := by
  unfold pressure
  repeat' (first | with_reducible assumption | intro _ | with_reducible apply keeps_raiseEvent | with_reducible apply keeps_wr | with_reducible refine keeps_ite ?_ ?_)

theorem keeps_noteFreed (s : State) (b : Block) (hκ : Keeps κ s) : Keeps κ (noteFreed s b) := by
  unfold noteFreed
  repeat' (first | with_reducible assumption | intro _ | split | dsimp only | (refine keeps_of_parts ?_; dsimp only; with_reducible (first | refine keeps_parts ?_ | refine keepsParts_vat ?_ _ _ | refine keepsParts_cellar ?_ _ _ | refine keepsParts_vatFilter ?_ _)))

theorem keeps_releaseBlock (s : State) (key : Nat) (hκ : Keeps κ s) : Keeps κ (releaseBlock s key) := by
  unfold releaseBlock
  repeat' (first | with_reducible assumption | intro _ | with_reducible apply keeps_raiseFault | with_reducible apply keeps_bump | with_reducible apply keeps_pressure | with_reducible apply keeps_noteFreed | with_reducible refine keeps_ite ?_ ?_ | split | dsimp only | (refine keeps_of_parts ?_; dsimp only; with_reducible (first | refine keeps_parts ?_ | refine keepsParts_vat ?_ _ _ | refine keepsParts_cellar ?_ _ _ | refine keepsParts_vatFilter ?_ _)))

theorem keeps_releaseOut (s : State) (o : OutPacket) (hκ : Keeps κ s) : Keeps κ (releaseOut s o) := by
  unfold releaseOut
  repeat' (first | with_reducible assumption | intro _ | with_reducible apply keeps_releaseBlock | with_reducible apply keeps_returnCredits | with_reducible refine keeps_ite ?_ ?_ | split)

theorem keeps_enqueue (s : State) (p : Nat) (o : OutPacket) (hκ : Keeps κ s) : Keeps κ (enqueue s p o) := by
  unfold enqueue
  repeat' (first | with_reducible assumption | intro _ | with_reducible apply keeps_setPort)

theorem keeps_addWaiter (s : State) (w : Waiter) (hκ : Keeps κ s) : Keeps κ (addWaiter s w) := by
  unfold addWaiter
  repeat' (first | with_reducible assumption | intro _ | split | dsimp only | (refine keeps_of_parts ?_; dsimp only; with_reducible (first | refine keeps_parts ?_ | refine keepsParts_vat ?_ _ _ | refine keepsParts_cellar ?_ _ _ | refine keepsParts_vatFilter ?_ _)))

theorem keeps_toDescriptor (s : State) (o : OutPacket) (hκ : Keeps κ s) : Keeps κ (toDescriptor s o) := by
  unfold toDescriptor
  repeat' (first | with_reducible assumption | intro _ | with_reducible apply keeps_returnCredits | with_reducible refine keeps_ite ?_ ?_)

theorem keeps_placeAs (needs : Bool) (s : State) (p vc copies stamp : Nat) (loaf : Bool) (o : OutPacket) (hκ : Keeps κ s) : Keeps κ (placeAs needs s p vc copies stamp loaf o) := by
  unfold placeAs
  repeat' (first | with_reducible assumption | intro _ | with_reducible apply keeps_enqueue | with_reducible apply keeps_addWaiter | with_reducible apply keeps_toDescriptor | with_reducible refine keeps_ite ?_ ?_)

theorem keeps_placeOut (s : State) (p vc copies stamp : Nat) (loaf : Bool) (o : OutPacket) (hκ : Keeps κ s) : Keeps κ (placeOut s p vc copies stamp loaf o) := by
  unfold placeOut
  repeat' (first | with_reducible assumption | intro _ | with_reducible apply keeps_placeAs)

theorem keeps_holdOut (s : State) (a : SliceActive) (mark vc stamp : Nat) (o : OutPacket) (hκ : Keeps κ s) : Keeps κ (holdOut s a mark vc stamp o) := by
  unfold holdOut
  repeat' (first | with_reducible assumption | intro _ | with_reducible apply keeps_addWaiter)

theorem keeps_toUnit (s : State) (stamp : Nat) (o : OutPacket) (hκ : Keeps κ s) : Keeps κ (toUnit s stamp o) := by
  unfold toUnit
  repeat' (first | with_reducible assumption | intro _ | with_reducible apply keeps_toDescriptor | with_reducible apply keeps_addWaiter | with_reducible refine keeps_ite ?_ ?_ | split | dsimp only | (refine keeps_of_parts ?_; dsimp only; with_reducible (first | refine keeps_parts ?_ | refine keepsParts_vat ?_ _ _ | refine keepsParts_cellar ?_ _ _ | refine keepsParts_vatFilter ?_ _)))

theorem keeps_sendRouted (s : State) (o : OutPacket) (hκ : Keeps κ s) : Keeps κ (sendRouted s o) := by
  unfold sendRouted
  repeat' (first | with_reducible assumption | intro _ | with_reducible apply keeps_toUnit | with_reducible apply keeps_placeOut | with_reducible apply keeps_bump | with_reducible apply keeps_holdOut | with_reducible refine keeps_ite ?_ ?_ | split)

theorem keeps_refuseLoaf (s : State) (o : OutPacket) (p : Option Nat) (hκ : Keeps κ s) : Keeps κ (refuseLoaf s o p) := by
  unfold refuseLoaf
  repeat' (first | with_reducible assumption | intro _ | split | dsimp only | (refine keeps_of_parts ?_; dsimp only; with_reducible (first | refine keeps_parts ?_ | refine keepsParts_vat ?_ _ _ | refine keepsParts_cellar ?_ _ _ | refine keepsParts_vatFilter ?_ _)))

theorem keeps_nextOwn (s : State) (hκ : Keeps κ s) : Keeps κ (nextOwn s) := by
  unfold nextOwn
  repeat' (first | with_reducible assumption | intro _ | split | dsimp only | (refine keeps_of_parts ?_; dsimp only; with_reducible (first | refine keeps_parts ?_ | refine keepsParts_vat ?_ _ _ | refine keepsParts_cellar ?_ _ _ | refine keepsParts_vatFilter ?_ _)))

theorem keeps_sendPacket (s : State) (h : Header) (payload : List Byte) (hκ : Keeps κ s) : Keeps κ (sendPacket s h payload) := by
  unfold sendPacket
  repeat' (first | with_reducible assumption | intro _ | with_reducible apply keeps_refuseLoaf | with_reducible apply keeps_sendRouted | with_reducible apply keeps_nextOwn | with_reducible refine keeps_ite ?_ ?_)

theorem keeps_loafOn (s : State) (p : Nat) (o : OutPacket) (hκ : Keeps κ s) : Keeps κ (loafOn s p o) := by
  unfold loafOn
  repeat' (first | with_reducible assumption | intro _ | with_reducible apply keeps_refuseLoaf | with_reducible apply keeps_placeOut | with_reducible refine keeps_ite ?_ ?_)

theorem keeps_sendHops (s : State) (stomp : Bool) (hs : List (Header × Hop)) (payload : List Byte) (hκ : Keeps κ s) : Keeps κ (sendHops s stomp hs payload) := by
  unfold sendHops
  repeat' (first | with_reducible assumption | intro _ | with_reducible apply keeps_bumpBy | with_reducible apply keeps_nextOwn | with_reducible apply keeps_placeOut | with_reducible apply keeps_addWaiter | with_reducible refine keeps_foldl ?_ ?_ _ | with_reducible refine keeps_foldlFst ?_ ?_ _ | with_reducible refine keeps_ite ?_ ?_ | split | dsimp only)

theorem keeps_sendNotice (s : State) (p : Nat) (op : BitVec 8) (h : Header) (aux : Nat) (hκ : Keeps κ s) : Keeps κ (sendNotice s p op h aux) := by
  unfold sendNotice
  repeat' (first | with_reducible assumption | intro _ | with_reducible apply keeps_enqueue)

theorem keeps_sendAccept (s : State) (p : Nat) (h : Header) (hκ : Keeps κ s) : Keeps κ (sendAccept s p h) := by
  unfold sendAccept
  repeat' (first | with_reducible assumption | intro _ | with_reducible apply keeps_sendNotice | with_reducible apply keeps_bump64)

theorem keeps_sendDrop (s : State) (p : Nat) (h : Header) (cause : Nat) (hκ : Keeps κ s) : Keeps κ (sendDrop s p h cause) := by
  unfold sendDrop
  repeat' (first | with_reducible assumption | intro _ | with_reducible apply keeps_bump | with_reducible apply keeps_sendNotice | with_reducible refine keeps_ite ?_ ?_)

theorem keeps_setWindow (s : State) (src : BitVec 23) (m : Nat) (c : BitVec 2) (n : Nat) (hκ : Keeps κ s) : Keeps κ (setWindow s src m c n) := by
  unfold setWindow
  repeat' (first | with_reducible assumption | intro _ | with_reducible refine keeps_ite ?_ ?_ | split | dsimp only | (refine keeps_of_parts ?_; dsimp only; with_reducible (first | refine keeps_parts ?_ | refine keepsParts_vat ?_ _ _ | refine keepsParts_cellar ?_ _ _ | refine keepsParts_vatFilter ?_ _)))

theorem keeps_sendWindowUpd (s : State) (src : BitVec 23) (bytes module : Nat) (c : BitVec 2) (slice : BitVec 10) (hκ : Keeps κ s) : Keeps κ (sendWindowUpd s src bytes module c slice) := by
  unfold sendWindowUpd
  repeat' (first | with_reducible assumption | intro _ | with_reducible apply keeps_sendPacket | with_reducible apply keeps_bump64)

theorem keeps_countReturn (s : State) (h : Header) (hκ : Keeps κ s) : Keeps κ (countReturn s h) := by
  unfold countReturn
  repeat' (first | with_reducible assumption | intro _ | with_reducible apply keeps_sendWindowUpd | with_reducible refine keeps_ite ?_ ?_ | split | dsimp only | (refine keeps_of_parts ?_; dsimp only; with_reducible (first | refine keeps_parts ?_ | refine keepsParts_vat ?_ _ _ | refine keepsParts_cellar ?_ _ _ | refine keepsParts_vatFilter ?_ _)))

theorem keeps_loseRoute (s : State) (o : OutPacket) (hκ : Keeps κ s) : Keeps κ (loseRoute s o) := by
  unfold loseRoute
  repeat' (first | with_reducible assumption | intro _ | with_reducible apply keeps_releaseOut | with_reducible apply keeps_bump | with_reducible apply keeps_countReturn | with_reducible refine keeps_ite ?_ ?_)

theorem keeps_deliverEdge (needs : Bool) (s : State) (stamp : Nat) (o : OutPacket) (hκ : Keeps κ s) : Keeps κ (deliverEdge needs s stamp o) := by
  unfold deliverEdge
  repeat' (first | with_reducible assumption | intro _ | with_reducible apply keeps_placeAs | with_reducible apply keeps_countReturn | with_reducible apply keeps_releaseOut | with_reducible apply keeps_bump | split)

theorem keeps_setReorder (s : State) (r : Reorder) (hκ : Keeps κ s) : Keeps κ (setReorder s r) := by
  unfold setReorder
  repeat' (first | with_reducible assumption | intro _ | split | dsimp only | (refine keeps_of_parts ?_; dsimp only; with_reducible (first | refine keeps_parts ?_ | refine keepsParts_vat ?_ _ _ | refine keepsParts_cellar ?_ _ _ | refine keepsParts_vatFilter ?_ _)))

theorem keeps_releaseFollowing (n : Nat) (s : State) (r : Reorder) (hκ : Keeps κ s) : Keeps κ (releaseFollowing n s r).1 := by
  induction n generalizing s r with
  | zero => exact hκ
  | succ n ih =>
    unfold releaseFollowing
    split
    · exact hκ
    · split
      · exact ih _ _ (keeps_deliverEdge _ _ _ _ hκ)
      · exact hκ

theorem keeps_releaseAll (s : State) (r : Reorder) (hκ : Keeps κ s) : Keeps κ (releaseAll s r) := by
  unfold releaseAll
  repeat' (first | with_reducible assumption | intro _ | with_reducible apply keeps_deliverEdge | with_reducible refine keeps_foldl ?_ ?_ _)

theorem keeps_reorderEqual (s : State) (r : Reorder) (stamp : Nat) (o : OutPacket) (hκ : Keeps κ s) : Keeps κ (reorderEqual s r stamp o) := by
  unfold reorderEqual
  repeat' (first | with_reducible assumption | intro _ | with_reducible apply keeps_deliverEdge | with_reducible apply keeps_releaseFollowing | with_reducible apply keeps_setReorder)

theorem keeps_holdReorder (s : State) (r : Reorder) (o : OutPacket) (hκ : Keeps κ s) : Keeps κ (holdReorder s r o) := by
  unfold holdReorder
  repeat' (first | with_reducible assumption | intro _ | with_reducible apply keeps_setReorder | with_reducible apply keeps_bump64 | with_reducible apply keeps_toDescriptor)

theorem keeps_reorderNow (s : State) (stamp : Nat) (o : OutPacket) (hκ : Keeps κ s) : Keeps κ (reorderNow s stamp o) := by
  unfold reorderNow
  repeat' (first | with_reducible assumption | intro _ | with_reducible apply keeps_deliverEdge | with_reducible apply keeps_bump | with_reducible apply keeps_reorderEqual | with_reducible apply keeps_releaseAll | with_reducible apply keeps_holdReorder | with_reducible refine keeps_ite ?_ ?_ | split)

theorem keeps_reorderIn (needs : Bool) (s : State) (stamp : Nat) (o : OutPacket) (hκ : Keeps κ s) : Keeps κ (reorderIn needs s stamp o) := by
  unfold reorderIn
  repeat' (first | with_reducible assumption | intro _ | with_reducible apply keeps_addWaiter | with_reducible apply keeps_reorderNow | with_reducible apply keeps_deliverEdge | with_reducible refine keeps_ite ?_ ?_)

theorem keeps_cellarPut (s : State) (a : Nat) (b : List Byte) (hκ : Keeps κ s) : Keeps κ (cellarPut s a b) := by
  unfold cellarPut
  repeat' (first | with_reducible assumption | intro _ | with_reducible refine keeps_foldl ?_ ?_ _ | with_reducible refine keeps_foldlFst ?_ ?_ _ | split | dsimp only | (refine keeps_of_parts ?_; dsimp only; with_reducible (first | refine keeps_parts ?_ | refine keepsParts_vat ?_ _ _ | refine keepsParts_cellar ?_ _ _ | refine keepsParts_vatFilter ?_ _)))

theorem keeps_drainCrumbs (s : State) (hκ : Keeps κ s) : Keeps κ (drainCrumbs s) := by
  unfold drainCrumbs
  repeat' (first | with_reducible assumption | intro _ | with_reducible apply keeps_bump64 | with_reducible apply keeps_cellarPut | with_reducible refine keeps_foldl ?_ ?_ _ | with_reducible refine keeps_foldlFst ?_ ?_ _ | split | dsimp only | (refine keeps_of_parts ?_; dsimp only; with_reducible (first | refine keeps_parts ?_ | refine keepsParts_vat ?_ _ _ | refine keepsParts_cellar ?_ _ _ | refine keepsParts_vatFilter ?_ _)))

theorem keeps_appendCrumb (s : State) (e : BitVec 256) (hκ : Keeps κ s) : Keeps κ (appendCrumb s e) := by
  unfold appendCrumb
  repeat' (first | with_reducible assumption | intro _ | with_reducible apply keeps_bump | with_reducible apply keeps_drainCrumbs | with_reducible refine keeps_ite ?_ ?_ | split | dsimp only | (refine keeps_of_parts ?_; dsimp only; with_reducible (first | refine keeps_parts ?_ | refine keepsParts_vat ?_ _ _ | refine keepsParts_cellar ?_ _ _ | refine keepsParts_vatFilter ?_ _)))

theorem keeps_logCrumb (s : State) (kind keyA keyB marks : Nat) (tid crumb : Word) (hκ : Keeps κ s) : Keeps κ (logCrumb s kind keyA keyB marks tid crumb) := by
  unfold logCrumb
  repeat' (first | with_reducible assumption | intro _ | with_reducible apply keeps_appendCrumb | with_reducible refine keeps_ite ?_ ?_)

theorem keeps_setTag (s : State) (n : Nat) (t : Tag) (hκ : Keeps κ s) : Keeps κ (setTag s n t) := by
  unfold setTag
  repeat' (first | with_reducible assumption | intro _ | split | dsimp only | (refine keeps_of_parts ?_; dsimp only; with_reducible (first | refine keeps_parts ?_ | refine keepsParts_vat ?_ _ _ | refine keepsParts_cellar ?_ _ _ | refine keepsParts_vatFilter ?_ _)))

theorem keeps_rawPut (s : State) (a : Nat) (b : List Byte) (hκ : Keeps κ s) : Keeps κ (rawPut s a b) := by
  unfold rawPut
  repeat' (first | with_reducible assumption | intro _ | split | dsimp only | (refine keeps_of_parts ?_; dsimp only; with_reducible (first | refine keeps_parts ?_ | refine keepsParts_vat ?_ _ _ | refine keepsParts_cellar ?_ _ _ | refine keepsParts_vatFilter ?_ _)))

theorem keeps_corruptUnit (s : State) (n unit : Nat) (flips : List (Nat × Byte)) (hκ : Keeps κ s) : Keeps κ (corruptUnit s n unit flips) := by
  unfold corruptUnit
  repeat' (first | with_reducible assumption | intro _ | with_reducible apply keeps_rawPut | with_reducible refine keeps_ite ?_ ?_)

theorem keeps_sealUnit (s : State) (n unit : Nat) (hκ : Keeps κ s) : Keeps κ (sealUnit s n unit) := by
  unfold sealUnit
  repeat' (first | with_reducible assumption | intro _ | with_reducible apply keeps_setTag)

theorem keeps_clearPoison (s : State) (n unit : Nat) (hκ : Keeps κ s) : Keeps κ (clearPoison s n unit) := by
  unfold clearPoison
  repeat' (first | with_reducible assumption | intro _ | with_reducible apply keeps_setTag | with_reducible refine keeps_ite ?_ ?_)

theorem keeps_writeUnit (s : State) (n unit off : Nat) (b : List Byte) (hκ : Keeps κ s) : Keeps κ (writeUnit s n unit off b) := by
  unfold writeUnit
  repeat' (first | with_reducible assumption | intro _ | with_reducible apply keeps_rawPut | with_reducible apply keeps_sealUnit | with_reducible apply keeps_setTag | with_reducible apply keeps_clearPoison | with_reducible refine keeps_ite ?_ ?_)

theorem keeps_vatPut (s : State) (a : Nat) (b : List Byte) (hκ : Keeps κ s) : Keeps κ (vatPut s a b) := by
  unfold vatPut
  repeat' (first | with_reducible assumption | intro _ | with_reducible apply keeps_writeUnit | with_reducible refine keeps_foldl ?_ ?_ _)

theorem keeps_corruptCellar (s : State) (c : Nat) (flips : List (Nat × Byte)) (hκ : Keeps κ s) : Keeps κ (corruptCellar s c flips) := by
  unfold corruptCellar
  repeat' (first | with_reducible assumption | intro _ | with_reducible apply keeps_bump64 | with_reducible refine keeps_ite ?_ ?_ | split | dsimp only | (refine keeps_of_parts ?_; dsimp only; with_reducible (first | refine keeps_parts ?_ | refine keepsParts_vat ?_ _ _ | refine keepsParts_cellar ?_ _ _ | refine keepsParts_vatFilter ?_ _)))

theorem keeps_stompBlock (s : State) (key : Nat) (port : Nat) (hκ : Keeps κ s) : Keeps κ (stompBlock s key port) := by
  unfold stompBlock
  repeat' (first | with_reducible assumption | intro _ | with_reducible apply keeps_bump | with_reducible refine keeps_ite ?_ ?_ | split | dsimp only | (refine keeps_of_parts ?_; dsimp only; with_reducible (first | refine keeps_parts ?_ | refine keepsParts_vat ?_ _ _ | refine keepsParts_cellar ?_ _ _ | refine keepsParts_vatFilter ?_ _)))

theorem keeps_poisonUnit (s : State) (n unit : Nat) (hκ : Keeps κ s) : Keeps κ (poisonUnit s n unit) := by
  unfold poisonUnit
  repeat' (first | with_reducible assumption | intro _ | with_reducible apply keeps_setTag | with_reducible apply keeps_bump | with_reducible apply keeps_stompBlock | with_reducible apply keeps_raiseFault | with_reducible refine keeps_ite ?_ ?_ | split)

theorem keeps_fenceBank (s : State) (b : Nat) (hκ : Keeps κ s) : Keeps κ (fenceBank s b) := by
  unfold fenceBank
  repeat' (first | with_reducible assumption | intro _ | with_reducible apply keeps_bumpBy | with_reducible apply keeps_wr | with_reducible refine keeps_ite ?_ ?_ | split | dsimp only | (refine keeps_of_parts ?_; dsimp only; with_reducible (first | refine keeps_parts ?_ | refine keepsParts_vat ?_ _ _ | refine keepsParts_cellar ?_ _ _ | refine keepsParts_vatFilter ?_ _)))

theorem keeps_startRemap (s : State) (n : Nat) (hκ : Keeps κ s) : Keeps κ (startRemap s n) := by
  unfold startRemap
  repeat' (first | with_reducible assumption | intro _ | with_reducible apply keeps_fenceBank | with_reducible refine keeps_ite ?_ ?_ | split | dsimp only | (refine keeps_of_parts ?_; dsimp only; with_reducible (first | refine keeps_parts ?_ | refine keepsParts_vat ?_ _ _ | refine keepsParts_cellar ?_ _ _ | refine keepsParts_vatFilter ?_ _)))

theorem keeps_countFailure (s : State) (n : Nat) (hκ : Keeps κ s) : Keeps κ (countFailure s n) := by
  unfold countFailure
  repeat' (first | with_reducible assumption | intro _ | with_reducible apply keeps_bump64 | with_reducible apply keeps_wr | with_reducible apply keeps_bump | with_reducible apply keeps_startRemap | with_reducible refine keeps_ite ?_ ?_ | split | dsimp only | (refine keeps_of_parts ?_; dsimp only; with_reducible (first | refine keeps_parts ?_ | refine keepsParts_vat ?_ _ _ | refine keepsParts_cellar ?_ _ _ | refine keepsParts_vatFilter ?_ _)))

theorem keeps_askCellar (s : State) (r : CellarReq) (hκ : Keeps κ s) : Keeps κ (askCellar s r) := by
  unfold askCellar
  repeat' (first | with_reducible assumption | intro _ | with_reducible refine keeps_ite ?_ ?_ | split | dsimp only | (refine keeps_of_parts ?_; dsimp only; with_reducible (first | refine keeps_parts ?_ | refine keepsParts_vat ?_ _ _ | refine keepsParts_cellar ?_ _ _ | refine keepsParts_vatFilter ?_ _)))

theorem keeps_cellarServed (s : State) (hκ : Keeps κ s) : Keeps κ (cellarServed s) := by
  unfold cellarServed
  repeat' (first | with_reducible assumption | intro _ | split | dsimp only | (refine keeps_of_parts ?_; dsimp only; with_reducible (first | refine keeps_parts ?_ | refine keepsParts_vat ?_ _ _ | refine keepsParts_cellar ?_ _ _ | refine keepsParts_vatFilter ?_ _)))

theorem keeps_failUnit (s : State) (n unit : Nat) (hκ : Keeps κ s) : Keeps κ (failUnit s n unit) := by
  unfold failUnit
  repeat' (first | with_reducible assumption | intro _ | with_reducible apply keeps_countFailure | with_reducible apply keeps_askCellar | with_reducible apply keeps_setTag | with_reducible apply keeps_poisonUnit | with_reducible refine keeps_ite ?_ ?_)

theorem keeps_queueAccess (s : State) (q : VatReq) (hκ : Keeps κ s) : Keeps κ (queueAccess s q) := by
  unfold queueAccess
  repeat' (first | with_reducible assumption | intro _ | split | dsimp only | (refine keeps_of_parts ?_; dsimp only; with_reducible (first | refine keeps_parts ?_ | refine keepsParts_vat ?_ _ _ | refine keepsParts_cellar ?_ _ _ | refine keepsParts_vatFilter ?_ _)))

theorem keeps_vatAccess (s : State) (n unit : Nat) (w : Option (Nat × List Byte)) (flips : List (Nat × Byte)) (hκ : Keeps κ s) : Keeps κ (vatAccess s n unit w flips) := by
  unfold vatAccess
  repeat' (first | with_reducible assumption | intro _ | with_reducible apply keeps_queueAccess | with_reducible apply keeps_corruptUnit | with_reducible apply keeps_failUnit | with_reducible apply keeps_writeUnit | with_reducible refine keeps_ite ?_ ?_ | split)

theorem keeps_execVatAccess (slab unit : Nat) (write : Option (Nat × List Byte)) (flips : List (Nat × Byte)) (s : State) (hκ : Keeps κ s) : KeepsOut κ (execVatAccess slab unit write flips s) := by
  unfold execVatAccess
  repeat' (first | with_reducible assumption | with_reducible refine keepsOut_next ?_ | with_reducible refine keepsOut_onUnit ?_ | intro _ | with_reducible apply keeps_vatAccess | with_reducible apply keeps_whenLive)

theorem keeps_serveWaiting (s : State) (hκ : Keeps κ s) : Keeps κ (serveWaiting s) := by
  unfold serveWaiting
  repeat' (first | with_reducible assumption | intro _ | with_reducible apply keeps_vatAccess | with_reducible refine keeps_foldl ?_ ?_ _ | with_reducible refine keeps_foldlFst ?_ ?_ _ | split | dsimp only | (refine keeps_of_parts ?_; dsimp only; with_reducible (first | refine keeps_parts ?_ | refine keepsParts_vat ?_ _ _ | refine keepsParts_cellar ?_ _ _ | refine keepsParts_vatFilter ?_ _)))

theorem keeps_serveReaders (s : State) (n : Nat) (hκ : Keeps κ s) : Keeps κ (serveReaders s n) := by
  unfold serveReaders
  repeat' (first | with_reducible assumption | intro _ | split | dsimp only | (refine keeps_of_parts ?_; dsimp only; with_reducible (first | refine keeps_parts ?_ | refine keepsParts_vat ?_ _ _ | refine keepsParts_cellar ?_ _ _ | refine keepsParts_vatFilter ?_ _)))

theorem keeps_vatRefetchDone (s : State) (n : Nat) (flips : List (Nat × Byte)) (hκ : Keeps κ s) : Keeps κ (vatRefetchDone s n flips) := by
  unfold vatRefetchDone
  repeat' (first | with_reducible assumption | intro _ | with_reducible apply keeps_corruptCellar | with_reducible apply keeps_cellarServed | with_reducible apply keeps_sealUnit | with_reducible apply keeps_rawPut | with_reducible apply keeps_setTag | with_reducible apply keeps_raiseFault | with_reducible apply keeps_bump64 | with_reducible apply keeps_serveReaders | with_reducible apply keeps_serveWaiting | with_reducible apply keeps_poisonUnit | with_reducible apply keeps_bump | with_reducible refine keeps_ite ?_ ?_)

theorem keeps_vatReadbackDone (s : State) (n : Nat) (flips : List (Nat × Byte)) (hκ : Keeps κ s) : Keeps κ (vatReadbackDone s n flips) := by
  unfold vatReadbackDone
  repeat' (first | with_reducible assumption | intro _ | with_reducible apply keeps_corruptUnit | with_reducible apply keeps_setTag | with_reducible apply keeps_serveWaiting | with_reducible apply keeps_bump | with_reducible apply keeps_bump64 | with_reducible apply keeps_startRemap | with_reducible apply keeps_wr | with_reducible refine keeps_ite ?_ ?_)

theorem keeps_vatRemapDone (s : State) (n : Nat) (hκ : Keeps κ s) : Keeps κ (vatRemapDone s n) := by
  unfold vatRemapDone
  repeat' (first | with_reducible assumption | intro _ | with_reducible apply keeps_fenceBank | with_reducible apply keeps_serveWaiting | with_reducible apply keeps_bump | with_reducible apply keeps_wr | with_reducible refine keeps_ite ?_ ?_ | split | dsimp only | (refine keeps_of_parts ?_; dsimp only; with_reducible (first | refine keeps_parts ?_ | refine keepsParts_vat ?_ _ _ | refine keepsParts_cellar ?_ _ _ | refine keepsParts_vatFilter ?_ _)))

theorem keeps_curdWrite (s : State) (b : Block) (payload : List Byte) (hκ : Keeps κ s) : Keeps κ (curdWrite s b payload) := by
  unfold curdWrite
  repeat' (first | with_reducible assumption | intro _ | with_reducible apply keeps_vatAccess)

theorem keeps_curdRead (s : State) (o : OutPacket) (hκ : Keeps κ s) : Keeps κ (curdRead s o).1 := by
  unfold curdRead
  repeat' (first | with_reducible assumption | intro _ | with_reducible apply keeps_failUnit | with_reducible refine keeps_ite ?_ ?_ | split | dsimp only)

theorem keeps_allocSlabs (s : State) (n : Nat) (hκ : Keeps κ s) : ∀ b t, allocSlabs s n = some (b, t) → Keeps κ t := by
  intro b t
  unfold allocSlabs
  split
  · simp
  · split
    · rintro ⟨⟩; exact hκ
    · split
      · rintro ⟨⟩; exact hκ
      · simp

theorem keeps_refillHeadroom (s : State) (announce : Bool) (hκ : Keeps κ s) : Keeps κ (refillHeadroom s announce) := by
  unfold refillHeadroom
  repeat' (first | with_reducible assumption | intro _ | with_reducible apply keeps_raiseEvent | with_reducible refine keeps_ite ?_ ?_ | split | dsimp only | (refine keeps_of_parts ?_; dsimp only; with_reducible (first | refine keeps_parts ?_ | refine keepsParts_vat ?_ _ _ | refine keepsParts_cellar ?_ _ _ | refine keepsParts_vatFilter ?_ _)))

theorem keeps_freeSlabs (s : State) (base : Nat) (hκ : Keeps κ s) : Keeps κ (freeSlabs s base) := by
  unfold freeSlabs
  repeat' (first | with_reducible assumption | intro _ | with_reducible apply keeps_refillHeadroom | with_reducible refine keeps_ite ?_ ?_ | split | dsimp only | (refine keeps_of_parts ?_; dsimp only; with_reducible (first | refine keeps_parts ?_ | refine keepsParts_vat ?_ _ _ | refine keepsParts_cellar ?_ _ _ | refine keepsParts_vatFilter ?_ _)))

theorem keeps_checkSlab (s : State) (n : Nat) (hκ : Keeps κ s) : Keeps κ (checkSlab s n) := by
  unfold checkSlab
  repeat' (first | with_reducible assumption | intro _ | with_reducible apply keeps_failUnit | with_reducible refine keeps_foldl ?_ ?_ _ | with_reducible refine keeps_foldlFst ?_ ?_ _ | with_reducible refine keeps_ite ?_ ?_ | split)

theorem keeps_moveSlab (s : State) (n : Nat) (dest : Option Nat) (hκ : Keeps κ s) : Keeps κ (moveSlab s n dest) := by
  unfold moveSlab
  repeat' (first | with_reducible assumption | intro _ | with_reducible apply keeps_checkSlab | with_reducible apply keeps_poisonUnit | with_reducible refine keeps_foldl ?_ ?_ _ | with_reducible refine keeps_foldlFst ?_ ?_ _ | with_reducible refine keeps_ite ?_ ?_ | split | dsimp only | (refine keeps_of_parts ?_; dsimp only; with_reducible (first | refine keeps_parts ?_ | refine keepsParts_vat ?_ _ _ | refine keepsParts_cellar ?_ _ _ | refine keepsParts_vatFilter ?_ _)))

theorem keeps_vatBankMoveDone (s : State) (b : Nat) (hκ : Keeps κ s) : Keeps κ (vatBankMoveDone s b) := by
  unfold vatBankMoveDone
  repeat' (first | with_reducible assumption | intro _ | with_reducible apply keeps_moveSlab | with_reducible apply keeps_serveWaiting | with_reducible apply keeps_refillHeadroom | with_reducible refine keeps_foldl ?_ ?_ _ | with_reducible refine keeps_foldlFst ?_ ?_ _ | with_reducible refine keeps_ite ?_ ?_ | split | dsimp only | (refine keeps_of_parts ?_; dsimp only; with_reducible (first | refine keeps_parts ?_ | refine keepsParts_vat ?_ _ _ | refine keepsParts_cellar ?_ _ _ | refine keepsParts_vatFilter ?_ _)))

theorem keeps_setHalf (s : State) (c h : Nat) (x : TbufHalf) (hκ : Keeps κ s) : Keeps κ (setHalf s c h x) := by
  unfold setHalf
  repeat' (first | with_reducible assumption | intro _ | split | dsimp only | (refine keeps_of_parts ?_; dsimp only; with_reducible (first | refine keeps_parts ?_ | refine keepsParts_vat ?_ _ _ | refine keepsParts_cellar ?_ _ _ | refine keepsParts_vatFilter ?_ _)))

theorem keeps_tbufParityError (s : State) (c h : Nat) (hκ : Keeps κ s) : Keeps κ (tbufParityError s c h) := by
  unfold tbufParityError
  repeat' (first | with_reducible assumption | intro _ | with_reducible apply keeps_setHalf)

theorem keeps_execTbufParityError (cluster half : Nat) (s : State) (hκ : Keeps κ s) : KeepsOut κ (execTbufParityError cluster half s) := by
  unfold execTbufParityError
  repeat' (first | with_reducible assumption | with_reducible refine keepsOut_next ?_ | with_reducible refine keepsOut_onUnit ?_ | intro _ | with_reducible apply keeps_tbufParityError | with_reducible apply keeps_whenLive)

theorem keeps_stageSlab (s : State) (c n : Nat) (flips : List (Nat × Byte)) (hκ : Keeps κ s) : Keeps κ (stageSlab s c n flips) := by
  unfold stageSlab
  repeat' (first | with_reducible assumption | intro _ | with_reducible apply keeps_corruptCellar | with_reducible apply keeps_cellarServed | with_reducible apply keeps_writeUnit | with_reducible apply keeps_serveWaiting | with_reducible apply keeps_setTag | with_reducible apply keeps_raiseFault | with_reducible apply keeps_bump | with_reducible refine keeps_ite ?_ ?_)

theorem keeps_cellarRefresh (s : State) (waited rate : Nat) (milliC : Int) (hκ : Keeps κ s) : Keeps κ (cellarRefresh s waited rate milliC) := by
  unfold cellarRefresh
  repeat' (first | with_reducible assumption | intro _ | with_reducible apply keeps_wr | with_reducible apply keeps_bump64)

theorem keeps_execCellarRefresh (waited rate : Nat) (milliC : Int) (s : State) (hκ : Keeps κ s) : KeepsOut κ (execCellarRefresh waited rate milliC s) := by
  unfold execCellarRefresh
  repeat' (first | with_reducible assumption | with_reducible refine keepsOut_next ?_ | with_reducible refine keepsOut_onUnit ?_ | intro _ | with_reducible apply keeps_whenLive | with_reducible apply keeps_cellarRefresh)

theorem keeps_execCellarChannel (channel : Nat) (s : State) (hκ : Keeps κ s) : KeepsOut κ (execCellarChannel channel s) := by
  unfold execCellarChannel
  repeat' (first | with_reducible assumption | with_reducible refine keepsOut_next ?_ | with_reducible refine keepsOut_onUnit ?_ | intro _ | with_reducible apply keeps_whenLive | with_reducible apply keeps_raiseFault)

theorem keeps_execFabricState (s : State) (hκ : Keeps κ s) : KeepsOut κ (execFabricState s) := by
  unfold execFabricState
  repeat' (first | with_reducible assumption | with_reducible refine keepsOut_next ?_ | with_reducible refine keepsOut_onUnit ?_ | intro _ | with_reducible apply keeps_whenLive | with_reducible apply keeps_raiseFault)

theorem keeps_proofDrop (s : State) (hκ : Keeps κ s) : Keeps κ (proofDrop s) := by
  unfold proofDrop
  repeat' (first | with_reducible assumption | intro _ | split | dsimp only | (refine keeps_of_parts ?_; dsimp only; with_reducible (first | refine keeps_parts ?_ | refine keepsParts_vat ?_ _ _ | refine keepsParts_cellar ?_ _ _ | refine keepsParts_vatFilter ?_ _)))

theorem keeps_proofResult (s : State) (u code : Nat) (hκ : Keeps κ s) : Keeps κ (proofResult s u code) := by
  unfold proofResult
  repeat' (first | with_reducible assumption | intro _ | split | dsimp only | (refine keeps_of_parts ?_; dsimp only; with_reducible (first | refine keeps_parts ?_ | refine keepsParts_vat ?_ _ _ | refine keepsParts_cellar ?_ _ _ | refine keepsParts_vatFilter ?_ _)))

theorem keeps_proofPhase (s : State) (u phase : Nat) (hκ : Keeps κ s) : Keeps κ (proofPhase s u phase) := by
  unfold proofPhase
  repeat' (first | with_reducible assumption | intro _ | split | dsimp only | (refine keeps_of_parts ?_; dsimp only; with_reducible (first | refine keeps_parts ?_ | refine keepsParts_vat ?_ _ _ | refine keepsParts_cellar ?_ _ _ | refine keepsParts_vatFilter ?_ _)))

theorem keeps_proofDefer (s : State) (u : Nat) (hκ : Keeps κ s) : Keeps κ (proofDefer s u) := by
  unfold proofDefer
  repeat' (first | with_reducible assumption | intro _ | with_reducible apply keeps_proofPhase | with_reducible apply keeps_raiseEvent | with_reducible apply keeps_bump | with_reducible refine keeps_ite ?_ ?_)

theorem keeps_takeSpareOut (s : State) (u : Nat) (hκ : Keeps κ s) : Keeps κ (takeSpareOut s u) := by
  unfold takeSpareOut
  repeat' (first | with_reducible assumption | intro _ | with_reducible apply keeps_wr | with_reducible refine keeps_ite ?_ ?_ | split | dsimp only | (refine keeps_of_parts ?_; dsimp only; with_reducible (first | refine keeps_parts ?_ | refine keepsParts_vat ?_ _ _ | refine keepsParts_cellar ?_ _ _ | refine keepsParts_vatFilter ?_ _)))

theorem keeps_proofStart (s : State) (u : Nat) (unfence : Bool) (hκ : Keeps κ s) : Keeps κ (proofStart s u unfence) := by
  unfold proofStart
  repeat' (first | with_reducible assumption | intro _ | with_reducible apply keeps_proofPhase | with_reducible apply keeps_proofResult | with_reducible apply keeps_takeSpareOut | with_reducible apply keeps_proofDefer | with_reducible refine keeps_ite ?_ ?_ | split | dsimp only | (refine keeps_of_parts ?_; dsimp only; with_reducible (first | refine keeps_parts ?_ | refine keepsParts_vat ?_ _ _ | refine keepsParts_cellar ?_ _ _ | refine keepsParts_vatFilter ?_ _)))

theorem keeps_proofNextFrom (kept l : List (Nat × Bool)) (s : State) (hκ : Keeps κ s) : Keeps κ (proofNextFrom kept l s) := by
  induction l generalizing s kept with
  | nil => exact hκ
  | cons x t ih =>
    unfold proofNextFrom
    split
    · exact ih _ _ hκ
    · dsimp only
      split
      · exact keeps_proofStart _ _ _ hκ
      · exact ih _ _ (keeps_proofStart _ _ _ hκ)

theorem keeps_proofNext (s : State) (hκ : Keeps κ s) : Keeps κ (proofNext s) := by
  unfold proofNext
  repeat' (first | with_reducible assumption | intro _ | with_reducible apply keeps_proofNextFrom | with_reducible refine keeps_ite ?_ ?_)

theorem keeps_proofEnqueue (s : State) (u : Nat) (unfence : Bool) (hκ : Keeps κ s) : Keeps κ (proofEnqueue s u unfence) := by
  unfold proofEnqueue
  repeat' (first | with_reducible assumption | intro _ | with_reducible apply keeps_proofNext | split | dsimp only | (refine keeps_of_parts ?_; dsimp only; with_reducible (first | refine keeps_parts ?_ | refine keepsParts_vat ?_ _ _ | refine keepsParts_cellar ?_ _ _ | refine keepsParts_vatFilter ?_ _)))

theorem keeps_proofAbandon (s : State) (u : Nat) (hκ : Keeps κ s) : Keeps κ (proofAbandon s u) := by
  unfold proofAbandon
  repeat' (first | with_reducible assumption | intro _ | with_reducible apply keeps_proofNext | with_reducible apply keeps_proofDrop | with_reducible refine keeps_ite ?_ ?_)

end Sys2Proof.Machine
end

