-- ==== Sys2Proof/Laws/KeepsSteps.lean ====
section
/-! SUPPORT. What the step operations, the Knead and the expert slots keep: the queue and both memories' canonical form, one lemma per operation. -/
namespace Sys2Proof.Machine

variable {κ : Kept}

theorem keeps_setStation (s : State) (k : Nat) (x : Station) (hκ : Keeps κ s) : Keeps κ (setStation s k x) := by
  unfold setStation
  repeat' (first | with_reducible assumption | intro _ | split | dsimp only | (refine keeps_of_parts ?_; dsimp only; with_reducible (first | refine keeps_parts ?_ | refine keepsParts_vat ?_ _ _ | refine keepsParts_cellar ?_ _ _ | refine keepsParts_vatFilter ?_ _)))

theorem keeps_readSlab (s : State) (n : Nat) (hκ : Keeps κ s) : Keeps κ (readSlab s n).1 := by
  unfold readSlab
  repeat' (first | with_reducible assumption | intro _ | with_reducible apply keeps_failUnit | with_reducible refine keeps_ite ?_ ?_ | split)

theorem keeps_readSlabs (s : State) (ns : List Nat) (hκ : Keeps κ s) : Keeps κ (readSlabs s ns).1 := by
  unfold readSlabs
  repeat' (first | with_reducible assumption | intro _ | with_reducible apply keeps_readSlab | with_reducible refine keeps_foldl ?_ ?_ _ | with_reducible refine keeps_foldlFst ?_ ?_ _)

theorem keeps_writeSlabs (s : State) (whole ns : List Nat) (hκ : Keeps κ s) : Keeps κ (writeSlabs s whole ns).1 := by
  unfold writeSlabs
  repeat' (first | with_reducible assumption | intro _ | with_reducible apply keeps_readSlabs)

theorem keeps_throughCopy (s : State) (n c : Nat) (hκ : Keeps κ s) : Keeps κ (throughCopy s n c) := by
  unfold throughCopy
  repeat' (first | with_reducible assumption | intro _ | split | dsimp only | (refine keeps_of_parts ?_; dsimp only; with_reducible (first | refine keeps_parts ?_ | refine keepsParts_vat ?_ _ _ | refine keepsParts_cellar ?_ _ _ | refine keepsParts_vatFilter ?_ _)))

theorem keeps_throughDone (s : State) (n c : Nat) (hκ : Keeps κ s) : Keeps κ (throughDone s n c) := by
  unfold throughDone
  repeat' (first | with_reducible assumption | intro _ | with_reducible apply keeps_readSlab | with_reducible apply keeps_cellarPut | with_reducible apply keeps_setTag | with_reducible refine keeps_ite ?_ ?_)

theorem keeps_throughCopies (s : State) (hκ : Keeps κ s) : Keeps κ (throughCopies s) := by
  unfold throughCopies
  repeat' (first | with_reducible assumption | intro _ | with_reducible apply keeps_throughCopy | with_reducible apply keeps_throughDone | with_reducible refine keeps_foldl ?_ ?_ _ | with_reducible refine keeps_foldlFst ?_ ?_ _ | with_reducible refine keeps_ite ?_ ?_ | split | dsimp only | (refine keeps_of_parts ?_; dsimp only; with_reducible (first | refine keeps_parts ?_ | refine keepsParts_vat ?_ _ _ | refine keepsParts_cellar ?_ _ _ | refine keepsParts_vatFilter ?_ _)))

theorem keeps_stepPut (s : State) (v : View) (a : Nat) (b : List Byte) (hκ : Keeps κ s) : Keeps κ (stepPut s v a b) := by
  unfold stepPut
  repeat' (first | with_reducible assumption | intro _ | with_reducible apply keeps_vatPut | with_reducible apply keeps_throughCopy | with_reducible refine keeps_foldl ?_ ?_ _ | with_reducible refine keeps_foldlFst ?_ ?_ _ | with_reducible refine keeps_ite ?_ ?_ | split | dsimp only)

theorem keeps_putRun (s : State) (v : View) (e : Nat) (encs : List Nat) (hκ : Keeps κ s) : Keeps κ (putRun s v e encs) := by
  unfold putRun
  repeat' (first | with_reducible assumption | intro _ | with_reducible apply keeps_stepPut | with_reducible refine keeps_foldl ?_ ?_ _ | with_reducible refine keeps_foldlFst ?_ ?_ _ | with_reducible refine keeps_ite ?_ ?_)

theorem keeps_putRect (s : State) (v : View) (r0 c0 w : Nat) (encs : List Nat) (hκ : Keeps κ s) : Keeps κ (putRect s v r0 c0 w encs) := by
  unfold putRect
  repeat' (first | with_reducible assumption | intro _ | with_reducible apply keeps_putRun | with_reducible refine keeps_foldl ?_ ?_ _ | with_reducible refine keeps_foldlFst ?_ ?_ _ | with_reducible refine keeps_ite ?_ ?_)

theorem keeps_putScales (s : State) (v : View) (xs : List (Nat × Nat)) (hκ : Keeps κ s) : Keeps κ (putScales s v xs) := by
  unfold putScales
  repeat' (first | with_reducible assumption | intro _ | with_reducible apply keeps_stepPut | with_reducible refine keeps_foldl ?_ ?_ _)

theorem keeps_poisonSlabs (s : State) (ns : List Nat) (hκ : Keeps κ s) : Keeps κ (poisonSlabs s ns) := by
  unfold poisonSlabs
  repeat' (first | with_reducible assumption | intro _ | with_reducible apply keeps_setTag | with_reducible refine keeps_foldl ?_ ?_ _)

theorem keeps_putPlain (s : State) (v : View) (k : Rounding) (r0 c0 w : Nat) (vals : List (Val × Nat)) (hκ : Keeps κ s) : Keeps κ (putPlain s v k r0 c0 w vals).1 := by
  unfold putPlain
  repeat' (first | with_reducible assumption | intro _ | with_reducible apply keeps_putRect)

theorem keeps_putScaled (s : State) (v : View) (k : Rounding) (r0 c0 h w : Nat) (vals : List (Val × Nat)) (hκ : Keeps κ s) : Keeps κ (putScaled s v k r0 c0 h w vals).1 := by
  unfold putScaled
  repeat' (first | with_reducible assumption | intro _ | with_reducible apply keeps_putScales | with_reducible apply keeps_putRect)

theorem keeps_putVals (s : State) (v : View) (k : Rounding) (r0 c0 h w : Nat) (vals : List (Val × Nat)) (hκ : Keeps κ s) : Keeps κ (putVals s v k r0 c0 h w vals).1 := by
  unfold putVals
  repeat' (first | with_reducible assumption | intro _ | with_reducible apply keeps_putPlain | with_reducible apply keeps_putScaled | with_reducible refine keeps_ite ?_ ?_ | split)

theorem keeps_putAll (s : State) (v : View) (k : Rounding) (vals : List (Val × Nat)) (hκ : Keeps κ s) : Keeps κ (putAll s v k vals).1 := by
  unfold putAll
  repeat' (first | with_reducible assumption | intro _ | with_reducible apply keeps_putVals)

theorem keeps_putWords (s : State) (v : View) (r0 c0 w : Nat) (ws : List (AWord × Int)) (hκ : Keeps κ s) : Keeps κ (putWords s v r0 c0 w ws).1 := by
  unfold putWords
  repeat' (first | with_reducible assumption | intro _ | with_reducible apply keeps_putRect)

theorem keeps_setInv (s : State) (i : Nat) (v : Inv) (hκ : Keeps κ s) : Keeps κ (setInv s i v) := by
  unfold setInv
  repeat' (first | with_reducible assumption | intro _ | split | dsimp only | (refine keeps_of_parts ?_; dsimp only; with_reducible (first | refine keeps_parts ?_ | refine keepsParts_vat ?_ _ _ | refine keepsParts_cellar ?_ _ _ | refine keepsParts_vatFilter ?_ _)))

theorem keeps_modInv (s : State) (i : Nat) (f : Inv → Inv) (hκ : Keeps κ s) : Keeps κ (modInv s i f) := by
  unfold modInv
  repeat' (first | with_reducible assumption | intro _ | with_reducible apply keeps_setInv | split)

theorem keeps_endStep (s : State) (i status station : Nat) (hκ : Keeps κ s) : Keeps κ (endStep s i status station) := by
  unfold endStep
  repeat' (first | with_reducible assumption | intro _ | with_reducible apply keeps_modInv)

theorem keeps_doneStep (s : State) (i : Nat) (p : Report) (hκ : Keeps κ s) : Keeps κ (doneStep s i p) := by
  unfold doneStep
  repeat' (first | with_reducible assumption | intro _ | with_reducible apply keeps_modInv)

theorem keeps_waitStep (s : State) (i : Nat) (hκ : Keeps κ s) : Keeps κ (waitStep s i) := by
  unfold waitStep
  repeat' (first | with_reducible assumption | intro _ | with_reducible apply keeps_modInv)

theorem keeps_blockStep (s : State) (i : Nat) (hκ : Keeps κ s) : Keeps κ (blockStep s i) := by
  unfold blockStep
  repeat' (first | with_reducible assumption | intro _ | with_reducible apply keeps_modInv)

theorem keeps_modSlot (s : State) (station k : Nat) (f : VSlot → VSlot) (hκ : Keeps κ s) : Keeps κ (modSlot s station k f) := by
  unfold modSlot
  repeat' (first | with_reducible assumption | intro _ | with_reducible apply keeps_setStation | split)

theorem keeps_holdSlot (s : State) (i station version k : Nat) (hκ : Keeps κ s) : Keeps κ (holdSlot s i station version k) := by
  unfold holdSlot
  repeat' (first | with_reducible assumption | intro _ | with_reducible apply keeps_setInv | with_reducible apply keeps_modSlot | with_reducible refine keeps_ite ?_ ?_ | split)

theorem keeps_staleRead (s : State) (i station : Nat) (hκ : Keeps κ s) : Keeps κ (staleRead s i station) := by
  unfold staleRead
  repeat' (first | with_reducible assumption | intro _ | with_reducible apply keeps_setStation | with_reducible apply keeps_endStep | with_reducible apply keeps_raiseFault | split)

theorem keeps_takeVersions (s : State) (x : Run) (l : List (Nat × Nat)) (hκ : Keeps κ s) : ∀ t, takeVersions s x l = some t → Keeps κ t := by
  induction l generalizing s with
  | nil => rintro t ⟨⟩; exact hκ
  | cons a l ih =>
    intro t
    unfold takeVersions
    split
    · exact ih _ hκ t
    · split
      · simp
      · rintro ⟨⟩; exact keeps_staleRead _ _ _ hκ
      · exact ih _ (keeps_holdSlot _ _ _ _ _ hκ) t

theorem keeps_takeLocks (s : State) (x : Run) (hκ : Keeps κ s) : Keeps κ (takeLocks s x).1 := by
  unfold takeLocks
  repeat' (first | with_reducible assumption | intro _ | with_reducible refine keeps_ite ?_ ?_ | split | dsimp only | (refine keeps_of_parts ?_; dsimp only; with_reducible (first | refine keeps_parts ?_ | refine keepsParts_vat ?_ _ _ | refine keepsParts_cellar ?_ _ _ | refine keepsParts_vatFilter ?_ _)))

theorem keeps_releaseStep (s : State) (i step : Nat) (hκ : Keeps κ s) : Keeps κ (releaseStep s i step) := by
  unfold releaseStep
  repeat' (first | with_reducible assumption | intro _ | with_reducible apply keeps_modSlot | with_reducible apply keeps_modInv | with_reducible refine keeps_foldl ?_ ?_ _ | with_reducible refine keeps_foldlFst ?_ ?_ _ | split | dsimp only | (refine keeps_of_parts ?_; dsimp only; with_reducible (first | refine keeps_parts ?_ | refine keepsParts_vat ?_ _ _ | refine keepsParts_cellar ?_ _ _ | refine keepsParts_vatFilter ?_ _)))

theorem keeps_startStep (s : State) (i : Nat) (run : State → Run → State) (hκ : Keeps κ s) (hκrun : ∀ z1, Keeps κ z1 → ∀ z2, Keeps κ (run z1 z2)) : Keeps κ (startStep s i run) := by
  unfold startStep
  repeat' (first | with_reducible assumption | with_reducible apply hκrun | intro _ | with_reducible apply keeps_endStep | with_reducible apply keeps_bump | with_reducible refine keeps_takeVersions _ _ _ ?_ _ (by with_reducible assumption) | with_reducible apply keeps_waitStep | with_reducible apply keeps_takeLocks | with_reducible refine keeps_ite ?_ ?_ | split)

theorem keeps_withData (s : State) (x : Run) (srcs dsts : List View) (f : State → State × Report) (hκ : Keeps κ s) (hκf : ∀ z1, Keeps κ z1 → Keeps κ (f z1).1) : Keeps κ (withData s x srcs dsts f) := by
  unfold withData
  repeat' (first | with_reducible assumption | with_reducible apply hκf | intro _ | with_reducible apply keeps_readSlabs | with_reducible apply keeps_blockStep | with_reducible apply keeps_endStep | with_reducible apply keeps_writeSlabs | with_reducible apply keeps_doneStep | with_reducible refine keeps_ite ?_ ?_ | split | dsimp only)

theorem keeps_setUnit (s : State) (u : Nat) (x : KUnit) (hκ : Keeps κ s) : Keeps κ (setUnit s u x) := by
  unfold setUnit
  repeat' (first | with_reducible assumption | intro _ | split | dsimp only | (refine keeps_of_parts ?_; dsimp only; with_reducible (first | refine keeps_parts ?_ | refine keepsParts_vat ?_ _ _ | refine keepsParts_cellar ?_ _ _ | refine keepsParts_vatFilter ?_ _)))

theorem keeps_setKarray (s : State) (a : Nat) (x : KArray) (hκ : Keeps κ s) : Keeps κ (setKarray s a x) := by
  unfold setKarray
  repeat' (first | with_reducible assumption | intro _ | split | dsimp only | (refine keeps_of_parts ?_; dsimp only; with_reducible (first | refine keeps_parts ?_ | refine keepsParts_vat ?_ _ _ | refine keepsParts_cellar ?_ _ _ | refine keepsParts_vatFilter ?_ _)))

theorem keeps_skipZeros (p : Product) (last n : Nat) (s : State) (x : KUnit) (hκ : Keeps κ s) : Keeps κ (skipZeros p last n s x).1 := by
  induction n generalizing s x with
  | zero => exact hκ
  | succ n ih =>
    unfold skipZeros
    split
    · exact ih _ _ (keeps_bump64 _ _ _ hκ)
    · exact hκ

theorem keeps_freshUnit (s : State) (p : Product) (j : MatJob) (x : KUnit) (hκ : Keeps κ s) : Keeps κ (freshUnit s p j x).1 := by
  unfold freshUnit
  repeat' (first | with_reducible assumption | intro _ | with_reducible apply keeps_skipZeros)

theorem keeps_bringTile (s : State) (j : MatJob) (x : KUnit) (a : Nat) (hκ : Keeps κ s) : Keeps κ (bringTile s j x a) := by
  unfold bringTile
  repeat' (first | with_reducible assumption | intro _ | with_reducible apply keeps_setKarray | with_reducible refine keeps_ite ?_ ?_ | split)

theorem keeps_fillHalf (s : State) (c : Nat) (t : KTile) (slabs : List Nat) (hκ : Keeps κ s) : Keeps κ (fillHalf s c t slabs) := by
  unfold fillHalf
  repeat' (first | with_reducible assumption | intro _ | with_reducible apply keeps_setHalf | split | dsimp only | (refine keeps_of_parts ?_; dsimp only; with_reducible (first | refine keeps_parts ?_ | refine keepsParts_vat ?_ _ _ | refine keepsParts_cellar ?_ _ _ | refine keepsParts_vatFilter ?_ _)))

theorem keeps_kneadTileLoaded (s : State) (u : Nat) (hκ : Keeps κ s) : Keeps κ (kneadTileLoaded s u) := by
  unfold kneadTileLoaded
  repeat' (first | with_reducible assumption | intro _ | with_reducible apply keeps_readSlabs | with_reducible apply keeps_setUnit | with_reducible apply keeps_fillHalf | with_reducible apply keeps_setKarray | with_reducible refine keeps_ite ?_ ?_ | split | dsimp only)

theorem keeps_execKneadTileLoaded (unit : Nat) (s : State) (hκ : Keeps κ s) : KeepsOut κ (execKneadTileLoaded unit s) := by
  unfold execKneadTileLoaded
  repeat' (first | with_reducible assumption | with_reducible refine keepsOut_next ?_ | with_reducible refine keepsOut_onUnit ?_ | intro _ | with_reducible apply keeps_whenLive | with_reducible apply keeps_kneadTileLoaded)

theorem keeps_tbufReload (s : State) (c h : Nat) (hκ : Keeps κ s) : Keeps κ (tbufReload s c h) := by
  unfold tbufReload
  repeat' (first | with_reducible assumption | intro _ | with_reducible apply keeps_readSlabs | with_reducible apply keeps_raiseFault | with_reducible apply keeps_bump | with_reducible apply keeps_setHalf | with_reducible refine keeps_ite ?_ ?_)

theorem keeps_execTbufReload (cluster half : Nat) (s : State) (hκ : Keeps κ s) : KeepsOut κ (execTbufReload cluster half s) := by
  unfold execTbufReload
  repeat' (first | with_reducible assumption | with_reducible refine keepsOut_next ?_ | with_reducible refine keepsOut_onUnit ?_ | intro _ | with_reducible apply keeps_tbufReload | with_reducible apply keeps_whenLive)

theorem keeps_countPass (s : State) (p : Product) (a : Nat) (hκ : Keeps κ s) : Keeps κ (countPass s p a) := by
  unfold countPass
  repeat' (first | with_reducible assumption | intro _ | with_reducible apply keeps_bump64 | with_reducible refine keeps_ite ?_ ?_)

theorem keeps_runPass (s : State) (u : Nat) (x : KUnit) (p : Product) (j : MatJob) (a : Nat) (fault : KneadVerdict) (hκ : Keeps κ s) : Keeps κ (runPass s u x p j a fault) := by
  unfold runPass
  repeat' (first | with_reducible assumption | intro _ | with_reducible apply keeps_fillHalf | with_reducible apply keeps_bump64 | with_reducible apply keeps_countPass | with_reducible apply keeps_setKarray | with_reducible apply keeps_skipZeros | with_reducible apply keeps_setUnit | with_reducible refine keeps_foldl ?_ ?_ _ | with_reducible refine keeps_foldlFst ?_ ?_ _ | with_reducible apply keeps_id | with_reducible refine keeps_ite ?_ ?_)

theorem keeps_kneadPassDone (s : State) (u a : Nat) (verdict : KneadVerdict) (hκ : Keeps κ s) : Keeps κ (kneadPassDone s u a verdict) := by
  unfold kneadPassDone
  repeat' (first | with_reducible assumption | intro _ | with_reducible apply keeps_readSlabs | with_reducible apply keeps_setUnit | with_reducible apply keeps_runPass | with_reducible apply keeps_bringTile | with_reducible refine keeps_ite ?_ ?_ | split | dsimp only)

theorem keeps_execKneadPassDone (unit array : Nat) (verdict : KneadVerdict) (s : State) (hκ : Keeps κ s) : KeepsOut κ (execKneadPassDone unit array verdict s) := by
  unfold execKneadPassDone
  repeat' (first | with_reducible assumption | with_reducible refine keepsOut_next ?_ | with_reducible refine keepsOut_onUnit ?_ | intro _ | with_reducible apply keeps_kneadPassDone | with_reducible apply keeps_whenLive)

theorem keeps_fenceArray (s : State) (a : Nat) (hκ : Keeps κ s) : Keeps κ (fenceArray s a) := by
  unfold fenceArray
  repeat' (first | with_reducible assumption | intro _ | with_reducible apply keeps_setKarray | with_reducible apply keeps_setFn | with_reducible apply keeps_proofAbandon | with_reducible refine keeps_ite ?_ ?_ | split | dsimp only | (refine keeps_of_parts ?_; dsimp only; with_reducible (first | refine keeps_parts ?_ | refine keepsParts_vat ?_ _ _ | refine keepsParts_cellar ?_ _ _ | refine keepsParts_vatFilter ?_ _)))

theorem keeps_dueColumn (s : State) (a j : Nat) (hκ : Keeps κ s) : Keeps κ (dueColumn s a j) := by
  unfold dueColumn
  repeat' (first | with_reducible assumption | intro _ | with_reducible apply keeps_setKarray | with_reducible refine keeps_ite ?_ ?_)

theorem keeps_strike (s : State) (a : Nat) (verdict : KneadVerdict) (hκ : Keeps κ s) : Keeps κ (strike s a verdict) := by
  unfold strike
  repeat' (first | with_reducible assumption | intro _ | with_reducible apply keeps_setKarray | with_reducible apply keeps_dueColumn | with_reducible apply keeps_fenceArray | with_reducible refine keeps_ite ?_ ?_ | split)

theorem keeps_repairCol (s : State) (a j : Nat) (hκ : Keeps κ s) : Keeps κ (repairCol s a j) := by
  unfold repairCol
  repeat' (first | with_reducible assumption | intro _ | with_reducible apply keeps_setKarray | with_reducible apply keeps_fenceArray | with_reducible refine keeps_ite ?_ ?_)

theorem keeps_repairRow (s : State) (a r : Nat) (hκ : Keeps κ s) : Keeps κ (repairRow s a r) := by
  unfold repairRow
  repeat' (first | with_reducible assumption | intro _ | with_reducible apply keeps_setKarray | with_reducible apply keeps_fenceArray | with_reducible refine keeps_ite ?_ ?_)

theorem keeps_kneadRepairApply (s : State) (a : Nat) (hκ : Keeps κ s) : Keeps κ (kneadRepairApply s a) := by
  unfold kneadRepairApply
  repeat' (first | with_reducible assumption | intro _ | with_reducible apply keeps_repairRow | with_reducible apply keeps_repairCol | with_reducible apply keeps_setKarray | with_reducible apply keeps_fenceArray | with_reducible refine keeps_foldl ?_ ?_ _ | with_reducible refine keeps_foldlFst ?_ ?_ _ | with_reducible refine keeps_ite ?_ ?_)

theorem keeps_execKneadRepairApply (array : Nat) (s : State) (hκ : Keeps κ s) : KeepsOut κ (execKneadRepairApply array s) := by
  unfold execKneadRepairApply
  repeat' (first | with_reducible assumption | with_reducible refine keepsOut_next ?_ | with_reducible refine keepsOut_onUnit ?_ | intro _ | with_reducible apply keeps_kneadRepairApply | with_reducible apply keeps_whenLive)

theorem keeps_writeTiles (s : State) (x : Run) (pr : Nat) (p : Product) (ts : List (Nat × Nat)) (hκ : Keeps κ s) : Keeps κ (writeTiles s x pr p ts).1 := by
  unfold writeTiles
  repeat' (first | with_reducible assumption | intro _ | with_reducible apply keeps_putWords | with_reducible apply keeps_putVals | with_reducible refine keeps_ite ?_ ?_ | split | dsimp only)

theorem keeps_jobSettled (s : State) (i : Nat) (hκ : Keeps κ s) : Keeps κ (jobSettled s i) := by
  unfold jobSettled
  repeat' (first | with_reducible assumption | intro _ | with_reducible apply keeps_setInv | with_reducible apply keeps_endStep | with_reducible refine keeps_ite ?_ ?_ | split)

theorem keeps_dropTiles (s : State) (i pr : Nat) (ts : List (Nat × Nat)) (hκ : Keeps κ s) : Keeps κ (dropTiles s i pr ts) := by
  unfold dropTiles
  repeat' (first | with_reducible assumption | intro _ | split | dsimp only | (refine keeps_of_parts ?_; dsimp only; with_reducible (first | refine keeps_parts ?_ | refine keepsParts_vat ?_ _ _ | refine keepsParts_cellar ?_ _ _ | refine keepsParts_vatFilter ?_ _)))

theorem keeps_outputStage (s : State) (x : Run) (k : KUnit) (p : Product) (hκ : Keeps κ s) : Keeps κ (outputStage s x k p) := by
  unfold outputStage
  repeat' (first | with_reducible assumption | intro _ | with_reducible apply keeps_modInv | with_reducible apply keeps_poisonSlabs | with_reducible apply keeps_writeTiles | with_reducible apply keeps_jobSettled | with_reducible apply keeps_dropTiles | with_reducible refine keeps_ite ?_ ?_)

theorem keeps_checkFailed (s : State) (u : Nat) (x : KUnit) (r : Run) (p : Product) (j : MatJob) (f : KneadVerdict × Nat) (hκ : Keeps κ s) : Keeps κ (checkFailed s u x r p j f) := by
  unfold checkFailed
  repeat' (first | with_reducible assumption | intro _ | with_reducible apply keeps_bump | with_reducible apply keeps_raiseFault | with_reducible apply keeps_dueColumn | with_reducible apply keeps_fenceArray | with_reducible apply keeps_outputStage | with_reducible apply keeps_setUnit | with_reducible apply keeps_strike | with_reducible apply keeps_freshUnit | with_reducible refine keeps_ite ?_ ?_ | split)

theorem keeps_judgeUnit (s : State) (u : Nat) (x : KUnit) (r : Run) (p : Product) (j : MatJob) (verdict : KneadVerdict) (hκ : Keeps κ s) : Keeps κ (judgeUnit s u x r p j verdict) := by
  unfold judgeUnit
  repeat' (first | with_reducible assumption | intro _ | with_reducible apply keeps_outputStage | with_reducible apply keeps_setUnit | with_reducible apply keeps_checkFailed | with_reducible refine keeps_ite ?_ ?_)

theorem keeps_kneadUnitDone (s : State) (u : Nat) (verdict : KneadVerdict) (hκ : Keeps κ s) : Keeps κ (kneadUnitDone s u verdict) := by
  unfold kneadUnitDone
  repeat' (first | with_reducible assumption | intro _ | with_reducible apply keeps_readSlabs | with_reducible apply keeps_writeSlabs | with_reducible apply keeps_judgeUnit | with_reducible refine keeps_ite ?_ ?_ | split)

theorem keeps_execKneadUnitDone (unit : Nat) (verdict : KneadVerdict) (s : State) (hκ : Keeps κ s) : KeepsOut κ (execKneadUnitDone unit verdict s) := by
  unfold execKneadUnitDone
  repeat' (first | with_reducible assumption | with_reducible refine keepsOut_next ?_ | with_reducible refine keepsOut_onUnit ?_ | intro _ | with_reducible apply keeps_whenLive | with_reducible apply keeps_kneadUnitDone)

theorem keeps_moveUnit (s : State) (u : Nat) (x : KUnit) (c : Nat) (restart : Bool) (hκ : Keeps κ s) : Keeps κ (moveUnit s u x c restart) := by
  unfold moveUnit
  repeat' (first | with_reducible assumption | intro _ | with_reducible apply keeps_setUnit | with_reducible apply keeps_checkFailed | with_reducible apply keeps_freshUnit | with_reducible refine keeps_ite ?_ ?_ | split)

theorem keeps_moveUnits (s : State) (c : Nat) (to_ : List Nat) (restart : Bool) (hκ : Keeps κ s) : Keeps κ (moveUnits s c to_ restart) := by
  unfold moveUnits
  repeat' (first | with_reducible assumption | intro _ | with_reducible apply keeps_moveUnit | with_reducible refine keeps_foldl ?_ ?_ _)

theorem keeps_coverFor (s : State) (why : DepartReason) (sp : Nat) (hκ : Keeps κ s) : Keeps κ (coverFor s why sp) := by
  unfold coverFor
  repeat' (first | with_reducible assumption | intro _ | with_reducible refine keeps_ite ?_ ?_ | split | dsimp only | (refine keeps_of_parts ?_; dsimp only; with_reducible (first | refine keeps_parts ?_ | refine keepsParts_vat ?_ _ _ | refine keepsParts_cellar ?_ _ _ | refine keepsParts_vatFilter ?_ _)))

theorem keeps_clusterTakeover (s : State) (c : Nat) (why : DepartReason) (hκ : Keeps κ s) : Keeps κ (clusterTakeover s c why) := by
  unfold clusterTakeover
  repeat' (first | with_reducible assumption | intro _ | with_reducible apply keeps_wr | with_reducible apply keeps_proofNext | with_reducible apply keeps_proofDrop | with_reducible apply keeps_moveUnits | with_reducible apply keeps_coverFor | with_reducible apply keeps_bump | with_reducible refine keeps_ite ?_ ?_ | split | dsimp only | (refine keeps_of_parts ?_; dsimp only; with_reducible (first | refine keeps_parts ?_ | refine keepsParts_vat ?_ _ _ | refine keepsParts_cellar ?_ _ _ | refine keepsParts_vatFilter ?_ _)))

theorem keeps_execClusterTakeover (cluster : Nat) (reason : DepartReason) (s : State) (hκ : Keeps κ s) : KeepsOut κ (execClusterTakeover cluster reason s) := by
  unfold execClusterTakeover
  repeat' (first | with_reducible assumption | with_reducible refine keepsOut_next ?_ | with_reducible refine keepsOut_onUnit ?_ | intro _ | with_reducible apply keeps_clusterTakeover | with_reducible apply keeps_whenLive)

theorem keeps_clusterJoins (s : State) (c : Nat) (hκ : Keeps κ s) : Keeps κ (clusterJoins s c) := by
  unfold clusterJoins
  repeat' (first | with_reducible assumption | intro _ | with_reducible refine keeps_ite ?_ ?_ | split | dsimp only | (refine keeps_of_parts ?_; dsimp only; with_reducible (first | refine keeps_parts ?_ | refine keepsParts_vat ?_ _ _ | refine keepsParts_cellar ?_ _ _ | refine keepsParts_vatFilter ?_ _)))

theorem keeps_writeStash (s : State) (x : Run) (hκ : Keeps κ s) : Keeps κ (writeStash s x) := by
  unfold writeStash
  repeat' (first | with_reducible assumption | intro _ | with_reducible apply keeps_poisonSlabs | with_reducible apply keeps_putRect | with_reducible apply keeps_stepPut | with_reducible refine keeps_ite ?_ ?_ | split)

theorem keeps_dealUnits (s : State) (i pr : Nat) (p : Product) (j : MatJob) (hκ : Keeps κ s) : Keeps κ (dealUnits s i pr p j) := by
  unfold dealUnits
  repeat' (first | with_reducible assumption | intro _ | with_reducible apply keeps_freshUnit | with_reducible apply keeps_setUnit | with_reducible refine keeps_foldl ?_ ?_ _ | with_reducible refine keeps_foldlFst ?_ ?_ _ | split | dsimp only | (refine keeps_of_parts ?_; dsimp only; with_reducible (first | refine keeps_parts ?_ | refine keepsParts_vat ?_ _ _ | refine keepsParts_cellar ?_ _ _ | refine keepsParts_vatFilter ?_ _)))

theorem keeps_matmulIssue (s : State) (x : Run) (hκ : Keeps κ s) : Keeps κ (matmulIssue s x) := by
  unfold matmulIssue
  repeat' (first | with_reducible assumption | intro _ | with_reducible apply keeps_readSlabs | with_reducible apply keeps_writeSlabs | with_reducible apply keeps_endStep | with_reducible apply keeps_blockStep | with_reducible apply keeps_wr | with_reducible apply keeps_timingChoice | with_reducible apply keeps_bump64 | with_reducible apply keeps_writeStash | with_reducible apply keeps_modInv | with_reducible apply keeps_dealUnits | with_reducible refine keeps_foldl ?_ ?_ _ | with_reducible refine keeps_foldlFst ?_ ?_ _ | with_reducible refine keeps_ite ?_ ?_)

theorem keeps_topkRun (s : State) (x : Run) (hκ : Keeps κ s) : Keeps κ (topkRun s x) := by
  unfold topkRun
  repeat' (first | with_reducible assumption | intro _ | with_reducible apply keeps_withData | with_reducible apply keeps_putAll | with_reducible apply keeps_putRect | split)

theorem keeps_softmaxRun (s : State) (x : Run) (hκ : Keeps κ s) : Keeps κ (softmaxRun s x) := by
  unfold softmaxRun
  repeat' (first | with_reducible assumption | intro _ | with_reducible apply keeps_withData | with_reducible apply keeps_putAll | split)

theorem keeps_normRun (s : State) (x : Run) (row : List (Val × Nat) → List (Val × Nat) → Option (List (Val × Nat)) → Val × Nat → List (Val × Nat)) (hκ : Keeps κ s) : Keeps κ (normRun s x row) := by
  unfold normRun
  repeat' (first | with_reducible assumption | intro _ | with_reducible apply keeps_withData | with_reducible apply keeps_putAll | split)

theorem keeps_normRmsRun (s : State) (x : Run) (hκ : Keeps κ s) : Keeps κ (normRmsRun s x) := by
  unfold normRmsRun
  repeat' (first | with_reducible assumption | intro _ | with_reducible apply keeps_normRun)

theorem keeps_normLayerRun (s : State) (x : Run) (hκ : Keeps κ s) : Keeps κ (normLayerRun s x) := by
  unfold normLayerRun
  repeat' (first | with_reducible assumption | intro _ | with_reducible apply keeps_normRun)

theorem keeps_mapRun (s : State) (x : Run) (more : List View) (anchored : Bool) (f : State → Nat → Nat → Val × Nat → Val × Nat) (hκ : Keeps κ s) : Keeps κ (mapRun s x more anchored f) := by
  unfold mapRun
  repeat' (first | with_reducible assumption | intro _ | with_reducible apply keeps_withData | with_reducible apply keeps_putAll | split)

theorem keeps_scaleMulRun (s : State) (x : Run) (hκ : Keeps κ s) : Keeps κ (scaleMulRun s x) := by
  unfold scaleMulRun
  repeat' (first | with_reducible assumption | intro _ | with_reducible apply keeps_mapRun)

theorem keeps_scaleRowvecRun (s : State) (x : Run) (hκ : Keeps κ s) : Keeps κ (scaleRowvecRun s x) := by
  unfold scaleRowvecRun
  repeat' (first | with_reducible assumption | intro _ | with_reducible apply keeps_mapRun | split)

theorem keeps_scaleColvecRun (s : State) (x : Run) (hκ : Keeps κ s) : Keeps κ (scaleColvecRun s x) := by
  unfold scaleColvecRun
  repeat' (first | with_reducible assumption | intro _ | with_reducible apply keeps_mapRun | with_reducible refine keeps_ite ?_ ?_ | split)

theorem keeps_scaleReluRun (s : State) (x : Run) (hκ : Keeps κ s) : Keeps κ (scaleReluRun s x) := by
  unfold scaleReluRun
  repeat' (first | with_reducible assumption | intro _ | with_reducible apply keeps_mapRun)

theorem keeps_scaleSiluRun (s : State) (x : Run) (hκ : Keeps κ s) : Keeps κ (scaleSiluRun s x) := by
  unfold scaleSiluRun
  repeat' (first | with_reducible assumption | intro _ | with_reducible apply keeps_mapRun)

theorem keeps_addRun (s : State) (x : Run) (f : Val × Nat → Val × Nat → Val × Nat) (hκ : Keeps κ s) : Keeps κ (addRun s x f) := by
  unfold addRun
  repeat' (first | with_reducible assumption | intro _ | with_reducible apply keeps_mapRun | with_reducible refine keeps_ite ?_ ?_ | split)

theorem keeps_addStepRun (s : State) (x : Run) (hκ : Keeps κ s) : Keeps κ (addStepRun s x) := by
  unfold addStepRun
  repeat' (first | with_reducible assumption | intro _ | with_reducible apply keeps_addRun)

theorem keeps_subStepRun (s : State) (x : Run) (hκ : Keeps κ s) : Keeps κ (subStepRun s x) := by
  unfold subStepRun
  repeat' (first | with_reducible assumption | intro _ | with_reducible apply keeps_addRun)

theorem keeps_mulStepRun (s : State) (x : Run) (hκ : Keeps κ s) : Keeps κ (mulStepRun s x) := by
  unfold mulStepRun
  repeat' (first | with_reducible assumption | intro _ | with_reducible apply keeps_addRun)

theorem keeps_convertRun (s : State) (x : Run) (hκ : Keeps κ s) : Keeps κ (convertRun s x) := by
  unfold convertRun
  repeat' (first | with_reducible assumption | intro _ | with_reducible apply keeps_mapRun)

theorem keeps_dropCrumb (s : State) (v : View) (hκ : Keeps κ s) : Keeps κ (dropCrumb s v) := by
  unfold dropCrumb
  repeat' (first | with_reducible assumption | intro _ | with_reducible apply keeps_modSlot | with_reducible refine keeps_ite ?_ ?_ | split)

theorem keeps_stageInRun (s : State) (x : Run) (hκ : Keeps κ s) : Keeps κ (stageInRun s x) := by
  unfold stageInRun
  repeat' (first | with_reducible assumption | intro _ | with_reducible apply keeps_writeSlabs | with_reducible apply keeps_blockStep | with_reducible apply keeps_askCellar | with_reducible apply keeps_setTag | with_reducible apply keeps_dropCrumb | with_reducible apply keeps_modInv | with_reducible refine keeps_foldl ?_ ?_ _ | with_reducible refine keeps_foldlFst ?_ ?_ _ | with_reducible refine keeps_ite ?_ ?_ | split)

theorem keeps_stageOutRun (s : State) (x : Run) (hκ : Keeps κ s) : Keeps κ (stageOutRun s x) := by
  unfold stageOutRun
  repeat' (first | with_reducible assumption | intro _ | with_reducible apply keeps_readSlabs | with_reducible apply keeps_blockStep | with_reducible apply keeps_endStep | with_reducible apply keeps_cellarPut | with_reducible apply keeps_setTag | with_reducible apply keeps_doneStep | with_reducible refine keeps_foldl ?_ ?_ _ | with_reducible refine keeps_foldlFst ?_ ?_ _ | split | dsimp only)

theorem keeps_reduceInitRun (s : State) (x : Run) (hκ : Keeps κ s) : Keeps κ (reduceInitRun s x) := by
  unfold reduceInitRun
  repeat' (first | with_reducible assumption | intro _ | with_reducible apply keeps_withData | with_reducible apply keeps_putWords | split)

theorem keeps_reduceAccumulateRun (s : State) (x : Run) (hκ : Keeps κ s) : Keeps κ (reduceAccumulateRun s x) := by
  unfold reduceAccumulateRun
  repeat' (first | with_reducible assumption | intro _ | with_reducible apply keeps_withData | with_reducible apply keeps_putWords | split)

theorem keeps_reduceRowsRun (s : State) (x : Run) (hκ : Keeps κ s) : Keeps κ (reduceRowsRun s x) := by
  unfold reduceRowsRun
  repeat' (first | with_reducible assumption | intro _ | with_reducible apply keeps_withData | with_reducible apply keeps_putAll | with_reducible refine keeps_foldl ?_ ?_ _ | with_reducible refine keeps_foldlFst ?_ ?_ _ | split)

theorem keeps_barrierRun (s : State) (x : Run) (hκ : Keeps κ s) : Keeps κ (barrierRun s x) := by
  unfold barrierRun
  repeat' (first | with_reducible assumption | intro _ | with_reducible apply keeps_doneStep | with_reducible apply keeps_blockStep | with_reducible refine keeps_ite ?_ ?_)

theorem keeps_setSlot (s : State) (i n : Nat) (e : ESlot) (hκ : Keeps κ s) : Keeps κ (setSlot s i n e) := by
  unfold setSlot
  repeat' (first | with_reducible assumption | intro _ | with_reducible apply keeps_modInv)

theorem keeps_sendParts (s : State) (i : Nat) (v : Inv) (e : ESlot) (hκ : Keeps κ s) : Keeps κ (sendParts s i v e) := by
  unfold sendParts
  repeat' (first | with_reducible assumption | intro _ | with_reducible apply keeps_sendPacket | with_reducible refine keeps_foldl ?_ ?_ _)

theorem keeps_sendSlot (s : State) (i n : Nat) (e : ESlot) (hκ : Keeps κ s) : Keeps κ (sendSlot s i n e) := by
  unfold sendSlot
  repeat' (first | with_reducible assumption | intro _ | with_reducible apply keeps_bump64 | with_reducible apply keeps_sendParts | with_reducible apply keeps_setSlot | with_reducible refine keeps_ite ?_ ?_ | split)

theorem keeps_degradeSlot (s : State) (i n : Nat) (e : ESlot) (hκ : Keeps κ s) : Keeps κ (degradeSlot s i n e) := by
  unfold degradeSlot
  repeat' (first | with_reducible assumption | intro _ | with_reducible apply keeps_bump64 | with_reducible apply keeps_setSlot)

theorem keeps_toBackup (s : State) (i n : Nat) (e : ESlot) (b : Nat) (hκ : Keeps κ s) : Keeps κ (toBackup s i n e b) := by
  unfold toBackup
  repeat' (first | with_reducible assumption | intro _ | with_reducible apply keeps_setSlot | with_reducible apply keeps_sendSlot | with_reducible refine keeps_ite ?_ ?_)

theorem keeps_tryWaiting (s : State) (i n : Nat) (e : ESlot) (hκ : Keeps κ s) : Keeps κ (tryWaiting s i n e) := by
  unfold tryWaiting
  repeat' (first | with_reducible assumption | intro _ | with_reducible apply keeps_sendSlot | with_reducible apply keeps_modInv | with_reducible apply keeps_timingChoice | with_reducible apply keeps_bump64 | with_reducible apply keeps_toBackup | with_reducible apply keeps_setSlot | with_reducible refine keeps_ite ?_ ?_ | split)

theorem keeps_resolveSlot (s : State) (i : Nat) (w : BitVec 128) (token slot expert entry : Nat) (row : List Byte) (hκ : Keeps κ s) : Keeps κ (resolveSlot s i w token slot expert entry row) := by
  unfold resolveSlot
  repeat' (first | with_reducible assumption | intro _ | with_reducible apply keeps_setInv | with_reducible apply keeps_bump64 | with_reducible apply keeps_tryWaiting | with_reducible apply keeps_toBackup | with_reducible apply keeps_bump | with_reducible refine keeps_ite ?_ ?_ | split)

theorem keeps_settleDispatch (s : State) (i : Nat) (hκ : Keeps κ s) : Keeps κ (settleDispatch s i) := by
  unfold settleDispatch
  repeat' (first | with_reducible assumption | intro _ | with_reducible apply keeps_modInv | with_reducible apply keeps_releaseStep | with_reducible refine keeps_foldl ?_ ?_ _ | with_reducible refine keeps_foldlFst ?_ ?_ _ | split)

theorem keeps_resolveAll (s : State) (x : Run) (b m a : View) (l : List (Nat × Nat)) (hκ : Keeps κ s) :
    Keeps κ (resolveAll s x b m a l) := by
  induction l generalizing s with
  | nil => exact keeps_settleDispatch _ _ (keeps_modInv _ _ _ hκ)
  | cons t r ih =>
    unfold resolveAll
    dsimp only
    split
    · exact keeps_endStep _ _ _ _ hκ
    · exact ih _ (keeps_resolveSlot _ _ _ _ _ _ _ _ hκ)

theorem keeps_dispatchRun (s : State) (x : Run) (hκ : Keeps κ s) : Keeps κ (dispatchRun s x) := by
  unfold dispatchRun
  repeat' (first | with_reducible assumption | intro _ | with_reducible apply keeps_readSlabs | with_reducible apply keeps_blockStep | with_reducible apply keeps_endStep | with_reducible refine keeps_allocSlabs _ _ ?_ _ _ (by with_reducible assumption) | with_reducible apply keeps_waitStep | with_reducible apply keeps_modInv | with_reducible apply keeps_resolveAll | split | dsimp only)

theorem keeps_ownerWindowFree (s : State) (i t j : Nat) (hκ : Keeps κ s) : Keeps κ (ownerWindowFree s i t j) := by
  unfold ownerWindowFree
  repeat' (first | with_reducible assumption | intro _ | with_reducible apply keeps_tryWaiting | with_reducible refine keeps_ite ?_ ?_ | split)

theorem keeps_expertRetry (s : State) (i t j : Nat) (hκ : Keeps κ s) : Keeps κ (expertRetry s i t j) := by
  unfold expertRetry
  repeat' (first | with_reducible assumption | intro _ | with_reducible apply keeps_sendParts | with_reducible apply keeps_bump64 | with_reducible apply keeps_setSlot | with_reducible refine keeps_ite ?_ ?_ | split)

theorem keeps_expertReturnTimeout (s : State) (i t j : Nat) (hκ : Keeps κ s) : Keeps κ (expertReturnTimeout s i t j) := by
  unfold expertReturnTimeout
  repeat' (first | with_reducible assumption | intro _ | with_reducible apply keeps_settleDispatch | with_reducible apply keeps_degradeSlot | with_reducible apply keeps_modInv | with_reducible apply keeps_timingChoice | with_reducible apply keeps_bump | with_reducible apply keeps_toBackup | with_reducible refine keeps_ite ?_ ?_ | split)

theorem keeps_expertsFenced (s : State) (hκ : Keeps κ s) : Keeps κ (expertsFenced s) := by
  unfold expertsFenced
  repeat' (first | with_reducible assumption | intro _ | with_reducible apply keeps_toBackup | with_reducible apply keeps_bump | with_reducible refine keeps_foldl ?_ ?_ _ | with_reducible refine keeps_foldlFst ?_ ?_ _ | with_reducible refine keeps_ite ?_ ?_ | split)

theorem keeps_takePart (s : State) (i n : Nat) (v : Inv) (r : Recipe) (e : ESlot) (p : Nat) (pay : List Byte) (hκ : Keeps κ s) : Keeps κ (takePart s i n v r e p pay) := by
  unfold takePart
  repeat' (first | with_reducible assumption | intro _ | with_reducible apply keeps_vatPut | with_reducible apply keeps_settleDispatch | with_reducible apply keeps_setSlot)

theorem keeps_combineData (s : State) (k : Packet) (poisoned : State → Nat → State) (hκ : Keeps κ s) (hκpoisoned : ∀ z1, Keeps κ z1 → ∀ z2, Keeps κ (poisoned z1 z2)) : Keeps κ (combineData s k poisoned) := by
  unfold combineData
  repeat' (first | with_reducible assumption | with_reducible apply hκpoisoned | intro _ | with_reducible apply keeps_bump | with_reducible apply keeps_bump64 | with_reducible apply keeps_takePart | with_reducible refine keeps_ite ?_ ?_ | split | dsimp only)

theorem keeps_combineRun (s : State) (x : Run) (hκ : Keeps κ s) : Keeps κ (combineRun s x) := by
  unfold combineRun
  repeat' (first | with_reducible assumption | intro _ | with_reducible apply keeps_blockStep | with_reducible apply keeps_withData | with_reducible apply keeps_putAll | with_reducible refine keeps_ite ?_ ?_ | split)

end Sys2Proof.Machine
end

