-- ==== Sys2Proof/Laws/KeepsColl.lean ====
section
/-! SUPPORT. What groups, collectives and the Churn keep: the queue and both memories' canonical form, one lemma per operation. -/
namespace Sys2Proof.Machine

variable {κ : Kept}

theorem keeps_installSlice0 (s : State) (hκ : Keeps κ s) : Keeps κ (installSlice0 s) := by
  unfold installSlice0
  repeat' (first | with_reducible assumption | intro _ | with_reducible apply keeps_setFn | with_reducible refine keeps_ite ?_ ?_ | split | dsimp only | (refine keeps_of_parts ?_; dsimp only; with_reducible (first | refine keeps_parts ?_ | refine keepsParts_vat ?_ _ _ | refine keepsParts_cellar ?_ _ _ | refine keepsParts_vatFilter ?_ _)))

theorem keeps_topoEval (s : State) (hκ : Keeps κ s) : Keeps κ (topoEval s) := by
  unfold topoEval
  repeat' (first | with_reducible assumption | intro _ | with_reducible apply keeps_raiseEvent | with_reducible refine keeps_ite ?_ ?_ | split | dsimp only | (refine keeps_of_parts ?_; dsimp only; with_reducible (first | refine keeps_parts ?_ | refine keepsParts_vat ?_ _ _ | refine keepsParts_cellar ?_ _ _ | refine keepsParts_vatFilter ?_ _)))

theorem keeps_coordInvalidEvent (s : State) (hκ : Keeps κ s) : Keeps κ (coordInvalidEvent s) := by
  unfold coordInvalidEvent
  repeat' (first | with_reducible assumption | intro _ | with_reducible apply keeps_raiseEvent | with_reducible refine keeps_ite ?_ ?_)

theorem keeps_startFail (s : State) (a : Nat) (hκ : Keeps κ s) : Keeps κ (startFail s a) := by
  unfold startFail
  repeat' (first | with_reducible assumption | intro _ | with_reducible apply keeps_raiseEvent | with_reducible apply keeps_setFn)

theorem keeps_sliceBegin (s : State) (k : Nat) (hκ : Keeps κ s) : Keeps κ (sliceBegin s k) := by
  unfold sliceBegin
  repeat' (first | with_reducible assumption | intro _ | with_reducible apply keeps_wr | with_reducible apply keeps_startFail | split | dsimp only | (refine keeps_of_parts ?_; dsimp only; with_reducible (first | refine keeps_parts ?_ | refine keepsParts_vat ?_ _ _ | refine keepsParts_cellar ?_ _ _ | refine keepsParts_vatFilter ?_ _)))

theorem keeps_sliceStopped (s : State) (k : Nat) (hκ : Keeps κ s) : Keeps κ (sliceStopped s k) := by
  unfold sliceStopped
  repeat' (first | with_reducible assumption | intro _ | with_reducible apply keeps_setFn | with_reducible apply keeps_sliceBegin | with_reducible refine keeps_ite ?_ ?_ | split | dsimp only | (refine keeps_of_parts ?_; dsimp only; with_reducible (first | refine keeps_parts ?_ | refine keepsParts_vat ?_ _ _ | refine keepsParts_cellar ?_ _ _ | refine keepsParts_vatFilter ?_ _)))

theorem keeps_sliceCommit (s : State) (k : Nat) (hκ : Keeps κ s) : Keeps κ (sliceCommit s k) := by
  unfold sliceCommit
  repeat' (first | with_reducible assumption | intro _ | with_reducible apply keeps_wr | with_reducible refine keeps_ite ?_ ?_ | split | dsimp only | (refine keeps_of_parts ?_; dsimp only; with_reducible (first | refine keeps_parts ?_ | refine keepsParts_vat ?_ _ _ | refine keepsParts_cellar ?_ _ _ | refine keepsParts_vatFilter ?_ _)))

theorem keeps_drainDrop (s : State) (k : Nat) (os : List OutPacket) (hκ : Keeps κ s) : Keeps κ (drainDrop s k os) := by
  unfold drainDrop
  repeat' (first | with_reducible assumption | intro _ | with_reducible apply keeps_bump | with_reducible apply keeps_releaseOut | with_reducible refine keeps_foldl ?_ ?_ _)

theorem keeps_sliceDrain (s : State) (k : Nat) (hκ : Keeps κ s) : Keeps κ (sliceDrain s k) := by
  unfold sliceDrain
  repeat' (first | with_reducible assumption | intro _ | with_reducible apply keeps_sliceStopped | with_reducible apply keeps_drainDrop | split | dsimp only | (refine keeps_of_parts ?_; dsimp only; with_reducible (first | refine keeps_parts ?_ | refine keepsParts_vat ?_ _ _ | refine keepsParts_cellar ?_ _ _ | refine keepsParts_vatFilter ?_ _)))

theorem keeps_setGroup (s : State) (g : Nat) (x : Group) (hκ : Keeps κ s) : Keeps κ (setGroup s g x) := by
  unfold setGroup
  repeat' (first | with_reducible assumption | intro _ | split | dsimp only | (refine keeps_of_parts ?_; dsimp only; with_reducible (first | refine keeps_parts ?_ | refine keepsParts_vat ?_ _ _ | refine keepsParts_cellar ?_ _ _ | refine keepsParts_vatFilter ?_ _)))

theorem keeps_setInst (s : State) (g : Nat) (i : Inst) (hκ : Keeps κ s) : Keeps κ (setInst s g i) := by
  unfold setInst
  repeat' (first | with_reducible assumption | intro _ | with_reducible apply keeps_setGroup | split)

theorem keeps_sendEdge (s : State) (gid : Nat) (g : Group) (b : Nat) (op : BitVec 8) (chunk aux : Nat) (poison : Bool) (pay : List Byte) (hκ : Keeps κ s) : Keeps κ (sendEdge s gid g b op chunk aux poison pay) := by
  unfold sendEdge
  repeat' (first | with_reducible assumption | intro _ | with_reducible apply keeps_sendHops)

theorem keeps_sendUp (s : State) (gid : Nat) (g : Group) (op : BitVec 8) (chunk aux : Nat) (poison : Bool) (pay : List Byte) (hκ : Keeps κ s) : Keeps κ (sendUp s gid g op chunk aux poison pay) := by
  unfold sendUp
  repeat' (first | with_reducible assumption | intro _ | with_reducible apply keeps_sendEdge | with_reducible refine keeps_ite ?_ ?_)

theorem keeps_sendKids (s : State) (gid : Nat) (g : Group) (op : BitVec 8) (chunk aux : Nat) (pay : List Byte) (hκ : Keeps κ s) : Keeps κ (sendKids s gid g op chunk aux pay) := by
  unfold sendKids
  repeat' (first | with_reducible assumption | intro _ | with_reducible apply keeps_sendEdge | with_reducible refine keeps_foldl ?_ ?_ _)

theorem keeps_sendMember (s : State) (gid : Nat) (g : Group) (r : Nat) (op : BitVec 8) (chunk aux : Nat) (pay : List Byte) (hκ : Keeps κ s) : Keeps κ (sendMember s gid g r op chunk aux pay) := by
  unfold sendMember
  repeat' (first | with_reducible assumption | intro _ | with_reducible apply keeps_sendHops | with_reducible apply keeps_bump | with_reducible refine keeps_ite ?_ ?_ | split | dsimp only)

theorem keeps_sendAbort (s : State) (gid epoch slice : Nat) (dst : BitVec 23) (pay : List Byte) (hκ : Keeps κ s) : Keeps κ (sendAbort s gid epoch slice dst pay) := by
  unfold sendAbort
  repeat' (first | with_reducible assumption | intro _ | with_reducible apply keeps_sendPacket)

theorem keeps_sendMgmt (s : State) (coord : Nat) (hκ : Keeps κ s) : Keeps κ (sendMgmt s coord) := by
  unfold sendMgmt
  repeat' (first | with_reducible assumption | intro _ | with_reducible apply keeps_drawBytes | with_reducible apply keeps_sendPacket)

theorem keeps_openInst (s : State) (gid : Nat) (hκ : Keeps κ s) : Keeps κ (openInst s gid) := by
  unfold openInst
  repeat' (first | with_reducible assumption | intro _ | with_reducible apply keeps_setGroup | with_reducible refine keeps_ite ?_ ?_ | split)

theorem keeps_touchInst (s : State) (gid : Nat) (hκ : Keeps κ s) : Keeps κ (touchInst s gid) := by
  unfold touchInst
  repeat' (first | with_reducible assumption | intro _ | with_reducible apply keeps_setInst | split)

theorem keeps_dropInst (s : State) (gid epoch : Nat) (hκ : Keeps κ s) : Keeps κ (dropInst s gid epoch) := by
  unfold dropInst
  repeat' (first | with_reducible assumption | intro _ | with_reducible apply keeps_releaseOut | with_reducible refine keeps_foldl ?_ ?_ _ | with_reducible refine keeps_foldlFst ?_ ?_ _ | split | dsimp only | (refine keeps_of_parts ?_; dsimp only; with_reducible (first | refine keeps_parts ?_ | refine keepsParts_vat ?_ _ _ | refine keepsParts_cellar ?_ _ _ | refine keepsParts_vatFilter ?_ _)))

theorem keeps_closeInst (s : State) (gid : Nat) (rerun : Bool) (hκ : Keeps κ s) : Keeps κ (closeInst s gid rerun) := by
  unfold closeInst
  repeat' (first | with_reducible assumption | intro _ | with_reducible apply keeps_setGroup | with_reducible refine keeps_ite ?_ ?_ | split | dsimp only | (refine keeps_of_parts ?_; dsimp only; with_reducible (first | refine keeps_parts ?_ | refine keepsParts_vat ?_ _ _ | refine keepsParts_cellar ?_ _ _ | refine keepsParts_vatFilter ?_ _)))

theorem keeps_collEndEvent (s : State) (gid : Nat) (r : Rec) (hκ : Keeps κ s) : Keeps κ (collEndEvent s gid r) := by
  unfold collEndEvent
  repeat' (first | with_reducible assumption | intro _ | with_reducible apply keeps_raiseEvent)

theorem keeps_finishInst (s : State) (gid : Nat) (g : Group) (i : Inst) (r : Rec) (ranks : List Nat) (hκ : Keeps κ s) : Keeps κ (finishInst s gid g i r ranks) := by
  unfold finishInst
  repeat' (first | with_reducible assumption | intro _ | with_reducible apply keeps_sendMember | with_reducible apply keeps_setGroup | with_reducible apply keeps_bump64 | with_reducible apply keeps_collEndEvent | with_reducible apply keeps_bump | with_reducible apply keeps_closeInst | with_reducible refine keeps_foldl ?_ ?_ _ | with_reducible refine keeps_foldlFst ?_ ?_ _ | with_reducible refine keeps_ite ?_ ?_)

theorem keeps_endInst (s : State) (gid status rank id : Nat) (hκ : Keeps κ s) : Keeps κ (endInst s gid status rank id) := by
  unfold endInst
  repeat' (first | with_reducible assumption | intro _ | with_reducible apply keeps_dropInst | with_reducible apply keeps_sendKids | with_reducible apply keeps_finishInst | with_reducible apply keeps_id | with_reducible refine keeps_ite ?_ ?_ | split)

theorem keeps_rerunLocal (s : State) (gid : Nat) (hκ : Keeps κ s) : Keeps κ (rerunLocal s gid) := by
  unfold rerunLocal
  repeat' (first | with_reducible assumption | intro _ | with_reducible apply keeps_dropInst | with_reducible apply keeps_sendMember | with_reducible apply keeps_sendKids | with_reducible apply keeps_closeInst | with_reducible apply keeps_bump | with_reducible refine keeps_foldl ?_ ?_ _ | with_reducible refine keeps_foldlFst ?_ ?_ _ | split)

theorem keeps_rerunRoot (s : State) (gid why : Nat) (hκ : Keeps κ s) : Keeps κ (rerunRoot s gid why) := by
  unfold rerunRoot
  repeat' (first | with_reducible assumption | intro _ | with_reducible apply keeps_endInst | with_reducible apply keeps_rerunLocal | with_reducible refine keeps_ite ?_ ?_ | split)

theorem keeps_rootReport (s : State) (gid status rank id : Nat) (hκ : Keeps κ s) : Keeps κ (rootReport s gid status rank id) := by
  unfold rootReport
  repeat' (first | with_reducible assumption | intro _ | with_reducible apply keeps_rerunRoot | with_reducible apply keeps_endInst | with_reducible apply keeps_id | with_reducible refine keeps_ite ?_ ?_)

theorem keeps_report (s : State) (gid status rank id : Nat) (hκ : Keeps κ s) : Keeps κ (report s gid status rank id) := by
  unfold report
  repeat' (first | with_reducible assumption | intro _ | with_reducible apply keeps_rootReport | with_reducible apply keeps_sendUp | with_reducible apply keeps_id | with_reducible refine keeps_ite ?_ ?_ | split)

theorem keeps_commitLocal (s : State) (gid : Nat) (r : Rec) (hκ : Keeps κ s) : Keeps κ (commitLocal s gid r) := by
  unfold commitLocal
  repeat' (first | with_reducible assumption | intro _ | with_reducible apply keeps_sendKids | with_reducible apply keeps_finishInst | with_reducible apply keeps_setGroup | with_reducible refine keeps_ite ?_ ?_ | split)

theorem keeps_chainCrumb (s : State) (gid : Nat) (g : Group) (i : Inst) (hκ : Keeps κ s) : Keeps κ (chainCrumb s gid g i) := by
  unfold chainCrumb
  repeat' (first | with_reducible assumption | intro _ | with_reducible apply keeps_setGroup | with_reducible apply keeps_logCrumb)

theorem keeps_commitRoot (s : State) (gid status rank id digest : Nat) (hκ : Keeps κ s) : Keeps κ (commitRoot s gid status rank id digest) := by
  unfold commitRoot
  repeat' (first | with_reducible assumption | intro _ | with_reducible apply keeps_chainCrumb | with_reducible apply keeps_commitLocal | with_reducible apply keeps_id | with_reducible refine keeps_ite ?_ ?_ | split)

theorem keeps_copyChunk (s : State) (gid : Nat) (locals : List (Nat × Nat)) (kids : List Nat) (others : List (Header × Hop)) (k present srcRank : Nat) (poison stomp : Bool) (pay : List Byte) (hκ : Keeps κ s) : Keeps κ (copyChunk s gid locals kids others k present srcRank poison stomp pay) := by
  unfold copyChunk
  repeat' (first | with_reducible assumption | intro _ | with_reducible apply keeps_setInst | with_reducible apply keeps_sendHops | with_reducible apply keeps_bumpBy | with_reducible refine keeps_foldl ?_ ?_ _ | with_reducible refine keeps_foldlFst ?_ ?_ _ | with_reducible refine keeps_ite ?_ ?_ | split)

theorem keeps_copyResult (s : State) (gid : Nat) (locals : List (Nat × Nat)) (kids : List Nat) (k present srcRank : Nat) (poison stomp : Bool) (pay : List Byte) (hκ : Keeps κ s) : Keeps κ (copyResult s gid locals kids k present srcRank poison stomp pay) := by
  unfold copyResult
  repeat' (first | with_reducible assumption | intro _ | with_reducible apply keeps_copyChunk)

theorem keeps_poisonOut (s : State) (gid : Nat) (g : Group) (reason : Nat) (locals : List (Nat × Nat)) (kids : List Nat) (k : Nat) (hκ : Keeps κ s) : Keeps κ (poisonOut s gid g reason locals kids k) := by
  unfold poisonOut
  repeat' (first | with_reducible assumption | intro _ | with_reducible apply keeps_sendMember | with_reducible apply keeps_bump | with_reducible apply keeps_sendEdge | with_reducible refine keeps_foldl ?_ ?_ _)

theorem keeps_sendNotices (s : State) (gid : Nat) (g : Group) (i : Inst) (key reason : Nat) (hκ : Keeps κ s) : Keeps κ (sendNotices s gid g i key reason) := by
  unfold sendNotices
  repeat' (first | with_reducible assumption | intro _ | with_reducible apply keeps_poisonOut | with_reducible refine keeps_ite ?_ ?_ | split)

theorem keeps_notePoison (s : State) (gid key reason : Nat) (hκ : Keeps κ s) : Keeps κ (notePoison s gid key reason) := by
  unfold notePoison
  repeat' (first | with_reducible assumption | intro _ | with_reducible apply keeps_sendNotices | with_reducible apply keeps_setInst | with_reducible refine keeps_ite ?_ ?_ | split)

theorem keeps_passResult (s : State) (gid k present srcRank : Nat) (poison stomp : Bool) (pay : List Byte) (hκ : Keeps κ s) : Keeps κ (passResult s gid k present srcRank poison stomp pay) := by
  unfold passResult
  repeat' (first | with_reducible assumption | intro _ | with_reducible apply keeps_copyResult | split)

theorem keeps_noteCopyPoison (s : State) (h : Header) (hκ : Keeps κ s) : Keeps κ (noteCopyPoison s h) := by
  unfold noteCopyPoison
  repeat' (first | with_reducible assumption | intro _ | with_reducible apply keeps_notePoison | with_reducible refine keeps_ite ?_ ?_ | split)

theorem keeps_rootDone (s : State) (gid : Nat) (g : Group) (i : Inst) (hκ : Keeps κ s) : Keeps κ (rootDone s gid g i) := by
  unfold rootDone
  repeat' (first | with_reducible assumption | intro _ | with_reducible apply keeps_commitRoot | with_reducible apply keeps_endInst | with_reducible apply keeps_rerunRoot | with_reducible refine keeps_ite ?_ ?_)

theorem keeps_settleGroup (s : State) (gid : Nat) (hκ : Keeps κ s) : Keeps κ (settleGroup s gid) := by
  unfold settleGroup
  repeat' (first | with_reducible assumption | intro _ | with_reducible apply keeps_bumpBy | with_reducible apply keeps_setInst | with_reducible apply keeps_rootDone | with_reducible apply keeps_sendUp | with_reducible refine keeps_ite ?_ ?_ | split)

theorem keeps_settleAll (s : State) (hκ : Keeps κ s) : Keeps κ (settleAll s) := by
  unfold settleAll
  repeat' (first | with_reducible assumption | intro _ | with_reducible apply keeps_settleGroup | with_reducible refine keeps_foldl ?_ ?_ _)

theorem keeps_sendFinals (gid n : Nat) (s : State) (hκ : Keeps κ s) : Keeps κ (sendFinals gid n s) := by
  induction n generalizing s with
  | zero => exact hκ
  | succ n ih =>
    unfold sendFinals
    dsimp only
    repeat' split
    all_goals (try exact hκ)
    refine ih _ ?_
    with_reducible apply keeps_sendKids
    with_reducible apply keeps_setInst
    exact hκ

theorem keeps_releaseFinals (s : State) (gid : Nat) (hκ : Keeps κ s) : Keeps κ (releaseFinals s gid) := by
  unfold releaseFinals
  repeat' (first | with_reducible assumption | intro _ | with_reducible apply keeps_sendFinals)

theorem keeps_noteMaxima (s : State) (gid source sp : Nat) (es : List Int) (hκ : Keeps κ s) : Keeps κ (noteMaxima s gid source sp es) := by
  unfold noteMaxima
  repeat' (first | with_reducible assumption | intro _ | with_reducible apply keeps_setInst | with_reducible apply keeps_releaseFinals | with_reducible apply keeps_sendUp | with_reducible refine keeps_ite ?_ ?_ | split)

theorem keeps_holdChunk (s : State) (gid : Nat) (x : Contribution) (hκ : Keeps κ s) : Keeps κ (holdChunk s gid x) := by
  unfold holdChunk
  repeat' (first | with_reducible assumption | intro _ | with_reducible apply keeps_setInst | split)

theorem keeps_deliverChunk (s : State) (gid : Nat) (near : List (Nat × Nat)) (far : List (Header × Hop)) (c srcRank : Nat) (pkt : Packet) (hκ : Keeps κ s) : Keeps κ (deliverChunk s gid near far c srcRank pkt) := by
  unfold deliverChunk
  repeat' (first | with_reducible assumption | intro _ | with_reducible apply keeps_notePoison | with_reducible apply keeps_copyChunk | with_reducible refine keeps_foldl ?_ ?_ _)

theorem keeps_moveChunk (s : State) (gid : Nat) (x : Contribution) (hκ : Keeps κ s) : Keeps κ (moveChunk s gid x) := by
  unfold moveChunk
  repeat' (first | with_reducible assumption | intro _ | with_reducible apply keeps_holdChunk | with_reducible apply keeps_notePoison | with_reducible apply keeps_passResult | with_reducible apply keeps_sendUp | with_reducible apply keeps_deliverChunk | with_reducible refine keeps_ite ?_ ?_ | split)

theorem keeps_flushHeld (s : State) (gid : Nat) (hκ : Keeps κ s) : Keeps κ (flushHeld s gid) := by
  unfold flushHeld
  repeat' (first | with_reducible assumption | intro _ | with_reducible apply keeps_moveChunk | with_reducible apply keeps_setInst | with_reducible refine keeps_foldl ?_ ?_ _ | with_reducible refine keeps_foldlFst ?_ ?_ _ | split)

theorem keeps_joinComplete (s : State) (gid : Nat) (j : JoinSummary) (hκ : Keeps κ s) : Keeps κ (joinComplete s gid j) := by
  unfold joinComplete
  repeat' (first | with_reducible assumption | intro _ | with_reducible apply keeps_endInst | with_reducible apply keeps_setInst | with_reducible apply keeps_commitRoot | with_reducible apply keeps_settleGroup | with_reducible apply keeps_flushHeld | with_reducible apply keeps_releaseFinals | with_reducible refine keeps_ite ?_ ?_ | split)

theorem keeps_tryJoinUp (s : State) (gid : Nat) (hκ : Keeps κ s) : Keeps κ (tryJoinUp s gid) := by
  unfold tryJoinUp
  repeat' (first | with_reducible assumption | intro _ | with_reducible apply keeps_setInst | with_reducible apply keeps_joinComplete | with_reducible apply keeps_settleGroup | with_reducible apply keeps_sendUp | with_reducible refine keeps_ite ?_ ?_ | split)

theorem keeps_joinMember (s : State) (gid r : Nat) (d : BitVec 512) (ok : Bool) (hκ : Keeps κ s) : Keeps κ (joinMember s gid r d ok) := by
  unfold joinMember
  repeat' (first | with_reducible assumption | intro _ | with_reducible apply keeps_bump64 | with_reducible apply keeps_report | with_reducible apply keeps_setInst | with_reducible apply keeps_tryJoinUp | with_reducible apply keeps_flushHeld | with_reducible refine keeps_ite ?_ ?_ | split)

theorem keeps_checkedJoin (s : State) (gid : Nat) (g : Group) (r : Nat) (d : BitVec 512) (hκ : Keeps κ s) : Keeps κ (checkedJoin s gid g r d) := by
  unfold checkedJoin
  repeat' (first | with_reducible assumption | intro _ | with_reducible apply keeps_joinMember | with_reducible apply keeps_bump | with_reducible refine keeps_ite ?_ ?_)

theorem keeps_takeJoin (s : State) (p : Nat) (pkt : Packet) (hκ : Keeps κ s) : Keeps κ (takeJoin s p pkt) := by
  unfold takeJoin
  extract_lets hd gid none_
  have hn : ∀ d, Keeps κ (none_ d) := fun d => keeps_sendAbort _ _ _ _ _ _ (keeps_bump _ _ hκ)
  clear_value none_
  split
  · exact hn _
  · refine keeps_ite (hn _) ?_
    split
    · exact hn _
    · refine keeps_ite (hn _) (keeps_ite ?_ (keeps_ite ?_ ?_))
      · have ht : Keeps κ (touchInst (openInst s gid) gid) := keeps_touchInst _ _ (keeps_openInst _ _ hκ)
        split
        · exact ht
        · split
          · exact ht
          · exact keeps_ite (keeps_checkedJoin _ _ _ _ _ ht) (keeps_setInst _ _ _ ht)
      · exact keeps_ite (keeps_bump64 _ _ _ hκ) (keeps_setGroup _ _ _ hκ)
      · with_reducible apply keeps_sendAbort
        with_reducible apply keeps_bump
        exact hκ

theorem keeps_heldPass (s : State) (gid : Nat) (hκ : Keeps κ s) : Keeps κ (heldPass s gid) := by
  unfold heldPass
  repeat' (first | with_reducible assumption | intro _ | with_reducible apply keeps_takeJoin | with_reducible apply keeps_setGroup | with_reducible refine keeps_foldl ?_ ?_ _ | with_reducible refine keeps_foldlFst ?_ ?_ _ | with_reducible refine keeps_ite ?_ ?_ | split)

theorem keeps_afterColl (s : State) (hκ : Keeps κ s) : Keeps κ (afterColl s) := by
  unfold afterColl
  repeat' (first | with_reducible assumption | intro _ | with_reducible apply keeps_heldPass | with_reducible refine keeps_foldl ?_ ?_ _)

theorem keeps_dropGroup (s : State) (gid : Nat) (hκ : Keeps κ s) : Keeps κ (dropGroup s gid) := by
  unfold dropGroup
  repeat' (first | with_reducible assumption | intro _ | with_reducible apply keeps_endInst | split | dsimp only | (refine keeps_of_parts ?_; dsimp only; with_reducible (first | refine keeps_parts ?_ | refine keepsParts_vat ?_ _ _ | refine keepsParts_cellar ?_ _ _ | refine keepsParts_vatFilter ?_ _)))

theorem keeps_retreeGroup (s : State) (gid : Nat) (hκ : Keeps κ s) : Keeps κ (retreeGroup s gid) := by
  unfold retreeGroup
  repeat' (first | with_reducible assumption | intro _ | with_reducible apply keeps_setGroup | with_reducible apply keeps_sendMgmt | with_reducible refine keeps_foldl ?_ ?_ _ | with_reducible refine keeps_foldlFst ?_ ?_ _ | with_reducible refine keeps_ite ?_ ?_ | split | dsimp only | (refine keeps_of_parts ?_; dsimp only; with_reducible (first | refine keeps_parts ?_ | refine keepsParts_vat ?_ _ _ | refine keepsParts_cellar ?_ _ _ | refine keepsParts_vatFilter ?_ _)))

theorem keeps_retree (s : State) (gs : List Nat) (hκ : Keeps κ s) : Keeps κ (retree s gs) := by
  unfold retree
  repeat' (first | with_reducible assumption | intro _ | with_reducible apply keeps_retreeGroup | with_reducible refine keeps_foldl ?_ ?_ _)

theorem keeps_commitTables (s : State) (k : Nat) (hκ : Keeps κ s) : Keeps κ (commitTables s k) := by
  unfold commitTables
  repeat' (first | with_reducible assumption | intro _ | with_reducible apply keeps_sliceCommit | with_reducible apply keeps_retree | with_reducible refine keeps_ite ?_ ?_)

theorem keeps_groupsSliceOff (s : State) (k : Nat) (hκ : Keeps κ s) : Keeps κ (groupsSliceOff s k) := by
  unfold groupsSliceOff
  repeat' (first | with_reducible assumption | intro _ | with_reducible apply keeps_sendMgmt | with_reducible apply keeps_dropGroup | with_reducible refine keeps_foldl ?_ ?_ _ | with_reducible refine keeps_foldlFst ?_ ?_ _ | split)

theorem keeps_collSent (s : State) (p : Nat) (h : Header) (hκ : Keeps κ s) : Keeps κ (collSent s p h) := by
  unfold collSent
  repeat' (first | with_reducible assumption | intro _ | with_reducible apply keeps_setInst | with_reducible refine keeps_ite ?_ ?_ | split)

theorem keeps_ackGroup (p : Nat) (s : State) (gid : Nat) (hκ : Keeps κ s) : Keeps κ (ackGroup p s gid) := by
  unfold ackGroup
  repeat' (first | with_reducible assumption | intro _ | with_reducible apply keeps_settleGroup | with_reducible apply keeps_setInst | with_reducible refine keeps_foldl ?_ ?_ _ | with_reducible refine keeps_foldlFst ?_ ?_ _ | with_reducible refine keeps_ite ?_ ?_ | split)

theorem keeps_collAcked (s : State) (p : Nat) (hκ : Keeps κ s) : Keeps κ (collAcked s p) := by
  unfold collAcked
  repeat' (first | with_reducible assumption | intro _ | with_reducible apply keeps_afterColl | with_reducible apply keeps_ackGroup | with_reducible refine keeps_foldl ?_ ?_ _ | with_reducible refine keeps_foldlFst ?_ ?_ _ | with_reducible refine keeps_ite ?_ ?_)

theorem keeps_dropStranded (s : State) (p : Nat) (hκ : Keeps κ s) : Keeps κ (dropStranded s p) := by
  unfold dropStranded
  repeat' (first | with_reducible assumption | intro _ | with_reducible apply keeps_setPort | with_reducible apply keeps_releaseOut | with_reducible apply keeps_bumpBy | with_reducible refine keeps_foldl ?_ ?_ _ | with_reducible refine keeps_foldlFst ?_ ?_ _ | split | dsimp only | (refine keeps_of_parts ?_; dsimp only; with_reducible (first | refine keeps_parts ?_ | refine keepsParts_vat ?_ _ _ | refine keepsParts_cellar ?_ _ _ | refine keepsParts_vatFilter ?_ _)))

theorem keeps_memberPortLost (s : State) (p : Nat) (hκ : Keeps κ s) : Keeps κ (memberPortLost s p) := by
  unfold memberPortLost
  repeat' (first | with_reducible assumption | intro _ | with_reducible apply keeps_dropStranded | with_reducible apply keeps_afterColl | with_reducible apply keeps_settleAll | with_reducible refine keeps_ite ?_ ?_ | split | dsimp only | (refine keeps_of_parts ?_; dsimp only; with_reducible (first | refine keeps_parts ?_ | refine keepsParts_vat ?_ _ _ | refine keepsParts_cellar ?_ _ _ | refine keepsParts_vatFilter ?_ _)))

theorem keeps_storeAcc (s : State) (d : BitVec 512) (x : Acc) (hκ : Keeps κ s) : Keeps κ (storeAcc s d x) := by
  unfold storeAcc
  repeat' (first | with_reducible assumption | intro _ | with_reducible apply keeps_writeUnit | split)

theorem keeps_checkAcc (s : State) (x : Acc) (hκ : Keeps κ s) : Keeps κ (checkAcc s x).1 := by
  unfold checkAcc
  repeat' (first | with_reducible assumption | intro _ | with_reducible apply keeps_failUnit | with_reducible refine keeps_ite ?_ ?_ | split)

theorem keeps_openAcc (s : State) (stamp : Nat) (d : BitVec 512) (a : Nat) (hκ : Keeps κ s) : Keeps κ (openAcc s stamp d a).1 := by
  unfold openAcc
  repeat' (first | with_reducible assumption | intro _ | with_reducible apply keeps_bump | with_reducible refine keeps_ite ?_ ?_ | split | dsimp only | (refine keeps_of_parts ?_; dsimp only; with_reducible (first | refine keeps_parts ?_ | refine keepsParts_vat ?_ _ _ | refine keepsParts_cellar ?_ _ _ | refine keepsParts_vatFilter ?_ _)))

theorem keeps_spillAcc (s : State) (gid : Nat) (d : BitVec 512) (a : Nat) (x : Acc) (hκ : Keeps κ s) : Keeps κ (spillAcc s gid d a x) := by
  unfold spillAcc
  repeat' (first | with_reducible assumption | intro _ | with_reducible apply keeps_setInst | with_reducible apply keeps_storeAcc | with_reducible apply keeps_bump64 | split | dsimp only | (refine keeps_of_parts ?_; dsimp only; with_reducible (first | refine keeps_parts ?_ | refine keepsParts_vat ?_ _ _ | refine keepsParts_cellar ?_ _ _ | refine keepsParts_vatFilter ?_ _)))

theorem keeps_spillNow (s : State) (gid : Nat) (d : BitVec 512) (a : Nat) (hκ : Keeps κ s) : Keeps κ (spillNow s gid d a) := by
  unfold spillNow
  repeat' (first | with_reducible assumption | intro _ | with_reducible apply keeps_spillAcc | with_reducible refine keeps_ite ?_ ?_ | split)

theorem keeps_addTerm (s : State) (gid : Nat) (d : BitVec 512) (t : Contribution) (why stamp a : Nat) (hκ : Keeps κ s) : Keeps κ (addTerm s gid d t why stamp a) := by
  unfold addTerm
  repeat' (first | with_reducible assumption | intro _ | with_reducible apply keeps_openAcc | with_reducible apply keeps_checkAcc | with_reducible apply keeps_bump64 | with_reducible apply keeps_bumpBy | with_reducible apply keeps_spillNow | with_reducible apply keeps_storeAcc | with_reducible apply keeps_setInst | with_reducible refine keeps_ite ?_ ?_ | split | dsimp only)

theorem keeps_takeTerms (s : State) (gid : Nat) (d : BitVec 512) (t : Contribution) (hκ : Keeps κ s) : Keeps κ (takeTerms s gid d t) := by
  unfold takeTerms
  repeat' (first | with_reducible assumption | intro _ | with_reducible apply keeps_addTerm | with_reducible refine keeps_foldl ?_ ?_ _ | with_reducible refine keeps_foldlFst ?_ ?_ _ | split)

theorem keeps_waitTerm (s : State) (gid : Nat) (t : Contribution) (hκ : Keeps κ s) : Keeps κ (waitTerm s gid t) := by
  unfold waitTerm
  repeat' (first | with_reducible assumption | intro _ | with_reducible apply keeps_setInst | split)

theorem keeps_checkTerm (s : State) (d : BitVec 512) (t : Contribution) (hκ : Keeps κ s) : Keeps κ (checkTerm s d t).1 := by
  unfold checkTerm
  repeat' (first | with_reducible assumption | intro _ | with_reducible apply keeps_bump | with_reducible refine keeps_ite ?_ ?_ | split)

theorem keeps_offerTerm (s : State) (gid : Nat) (t : Contribution) (hκ : Keeps κ s) : Keeps κ (offerTerm s gid t) := by
  unfold offerTerm
  repeat' (first | with_reducible assumption | intro _ | with_reducible apply keeps_waitTerm | with_reducible apply keeps_checkTerm | with_reducible apply keeps_moveChunk | with_reducible apply keeps_takeTerms | with_reducible refine keeps_ite ?_ ?_ | split)

theorem keeps_flushWaiting (s : State) (gid : Nat) (hκ : Keeps κ s) : Keeps κ (flushWaiting s gid) := by
  unfold flushWaiting
  repeat' (first | with_reducible assumption | intro _ | with_reducible apply keeps_offerTerm | with_reducible apply keeps_setInst | with_reducible refine keeps_foldl ?_ ?_ _ | with_reducible refine keeps_foldlFst ?_ ?_ _ | split)

theorem keeps_churnTake (s : State) (gid a : Nat) (hκ : Keeps κ s) : Keeps κ (churnTake s gid a) := by
  unfold churnTake
  repeat' (first | with_reducible assumption | intro _ | with_reducible apply keeps_takeTerms | with_reducible apply keeps_setInst | with_reducible refine keeps_ite ?_ ?_ | split)

theorem keeps_skewWindowEnd (s : State) (gid a : Nat) (hκ : Keeps κ s) : Keeps κ (skewWindowEnd s gid a) := by
  unfold skewWindowEnd
  repeat' (first | with_reducible assumption | intro _ | with_reducible apply keeps_setInst | with_reducible apply keeps_spillAcc | with_reducible refine keeps_ite ?_ ?_ | split)

theorem keeps_churnLaneFence (s : State) (l : Nat) (hκ : Keeps κ s) : Keeps κ (churnLaneFence s l) := by
  unfold churnLaneFence
  repeat' (first | with_reducible assumption | intro _ | with_reducible apply keeps_wr | with_reducible apply keeps_proofNext | with_reducible apply keeps_proofDrop | with_reducible apply keeps_proofAbandon | with_reducible refine keeps_ite ?_ ?_)

theorem keeps_laneFault (s : State) (l code : Nat) (context : Word) (hκ : Keeps κ s) : Keeps κ (laneFault s l code context) := by
  unfold laneFault
  repeat' (first | with_reducible assumption | intro _ | with_reducible apply keeps_raiseFault | with_reducible apply keeps_bump | with_reducible apply keeps_churnLaneFence | with_reducible refine keeps_ite ?_ ?_ | split | dsimp only | (refine keeps_of_parts ?_; dsimp only; with_reducible (first | refine keeps_parts ?_ | refine keepsParts_vat ?_ _ _ | refine keepsParts_cellar ?_ _ _ | refine keepsParts_vatFilter ?_ _)))

theorem keeps_churnSpareTakeover (s : State) (l : Nat) (hκ : Keeps κ s) : Keeps κ (churnSpareTakeover s l) := by
  unfold churnSpareTakeover
  repeat' (first | with_reducible assumption | intro _ | with_reducible apply keeps_wr | with_reducible refine keeps_ite ?_ ?_ | split)

theorem keeps_emitChunk (s : State) (gid : Nat) (d : BitVec 512) (k : Nat) (hκ : Keeps κ s) : Keeps κ (emitChunk s gid d k) := by
  unfold emitChunk
  repeat' (first | with_reducible assumption | intro _ | with_reducible apply keeps_passResult | with_reducible apply keeps_setInst | with_reducible apply keeps_notePoison | with_reducible refine keeps_foldl ?_ ?_ _ | with_reducible refine keeps_foldlFst ?_ ?_ _ | with_reducible refine keeps_ite ?_ ?_ | split)

theorem keeps_emitPartial (s : State) (gid : Nat) (g : Group) (d : BitVec 512) (a : Nat) (x : Acc) (hκ : Keeps κ s) : Keeps κ (emitPartial s gid g d a x) := by
  unfold emitPartial
  repeat' (first | with_reducible assumption | intro _ | with_reducible apply keeps_sendUp)

theorem keeps_takeAnchor (s : State) (gid source port : Nat) (pkt : Packet) (hκ : Keeps κ s) : Keeps κ (takeAnchor s gid source port pkt) := by
  unfold takeAnchor
  repeat' (first | with_reducible assumption | intro _ | with_reducible apply keeps_setInst | with_reducible apply keeps_sendKids | with_reducible apply keeps_noteMaxima | with_reducible refine keeps_ite ?_ ?_ | split)

theorem keeps_flushAnchors (s : State) (gid : Nat) (hκ : Keeps κ s) : Keeps κ (flushAnchors s gid) := by
  unfold flushAnchors
  repeat' (first | with_reducible assumption | intro _ | with_reducible apply keeps_takeAnchor | with_reducible apply keeps_setInst | with_reducible refine keeps_foldl ?_ ?_ _ | with_reducible refine keeps_foldlFst ?_ ?_ _ | split)

theorem keeps_releaseSpans (s : State) (gid : Nat) (hκ : Keeps κ s) : Keeps κ (releaseSpans s gid) := by
  unfold releaseSpans
  repeat' (first | with_reducible assumption | intro _ | with_reducible apply keeps_setInst | split)

theorem keeps_accumulatorComplete (s : State) (gid a lane : Nat) (residueOk convertOk : Bool) (hκ : Keeps κ s) : Keeps κ (accumulatorComplete s gid a lane residueOk convertOk) := by
  unfold accumulatorComplete
  repeat' (first | with_reducible assumption | intro _ | with_reducible apply keeps_checkAcc | with_reducible apply keeps_laneFault | with_reducible apply keeps_bump | with_reducible apply keeps_bump64 | with_reducible apply keeps_timingChoice | with_reducible apply keeps_setInst | with_reducible apply keeps_emitChunk | with_reducible apply keeps_emitPartial | with_reducible apply keeps_afterColl | with_reducible apply keeps_settleGroup | with_reducible apply keeps_flushWaiting | with_reducible apply keeps_releaseFinals | with_reducible apply keeps_flushAnchors | with_reducible apply keeps_releaseSpans | with_reducible refine keeps_foldl ?_ ?_ _ | with_reducible refine keeps_foldlFst ?_ ?_ _ | with_reducible refine keeps_ite ?_ ?_ | split | dsimp only | (refine keeps_of_parts ?_; dsimp only; with_reducible (first | refine keeps_parts ?_ | refine keepsParts_vat ?_ _ _ | refine keepsParts_cellar ?_ _ _ | refine keepsParts_vatFilter ?_ _)))

theorem keeps_installEntry (s : State) (gid : Nat) (d : GroupDef) (hκ : Keeps κ s) : Keeps κ (installEntry s gid d) := by
  unfold installEntry
  repeat' (first | with_reducible assumption | intro _ | with_reducible apply keeps_setGroup)

theorem keeps_commitOutcome (s : State) (c : GroupCommit) (hκ : Keeps κ s) : Keeps κ (commitOutcome s c) := by
  unfold commitOutcome
  repeat' (first | with_reducible assumption | intro _ | with_reducible apply keeps_wr | with_reducible apply keeps_sendMgmt | with_reducible refine keeps_foldl ?_ ?_ _ | with_reducible refine keeps_foldlFst ?_ ?_ _ | with_reducible refine keeps_ite ?_ ?_ | split | dsimp only | (refine keeps_of_parts ?_; dsimp only; with_reducible (first | refine keeps_parts ?_ | refine keepsParts_vat ?_ _ _ | refine keepsParts_cellar ?_ _ _ | refine keepsParts_vatFilter ?_ _)))

theorem keeps_beginInstall (s : State) (src : Source) (hκ : Keeps κ s) : Keeps κ (beginInstall s src) := by
  unfold beginInstall
  repeat' (first | with_reducible assumption | intro _ | with_reducible apply keeps_wr | with_reducible apply keeps_installEntry | with_reducible apply keeps_sendMgmt | with_reducible apply keeps_commitOutcome | with_reducible refine keeps_foldl ?_ ?_ _ | with_reducible refine keeps_foldlFst ?_ ?_ _ | with_reducible refine keeps_ite ?_ ?_ | split | dsimp only | (refine keeps_of_parts ?_; dsimp only; with_reducible (first | refine keeps_parts ?_ | refine keepsParts_vat ?_ _ _ | refine keepsParts_cellar ?_ _ _ | refine keepsParts_vatFilter ?_ _)))

theorem keeps_beginRemove (s : State) (src : Source) (hκ : Keeps κ s) : Keeps κ (beginRemove s src) := by
  unfold beginRemove
  repeat' (first | with_reducible assumption | intro _ | with_reducible apply keeps_wr | with_reducible apply keeps_sendMgmt | with_reducible apply keeps_dropGroup | with_reducible apply keeps_commitOutcome | with_reducible refine keeps_foldl ?_ ?_ _ | with_reducible refine keeps_foldlFst ?_ ?_ _ | with_reducible refine keeps_ite ?_ ?_ | split | dsimp only | (refine keeps_of_parts ?_; dsimp only; with_reducible (first | refine keeps_parts ?_ | refine keepsParts_vat ?_ _ _ | refine keepsParts_cellar ?_ _ _ | refine keepsParts_vatFilter ?_ _)))

theorem keeps_groupEntryMsg (s : State) (gid origin : Nat) (entry : Option GroupDef) (hκ : Keeps κ s) : Keeps κ (groupEntryMsg s gid origin entry) := by
  unfold groupEntryMsg
  repeat' (first | with_reducible assumption | intro _ | with_reducible apply keeps_dropGroup | with_reducible apply keeps_installEntry | with_reducible apply keeps_sendMgmt | with_reducible refine keeps_ite ?_ ?_ | split | dsimp only)

theorem keeps_groupEntryAck (s : State) (gid module refusal : Nat) (hκ : Keeps κ s) : Keeps κ (groupEntryAck s gid module refusal) := by
  unfold groupEntryAck
  repeat' (first | with_reducible assumption | intro _ | with_reducible apply keeps_commitOutcome | with_reducible refine keeps_ite ?_ ?_ | split | dsimp only | (refine keeps_of_parts ?_; dsimp only; with_reducible (first | refine keeps_parts ?_ | refine keepsParts_vat ?_ _ _ | refine keepsParts_cellar ?_ _ _ | refine keepsParts_vatFilter ?_ _)))

theorem keeps_takeInbox (s : State) (p : Nat) (pkt : Packet) (hκ : Keeps κ s) : Keeps κ (takeInbox s p pkt) := by
  unfold takeInbox
  repeat' (first | with_reducible assumption | intro _ | split | dsimp only | (refine keeps_of_parts ?_; dsimp only; with_reducible (first | refine keeps_parts ?_ | refine keepsParts_vat ?_ _ _ | refine keepsParts_cellar ?_ _ _ | refine keepsParts_vatFilter ?_ _)))

theorem keeps_clearTaken (s : State) (hκ : Keeps κ s) : Keeps κ (clearTaken s) := by
  unfold clearTaken
  repeat' (first | with_reducible assumption | intro _ | with_reducible apply keeps_releaseBlock | with_reducible apply keeps_releaseOut | with_reducible refine keeps_foldl ?_ ?_ _ | with_reducible refine keeps_foldlFst ?_ ?_ _ | with_reducible refine keeps_ite ?_ ?_ | split | dsimp only | (refine keeps_of_parts ?_; dsimp only; with_reducible (first | refine keeps_parts ?_ | refine keepsParts_vat ?_ _ _ | refine keepsParts_cellar ?_ _ _ | refine keepsParts_vatFilter ?_ _)))

theorem keeps_staleDiscard (s : State) (hκ : Keeps κ s) : Keeps κ (staleDiscard s) := by
  unfold staleDiscard
  repeat' (first | with_reducible assumption | intro _ | with_reducible apply keeps_bump)

theorem keeps_adoptEpoch (s : State) (gid e : Nat) (hκ : Keeps κ s) : Keeps κ (adoptEpoch s gid e) := by
  unfold adoptEpoch
  repeat' (first | with_reducible assumption | intro _ | with_reducible apply keeps_setGroup | with_reducible refine keeps_ite ?_ ?_ | split)

theorem keeps_parkPacket (s : State) (gid p : Nat) (pkt : Packet) (hκ : Keeps κ s) : Keeps κ (parkPacket s gid p pkt) := by
  unfold parkPacket
  repeat' (first | with_reducible assumption | intro _ | with_reducible apply keeps_setInst | split)

theorem keeps_placed (s : State) (p : Nat) (pkt : Packet) (ok : Group → Bool) (opens : Bool) (f : State → Nat → Group → State) (hκ : Keeps κ s) (hκf : ∀ z1, Keeps κ z1 → ∀ z2, ∀ z3, Keeps κ (f z1 z2 z3)) : Keeps κ (placed s p pkt ok opens f) := by
  unfold placed
  repeat' (first | with_reducible assumption | with_reducible apply hκf | intro _ | with_reducible apply keeps_bump | with_reducible apply keeps_staleDiscard | with_reducible apply keeps_adoptEpoch | with_reducible apply keeps_touchInst | with_reducible apply keeps_openInst | with_reducible apply keeps_parkPacket | with_reducible refine keeps_ite ?_ ?_ | split | dsimp only)

theorem keeps_afterPacket (s : State) (gid : Nat) (hκ : Keeps κ s) : Keeps κ (afterPacket s gid) := by
  unfold afterPacket
  repeat' (first | with_reducible assumption | intro _ | with_reducible apply keeps_afterColl | with_reducible apply keeps_flushWaiting)

theorem keeps_memberData (s : State) (p : Nat) (pkt : Packet) (gid : Nat) (g : Group) (hκ : Keeps κ s) : Keeps κ (memberData s p pkt gid g) := by
  unfold memberData
  repeat' (first | with_reducible assumption | intro _ | with_reducible apply keeps_bump | with_reducible apply keeps_bump64 | with_reducible apply keeps_offerTerm | with_reducible apply keeps_setInst | with_reducible refine keeps_ite ?_ ?_ | split)

theorem keeps_dataReceived (s : State) (p : Nat) (pkt : Packet) (hκ : Keeps κ s) : Keeps κ (dataReceived s p pkt) := by
  unfold dataReceived
  repeat' (first | with_reducible assumption | intro _ | with_reducible apply keeps_placed | with_reducible apply keeps_takeInbox | with_reducible apply keeps_afterPacket | with_reducible apply keeps_memberData)

theorem keeps_memberMaxima (s : State) (p : Nat) (pkt : Packet) (gid : Nat) (g : Group) (hκ : Keeps κ s) : Keeps κ (memberMaxima s p pkt gid g) := by
  unfold memberMaxima
  repeat' (first | with_reducible assumption | intro _ | with_reducible apply keeps_bump | with_reducible apply keeps_bump64 | with_reducible apply keeps_takeAnchor | with_reducible apply keeps_setInst | with_reducible refine keeps_ite ?_ ?_ | split)

theorem keeps_childMaxima (s : State) (b p : Nat) (pkt : Packet) (gid : Nat) (g : Group) (hκ : Keeps κ s) : Keeps κ (childMaxima s b p pkt gid g) := by
  unfold childMaxima
  repeat' (first | with_reducible assumption | intro _ | with_reducible apply keeps_sendUp | with_reducible apply keeps_bump | with_reducible apply keeps_bump64 | with_reducible apply keeps_takeAnchor | with_reducible refine keeps_ite ?_ ?_ | split)

theorem keeps_maximaReceived (s : State) (p : Nat) (pkt : Packet) (hκ : Keeps κ s) : Keeps κ (maximaReceived s p pkt) := by
  unfold maximaReceived
  repeat' (first | with_reducible assumption | intro _ | with_reducible apply keeps_placed | with_reducible apply keeps_takeInbox | with_reducible apply keeps_afterPacket | with_reducible apply keeps_childMaxima | with_reducible apply keeps_memberMaxima | split)

theorem keeps_noteFinal (s : State) (p : Nat) (pkt : Packet) (gid : Nat) (g : Group) (hκ : Keeps κ s) : Keeps κ (noteFinal s p pkt gid g) := by
  unfold noteFinal
  repeat' (first | with_reducible assumption | intro _ | with_reducible apply keeps_sendKids | with_reducible apply keeps_bump | with_reducible apply keeps_takeAnchor | with_reducible refine keeps_ite ?_ ?_ | split)

theorem keeps_finalReceived (s : State) (p : Nat) (pkt : Packet) (hκ : Keeps κ s) : Keeps κ (finalReceived s p pkt) := by
  unfold finalReceived
  repeat' (first | with_reducible assumption | intro _ | with_reducible apply keeps_placed | with_reducible apply keeps_takeInbox | with_reducible apply keeps_afterPacket | with_reducible apply keeps_noteFinal)

theorem keeps_memberAbortReceived (s : State) (p : Nat) (pkt : Packet) (hκ : Keeps κ s) : Keeps κ (memberAbortReceived s p pkt) := by
  unfold memberAbortReceived
  repeat' (first | with_reducible assumption | intro _ | with_reducible apply keeps_placed | with_reducible apply keeps_takeInbox | with_reducible apply keeps_afterColl | with_reducible apply keeps_report | split)

theorem keeps_joinReceived (s : State) (p : Nat) (pkt : Packet) (hκ : Keeps κ s) : Keeps κ (joinReceived s p pkt) := by
  unfold joinReceived
  repeat' (first | with_reducible assumption | intro _ | with_reducible apply keeps_takeInbox | with_reducible apply keeps_staleDiscard | with_reducible apply keeps_afterPacket | with_reducible apply keeps_takeJoin | with_reducible refine keeps_ite ?_ ?_)

theorem keeps_takeContrib (s : State) (p : Nat) (pkt : Packet) (gid : Nat) (g : Group) (hκ : Keeps κ s) : Keeps κ (takeContrib s p pkt gid g) := by
  unfold takeContrib
  repeat' (first | with_reducible assumption | intro _ | with_reducible apply keeps_setGroup | with_reducible apply keeps_setInst | with_reducible apply keeps_sendUp | with_reducible apply keeps_offerTerm | with_reducible refine keeps_ite ?_ ?_ | split)

theorem keeps_contribReceived (s : State) (p : Nat) (pkt : Packet) (hκ : Keeps κ s) : Keeps κ (contribReceived s p pkt) := by
  unfold contribReceived
  repeat' (first | with_reducible assumption | intro _ | with_reducible apply keeps_placed | with_reducible apply keeps_takeInbox | with_reducible apply keeps_afterPacket | with_reducible apply keeps_takeContrib)

theorem keeps_takeJoinUp (s : State) (pkt : Packet) (gid : Nat) (g : Group) (hκ : Keeps κ s) : Keeps κ (takeJoinUp s pkt gid g) := by
  unfold takeJoinUp
  repeat' (first | with_reducible assumption | intro _ | with_reducible apply keeps_tryJoinUp | with_reducible apply keeps_setInst | with_reducible refine keeps_ite ?_ ?_ | split)

theorem keeps_joinUpReceived (s : State) (p : Nat) (pkt : Packet) (hκ : Keeps κ s) : Keeps κ (joinUpReceived s p pkt) := by
  unfold joinUpReceived
  repeat' (first | with_reducible assumption | intro _ | with_reducible apply keeps_placed | with_reducible apply keeps_takeInbox | with_reducible apply keeps_afterPacket | with_reducible apply keeps_takeJoinUp)

theorem keeps_doneUpReceived (s : State) (p : Nat) (pkt : Packet) (hκ : Keeps κ s) : Keeps κ (doneUpReceived s p pkt) := by
  unfold doneUpReceived
  repeat' (first | with_reducible assumption | intro _ | with_reducible apply keeps_placed | with_reducible apply keeps_takeInbox | with_reducible apply keeps_afterColl | with_reducible apply keeps_settleGroup | with_reducible apply keeps_setInst | split)

theorem keeps_commitReceived (s : State) (p : Nat) (pkt : Packet) (hκ : Keeps κ s) : Keeps κ (commitReceived s p pkt) := by
  unfold commitReceived
  repeat' (first | with_reducible assumption | intro _ | with_reducible apply keeps_placed | with_reducible apply keeps_takeInbox | with_reducible apply keeps_afterColl | with_reducible apply keeps_commitLocal)

theorem keeps_takeResult (s : State) (pkt : Packet) (gid : Nat) (g : Group) (hκ : Keeps κ s) : Keeps κ (takeResult s pkt gid g) := by
  unfold takeResult
  repeat' (first | with_reducible assumption | intro _ | with_reducible apply keeps_setInst | with_reducible apply keeps_copyResult | with_reducible apply keeps_passResult | with_reducible apply keeps_settleGroup | with_reducible apply keeps_notePoison | with_reducible refine keeps_ite ?_ ?_ | split)

theorem keeps_collResultReceived (s : State) (p : Nat) (pkt : Packet) (hκ : Keeps κ s) : Keeps κ (collResultReceived s p pkt) := by
  unfold collResultReceived
  repeat' (first | with_reducible assumption | intro _ | with_reducible apply keeps_placed | with_reducible apply keeps_takeInbox | with_reducible apply keeps_afterColl | with_reducible apply keeps_takeResult)

theorem keeps_endReceived (s : State) (p : Nat) (pkt : Packet) (hκ : Keeps κ s) : Keeps κ (endReceived s p pkt) := by
  unfold endReceived
  repeat' (first | with_reducible assumption | intro _ | with_reducible apply keeps_placed | with_reducible apply keeps_takeInbox | with_reducible apply keeps_afterColl | with_reducible apply keeps_endInst)

theorem keeps_rerunReceived (s : State) (p : Nat) (pkt : Packet) (hκ : Keeps κ s) : Keeps κ (rerunReceived s p pkt) := by
  unfold rerunReceived
  repeat' (first | with_reducible assumption | intro _ | with_reducible apply keeps_placed | with_reducible apply keeps_takeInbox | with_reducible apply keeps_afterColl | with_reducible apply keeps_rerunLocal)

theorem keeps_reportReceived (s : State) (p : Nat) (pkt : Packet) (hκ : Keeps κ s) : Keeps κ (reportReceived s p pkt) := by
  unfold reportReceived
  repeat' (first | with_reducible assumption | intro _ | with_reducible apply keeps_placed | with_reducible apply keeps_takeInbox | with_reducible apply keeps_afterColl | with_reducible apply keeps_report)

theorem keeps_passPoison (s : State) (pkt : Packet) (gid : Nat) (g : Group) (hκ : Keeps κ s) : Keeps κ (passPoison s pkt gid g) := by
  unfold passPoison
  repeat' (first | with_reducible assumption | intro _ | with_reducible apply keeps_poisonOut | with_reducible refine keeps_ite ?_ ?_ | split)

theorem keeps_poisonNoticeReceived (s : State) (p : Nat) (pkt : Packet) (hκ : Keeps κ s) : Keeps κ (poisonNoticeReceived s p pkt) := by
  unfold poisonNoticeReceived
  repeat' (first | with_reducible assumption | intro _ | with_reducible apply keeps_placed | with_reducible apply keeps_takeInbox | with_reducible apply keeps_passPoison)

theorem keeps_joinTimeout (s : State) (gid : Nat) (hκ : Keeps κ s) : Keeps κ (joinTimeout s gid) := by
  unfold joinTimeout
  repeat' (first | with_reducible assumption | intro _ | with_reducible apply keeps_afterColl | with_reducible apply keeps_endInst | with_reducible refine keeps_ite ?_ ?_ | split)

theorem keeps_progressTimeout (s : State) (gid : Nat) (hκ : Keeps κ s) : Keeps κ (progressTimeout s gid) := by
  unfold progressTimeout
  repeat' (first | with_reducible assumption | intro _ | with_reducible apply keeps_afterColl | with_reducible apply keeps_report | with_reducible refine keeps_ite ?_ ?_ | split)

theorem keeps_treeLossReport (s : State) (gid lost : Nat) (isMember : Bool) (hκ : Keeps κ s) : Keeps κ (treeLossReport s gid lost isMember) := by
  unfold treeLossReport
  repeat' (first | with_reducible assumption | intro _ | with_reducible apply keeps_setGroup | with_reducible apply keeps_afterColl | with_reducible apply keeps_endInst | with_reducible apply keeps_rerunRoot | with_reducible apply keeps_sendMgmt | with_reducible apply keeps_id | with_reducible refine keeps_ite ?_ ?_ | split)

theorem keeps_treeRecompute (s : State) (gid : Nat) (entry : Option GroupDef) (hκ : Keeps κ s) : Keeps κ (treeRecompute s gid entry) := by
  unfold treeRecompute
  repeat' (first | with_reducible assumption | intro _ | with_reducible apply keeps_setGroup | with_reducible refine keeps_ite ?_ ?_ | split | dsimp only | (refine keeps_of_parts ?_; dsimp only; with_reducible (first | refine keeps_parts ?_ | refine keepsParts_vat ?_ _ _ | refine keepsParts_cellar ?_ _ _ | refine keepsParts_vatFilter ?_ _)))

theorem keeps_setResident (s : State) (gid : Nat) (r : Bool) (hκ : Keeps κ s) : Keeps κ (setResident s gid r) := by
  unfold setResident
  repeat' (first | with_reducible assumption | intro _ | with_reducible apply keeps_setInst | split)

theorem keeps_replayPacket (s : State) (x : Nat × Packet) (hκ : Keeps κ s) : Keeps κ (replayPacket s x) := by
  unfold replayPacket
  repeat' (first | with_reducible assumption | intro _ | with_reducible apply keeps_joinReceived | with_reducible apply keeps_finalReceived | with_reducible apply keeps_maximaReceived | with_reducible apply keeps_commitReceived | with_reducible apply keeps_collResultReceived | with_reducible apply keeps_poisonNoticeReceived | with_reducible apply keeps_endReceived | with_reducible apply keeps_rerunReceived | with_reducible apply keeps_reportReceived | with_reducible apply keeps_memberAbortReceived | with_reducible apply keeps_joinUpReceived | with_reducible apply keeps_doneUpReceived | with_reducible apply keeps_dataReceived | with_reducible apply keeps_contribReceived | with_reducible refine keeps_ite ?_ ?_)

theorem keeps_contextSwap (s : State) (gid : Nat) (hκ : Keeps κ s) : Keeps κ (contextSwap s gid) := by
  unfold contextSwap
  repeat' (first | with_reducible assumption | intro _ | with_reducible apply keeps_setResident | with_reducible apply keeps_bump64 | with_reducible apply keeps_setInst | with_reducible apply keeps_replayPacket | with_reducible refine keeps_foldl ?_ ?_ _ | with_reducible refine keeps_foldlFst ?_ ?_ _ | with_reducible refine keeps_ite ?_ ?_ | split)

end Sys2Proof.Machine
end

