-- ==== Sys2Proof/Laws/KeepsFlow.lean ====
section
/-! SUPPORT. What updates, installs and the flow of a recipe keep: the queue and both memories' canonical form, one lemma per operation. -/
namespace Sys2Proof.Machine

variable {κ : Kept}

theorem keeps_stepJoin (s : State) (i gid : Nat) (g : Group) (r : Nat) (d : BitVec 512) (feed : State → State) (hκ : Keeps κ s)
    (hκfeed : ∀ z, Keeps κ z → Keeps κ (feed z)) : ∀ w, stepJoin s i gid g r d feed = some w → Keeps κ w := by
  intro w
  unfold stepJoin
  dsimp only
  intro e
  cases eq_of_ite_none e
  with_reducible apply keeps_afterPacket
  with_reducible apply hκfeed
  with_reducible apply keeps_joinMember
  with_reducible apply keeps_touchInst
  with_reducible apply keeps_modInv
  with_reducible apply keeps_contextSwap
  with_reducible apply keeps_openInst
  exact hκ

theorem keeps_logVersion (s : State) (k f tag : Nat) (crumb : Word) (hκ : Keeps κ s) : Keeps κ (logVersion s k f tag crumb) := by
  unfold logVersion
  repeat' (first | with_reducible assumption | intro _ | with_reducible apply keeps_logCrumb)

theorem keeps_keepCrumb (s : State) (k f slot : Nat) (c : Word) (hκ : Keeps κ s) : Keeps κ (keepCrumb s k f slot c) := by
  unfold keepCrumb
  repeat' (first | with_reducible assumption | intro _ | with_reducible apply keeps_logVersion | with_reducible apply keeps_modSlot)

theorem keeps_makeInconsistent (s : State) (k context : Nat) (hκ : Keeps κ s) : Keeps κ (makeInconsistent s k context) := by
  unfold makeInconsistent
  repeat' (first | with_reducible assumption | intro _ | with_reducible apply keeps_raiseFault | with_reducible apply keeps_setStation | split)

theorem keeps_replicaDiverged (s : State) (k context : Nat) (hκ : Keeps κ s) : Keeps κ (replicaDiverged s k context) := by
  unfold replicaDiverged
  repeat' (first | with_reducible assumption | intro _ | with_reducible apply keeps_raiseFault | with_reducible apply keeps_makeInconsistent | with_reducible refine keeps_ite ?_ ?_)

theorem keeps_digestWrite (s : State) (x : Run) (c : Word) (hκ : Keeps κ s) : Keeps κ (digestWrite s x c) := by
  unfold digestWrite
  repeat' (first | with_reducible assumption | intro _ | with_reducible apply keeps_modInv | with_reducible apply keeps_stepPut | split | dsimp only)

theorem keeps_compareJoin (s : State) (x : Run) (k : Nat) (y : Station) (c : Word) (hκ : Keeps κ s) : Keeps κ (compareJoin s x k y c) := by
  unfold compareJoin
  repeat' (first | with_reducible assumption | intro _ | with_reducible apply keeps_endStep | with_reducible refine keeps_stepJoin _ _ _ _ _ _ _ ?_ ?_ _ (by with_reducible assumption) | with_reducible apply keeps_blockStep | with_reducible apply keeps_setStation | with_reducible apply keeps_id | split)

theorem keeps_compareEnd (s : State) (x : Run) (k f slot : Nat) (r : Rec) (hκ : Keeps κ s) : Keeps κ (compareEnd s x k f slot r) := by
  unfold compareEnd
  repeat' (first | with_reducible assumption | intro _ | with_reducible apply keeps_doneStep | with_reducible apply keeps_modInv | with_reducible apply keeps_replicaDiverged | with_reducible apply keeps_endStep | with_reducible refine keeps_ite ?_ ?_)

theorem keeps_digestRun (s : State) (x : Run) (needsGroup : Bool) (compare : Station → Bool) (hκ : Keeps κ s) : Keeps κ (digestRun s x needsGroup compare) := by
  unfold digestRun
  repeat' (first | with_reducible assumption | intro _ | with_reducible apply keeps_compareJoin | with_reducible apply keeps_modInv | with_reducible apply keeps_compareEnd | with_reducible apply keeps_endStep | with_reducible apply keeps_readSlabs | with_reducible apply keeps_writeSlabs | with_reducible apply keeps_blockStep | with_reducible apply keeps_keepCrumb | with_reducible apply keeps_digestWrite | with_reducible apply keeps_doneStep | with_reducible refine keeps_ite ?_ ?_ | split)

theorem keeps_digestComputeRun (s : State) (x : Run) (hκ : Keeps κ s) : Keeps κ (digestComputeRun s x) := by
  unfold digestComputeRun
  repeat' (first | with_reducible assumption | intro _ | with_reducible apply keeps_digestRun)

theorem keeps_digestCompareRun (s : State) (x : Run) (hκ : Keeps κ s) : Keeps κ (digestCompareRun s x) := by
  unfold digestCompareRun
  repeat' (first | with_reducible assumption | intro _ | with_reducible apply keeps_digestRun)

theorem keeps_digestAutoRun (s : State) (x : Run) (hκ : Keeps κ s) : Keeps κ (digestAutoRun s x) := by
  unfold digestAutoRun
  repeat' (first | with_reducible assumption | intro _ | with_reducible apply keeps_digestRun)

theorem keeps_dropUpdate (s : State) (i : Nat) (hκ : Keeps κ s) : Keeps κ (dropUpdate s i) := by
  unfold dropUpdate
  repeat' (first | with_reducible assumption | intro _ | with_reducible apply keeps_modInv | split | dsimp only | (refine keeps_of_parts ?_; dsimp only; with_reducible (first | refine keeps_parts ?_ | refine keepsParts_vat ?_ _ _ | refine keepsParts_cellar ?_ _ _ | refine keepsParts_vatFilter ?_ _)))

theorem keeps_endUpdate (s : State) (i status k : Nat) (hκ : Keeps κ s) : Keeps κ (endUpdate s i status k) := by
  unfold endUpdate
  repeat' (first | with_reducible assumption | intro _ | with_reducible apply keeps_endStep | with_reducible apply keeps_dropUpdate)

theorem keeps_takeSlot (s : State) (x : Run) (hκ : Keeps κ s) : Keeps κ (takeSlot s x) := by
  unfold takeSlot
  repeat' (first | with_reducible assumption | intro _ | with_reducible apply keeps_waitStep | with_reducible apply keeps_endUpdate | with_reducible apply keeps_staleRead | with_reducible apply keeps_dropUpdate | with_reducible apply keeps_modSlot | with_reducible apply keeps_modInv | with_reducible apply keeps_holdSlot | with_reducible refine keeps_ite ?_ ?_ | split | dsimp only)

theorem keeps_writeColmax (s : State) (k f slot : Nat) (d : View) (hκ : Keeps κ s) : Keeps κ (writeColmax s k f slot d) := by
  unfold writeColmax
  repeat' (first | with_reducible assumption | intro _ | with_reducible apply keeps_putRun | with_reducible refine keeps_ite ?_ ?_ | split)

theorem keeps_writeUpdate (s : State) (x : Run) (o : UpdateOps) (n : Nat) (hκ : Keeps κ s) : Keeps κ (writeUpdate s x o n).1 := by
  unfold writeUpdate
  repeat' (first | with_reducible assumption | intro _ | with_reducible apply keeps_putVals | with_reducible apply keeps_putRun | with_reducible refine keeps_ite ?_ ?_ | split)

theorem keeps_completeUpdate (s : State) (x : Run) (p : Report) (k f slot : Nat) (hκ : Keeps κ s) : Keeps κ (completeUpdate s x p k f slot) := by
  unfold completeUpdate
  repeat' (first | with_reducible assumption | intro _ | with_reducible apply keeps_setStation | with_reducible apply keeps_modInv | with_reducible apply keeps_doneStep | with_reducible apply keeps_logCrumb | split)

theorem keeps_computeUpdate (s : State) (x : Run) (adamw : Bool) (hκ : Keeps κ s) : Keeps κ (computeUpdate s x adamw) := by
  unfold computeUpdate
  repeat' (first | with_reducible assumption | intro _ | with_reducible apply keeps_readSlabs | with_reducible apply keeps_writeSlabs | with_reducible apply keeps_blockStep | with_reducible apply keeps_endUpdate | with_reducible apply keeps_makeInconsistent | with_reducible apply keeps_writeUpdate | with_reducible apply keeps_completeUpdate | with_reducible apply keeps_writeColmax | with_reducible refine keeps_ite ?_ ?_ | split | dsimp only)

theorem keeps_replicaJoin (s : State) (x : Run) (k : Nat) (y : Station) (g : View) (hκ : Keeps κ s) : Keeps κ (replicaJoin s x k y g) := by
  unfold replicaJoin
  repeat' (first | with_reducible assumption | intro _ | with_reducible apply keeps_endUpdate | with_reducible apply keeps_bump | with_reducible apply keeps_readSlabs | with_reducible apply keeps_blockStep | with_reducible apply keeps_takeAnchor | with_reducible apply keeps_offerTerm | with_reducible refine keeps_stepJoin _ _ _ _ _ _ _ ?_ ?_ _ (by with_reducible assumption) | with_reducible refine keeps_foldl ?_ ?_ _ | with_reducible refine keeps_foldlFst ?_ ?_ _ | split | dsimp only)

theorem keeps_writeSums (s : State) (g : View) (sums : Tab (List Byte)) (hκ : Keeps κ s) : Keeps κ (writeSums s g sums) := by
  unfold writeSums
  repeat' (first | with_reducible assumption | intro _ | with_reducible apply keeps_putRun)

theorem keeps_updateGo (s : State) (x : Run) (adamw : Bool) (hκ : Keeps κ s) : Keeps κ (updateGo s x adamw) := by
  unfold updateGo
  repeat' (first | with_reducible assumption | intro _ | with_reducible apply keeps_computeUpdate | with_reducible apply keeps_replicaJoin | with_reducible apply keeps_modInv | with_reducible apply keeps_endUpdate | with_reducible apply keeps_bump | with_reducible apply keeps_writeSums | with_reducible apply keeps_bump64 | with_reducible refine keeps_ite ?_ ?_ | split | dsimp only)

theorem keeps_updateRun (s : State) (x : Run) (adamw mayTake : Bool) (hκ : Keeps κ s) : Keeps κ (updateRun s x adamw mayTake) := by
  unfold updateRun
  repeat' (first | with_reducible assumption | intro _ | with_reducible apply keeps_setStation | with_reducible apply keeps_takeSlot | with_reducible apply keeps_takeLocks | with_reducible apply keeps_updateGo | with_reducible apply keeps_waitStep | with_reducible refine keeps_ite ?_ ?_ | split | dsimp only)

theorem keeps_recipeResult (s : State) (k code : Nat) (hκ : Keeps κ s) : Keeps κ (recipeResult s k code) := by
  unfold recipeResult
  repeat' (first | with_reducible assumption | intro _ | split | dsimp only | (refine keeps_of_parts ?_; dsimp only; with_reducible (first | refine keeps_parts ?_ | refine keepsParts_vat ?_ _ _ | refine keepsParts_cellar ?_ _ _ | refine keepsParts_vatFilter ?_ _)))

theorem keeps_installRecipe (s : State) (k : Nat) (hκ : Keeps κ s) : Keeps κ (installRecipe s k) := by
  unfold installRecipe
  repeat' (first | with_reducible assumption | intro _ | with_reducible apply keeps_recipeResult | with_reducible refine keeps_ite ?_ ?_ | split | dsimp only | (refine keeps_of_parts ?_; dsimp only; with_reducible (first | refine keeps_parts ?_ | refine keepsParts_vat ?_ _ _ | refine keepsParts_cellar ?_ _ _ | refine keepsParts_vatFilter ?_ _)))

theorem keeps_dropRecipe (s : State) (k : Nat) (hκ : Keeps κ s) : Keeps κ (dropRecipe s k) := by
  unfold dropRecipe
  repeat' (first | with_reducible assumption | intro _ | with_reducible refine keeps_ite ?_ ?_ | split | dsimp only | (refine keeps_of_parts ?_; dsimp only; with_reducible (first | refine keeps_parts ?_ | refine keepsParts_vat ?_ _ _ | refine keepsParts_cellar ?_ _ _ | refine keepsParts_vatFilter ?_ _)))

theorem keeps_removeRecipe (s : State) (k : Nat) (hκ : Keeps κ s) : Keeps κ (removeRecipe s k) := by
  unfold removeRecipe
  repeat' (first | with_reducible assumption | intro _ | with_reducible apply keeps_recipeResult | with_reducible apply keeps_dropRecipe | with_reducible refine keeps_ite ?_ ?_ | split | dsimp only | (refine keeps_of_parts ?_; dsimp only; with_reducible (first | refine keeps_parts ?_ | refine keepsParts_vat ?_ _ _ | refine keepsParts_cellar ?_ _ _ | refine keepsParts_vatFilter ?_ _)))

theorem keeps_execRecipeInstall (src : Source) (s : State) (hκ : Keeps κ s) : KeepsOut κ (execRecipeInstall src s) := by
  unfold execRecipeInstall
  repeat' (first | with_reducible assumption | with_reducible refine keepsOut_next ?_ | with_reducible refine keepsOut_onUnit ?_ | intro _ | with_reducible apply keeps_whenWritten | with_reducible apply keeps_installRecipe)

theorem keeps_execRecipeRemove (src : Source) (s : State) (hκ : Keeps κ s) : KeepsOut κ (execRecipeRemove src s) := by
  unfold execRecipeRemove
  repeat' (first | with_reducible assumption | with_reducible refine keepsOut_next ?_ | with_reducible refine keepsOut_onUnit ?_ | intro _ | with_reducible apply keeps_whenWritten | with_reducible apply keeps_removeRecipe)

theorem keeps_stationResult (s : State) (k code : Nat) (hκ : Keeps κ s) : Keeps κ (stationResult s k code) := by
  unfold stationResult
  repeat' (first | with_reducible assumption | intro _ | split | dsimp only | (refine keeps_of_parts ?_; dsimp only; with_reducible (first | refine keeps_parts ?_ | refine keepsParts_vat ?_ _ _ | refine keepsParts_cellar ?_ _ _ | refine keepsParts_vatFilter ?_ _)))

theorem keeps_clearSlabs (s : State) (base n : Nat) (hκ : Keeps κ s) : Keeps κ (clearSlabs s base n) := by
  unfold clearSlabs
  repeat' (first | with_reducible assumption | intro _ | split | dsimp only | (refine keeps_of_parts ?_; dsimp only; with_reducible (first | refine keeps_parts ?_ | refine keepsParts_vat ?_ _ _ | refine keepsParts_cellar ?_ _ _ | refine keepsParts_vatFilter ?_ _)))

theorem keeps_allocFields (hd : BitVec 128) (s : State) (l : List (BitVec 256)) (hκ : Keeps κ s) :
    ∀ b t, allocFields hd s l = some (b, t) → Keeps κ t := by
  induction l generalizing s with
  | nil => rintro b t ⟨⟩; exact hκ
  | cons f fs ih =>
    intro b t
    unfold allocFields
    split
    · intro k
      obtain ⟨x, hx, e⟩ := Option.map_eq_some_iff.mp k
      have := ih s hκ x.1 x.2 hx
      cases e; exact this
    · split
      · simp
      · rename_i e
        intro k
        obtain ⟨x, hx, e2⟩ := Option.map_eq_some_iff.mp k
        have := ih _ (keeps_clearSlabs _ _ _ (keeps_allocSlabs _ _ hκ _ _ e)) x.1 x.2 hx
        cases e2; exact this

theorem keeps_installStation (s : State) (k : Nat) (hκ : Keeps κ s) : Keeps κ (installStation s k) := by
  unfold installStation
  repeat' (first | with_reducible assumption | intro _ | with_reducible apply keeps_stationResult | with_reducible refine keeps_allocFields _ _ _ ?_ _ _ (by with_reducible assumption) | with_reducible apply keeps_setStation | with_reducible refine keeps_ite ?_ ?_ | split | dsimp only | (refine keeps_of_parts ?_; dsimp only; with_reducible (first | refine keeps_parts ?_ | refine keepsParts_vat ?_ _ _ | refine keepsParts_cellar ?_ _ _ | refine keepsParts_vatFilter ?_ _)))

theorem keeps_removeStation (s : State) (k : Nat) (hκ : Keeps κ s) : Keeps κ (removeStation s k) := by
  unfold removeStation
  repeat' (first | with_reducible assumption | intro _ | with_reducible apply keeps_stationResult | with_reducible apply keeps_freeSlabs | with_reducible refine keeps_foldl ?_ ?_ _ | with_reducible refine keeps_foldlFst ?_ ?_ _ | with_reducible refine keeps_ite ?_ ?_ | split | dsimp only | (refine keeps_of_parts ?_; dsimp only; with_reducible (first | refine keeps_parts ?_ | refine keepsParts_vat ?_ _ _ | refine keepsParts_cellar ?_ _ _ | refine keepsParts_vatFilter ?_ _)))

theorem keeps_stationColmax (s : State) (k : Nat) (y : Station) (hκ : Keeps κ s) : Keeps κ (stationColmax s k y) := by
  unfold stationColmax
  repeat' (first | with_reducible assumption | intro _ | with_reducible apply keeps_writeColmax | with_reducible refine keeps_foldl ?_ ?_ _ | with_reducible refine keeps_foldlFst ?_ ?_ _ | with_reducible refine keeps_ite ?_ ?_)

theorem keeps_readyStation (s : State) (k : Nat) (hκ : Keeps κ s) : Keeps κ (readyStation s k) := by
  unfold readyStation
  repeat' (first | with_reducible assumption | intro _ | with_reducible apply keeps_stationResult | with_reducible apply keeps_setStation | with_reducible apply keeps_stationColmax | with_reducible refine keeps_ite ?_ ?_ | split)

theorem keeps_reloadStation (s : State) (k : Nat) (hκ : Keeps κ s) : Keeps κ (reloadStation s k) := by
  unfold reloadStation
  repeat' (first | with_reducible assumption | intro _ | with_reducible apply keeps_stationResult | with_reducible apply keeps_setStation | with_reducible refine keeps_ite ?_ ?_ | split)

theorem keeps_execStationInstall (src : Source) (s : State) (hκ : Keeps κ s) : KeepsOut κ (execStationInstall src s) := by
  unfold execStationInstall
  repeat' (first | with_reducible assumption | with_reducible refine keepsOut_next ?_ | with_reducible refine keepsOut_onUnit ?_ | intro _ | with_reducible apply keeps_whenWritten | with_reducible apply keeps_installStation)

theorem keeps_execStationRemove (src : Source) (s : State) (hκ : Keeps κ s) : KeepsOut κ (execStationRemove src s) := by
  unfold execStationRemove
  repeat' (first | with_reducible assumption | with_reducible refine keepsOut_next ?_ | with_reducible refine keepsOut_onUnit ?_ | intro _ | with_reducible apply keeps_whenWritten | with_reducible apply keeps_removeStation)

theorem keeps_execStationReady (src : Source) (s : State) (hκ : Keeps κ s) : KeepsOut κ (execStationReady src s) := by
  unfold execStationReady
  repeat' (first | with_reducible assumption | with_reducible refine keepsOut_next ?_ | with_reducible refine keepsOut_onUnit ?_ | intro _ | with_reducible apply keeps_whenWritten | with_reducible apply keeps_readyStation)

theorem keeps_execStationReload (src : Source) (s : State) (hκ : Keeps κ s) : KeepsOut κ (execStationReload src s) := by
  unfold execStationReload
  repeat' (first | with_reducible assumption | with_reducible refine keepsOut_next ?_ | with_reducible refine keepsOut_onUnit ?_ | intro _ | with_reducible apply keeps_whenWritten | with_reducible apply keeps_reloadStation)

theorem keeps_stepBody (mayTake : Bool) (s : State) (x : Run) (hκ : Keeps κ s) : Keeps κ (stepBody mayTake s x) := by
  unfold stepBody
  repeat' (first | with_reducible assumption | intro _ | with_reducible apply keeps_matmulIssue | with_reducible apply keeps_topkRun | with_reducible apply keeps_softmaxRun | with_reducible apply keeps_normRmsRun | with_reducible apply keeps_normLayerRun | with_reducible apply keeps_scaleMulRun | with_reducible apply keeps_scaleRowvecRun | with_reducible apply keeps_scaleColvecRun | with_reducible apply keeps_scaleReluRun | with_reducible apply keeps_scaleSiluRun | with_reducible apply keeps_addStepRun | with_reducible apply keeps_subStepRun | with_reducible apply keeps_mulStepRun | with_reducible apply keeps_convertRun | with_reducible apply keeps_stageInRun | with_reducible apply keeps_stageOutRun | with_reducible apply keeps_dispatchRun | with_reducible apply keeps_combineRun | with_reducible apply keeps_reduceAccumulateRun | with_reducible apply keeps_reduceRowsRun | with_reducible apply keeps_reduceInitRun | with_reducible apply keeps_updateRun | with_reducible apply keeps_digestComputeRun | with_reducible apply keeps_digestCompareRun | with_reducible apply keeps_digestAutoRun | with_reducible apply keeps_barrierRun | with_reducible refine keeps_ite ?_ ?_ | split)

theorem keeps_runStep (mayTake : Bool) (s : State) (i : Nat) (hκ : Keeps κ s) : Keeps κ (runStep mayTake s i) := by
  unfold runStep
  repeat' (first | with_reducible assumption | intro _ | with_reducible apply keeps_startStep | with_reducible apply keeps_stepBody)

theorem keeps_sendResult (s : State) (v : Inv) (chunk kind index : Nat) (payload : List Byte) (hκ : Keeps κ s) : Keeps κ (sendResult s v chunk kind index payload) := by
  unfold sendResult
  repeat' (first | with_reducible assumption | intro _ | with_reducible apply keeps_sendPacket)

theorem keeps_keepRecord (s : State) (v : Inv) (r : BitVec 512) (hκ : Keeps κ s) : Keeps κ (keepRecord s v r) := by
  unfold keepRecord
  repeat' (first | with_reducible assumption | intro _ | split | dsimp only | (refine keeps_of_parts ?_; dsimp only; with_reducible (first | refine keeps_parts ?_ | refine keepsParts_vat ?_ _ _ | refine keepsParts_cellar ?_ _ _ | refine keepsParts_vatFilter ?_ _)))

theorem keeps_letGo (s : State) (i : Nat) (v : Inv) (hκ : Keeps κ s) : Keeps κ (letGo s i v) := by
  unfold letGo
  repeat' (first | with_reducible assumption | intro _ | with_reducible apply keeps_dropUpdate | with_reducible apply keeps_releaseStep | with_reducible refine keeps_foldl ?_ ?_ _ | with_reducible refine keeps_foldlFst ?_ ?_ _ | split | dsimp only | (refine keeps_of_parts ?_; dsimp only; with_reducible (first | refine keeps_parts ?_ | refine keepsParts_vat ?_ _ _ | refine keepsParts_cellar ?_ _ _ | refine keepsParts_vatFilter ?_ _)))

theorem keeps_freeInv (s : State) (i : Nat) (v : Inv) (hκ : Keeps κ s) : Keeps κ (freeInv s i v) := by
  unfold freeInv
  repeat' (first | with_reducible assumption | intro _ | with_reducible apply keeps_freeSlabs | with_reducible apply keeps_dropRecipe | with_reducible refine keeps_foldl ?_ ?_ _ | with_reducible refine keeps_foldlFst ?_ ?_ _ | split | dsimp only | (refine keeps_of_parts ?_; dsimp only; with_reducible (first | refine keeps_parts ?_ | refine keepsParts_vat ?_ _ _ | refine keepsParts_cellar ?_ _ _ | refine keepsParts_vatFilter ?_ _)))

theorem keeps_closeInv (s : State) (i : Nat) (v : Inv) (r : BitVec 512) (hκ : Keeps κ s) : Keeps κ (closeInv s i v r) := by
  unfold closeInv
  repeat' (first | with_reducible assumption | intro _ | with_reducible apply keeps_freeInv | with_reducible apply keeps_bump | with_reducible apply keeps_keepRecord)

theorem keeps_recordLeft (s : State) (i : Nat) (hκ : Keeps κ s) : Keeps κ (recordLeft s i) := by
  unfold recordLeft
  repeat' (first | with_reducible assumption | intro _ | with_reducible apply keeps_closeInv | with_reducible refine keeps_ite ?_ ?_ | split)

theorem keeps_recordsLeft (s : State) (hκ : Keeps κ s) : Keeps κ (recordsLeft s) := by
  unfold recordsLeft
  repeat' (first | with_reducible assumption | intro _ | with_reducible apply keeps_recordLeft | with_reducible refine keeps_foldl ?_ ?_ _)

theorem keeps_endInv (s : State) (i status bytes chunks : Nat) (hκ : Keeps κ s) : Keeps κ (endInv s i status bytes chunks) := by
  unfold endInv
  repeat' (first | with_reducible assumption | intro _ | with_reducible apply keeps_modInv | with_reducible apply keeps_letGo | with_reducible apply keeps_recordLeft | with_reducible apply keeps_sendResult | with_reducible refine keeps_ite ?_ ?_ | split)

theorem keeps_endUnreached (s : State) (i : Nat) (hκ : Keeps κ s) : Keeps κ (endUnreached s i) := by
  unfold endUnreached
  repeat' (first | with_reducible assumption | intro _ | with_reducible apply keeps_closeInv | with_reducible apply keeps_letGo | split)

theorem keeps_endOk (s : State) (i : Nat) (v : Inv) (r : Recipe) (hκ : Keeps κ s) : Keeps κ (endOk s i v r) := by
  unfold endOk
  repeat' (first | with_reducible assumption | intro _ | with_reducible apply keeps_readSlabs | with_reducible apply keeps_endInv | with_reducible apply keeps_sendResult | with_reducible apply keeps_logCrumb | with_reducible refine keeps_foldl ?_ ?_ _ | with_reducible refine keeps_foldlFst ?_ ?_ _ | split | dsimp only)

theorem keeps_finishIfDue (s : State) (i : Nat) (hκ : Keeps κ s) : Keeps κ (finishIfDue s i) := by
  unfold finishIfDue
  repeat' (first | with_reducible assumption | intro _ | with_reducible apply keeps_endInv | with_reducible apply keeps_endOk | with_reducible refine keeps_ite ?_ ?_ | split)

theorem keeps_resumeOne (s : State) (i : Nat) (hκ : Keeps κ s) : Keeps κ (resumeOne s i) := by
  unfold resumeOne
  repeat' (first | with_reducible assumption | intro _ | with_reducible apply keeps_finishIfDue | with_reducible apply keeps_runStep | with_reducible refine keeps_ite ?_ ?_ | split)

theorem keeps_resume (s : State) (hκ : Keeps κ s) : Keeps κ (resume s) := by
  unfold resume
  repeat' (first | with_reducible assumption | intro _ | with_reducible apply keeps_resumeOne | with_reducible refine keeps_foldl ?_ ?_ _)

theorem keeps_stepComplete (s : State) (i : Nat) (hκ : Keeps κ s) : Keeps κ (stepComplete s i) := by
  unfold stepComplete
  repeat' (first | with_reducible assumption | intro _ | with_reducible apply keeps_throughCopies | with_reducible apply keeps_releaseStep | with_reducible apply keeps_modInv | with_reducible apply keeps_dropUpdate | with_reducible apply keeps_resume | with_reducible apply keeps_finishIfDue | with_reducible refine keeps_ite ?_ ?_ | split)

theorem keeps_recipeStepTimeout (s : State) (i : Nat) (hκ : Keeps κ s) : Keeps κ (recipeStepTimeout s i) := by
  unfold recipeStepTimeout
  repeat' (first | with_reducible assumption | intro _ | with_reducible apply keeps_raiseFault | with_reducible apply keeps_releaseStep | with_reducible apply keeps_dropUpdate | with_reducible apply keeps_modInv | with_reducible apply keeps_resume | with_reducible apply keeps_finishIfDue | with_reducible refine keeps_ite ?_ ?_ | split)

theorem keeps_stageSlabDone (s : State) (p : Nat × Nat) (hκ : Keeps κ s) : Keeps κ (stageSlabDone s p) := by
  unfold stageSlabDone
  repeat' (first | with_reducible assumption | intro _ | with_reducible apply keeps_modInv | with_reducible apply keeps_releaseStep | with_reducible refine keeps_foldl ?_ ?_ _ | with_reducible refine keeps_foldlFst ?_ ?_ _ | with_reducible refine keeps_ite ?_ ?_ | split | dsimp only)

theorem keeps_cellarSlabReadDone (s : State) (c n : Nat) (flips : List (Nat × Byte)) (hκ : Keeps κ s) : Keeps κ (cellarSlabReadDone s c n flips) := by
  unfold cellarSlabReadDone
  repeat' (first | with_reducible assumption | intro _ | with_reducible apply keeps_resume | with_reducible apply keeps_stageSlabDone | with_reducible apply keeps_stageSlab | with_reducible refine keeps_ite ?_ ?_)

theorem keeps_execCellarSlabReadDone (cslab slab : Nat) (flips : List (Nat × Byte)) (s : State) (hκ : Keeps κ s) : KeepsOut κ (execCellarSlabReadDone cslab slab flips s) := by
  unfold execCellarSlabReadDone
  repeat' (first | with_reducible assumption | with_reducible refine keepsOut_next ?_ | with_reducible refine keepsOut_onUnit ?_ | intro _ | with_reducible apply keeps_cellarSlabReadDone | with_reducible apply keeps_whenLive)

theorem keeps_slabRefetched (s : State) (n : Nat) (flips : List (Nat × Byte)) (hκ : Keeps κ s) : Keeps κ (slabRefetched s n flips) := by
  unfold slabRefetched
  repeat' (first | with_reducible assumption | intro _ | with_reducible apply keeps_vatRefetchDone | with_reducible apply keeps_resume | with_reducible refine keeps_ite ?_ ?_ | split | dsimp only | (refine keeps_of_parts ?_; dsimp only; with_reducible (first | refine keeps_parts ?_ | refine keepsParts_vat ?_ _ _ | refine keepsParts_cellar ?_ _ _ | refine keepsParts_vatFilter ?_ _)))

theorem keeps_execVatRefetchDone (slab : Nat) (flips : List (Nat × Byte)) (s : State) (hκ : Keeps κ s) : KeepsOut κ (execVatRefetchDone slab flips s) := by
  unfold execVatRefetchDone
  repeat' (first | with_reducible assumption | with_reducible refine keepsOut_next ?_ | with_reducible refine keepsOut_onUnit ?_ | intro _ | with_reducible apply keeps_vatRefetchDone | with_reducible apply keeps_whenLive | with_reducible apply keeps_slabRefetched)

theorem keeps_slabReadBack (s : State) (n : Nat) (flips : List (Nat × Byte)) (hκ : Keeps κ s) : Keeps κ (slabReadBack s n flips) := by
  unfold slabReadBack
  repeat' (first | with_reducible assumption | intro _ | with_reducible apply keeps_resume | with_reducible apply keeps_vatReadbackDone | with_reducible refine keeps_ite ?_ ?_)

theorem keeps_execVatReadbackDone (slab : Nat) (flips : List (Nat × Byte)) (s : State) (hκ : Keeps κ s) : KeepsOut κ (execVatReadbackDone slab flips s) := by
  unfold execVatReadbackDone
  repeat' (first | with_reducible assumption | with_reducible refine keepsOut_next ?_ | with_reducible refine keepsOut_onUnit ?_ | intro _ | with_reducible apply keeps_vatReadbackDone | with_reducible apply keeps_whenLive | with_reducible apply keeps_slabReadBack)

theorem keeps_slabRemapped (s : State) (n : Nat) (hκ : Keeps κ s) : Keeps κ (slabRemapped s n) := by
  unfold slabRemapped
  repeat' (first | with_reducible assumption | intro _ | with_reducible apply keeps_resume | with_reducible apply keeps_vatRemapDone | with_reducible refine keeps_ite ?_ ?_)

theorem keeps_execVatRemapDone (slab : Nat) (s : State) (hκ : Keeps κ s) : KeepsOut κ (execVatRemapDone slab s) := by
  unfold execVatRemapDone
  repeat' (first | with_reducible assumption | with_reducible refine keepsOut_next ?_ | with_reducible refine keepsOut_onUnit ?_ | intro _ | with_reducible apply keeps_vatRemapDone | with_reducible apply keeps_whenLive | with_reducible apply keeps_slabRemapped)

theorem keeps_bankMoved (s : State) (b : Nat) (hκ : Keeps κ s) : Keeps κ (bankMoved s b) := by
  unfold bankMoved
  repeat' (first | with_reducible assumption | intro _ | with_reducible apply keeps_resume | with_reducible apply keeps_vatBankMoveDone | with_reducible refine keeps_ite ?_ ?_)

theorem keeps_execVatBankMoveDone (bank : Nat) (s : State) (hκ : Keeps κ s) : KeepsOut κ (execVatBankMoveDone bank s) := by
  unfold execVatBankMoveDone
  repeat' (first | with_reducible assumption | with_reducible refine keepsOut_next ?_ | with_reducible refine keepsOut_onUnit ?_ | intro _ | with_reducible apply keeps_vatBankMoveDone | with_reducible apply keeps_whenLive | with_reducible apply keeps_bankMoved)

theorem keeps_statusFromOutside (status : Nat) (s : State) (i : Nat) (hκ : Keeps κ s) : Keeps κ (statusFromOutside status s i) := by
  unfold statusFromOutside
  repeat' (first | with_reducible assumption | intro _ | with_reducible apply keeps_modInv | with_reducible apply keeps_resume | with_reducible apply keeps_finishIfDue | with_reducible apply keeps_dropUpdate | with_reducible apply keeps_releaseStep | with_reducible refine keeps_ite ?_ ?_ | split)

theorem keeps_invocationsLost (s : State) (p : Nat) (hκ : Keeps κ s) : Keeps κ (invocationsLost s p) := by
  unfold invocationsLost
  repeat' (first | with_reducible assumption | intro _ | with_reducible apply keeps_resume | with_reducible apply keeps_endUnreached | with_reducible refine keeps_foldl ?_ ?_ _ | with_reducible refine keeps_foldlFst ?_ ?_ _ | with_reducible refine keeps_ite ?_ ?_)

end Sys2Proof.Machine
end

