-- ==== Sys2Proof/Laws/KeepsUnits.lean ====
section
/-! SUPPORT. What fences, ports, lanes, slices, Proof and engines keep: the queue and both memories' canonical form, one lemma per operation. -/
namespace Sys2Proof.Machine

variable {κ : Kept}

theorem keeps_setFenceBit (s : State) (k : Nat) (on : Bool) (hκ : Keeps κ s) : Keeps κ (setFenceBit s k on) := by
  unfold setFenceBit
  repeat' (first | with_reducible assumption | intro _ | with_reducible refine keeps_ite ?_ ?_ | split | dsimp only | (refine keeps_of_parts ?_; dsimp only; with_reducible (first | refine keeps_parts ?_ | refine keepsParts_vat ?_ _ _ | refine keepsParts_cellar ?_ _ _ | refine keepsParts_vatFilter ?_ _)))

theorem keeps_forwardNotice (s : State) (payload : List Byte) (hκ : Keeps κ s) : Keeps κ (forwardNotice s payload) := by
  unfold forwardNotice
  repeat' (first | with_reducible assumption | intro _ | with_reducible apply keeps_sendPacket | with_reducible refine keeps_foldl ?_ ?_ _ | with_reducible refine keeps_foldlFst ?_ ?_ _ | with_reducible refine keeps_ite ?_ ?_)

theorem keeps_originateNotice (s : State) (p reason : Nat) (inForce : Bool) (hκ : Keeps κ s) : Keeps κ (originateNotice s p reason inForce) := by
  unfold originateNotice
  repeat' (first | with_reducible assumption | intro _ | with_reducible apply keeps_setPort | with_reducible apply keeps_bump | with_reducible apply keeps_expertsFenced | with_reducible apply keeps_setFenceBit | with_reducible apply keeps_sendPacket | with_reducible apply keeps_forwardNotice | with_reducible refine keeps_foldl ?_ ?_ _ | with_reducible refine keeps_foldlFst ?_ ?_ _ | with_reducible refine keeps_ite ?_ ?_ | split | dsimp only | (refine keeps_of_parts ?_; dsimp only; with_reducible (first | refine keeps_parts ?_ | refine keepsParts_vat ?_ _ _ | refine keepsParts_cellar ?_ _ _ | refine keepsParts_vatFilter ?_ _)))

theorem keeps_laneStarting (s : State) (l : Nat) (f : Fn) (hκ : Keeps κ s) : Keeps κ (laneStarting s l f) := by
  unfold laneStarting
  repeat' (first | with_reducible assumption | intro _ | with_reducible apply keeps_setFn | with_reducible apply keeps_setLane)

theorem keeps_laneIdle (s : State) (l : Nat) (f : Fn) (hκ : Keeps κ s) : Keeps κ (laneIdle s l f) := by
  unfold laneIdle
  repeat' (first | with_reducible assumption | intro _ | with_reducible apply keeps_setFn | with_reducible apply keeps_setLane)

theorem keeps_laneEnable (s : State) (l : Nat) (hκ : Keeps κ s) : Keeps κ (laneEnable s l) := by
  unfold laneEnable
  repeat' (first | with_reducible assumption | intro _ | with_reducible apply keeps_laneStarting | with_reducible apply keeps_setFn | with_reducible refine keeps_ite ?_ ?_)

theorem keeps_notePositionLoss (s : State) (l : Nat) (hκ : Keeps κ s) : Keeps κ (notePositionLoss s l) := by
  unfold notePositionLoss
  repeat' (first | with_reducible assumption | intro _ | with_reducible apply keeps_setPort | with_reducible refine keeps_foldl ?_ ?_ _ | with_reducible refine keeps_foldlFst ?_ ?_ _ | with_reducible refine keeps_ite ?_ ?_)

theorem keeps_laneFence (s : State) (l : Nat) (hκ : Keeps κ s) : Keeps κ (laneFence s l) := by
  unfold laneFence
  repeat' (first | with_reducible assumption | intro _ | with_reducible apply keeps_proofAbandon | with_reducible apply keeps_notePositionLoss | with_reducible apply keeps_laneIdle)

theorem keeps_laneLost (s : State) (l : Nat) (hκ : Keeps κ s) : Keeps κ (laneLost s l) := by
  unfold laneLost
  repeat' (first | with_reducible assumption | intro _ | with_reducible apply keeps_notePositionLoss | with_reducible apply keeps_setLane | with_reducible apply keeps_laneStarting | with_reducible refine keeps_ite ?_ ?_)

theorem keeps_bondEval (s : State) (p : Nat) (hκ : Keeps κ s) : Keeps κ (bondEval s p) := by
  unfold bondEval
  repeat' (first | with_reducible assumption | intro _ | with_reducible apply keeps_setPort | with_reducible apply keeps_raiseEvent | with_reducible refine keeps_foldl ?_ ?_ _ | with_reducible refine keeps_foldlFst ?_ ?_ _ | with_reducible refine keeps_ite ?_ ?_)

theorem keeps_cutEgress (s : State) (p : Nat) (hκ : Keeps κ s) : Keeps κ (cutEgress s p) := by
  unfold cutEgress
  repeat' (first | with_reducible assumption | intro _ | with_reducible apply keeps_setPort | with_reducible apply keeps_releaseOut | with_reducible refine keeps_foldl ?_ ?_ _)

theorem keeps_truncateRx (s : State) (p vc : Nat) (hκ : Keeps κ s) : Keeps κ (truncateRx s p vc) := by
  unfold truncateRx
  repeat' (first | with_reducible assumption | intro _ | with_reducible apply keeps_setPort | with_reducible apply keeps_bump | with_reducible apply keeps_returnCredits | with_reducible apply keeps_wr | with_reducible apply keeps_sendDrop | with_reducible apply keeps_addWaiter | with_reducible apply keeps_holdOut | with_reducible apply keeps_loseRoute | with_reducible apply keeps_placeAs | with_reducible refine keeps_ite ?_ ?_ | split | dsimp only | (refine keeps_of_parts ?_; dsimp only; with_reducible (first | refine keeps_parts ?_ | refine keepsParts_vat ?_ _ _ | refine keepsParts_cellar ?_ _ _ | refine keepsParts_vatFilter ?_ _)))

theorem keeps_portLeaveOn (s : State) (p : Nat) (hκ : Keeps κ s) : Keeps κ (portLeaveOn s p) := by
  unfold portLeaveOn
  repeat' (first | with_reducible assumption | intro _ | with_reducible apply keeps_cutEgress | with_reducible apply keeps_truncateRx | with_reducible apply keeps_setPort | with_reducible apply keeps_invocationsLost | with_reducible apply keeps_memberPortLost | with_reducible apply keeps_wr | with_reducible refine keeps_foldl ?_ ?_ _)

theorem keeps_portStarting (s : State) (p : Nat) (hκ : Keeps κ s) : Keeps κ (portStarting s p) := by
  unfold portStarting
  repeat' (first | with_reducible assumption | intro _ | with_reducible apply keeps_laneEnable | with_reducible apply keeps_setPort | with_reducible apply keeps_setLg | with_reducible refine keeps_foldl ?_ ?_ _ | with_reducible refine keeps_foldlFst ?_ ?_ _ | with_reducible refine keeps_ite ?_ ?_ | split | dsimp only)

theorem keeps_portFencedLanes (s : State) (p : Nat) (hκ : Keeps κ s) : Keeps κ (portFencedLanes s p) := by
  unfold portFencedLanes
  repeat' (first | with_reducible assumption | intro _ | with_reducible apply keeps_laneIdle | with_reducible apply keeps_setLg | with_reducible refine keeps_foldl ?_ ?_ _ | with_reducible refine keeps_foldlFst ?_ ?_ _ | with_reducible refine keeps_ite ?_ ?_ | split | dsimp only)

theorem keeps_sendAdmission (s : State) (p : Nat) (hκ : Keeps κ s) : Keeps κ (sendAdmission s p) := by
  unfold sendAdmission
  repeat' (first | with_reducible assumption | intro _ | with_reducible apply keeps_drawBytes | with_reducible apply keeps_loafOn | with_reducible apply keeps_setPort | with_reducible apply keeps_wr | with_reducible refine keeps_ite ?_ ?_ | split)

theorem keeps_portEnterOn (s : State) (p : Nat) (hκ : Keeps κ s) : Keeps κ (portEnterOn s p) := by
  unfold portEnterOn
  repeat' (first | with_reducible assumption | intro _ | with_reducible apply keeps_setPort | with_reducible apply keeps_wr | with_reducible apply keeps_originateNotice | with_reducible apply keeps_sendAdmission | with_reducible refine keeps_ite ?_ ?_)

theorem keeps_portTo (s : State) (p : Nat) (f : Fn) (hκ : Keeps κ s) : Keeps κ (portTo s p f) := by
  unfold portTo
  repeat' (first | with_reducible assumption | intro _ | with_reducible apply keeps_setFn | with_reducible apply keeps_portLeaveOn | with_reducible apply keeps_portStarting | with_reducible apply keeps_originateNotice | with_reducible apply keeps_portFencedLanes | with_reducible apply keeps_portEnterOn | with_reducible apply keeps_bondEval | with_reducible apply keeps_topoEval | with_reducible refine keeps_ite ?_ ?_)

theorem keeps_portQuarantine (s : State) (p cause : Nat) (hκ : Keeps κ s) : Keeps κ (portQuarantine s p cause) := by
  unfold portQuarantine
  repeat' (first | with_reducible assumption | intro _ | with_reducible apply keeps_raiseEvent | with_reducible apply keeps_portTo | with_reducible apply keeps_wr)

theorem keeps_portRelease (s : State) (p : Nat) (hκ : Keeps κ s) : Keeps κ (portRelease s p) := by
  unfold portRelease
  repeat' (first | with_reducible assumption | intro _ | with_reducible apply keeps_portTo | with_reducible apply keeps_wr)

theorem keeps_portFail (s : State) (p : Nat) (hκ : Keeps κ s) : Keeps κ (portFail s p) := by
  unfold portFail
  repeat' (first | with_reducible assumption | intro _ | with_reducible apply keeps_bump | with_reducible apply keeps_setPort | with_reducible apply keeps_raiseFault | with_reducible apply keeps_portTo | with_reducible refine keeps_ite ?_ ?_)

theorem keeps_portRestart (s : State) (p : Nat) (hκ : Keeps κ s) : Keeps κ (portRestart s p) := by
  unfold portRestart
  repeat' (first | with_reducible assumption | intro _ | with_reducible apply keeps_portTo | with_reducible refine keeps_ite ?_ ?_)

theorem keeps_portTryOn (s : State) (p : Nat) (hκ : Keeps κ s) : Keeps κ (portTryOn s p) := by
  unfold portTryOn
  repeat' (first | with_reducible assumption | intro _ | with_reducible apply keeps_portTo | with_reducible apply keeps_portQuarantine | with_reducible refine keeps_ite ?_ ?_ | split)

theorem keeps_portCheck (s : State) (p : Nat) (hκ : Keeps κ s) : Keeps κ (portCheck s p) := by
  unfold portCheck
  repeat' (first | with_reducible assumption | intro _ | with_reducible apply keeps_portTryOn | with_reducible apply keeps_setPort)

theorem keeps_portRecheck (s : State) (p : Nat) (hκ : Keeps κ s) : Keeps κ (portRecheck s p) := by
  unfold portRecheck
  repeat' (first | with_reducible assumption | intro _ | with_reducible apply keeps_portQuarantine | with_reducible apply keeps_portRelease | with_reducible apply keeps_portCheck | with_reducible refine keeps_ite ?_ ?_ | split)

theorem keeps_deskewPort (s : State) (p : Nat) (old : Option Nat) (hκ : Keeps κ s) : Keeps κ (deskewPort s p old) := by
  unfold deskewPort
  repeat' (first | with_reducible assumption | intro _ | with_reducible apply keeps_setLane | with_reducible apply keeps_portTryOn | with_reducible apply keeps_setPort | with_reducible apply keeps_raiseEvent | with_reducible refine keeps_foldl ?_ ?_ _ | with_reducible refine keeps_foldlFst ?_ ?_ _ | with_reducible refine keeps_ite ?_ ?_)

theorem keeps_deskewGroup (s : State) (g : Nat) (old : Option Nat) (hκ : Keeps κ s) : Keeps κ (deskewGroup s g old) := by
  unfold deskewGroup
  repeat' (first | with_reducible assumption | intro _ | with_reducible apply keeps_deskewPort | with_reducible refine keeps_foldl ?_ ?_ _)

theorem keeps_substituteSpare (s : State) (g i : Nat) (hκ : Keeps κ s) : Keeps κ (substituteSpare s g i) := by
  unfold substituteSpare
  repeat' (first | with_reducible assumption | intro _ | with_reducible apply keeps_laneIdle | with_reducible apply keeps_setLg)

theorem keeps_lossClassify (s : State) (p : Nat) (hκ : Keeps κ s) : Keeps κ (lossClassify s p) := by
  unfold lossClassify
  repeat' (first | with_reducible assumption | intro _ | with_reducible apply keeps_setPort | with_reducible apply keeps_substituteSpare | with_reducible apply keeps_portFail | with_reducible refine keeps_ite ?_ ?_ | split | dsimp only)

theorem keeps_laneRest (s : State) (l : Nat) (hκ : Keeps κ s) : Keeps κ (laneRest s l) := by
  unfold laneRest
  repeat' (first | with_reducible assumption | intro _ | with_reducible apply keeps_laneStarting | with_reducible apply keeps_laneIdle | with_reducible refine keeps_ite ?_ ?_)

theorem keeps_switchReceived (s : State) (g : Nat) (raw : BitVec 136) (hκ : Keeps κ s) : Keeps κ (switchReceived s g raw) := by
  unfold switchReceived
  repeat' (first | with_reducible assumption | intro _ | with_reducible apply keeps_bump | with_reducible apply keeps_setLane | with_reducible apply keeps_setLg | with_reducible apply keeps_laneStarting | with_reducible apply keeps_laneIdle | with_reducible apply keeps_portFail | with_reducible refine keeps_ite ?_ ?_ | split)

theorem keeps_sendOnLane (s : State) (l : Nat) (bytes : List Byte) (hκ : Keeps κ s) : Keeps κ (sendOnLane s l bytes) := by
  unfold sendOnLane
  repeat' (first | with_reducible assumption | intro _ | with_reducible apply keeps_setLane | with_reducible refine keeps_ite ?_ ?_)

theorem keeps_sendBlock (s : State) (l : Nat) (b : BitVec 136) (hκ : Keeps κ s) : Keeps κ (sendBlock s l b) := by
  unfold sendBlock
  repeat' (first | with_reducible assumption | intro _ | with_reducible apply keeps_setLane | with_reducible refine keeps_ite ?_ ?_)

theorem keeps_sendLanes (s : State) (p : Nat) (frame : List Byte) (hκ : Keeps κ s) : Keeps κ (sendLanes s p frame) := by
  unfold sendLanes
  repeat' (first | with_reducible assumption | intro _ | with_reducible apply keeps_sendOnLane | with_reducible refine keeps_foldl ?_ ?_ _ | with_reducible refine keeps_foldlFst ?_ ?_ _ | with_reducible refine keeps_ite ?_ ?_)

theorem keeps_sendMarkers (s : State) (g : Nat) (hκ : Keeps κ s) : Keeps κ (sendMarkers s g) := by
  unfold sendMarkers
  repeat' (first | with_reducible assumption | intro _ | with_reducible apply keeps_sendBlock | with_reducible refine keeps_foldl ?_ ?_ _)

theorem keeps_hearSlot (s : State) (l : Nat) (bytes : List Byte) (hκ : Keeps κ s) : Keeps κ (hearSlot s l bytes) := by
  unfold hearSlot
  repeat' (first | with_reducible assumption | intro _ | with_reducible apply keeps_setLane)

theorem keeps_hearLanes (s : State) (p : Nat) (frame : List Byte) (hκ : Keeps κ s) : Keeps κ (hearLanes s p frame) := by
  unfold hearLanes
  repeat' (first | with_reducible assumption | intro _ | with_reducible apply keeps_hearSlot | with_reducible refine keeps_foldl ?_ ?_ _)

theorem keeps_hearSpare (s : State) (g : Nat) (frame : List Byte) (hκ : Keeps κ s) : Keeps κ (hearSpare s g frame) := by
  unfold hearSpare
  repeat' (first | with_reducible assumption | intro _ | with_reducible apply keeps_hearSlot)

theorem keeps_echoAdvance (s : State) (p : Nat) (hκ : Keeps κ s) : Keeps κ (echoAdvance s p) := by
  unfold echoAdvance
  repeat' (first | with_reducible assumption | intro _ | with_reducible apply keeps_setPort | with_reducible refine keeps_ite ?_ ?_)

theorem keeps_markerSlot (s : State) (g : Nat) (hκ : Keeps κ s) : Keeps κ (markerSlot s g) := by
  unfold markerSlot
  repeat' (first | with_reducible assumption | intro _ | with_reducible apply keeps_setLg | with_reducible apply keeps_echoAdvance | with_reducible apply keeps_sendMarkers | with_reducible refine keeps_foldl ?_ ?_ _)

theorem keeps_execMarkerSlot (group : Nat) (s : State) (hκ : Keeps κ s) : KeepsOut κ (execMarkerSlot group s) := by
  unfold execMarkerSlot
  repeat' (first | with_reducible assumption | with_reducible refine keepsOut_next ?_ | with_reducible refine keepsOut_onUnit ?_ | intro _ | with_reducible apply keeps_markerSlot | with_reducible refine keeps_ite ?_ ?_)

theorem keeps_execSignalDetect (lane : Nat) (s : State) (hκ : Keeps κ s) : KeepsOut κ (execSignalDetect lane s) := by
  unfold execSignalDetect
  repeat' (first | with_reducible assumption | with_reducible refine keepsOut_next ?_ | with_reducible refine keepsOut_onUnit ?_ | intro _ | with_reducible apply keeps_whenLive | with_reducible apply keeps_setLane)

theorem keeps_execCdrLock (lane : Nat) (s : State) (hκ : Keeps κ s) : KeepsOut κ (execCdrLock lane s) := by
  unfold execCdrLock
  repeat' (first | with_reducible assumption | with_reducible refine keepsOut_next ?_ | with_reducible refine keepsOut_onUnit ?_ | intro _ | with_reducible apply keeps_whenLive | with_reducible apply keeps_setLane | with_reducible refine keeps_ite ?_ ?_)

theorem keeps_badBlock (s : State) (l slot : Nat) (hκ : Keeps κ s) : Keeps κ (badBlock s l slot) := by
  unfold badBlock
  repeat' (first | with_reducible assumption | intro _ | with_reducible apply keeps_bump | with_reducible apply keeps_setLane)

theorem keeps_goodMarker (s : State) (l slot skew : Nat) (inverted : Bool) (b : BitVec 136) (hκ : Keeps κ s) : Keeps κ (goodMarker s l slot skew inverted b) := by
  unfold goodMarker
  repeat' (first | with_reducible assumption | intro _ | with_reducible apply keeps_bumpBy | with_reducible apply keeps_setLane | with_reducible apply keeps_setFnState | with_reducible apply keeps_deskewGroup | with_reducible refine keeps_ite ?_ ?_)

theorem keeps_markerReceived (s : State) (l slot skew : Nat) (raw : BitVec 136) (hκ : Keeps κ s) : Keeps κ (markerReceived s l slot skew raw) := by
  unfold markerReceived
  repeat' (first | with_reducible assumption | intro _ | with_reducible apply keeps_badBlock | with_reducible apply keeps_goodMarker | with_reducible apply keeps_switchReceived | with_reducible refine keeps_ite ?_ ?_)

theorem keeps_execMarkerReceived (lane slot skew : Nat) (block : BitVec 136) (s : State) (hκ : Keeps κ s) : KeepsOut κ (execMarkerReceived lane slot skew block s) := by
  unfold execMarkerReceived
  repeat' (first | with_reducible assumption | with_reducible refine keepsOut_next ?_ | with_reducible refine keepsOut_onUnit ?_ | intro _ | with_reducible apply keeps_markerReceived | with_reducible apply keeps_whenLive)

theorem keeps_lossOfSignal (s : State) (l : Nat) (hκ : Keeps κ s) : Keeps κ (lossOfSignal s l) := by
  unfold lossOfSignal
  repeat' (first | with_reducible assumption | intro _ | with_reducible apply keeps_bump | with_reducible apply keeps_setLane | with_reducible apply keeps_laneLost)

theorem keeps_execLossOfSignal (lane : Nat) (s : State) (hκ : Keeps κ s) : KeepsOut κ (execLossOfSignal lane s) := by
  unfold execLossOfSignal
  repeat' (first | with_reducible assumption | with_reducible refine keepsOut_next ?_ | with_reducible refine keepsOut_onUnit ?_ | intro _ | with_reducible apply keeps_lossOfSignal | with_reducible apply keeps_whenLive)

theorem keeps_cdrLossOfLock (s : State) (l : Nat) (hκ : Keeps κ s) : Keeps κ (cdrLossOfLock s l) := by
  unfold cdrLossOfLock
  repeat' (first | with_reducible assumption | intro _ | with_reducible apply keeps_bump | with_reducible apply keeps_laneLost | with_reducible apply keeps_setLane | with_reducible refine keeps_ite ?_ ?_)

theorem keeps_execCdrLossOfLock (lane : Nat) (s : State) (hκ : Keeps κ s) : KeepsOut κ (execCdrLossOfLock lane s) := by
  unfold execCdrLossOfLock
  repeat' (first | with_reducible assumption | with_reducible refine keepsOut_next ?_ | with_reducible refine keepsOut_onUnit ?_ | intro _ | with_reducible apply keeps_cdrLossOfLock | with_reducible apply keeps_whenLive)

theorem keeps_markerLoss (s : State) (l : Nat) (hκ : Keeps κ s) : Keeps κ (markerLoss s l) := by
  unfold markerLoss
  repeat' (first | with_reducible assumption | intro _ | with_reducible apply keeps_bumpBy | with_reducible apply keeps_laneLost | with_reducible apply keeps_setLane)

theorem keeps_execMarkerLoss (lane : Nat) (s : State) (hκ : Keeps κ s) : KeepsOut κ (execMarkerLoss lane s) := by
  unfold execMarkerLoss
  repeat' (first | with_reducible assumption | with_reducible refine keepsOut_next ?_ | with_reducible refine keepsOut_onUnit ?_ | intro _ | with_reducible apply keeps_markerLoss | with_reducible apply keeps_whenLive)

theorem keeps_marginWindowEnd (s : State) (l errors : Nat) (hκ : Keeps κ s) : Keeps κ (marginWindowEnd s l errors) := by
  unfold marginWindowEnd
  repeat' (first | with_reducible assumption | intro _ | with_reducible apply keeps_bump64 | with_reducible apply keeps_raiseFault | with_reducible apply keeps_laneFence | with_reducible refine keeps_ite ?_ ?_)

theorem keeps_execMarginWindowEnd (lane errors : Nat) (s : State) (hκ : Keeps κ s) : KeepsOut κ (execMarginWindowEnd lane errors s) := by
  unfold execMarginWindowEnd
  repeat' (first | with_reducible assumption | with_reducible refine keepsOut_next ?_ | with_reducible refine keepsOut_onUnit ?_ | intro _ | with_reducible apply keeps_marginWindowEnd | with_reducible apply keeps_whenLive)

theorem keeps_execLossClassify (port : Nat) (s : State) (hκ : Keeps κ s) : KeepsOut κ (execLossClassify port s) := by
  unfold execLossClassify
  repeat' (first | with_reducible assumption | with_reducible refine keepsOut_next ?_ | with_reducible refine keepsOut_onUnit ?_ | intro _ | with_reducible apply keeps_lossClassify | with_reducible apply keeps_whenLive)

theorem keeps_execSwitchReceived (group : Nat) (block : BitVec 136) (s : State) (hκ : Keeps κ s) : KeepsOut κ (execSwitchReceived group block s) := by
  unfold execSwitchReceived
  repeat' (first | with_reducible assumption | with_reducible refine keepsOut_next ?_ | with_reducible refine keepsOut_onUnit ?_ | intro _ | with_reducible apply keeps_switchReceived | with_reducible apply keeps_whenLive)

theorem keeps_execQuarantineRelease (port : Nat) (s : State) (hκ : Keeps κ s) : KeepsOut κ (execQuarantineRelease port s) := by
  unfold execQuarantineRelease
  repeat' (first | with_reducible assumption | with_reducible refine keepsOut_next ?_ | with_reducible refine keepsOut_onUnit ?_ | intro _ | with_reducible apply keeps_whenLive | with_reducible apply keeps_portRelease | with_reducible refine keeps_ite ?_ ?_)

theorem keeps_expectedEndpointApply (s : State) (p v : Nat) (hκ : Keeps κ s) : Keeps κ (expectedEndpointApply s p v) := by
  unfold expectedEndpointApply
  repeat' (first | with_reducible assumption | intro _ | with_reducible apply keeps_writeReg | with_reducible apply keeps_portRecheck | with_reducible refine keeps_ite ?_ ?_)

theorem keeps_execPortExpectedEndpointWrite (src : Source) (port : Nat) (ident : BitVec 64) (s : State) (hκ : Keeps κ s) : KeepsOut κ (execPortExpectedEndpointWrite src port ident s) := by
  unfold execPortExpectedEndpointWrite
  repeat' (first | with_reducible assumption | with_reducible refine keepsOut_next ?_ | with_reducible refine keepsOut_onUnit ?_ | intro _ | with_reducible apply keeps_whenWritten | with_reducible apply keeps_expectedEndpointApply)

theorem keeps_execLaneUserCalWrite (src : Source) (group sub : Nat) (value : BitVec 8) (s : State) (hκ : Keeps κ s) : KeepsOut κ (execLaneUserCalWrite src group sub value s) := by
  unfold execLaneUserCalWrite
  repeat' (first | with_reducible assumption | with_reducible refine keepsOut_next ?_ | with_reducible refine keepsOut_onUnit ?_ | intro _ | with_reducible apply keeps_whenWritten | with_reducible apply keeps_writeReg)

theorem keeps_setCage (s : State) (n : Nat) (c : Cage) (hκ : Keeps κ s) : Keeps κ (setCage s n c) := by
  unfold setCage
  repeat' (first | with_reducible assumption | intro _ | split | dsimp only | (refine keeps_of_parts ?_; dsimp only; with_reducible (first | refine keeps_parts ?_ | refine keepsParts_vat ?_ _ _ | refine keepsParts_cellar ?_ _ _ | refine keepsParts_vatFilter ?_ _)))

theorem keeps_setEngineRecord (s : State) (serial : List Byte) (hours ins : Nat) (hκ : Keeps κ s) : Keeps κ (setEngineRecord s serial hours ins) := by
  unfold setEngineRecord
  repeat' (first | with_reducible assumption | intro _ | split | dsimp only | (refine keeps_of_parts ?_; dsimp only; with_reducible (first | refine keeps_parts ?_ | refine keepsParts_vat ?_ _ _ | refine keepsParts_cellar ?_ _ _ | refine keepsParts_vatFilter ?_ _)))

theorem keeps_wearEvents (s : State) (n from_ to_ : Nat) (hκ : Keeps κ s) : Keeps κ (wearEvents s n from_ to_) := by
  unfold wearEvents
  repeat' (first | with_reducible assumption | intro _ | with_reducible apply keeps_raiseEvent | with_reducible refine keeps_ite ?_ ?_)

theorem keeps_showCounts (s : State) (n hours ins wear : Nat) (hκ : Keeps κ s) : Keeps κ (showCounts s n hours ins wear) := by
  unfold showCounts
  repeat' (first | with_reducible assumption | intro _ | with_reducible apply keeps_wr | with_reducible apply keeps_setCage)

theorem keeps_writeCounts (s : State) (n : Nat) (hκ : Keeps κ s) : Keeps κ (writeCounts s n) := by
  unfold writeCounts
  repeat' (first | with_reducible assumption | intro _ | with_reducible apply keeps_setEngineRecord | with_reducible apply keeps_emit)

theorem keeps_sliceDisableHard (s : State) (k : Nat) (hκ : Keeps κ s) : Keeps κ (sliceDisableHard s k) := by
  unfold sliceDisableHard
  repeat' (first | with_reducible assumption | intro _ | with_reducible apply keeps_groupsSliceOff | with_reducible apply keeps_setFn | split | dsimp only)

theorem keeps_holdPorts (s : State) (hκ : Keeps κ s) : Keeps κ (holdPorts s) := by
  unfold holdPorts
  repeat' (first | with_reducible assumption | intro _ | with_reducible apply keeps_portRestart | with_reducible refine keeps_foldl ?_ ?_ _)

theorem keeps_sizesTakeEffect (s : State) (hκ : Keeps κ s) : Keeps κ (sizesTakeEffect s) := by
  unfold sizesTakeEffect
  repeat' (first | with_reducible assumption | intro _ | with_reducible apply keeps_sliceDisableHard | with_reducible apply keeps_installSlice0 | with_reducible apply keeps_topoEval | with_reducible apply keeps_holdPorts | with_reducible apply keeps_coordInvalidEvent | with_reducible apply keeps_portRecheck | with_reducible apply keeps_portTryOn | with_reducible refine keeps_foldl ?_ ?_ _ | with_reducible refine keeps_foldlFst ?_ ?_ _ | with_reducible refine keeps_ite ?_ ?_)

theorem keeps_torusSizeCommit (s : State) (hκ : Keeps κ s) : Keeps κ (torusSizeCommit s) := by
  unfold torusSizeCommit
  split
  · exact hκ
  · rename_i hv
    have hv : sizesValid (stagedSizes s) = true := by
      cases hs : sizesValid (stagedSizes s) <;> simp_all
    with_reducible apply keeps_sizesTakeEffect
    exact keeps_of_parts { keeps_parts hκ with sizesOk := fun z e => by cases e; exact hv, committedOk := fun z e => by cases e; exact hv }

theorem keeps_execTorusSizeCommit (src : Source) (s : State) (hκ : Keeps κ s) : KeepsOut κ (execTorusSizeCommit src s) := by
  unfold execTorusSizeCommit
  repeat' (first | with_reducible assumption | with_reducible refine keepsOut_next ?_ | with_reducible refine keepsOut_onUnit ?_ | intro _ | with_reducible apply keeps_whenWritten | with_reducible apply keeps_torusSizeCommit)

theorem keeps_bondApply (s : State) (p v : Nat) (hκ : Keeps κ s) : Keeps κ (bondApply s p v) := by
  unfold bondApply
  repeat' (first | with_reducible assumption | intro _ | with_reducible apply keeps_bondEval | with_reducible apply keeps_writeReg | with_reducible refine keeps_ite ?_ ?_)

theorem keeps_execPortBondLeaderWrite (src : Source) (port leader : Nat) (s : State) (hκ : Keeps κ s) : KeepsOut κ (execPortBondLeaderWrite src port leader s) := by
  unfold execPortBondLeaderWrite
  repeat' (first | with_reducible assumption | with_reducible refine keepsOut_next ?_ | with_reducible refine keepsOut_onUnit ?_ | intro _ | with_reducible apply keeps_whenWritten | with_reducible apply keeps_bondApply)

theorem keeps_execSliceCommit (src : Source) (slice : Nat) (s : State) (hκ : Keeps κ s) : KeepsOut κ (execSliceCommit src slice s) := by
  unfold execSliceCommit
  repeat' (first | with_reducible assumption | with_reducible refine keepsOut_next ?_ | with_reducible refine keepsOut_onUnit ?_ | intro _ | with_reducible apply keeps_sliceCommit | with_reducible apply keeps_whenWritten | with_reducible apply keeps_commitTables)

theorem keeps_execSliceDrainTimeout (slice : Nat) (s : State) (hκ : Keeps κ s) : KeepsOut κ (execSliceDrainTimeout slice s) := by
  unfold execSliceDrainTimeout
  repeat' (first | with_reducible assumption | with_reducible refine keepsOut_next ?_ | with_reducible refine keepsOut_onUnit ?_ | intro _ | with_reducible apply keeps_whenLive | with_reducible apply keeps_recordsLeft | with_reducible apply keeps_sliceDrain | with_reducible refine keeps_ite ?_ ?_)

theorem keeps_detourInstall (s : State) (es : List (Nat × Nat)) (hκ : Keeps κ s) : Keeps κ (detourInstall s es) := by
  unfold detourInstall
  repeat' (first | with_reducible assumption | intro _ | with_reducible refine keeps_foldl ?_ ?_ _ | with_reducible refine keeps_foldlFst ?_ ?_ _ | with_reducible refine keeps_ite ?_ ?_ | split | dsimp only | (refine keeps_of_parts ?_; dsimp only; with_reducible (first | refine keeps_parts ?_ | refine keepsParts_vat ?_ _ _ | refine keepsParts_cellar ?_ _ _ | refine keepsParts_vatFilter ?_ _)))

theorem keeps_execDetourInstall (entries : List (Nat × Nat)) (s : State) (hκ : Keeps κ s) : KeepsOut κ (execDetourInstall entries s) := by
  unfold execDetourInstall
  repeat' (first | with_reducible assumption | with_reducible refine keepsOut_next ?_ | with_reducible refine keepsOut_onUnit ?_ | intro _ | with_reducible apply keeps_whenLive | with_reducible apply keeps_detourInstall)

theorem keeps_detourRemove (s : State) (ms : List Nat) (hκ : Keeps κ s) : Keeps κ (detourRemove s ms) := by
  unfold detourRemove
  repeat' (first | with_reducible assumption | intro _ | with_reducible apply keeps_retree | with_reducible refine keeps_foldl ?_ ?_ _ | with_reducible refine keeps_foldlFst ?_ ?_ _ | split | dsimp only | (refine keeps_of_parts ?_; dsimp only; with_reducible (first | refine keeps_parts ?_ | refine keepsParts_vat ?_ _ _ | refine keepsParts_cellar ?_ _ _ | refine keepsParts_vatFilter ?_ _)))

theorem keeps_execDetourRemove (modules : List Nat) (s : State) (hκ : Keeps κ s) : KeepsOut κ (execDetourRemove modules s) := by
  unfold execDetourRemove
  repeat' (first | with_reducible assumption | with_reducible refine keepsOut_next ?_ | with_reducible refine keepsOut_onUnit ?_ | intro _ | with_reducible apply keeps_whenLive | with_reducible apply keeps_detourRemove)

theorem keeps_fabricAdmit (s : State) (hκ : Keeps κ s) : Keeps κ (fabricAdmit s) := by
  unfold fabricAdmit
  repeat' (first | with_reducible assumption | intro _ | with_reducible apply keeps_sendAdmission | with_reducible apply keeps_wr | with_reducible refine keeps_foldl ?_ ?_ _ | with_reducible refine keeps_foldlFst ?_ ?_ _ | with_reducible refine keeps_ite ?_ ?_)

theorem keeps_execFabricAdmit (src : Source) (s : State) (hκ : Keeps κ s) : KeepsOut κ (execFabricAdmit src s) := by
  unfold execFabricAdmit
  repeat' (first | with_reducible assumption | with_reducible refine keepsOut_next ?_ | with_reducible refine keepsOut_onUnit ?_ | intro _ | with_reducible apply keeps_whenWritten | with_reducible apply keeps_fabricAdmit)

theorem keeps_routeAdmission (s : State) (p : Nat) (hκ : Keeps κ s) : Keeps κ (routeAdmission s p) := by
  unfold routeAdmission
  repeat' (first | with_reducible assumption | intro _ | with_reducible apply keeps_setPort | with_reducible apply keeps_wr | with_reducible refine keeps_ite ?_ ?_)

theorem keeps_execRouteAdmission (port : Nat) (s : State) (hκ : Keeps κ s) : KeepsOut κ (execRouteAdmission port s) := by
  unfold execRouteAdmission
  repeat' (first | with_reducible assumption | with_reducible refine keepsOut_next ?_ | with_reducible refine keepsOut_onUnit ?_ | intro _ | with_reducible apply keeps_routeAdmission | with_reducible apply keeps_whenLive)

theorem keeps_windowUpdDelay (s : State) (src : BitVec 23) (c : BitVec 2) (hκ : Keeps κ s) : Keeps κ (windowUpdDelay s src c) := by
  unfold windowUpdDelay
  repeat' (first | with_reducible assumption | intro _ | with_reducible apply keeps_sendWindowUpd | split | dsimp only | (refine keeps_of_parts ?_; dsimp only; with_reducible (first | refine keeps_parts ?_ | refine keepsParts_vat ?_ _ _ | refine keepsParts_cellar ?_ _ _ | refine keepsParts_vatFilter ?_ _)))

theorem keeps_execWindowUpdDelay (srcId : BitVec 23) (cls : BitVec 2) (s : State) (hκ : Keeps κ s) : KeepsOut κ (execWindowUpdDelay srcId cls s) := by
  unfold execWindowUpdDelay
  repeat' (first | with_reducible assumption | with_reducible refine keepsOut_next ?_ | with_reducible refine keepsOut_onUnit ?_ | intro _ | with_reducible apply keeps_whenLive | with_reducible apply keeps_windowUpdDelay)

theorem keeps_windowLeakTimeout (s : State) (src : BitVec 23) (m : Nat) (c : BitVec 2) (hκ : Keeps κ s) : Keeps κ (windowLeakTimeout s src m c) := by
  unfold windowLeakTimeout
  repeat' (first | with_reducible assumption | intro _ | with_reducible apply keeps_bump | with_reducible apply keeps_setWindow | with_reducible apply keeps_drawBytes | with_reducible apply keeps_sendWindowUpd | with_reducible refine keeps_ite ?_ ?_)

theorem keeps_execWindowLeakTimeout (srcId : BitVec 23) (module : Nat) (cls : BitVec 2) (s : State) (hκ : Keeps κ s) : KeepsOut κ (execWindowLeakTimeout srcId module cls s) := by
  unfold execWindowLeakTimeout
  repeat' (first | with_reducible assumption | with_reducible refine keepsOut_next ?_ | with_reducible refine keepsOut_onUnit ?_ | intro _ | with_reducible apply keeps_windowLeakTimeout | with_reducible apply keeps_whenLive)

theorem keeps_reorderHoldTimeout (s : State) (src dst : BitVec 23) (hκ : Keeps κ s) : Keeps κ (reorderHoldTimeout s src dst) := by
  unfold reorderHoldTimeout
  repeat' (first | with_reducible assumption | intro _ | with_reducible apply keeps_bump | with_reducible apply keeps_setReorder | with_reducible apply keeps_releaseAll | with_reducible refine keeps_ite ?_ ?_ | split)

theorem keeps_execReorderHoldTimeout (srcId dstId : BitVec 23) (s : State) (hκ : Keeps κ s) : KeepsOut κ (execReorderHoldTimeout srcId dstId s) := by
  unfold execReorderHoldTimeout
  repeat' (first | with_reducible assumption | with_reducible refine keepsOut_next ?_ | with_reducible refine keepsOut_onUnit ?_ | intro _ | with_reducible apply keeps_whenLive | with_reducible apply keeps_reorderHoldTimeout)

theorem keeps_reorderContextIdle (s : State) (src dst : BitVec 23) (hκ : Keeps κ s) : Keeps κ (reorderContextIdle s src dst) := by
  unfold reorderContextIdle
  repeat' (first | with_reducible assumption | intro _ | with_reducible refine keeps_ite ?_ ?_ | split | dsimp only | (refine keeps_of_parts ?_; dsimp only; with_reducible (first | refine keeps_parts ?_ | refine keepsParts_vat ?_ _ _ | refine keepsParts_cellar ?_ _ _ | refine keepsParts_vatFilter ?_ _)))

theorem keeps_execReorderContextIdle (srcId dstId : BitVec 23) (s : State) (hκ : Keeps κ s) : KeepsOut κ (execReorderContextIdle srcId dstId s) := by
  unfold execReorderContextIdle
  repeat' (first | with_reducible assumption | with_reducible refine keepsOut_next ?_ | with_reducible refine keepsOut_onUnit ?_ | intro _ | with_reducible apply keeps_whenLive | with_reducible apply keeps_reorderContextIdle)

theorem keeps_engineTo (s : State) (n : Nat) (f : Fn) (hκ : Keeps κ s) : Keeps κ (engineTo s n f) := by
  unfold engineTo
  repeat' (first | with_reducible assumption | intro _ | with_reducible apply keeps_setFn | with_reducible apply keeps_setCage | with_reducible apply keeps_portFail | with_reducible refine keeps_foldl ?_ ?_ _ | with_reducible refine keeps_foldlFst ?_ ?_ _ | with_reducible refine keeps_ite ?_ ?_)

theorem keeps_sliceEnable (s : State) (k : Nat) (hκ : Keeps κ s) : Keeps κ (sliceEnable s k) := by
  unfold sliceEnable
  repeat' (first | with_reducible assumption | intro _ | with_reducible apply keeps_setFn | with_reducible apply keeps_sliceBegin | with_reducible refine keeps_ite ?_ ?_)

theorem keeps_sliceDisable (s : State) (k : Nat) (hκ : Keeps κ s) : Keeps κ (sliceDisable s k) := by
  unfold sliceDisable
  repeat' (first | with_reducible assumption | intro _ | with_reducible apply keeps_setFn | with_reducible apply keeps_groupsSliceOff | with_reducible refine keeps_ite ?_ ?_)

theorem keeps_clusterDisable (s : State) (c : Nat) (hκ : Keeps κ s) : Keeps κ (clusterDisable s c) := by
  unfold clusterDisable
  repeat' (first | with_reducible assumption | intro _ | with_reducible apply keeps_proofAbandon | with_reducible apply keeps_setFn | with_reducible refine keeps_ite ?_ ?_ | split | dsimp only | (refine keeps_of_parts ?_; dsimp only; with_reducible (first | refine keeps_parts ?_ | refine keepsParts_vat ?_ _ _ | refine keepsParts_cellar ?_ _ _ | refine keepsParts_vatFilter ?_ _)))

theorem keeps_laneDisable (s : State) (l : Nat) (hκ : Keeps κ s) : Keeps κ (laneDisable s l) := by
  unfold laneDisable
  repeat' (first | with_reducible assumption | intro _ | with_reducible apply keeps_setFn | with_reducible apply keeps_proofAbandon | with_reducible apply keeps_notePositionLoss | with_reducible refine keeps_ite ?_ ?_)

theorem keeps_portDisable (s : State) (p : Nat) (hκ : Keeps κ s) : Keeps κ (portDisable s p) := by
  unfold portDisable
  repeat' (first | with_reducible assumption | intro _ | with_reducible apply keeps_portTo | with_reducible apply keeps_originateNotice | with_reducible refine keeps_ite ?_ ?_)

theorem keeps_requestEnable (s : State) (a : Nat) (hκ : Keeps κ s) : Keeps κ (requestEnable s a) := by
  unfold requestEnable
  repeat' (first | with_reducible assumption | intro _ | with_reducible apply keeps_portTo | with_reducible apply keeps_laneEnable | with_reducible apply keeps_sliceEnable | with_reducible apply keeps_engineTo | with_reducible apply keeps_setFn | split)

theorem keeps_requestDisable (s : State) (a : Nat) (hκ : Keeps κ s) : Keeps κ (requestDisable s a) := by
  unfold requestDisable
  repeat' (first | with_reducible assumption | intro _ | with_reducible apply keeps_portDisable | with_reducible apply keeps_laneDisable | with_reducible apply keeps_clusterDisable | with_reducible apply keeps_sliceDisable | with_reducible apply keeps_engineTo | with_reducible apply keeps_setFn | split)

theorem keeps_startSucceeds (s : State) (a : Nat) (hκ : Keeps κ s) : Keeps κ (startSucceeds s a) := by
  unfold startSucceeds
  repeat' (first | with_reducible assumption | intro _ | with_reducible apply keeps_portTryOn | with_reducible apply keeps_deskewGroup | with_reducible apply keeps_setFnState | with_reducible apply keeps_setLane | with_reducible apply keeps_clusterJoins | with_reducible apply keeps_engineTo | with_reducible apply keeps_writeCounts | with_reducible apply keeps_setCage | with_reducible refine keeps_ite ?_ ?_ | split)

theorem keeps_unitFault (s : State) (a : Nat) (hκ : Keeps κ s) : Keeps κ (unitFault s a) := by
  unfold unitFault
  repeat' (first | with_reducible assumption | intro _ | with_reducible apply keeps_portTo | with_reducible apply keeps_laneFence | with_reducible apply keeps_engineTo | with_reducible apply keeps_setFn | with_reducible apply keeps_proofAbandon | with_reducible refine keeps_ite ?_ ?_ | split | dsimp only | (refine keeps_of_parts ?_; dsimp only; with_reducible (first | refine keeps_parts ?_ | refine keepsParts_vat ?_ _ _ | refine keepsParts_cellar ?_ _ _ | refine keepsParts_vatFilter ?_ _)))

theorem keeps_startFails (s : State) (a : Nat) (hκ : Keeps κ s) : Keeps κ (startFails s a) := by
  unfold startFails
  repeat' (first | with_reducible assumption | intro _ | with_reducible apply keeps_startFail | with_reducible apply keeps_portTo | with_reducible apply keeps_laneIdle | with_reducible apply keeps_engineTo | split | dsimp only | (refine keeps_of_parts ?_; dsimp only; with_reducible (first | refine keeps_parts ?_ | refine keepsParts_vat ?_ _ _ | refine keepsParts_cellar ?_ _ _ | refine keepsParts_vatFilter ?_ _)))

theorem keeps_stopDone (s : State) (a : Nat) (hκ : Keeps κ s) : Keeps κ (stopDone s a) := by
  unfold stopDone
  repeat' (first | with_reducible assumption | intro _ | with_reducible apply keeps_portTo | with_reducible apply keeps_laneRest | with_reducible apply keeps_clusterTakeover | with_reducible apply keeps_setFn | with_reducible apply keeps_sliceStopped | with_reducible apply keeps_engineTo | with_reducible refine keeps_ite ?_ ?_ | split)

theorem keeps_coreTasks (s : State) (c : Nat) (hκ : Keeps κ s) : Keeps κ (coreTasks s c) := by
  unfold coreTasks
  repeat' (first | with_reducible assumption | intro _ | with_reducible apply keeps_wr | split)

theorem keeps_fenceCore (s : State) (c : Nat) (hκ : Keeps κ s) : Keeps κ (fenceCore s c) := by
  unfold fenceCore
  repeat' (first | with_reducible assumption | intro _ | with_reducible apply keeps_wr | with_reducible apply keeps_proofNext | with_reducible apply keeps_proofDrop | with_reducible apply keeps_proofAbandon | with_reducible apply keeps_unitFault | with_reducible apply keeps_raiseFault | with_reducible apply keeps_coreTasks | with_reducible refine keeps_ite ?_ ?_ | split | dsimp only | (refine keeps_of_parts ?_; dsimp only; with_reducible (first | refine keeps_parts ?_ | refine keepsParts_vat ?_ _ _ | refine keepsParts_cellar ?_ _ _ | refine keepsParts_vatFilter ?_ _)))

theorem keeps_coreFault (s : State) (c : Nat) (hκ : Keeps κ s) : Keeps κ (coreFault s c) := by
  unfold coreFault
  repeat' (first | with_reducible assumption | intro _ | with_reducible apply keeps_raiseFault | with_reducible apply keeps_proofNext | with_reducible apply keeps_liveRevert | with_reducible apply keeps_fenceCore | with_reducible refine keeps_ite ?_ ?_)

theorem keeps_execCoreFault (core : Nat) (s : State) (hκ : Keeps κ s) : KeepsOut κ (execCoreFault core s) := by
  unfold execCoreFault
  repeat' (first | with_reducible assumption | with_reducible refine keepsOut_next ?_ | with_reducible refine keepsOut_onUnit ?_ | intro _ | with_reducible apply keeps_coreFault | with_reducible apply keeps_whenLive)

theorem keeps_coreEcc (s : State) (c : Nat) (hκ : Keeps κ s) : Keeps κ (coreEcc s c) := by
  unfold coreEcc
  repeat' (first | with_reducible assumption | intro _ | with_reducible apply keeps_raiseFault | with_reducible apply keeps_fenceCore | with_reducible refine keeps_ite ?_ ?_ | split | dsimp only | (refine keeps_of_parts ?_; dsimp only; with_reducible (first | refine keeps_parts ?_ | refine keepsParts_vat ?_ _ _ | refine keepsParts_cellar ?_ _ _ | refine keepsParts_vatFilter ?_ _)))

theorem keeps_execCoreEcc (core : Nat) (s : State) (hκ : Keeps κ s) : KeepsOut κ (execCoreEcc core s) := by
  unfold execCoreEcc
  repeat' (first | with_reducible assumption | with_reducible refine keepsOut_next ?_ | with_reducible refine keepsOut_onUnit ?_ | intro _ | with_reducible apply keeps_coreEcc | with_reducible apply keeps_whenLive)

theorem keeps_coreRestartDone (s : State) (c : Nat) (hκ : Keeps κ s) : Keeps κ (coreRestartDone s c) := by
  unfold coreRestartDone
  repeat' (first | with_reducible assumption | intro _ | split | dsimp only | (refine keeps_of_parts ?_; dsimp only; with_reducible (first | refine keeps_parts ?_ | refine keepsParts_vat ?_ _ _ | refine keepsParts_cellar ?_ _ _ | refine keepsParts_vatFilter ?_ _)))

theorem keeps_execCoreRestartDone (core : Nat) (s : State) (hκ : Keeps κ s) : KeepsOut κ (execCoreRestartDone core s) := by
  unfold execCoreRestartDone
  repeat' (first | with_reducible assumption | with_reducible refine keepsOut_next ?_ | with_reducible refine keepsOut_onUnit ?_ | intro _ | with_reducible apply keeps_coreRestartDone | with_reducible apply keeps_whenLive)

theorem keeps_proofDue (s : State) (u : Nat) (hκ : Keeps κ s) : Keeps κ (proofDue s u) := by
  unfold proofDue
  repeat' (first | with_reducible assumption | intro _ | with_reducible apply keeps_proofEnqueue | with_reducible refine keeps_ite ?_ ?_)

theorem keeps_execProofDue (unit : Nat) (s : State) (hκ : Keeps κ s) : KeepsOut κ (execProofDue unit s) := by
  unfold execProofDue
  repeat' (first | with_reducible assumption | with_reducible refine keepsOut_next ?_ | with_reducible refine keepsOut_onUnit ?_ | intro _ | with_reducible apply keeps_proofDue | with_reducible apply keeps_whenLive)

theorem keeps_execProofNow (src : Source) (unit : Nat) (s : State) (hκ : Keeps κ s) : KeepsOut κ (execProofNow src unit s) := by
  unfold execProofNow
  repeat' (first | with_reducible assumption | with_reducible refine keepsOut_next ?_ | with_reducible refine keepsOut_onUnit ?_ | intro _ | with_reducible apply keeps_whenWritten | with_reducible apply keeps_proofEnqueue)

theorem keeps_proofPeriodApply (s : State) (v : Nat) (hκ : Keeps κ s) : Keeps κ (proofPeriodApply s v) := by
  unfold proofPeriodApply
  repeat' (first | with_reducible assumption | intro _ | with_reducible apply keeps_wr | with_reducible apply keeps_writeReg)

theorem keeps_execProofPeriodWrite (src : Source) (hours : Nat) (s : State) (hκ : Keeps κ s) : KeepsOut κ (execProofPeriodWrite src hours s) := by
  unfold execProofPeriodWrite
  repeat' (first | with_reducible assumption | with_reducible refine keepsOut_next ?_ | with_reducible refine keepsOut_onUnit ?_ | intro _ | with_reducible apply keeps_whenWritten | with_reducible apply keeps_proofPeriodApply)

theorem keeps_bankSwap (s : State) (b : Nat) (hκ : Keeps κ s) : Keeps κ (bankSwap s b) := by
  unfold bankSwap
  repeat' (first | with_reducible assumption | intro _ | with_reducible apply keeps_checkSlab | with_reducible refine keeps_foldl ?_ ?_ _ | with_reducible refine keeps_foldlFst ?_ ?_ _ | split | dsimp only | (refine keeps_of_parts ?_; dsimp only; with_reducible (first | refine keeps_parts ?_ | refine keepsParts_vat ?_ _ _ | refine keepsParts_cellar ?_ _ _ | refine keepsParts_vatFilter ?_ _)))

theorem keeps_proofTakeover (s : State) (u : Nat) (hκ : Keeps κ s) : Keeps κ (proofTakeover s u) := by
  unfold proofTakeover
  repeat' (first | with_reducible assumption | intro _ | with_reducible apply keeps_clusterTakeover | with_reducible apply keeps_setFn | with_reducible apply keeps_wr | with_reducible apply keeps_bankSwap | with_reducible refine keeps_ite ?_ ?_ | split | dsimp only | (refine keeps_of_parts ?_; dsimp only; with_reducible (first | refine keeps_parts ?_ | refine keepsParts_vat ?_ _ _ | refine keepsParts_cellar ?_ _ _ | refine keepsParts_vatFilter ?_ _)))

theorem keeps_proofTakeoverDone (s : State) (hκ : Keeps κ s) : Keeps κ (proofTakeoverDone s) := by
  unfold proofTakeoverDone
  repeat' (first | with_reducible assumption | intro _ | with_reducible apply keeps_proofNext | with_reducible apply keeps_proofDrop | with_reducible apply keeps_proofPhase | with_reducible apply keeps_proofTakeover | with_reducible apply keeps_proofDefer | with_reducible refine keeps_ite ?_ ?_ | split)

theorem keeps_execProofTakeoverDone (s : State) (hκ : Keeps κ s) : KeepsOut κ (execProofTakeoverDone s) := by
  unfold execProofTakeoverDone
  repeat' (first | with_reducible assumption | with_reducible refine keepsOut_next ?_ | with_reducible refine keepsOut_onUnit ?_ | intro _ | with_reducible apply keeps_whenLive | with_reducible apply keeps_proofTakeoverDone)

theorem keeps_putRepairs (s : State) (c : Nat) (failing : List (Nat × Nat × Nat)) (afresh : Bool) (hκ : Keeps κ s) : Keeps κ (putRepairs s c failing afresh) := by
  unfold putRepairs
  repeat' (first | with_reducible assumption | intro _ | with_reducible apply keeps_setKarray | with_reducible apply keeps_fenceArray | with_reducible refine keeps_foldl ?_ ?_ _ | with_reducible refine keeps_foldlFst ?_ ?_ _ | with_reducible refine keeps_ite ?_ ?_ | split)

theorem keeps_unfenceArrays (s : State) (c : Nat) (hκ : Keeps κ s) : Keeps κ (unfenceArrays s c) := by
  unfold unfenceArrays
  repeat' (first | with_reducible assumption | intro _ | with_reducible apply keeps_setKarray | with_reducible refine keeps_foldl ?_ ?_ _ | with_reducible refine keeps_foldlFst ?_ ?_ _ | with_reducible refine keeps_ite ?_ ?_)

theorem keeps_remapRows (s : State) (b : Nat) (bad : List Nat) (hκ : Keeps κ s) : Keeps κ (remapRows s b bad) := by
  unfold remapRows
  repeat' (first | with_reducible assumption | intro _ | with_reducible apply keeps_fenceBank | with_reducible apply keeps_bump | with_reducible apply keeps_wr | with_reducible refine keeps_foldl ?_ ?_ _ | with_reducible refine keeps_foldlFst ?_ ?_ _ | split | dsimp only | (refine keeps_of_parts ?_; dsimp only; with_reducible (first | refine keeps_parts ?_ | refine keepsParts_vat ?_ _ _ | refine keepsParts_cellar ?_ _ _ | refine keepsParts_vatFilter ?_ _)))

theorem keeps_proofPass (s : State) (u : Nat) (x : Proof) (hκ : Keeps κ s) : Keeps κ (proofPass s u x) := by
  unfold proofPass
  repeat' (first | with_reducible assumption | intro _ | with_reducible apply keeps_unfenceArrays | with_reducible apply keeps_putRepairs | with_reducible apply keeps_wr | with_reducible apply keeps_setFn | with_reducible apply keeps_fenceArray | with_reducible apply keeps_requestEnable | with_reducible apply keeps_clusterJoins | with_reducible apply keeps_laneEnable | with_reducible apply keeps_laneIdle | with_reducible apply keeps_setLane | with_reducible refine keeps_foldl ?_ ?_ _ | with_reducible refine keeps_foldlFst ?_ ?_ _ | with_reducible refine keeps_ite ?_ ?_ | split)

theorem keeps_proofFenceUnit (s : State) (u : Nat) (x : Proof) (failing : List (Nat × Nat × Nat)) (hκ : Keeps κ s) : Keeps κ (proofFenceUnit s u x failing) := by
  unfold proofFenceUnit
  repeat' (first | with_reducible assumption | intro _ | with_reducible apply keeps_wr | with_reducible apply keeps_unitFault | with_reducible apply keeps_fenceArray | with_reducible apply keeps_churnLaneFence | with_reducible apply keeps_fenceCore | with_reducible apply keeps_remapRows | with_reducible apply keeps_laneFence | with_reducible refine keeps_foldl ?_ ?_ _ | with_reducible refine keeps_foldlFst ?_ ?_ _ | with_reducible refine keeps_ite ?_ ?_ | split)

theorem keeps_proofTestDone (s : State) (pass : Bool) (failing : List (Nat × Nat × Nat)) (hκ : Keeps κ s) : Keeps κ (proofTestDone s pass failing) := by
  unfold proofTestDone
  repeat' (first | with_reducible assumption | intro _ | with_reducible apply keeps_proofNext | with_reducible apply keeps_proofDrop | with_reducible apply keeps_proofPass | with_reducible apply keeps_proofResult | with_reducible apply keeps_bump64 | with_reducible apply keeps_raiseFault | with_reducible apply keeps_bump | with_reducible apply keeps_putRepairs | with_reducible apply keeps_wr | with_reducible apply keeps_proofFenceUnit | with_reducible refine keeps_ite ?_ ?_ | split | dsimp only | (refine keeps_of_parts ?_; dsimp only; with_reducible (first | refine keeps_parts ?_ | refine keepsParts_vat ?_ _ _ | refine keepsParts_cellar ?_ _ _ | refine keepsParts_vatFilter ?_ _)))

theorem keeps_execProofTestDone (pass : Bool) (failing : List (Nat × Nat × Nat)) (s : State) (hκ : Keeps κ s) : KeepsOut κ (execProofTestDone pass failing s) := by
  unfold execProofTestDone
  repeat' (first | with_reducible assumption | with_reducible refine keepsOut_next ?_ | with_reducible refine keepsOut_onUnit ?_ | intro _ | with_reducible apply keeps_whenLive | with_reducible apply keeps_proofTestDone)

theorem keeps_proofSkip (s : State) (u : Nat) (hκ : Keeps κ s) : Keeps κ (proofSkip s u) := by
  unfold proofSkip
  repeat' (first | with_reducible assumption | intro _ | with_reducible apply keeps_proofNext | with_reducible apply keeps_proofResult | with_reducible apply keeps_bump | with_reducible apply keeps_proofDrop)

theorem keeps_withhold (s : State) (u : Nat) (hκ : Keeps κ s) : Keeps κ (withhold s u) := by
  unfold withhold
  repeat' (first | with_reducible assumption | intro _ | with_reducible apply keeps_setFn | with_reducible refine keeps_ite ?_ ?_)

theorem keeps_proofDeferralEnd (s : State) (hκ : Keeps κ s) : Keeps κ (proofDeferralEnd s) := by
  unfold proofDeferralEnd
  repeat' (first | with_reducible assumption | intro _ | with_reducible apply keeps_proofNext | with_reducible apply keeps_proofDrop | with_reducible apply keeps_proofPhase | with_reducible apply keeps_proofSkip | with_reducible apply keeps_bump | with_reducible apply keeps_withhold | with_reducible refine keeps_ite ?_ ?_ | split | dsimp only | (refine keeps_of_parts ?_; dsimp only; with_reducible (first | refine keeps_parts ?_ | refine keepsParts_vat ?_ _ _ | refine keepsParts_cellar ?_ _ _ | refine keepsParts_vatFilter ?_ _)))

theorem keeps_execProofDeferralEnd (s : State) (hκ : Keeps κ s) : KeepsOut κ (execProofDeferralEnd s) := by
  unfold execProofDeferralEnd
  repeat' (first | with_reducible assumption | with_reducible refine keepsOut_next ?_ | with_reducible refine keepsOut_onUnit ?_ | intro _ | with_reducible apply keeps_whenLive | with_reducible apply keeps_proofDeferralEnd)

theorem keeps_proofPoll (s : State) (hκ : Keeps κ s) : Keeps κ (proofPoll s) := by
  unfold proofPoll
  repeat' (first | with_reducible assumption | intro _ | with_reducible apply keeps_proofPhase | with_reducible refine keeps_ite ?_ ?_ | split)

theorem keeps_unfenceResult (s : State) (r : Nat) (hκ : Keeps κ s) : Keeps κ (unfenceResult s r) := by
  unfold unfenceResult
  repeat' (first | with_reducible assumption | intro _ | with_reducible apply keeps_wr)

theorem keeps_unfence (s : State) (a : Nat) (hκ : Keeps κ s) : Keeps κ (unfence s a) := by
  unfold unfence
  repeat' (first | with_reducible assumption | intro _ | with_reducible apply keeps_unfenceResult | with_reducible apply keeps_portTo | with_reducible apply keeps_engineTo | with_reducible apply keeps_proofEnqueue | with_reducible refine keeps_ite ?_ ?_)

theorem keeps_execFaultUnfence (src : Source) (value : Nat) (s : State) (hκ : Keeps κ s) : KeepsOut κ (execFaultUnfence src value s) := by
  unfold execFaultUnfence
  repeat' (first | with_reducible assumption | with_reducible refine keepsOut_next ?_ | with_reducible refine keepsOut_onUnit ?_ | intro _ | with_reducible apply keeps_whenWritten | with_reducible apply keeps_unfence)

theorem keeps_noteWanted (s : State) (a : Nat) (on : Bool) (hκ : Keeps κ s) : Keeps κ (noteWanted s a on) := by
  unfold noteWanted
  repeat' (first | with_reducible assumption | intro _ | with_reducible refine keeps_ite ?_ ?_ | split | dsimp only | (refine keeps_of_parts ?_; dsimp only; with_reducible (first | refine keeps_parts ?_ | refine keepsParts_vat ?_ _ _ | refine keepsParts_cellar ?_ _ _ | refine keepsParts_vatFilter ?_ _)))

theorem keeps_enableWritten (s : State) (a : Nat) (hκ : Keeps κ s) : Keeps κ (enableWritten s a) := by
  unfold enableWritten
  repeat' (first | with_reducible assumption | intro _ | with_reducible apply keeps_requestEnable | with_reducible apply keeps_noteWanted)

theorem keeps_disableWritten (s : State) (a : Nat) (hκ : Keeps κ s) : Keeps κ (disableWritten s a) := by
  unfold disableWritten
  repeat' (first | with_reducible assumption | intro _ | with_reducible apply keeps_requestDisable | with_reducible apply keeps_noteWanted)

theorem keeps_execEnableRequest (index sub : Nat) (s : State) (hκ : Keeps κ s) : KeepsOut κ (execEnableRequest index sub s) := by
  unfold execEnableRequest
  repeat' (first | with_reducible assumption | with_reducible refine keepsOut_next ?_ | with_reducible refine keepsOut_onUnit ?_ | intro _ | with_reducible apply keeps_whenWritten | with_reducible apply keeps_enableWritten)

theorem keeps_execDisableRequest (index sub : Nat) (s : State) (hκ : Keeps κ s) : KeepsOut κ (execDisableRequest index sub s) := by
  unfold execDisableRequest
  repeat' (first | with_reducible assumption | with_reducible refine keepsOut_next ?_ | with_reducible refine keepsOut_onUnit ?_ | intro _ | with_reducible apply keeps_whenWritten | with_reducible apply keeps_disableWritten)

theorem keeps_functionStartDone (s : State) (a : Nat) (o : StartOutcome) (hκ : Keeps κ s) : Keeps κ (functionStartDone s a o) := by
  unfold functionStartDone
  repeat' (first | with_reducible assumption | intro _ | with_reducible apply keeps_proofPoll | with_reducible apply keeps_startSucceeds | with_reducible apply keeps_unitFault | with_reducible apply keeps_startFails | with_reducible refine keeps_ite ?_ ?_ | split)

theorem keeps_execFunctionStartDone (index sub : Nat) (outcome : StartOutcome) (s : State) (hκ : Keeps κ s) : KeepsOut κ (execFunctionStartDone index sub outcome s) := by
  unfold execFunctionStartDone
  repeat' (first | with_reducible assumption | with_reducible refine keepsOut_next ?_ | with_reducible refine keepsOut_onUnit ?_ | intro _ | with_reducible apply keeps_functionStartDone | with_reducible apply keeps_whenLive)

theorem keeps_functionStopDone (s : State) (a : Nat) (hκ : Keeps κ s) : Keeps κ (functionStopDone s a) := by
  unfold functionStopDone
  repeat' (first | with_reducible assumption | intro _ | with_reducible apply keeps_stopDone | with_reducible refine keeps_ite ?_ ?_)

theorem keeps_execFunctionStopDone (index sub : Nat) (s : State) (hκ : Keeps κ s) : KeepsOut κ (execFunctionStopDone index sub s) := by
  unfold execFunctionStopDone
  repeat' (first | with_reducible assumption | with_reducible refine keepsOut_next ?_ | with_reducible refine keepsOut_onUnit ?_ | intro _ | with_reducible apply keeps_functionStopDone | with_reducible apply keeps_whenLive)

theorem keeps_stopTimeout (s : State) (a : Nat) (hκ : Keeps κ s) : Keeps κ (stopTimeout s a) := by
  unfold stopTimeout
  repeat' (first | with_reducible assumption | intro _ | with_reducible apply keeps_raiseFault | with_reducible apply keeps_unitFault | with_reducible refine keeps_ite ?_ ?_)

theorem keeps_execStopTimeout (index sub : Nat) (s : State) (hκ : Keeps κ s) : KeepsOut κ (execStopTimeout index sub s) := by
  unfold execStopTimeout
  repeat' (first | with_reducible assumption | with_reducible refine keepsOut_next ?_ | with_reducible refine keepsOut_onUnit ?_ | intro _ | with_reducible apply keeps_stopTimeout | with_reducible apply keeps_whenLive)

theorem keeps_showCages (s : State) (hκ : Keeps κ s) : Keeps κ (showCages s) := by
  unfold showCages
  repeat' (first | with_reducible assumption | intro _ | with_reducible apply keeps_wr)

theorem keeps_checkInsert (s : State) (n : Nat) (boot : Bool) (hκ : Keeps κ s) : Keeps κ (checkInsert s n boot) := by
  unfold checkInsert
  repeat' (first | with_reducible assumption | intro _ | with_reducible apply keeps_wr | with_reducible apply keeps_setBlob | with_reducible apply keeps_setCage | with_reducible apply keeps_wearEvents | with_reducible apply keeps_showCounts | with_reducible apply keeps_engineTo | with_reducible refine keeps_ite ?_ ?_ | split)

theorem keeps_insertSeated (s : State) (n : Nat) (i : Insert) (hκ : Keeps κ s) : Keeps κ (insertSeated s n i) := by
  unfold insertSeated
  repeat' (first | with_reducible assumption | intro _ | with_reducible apply keeps_setCage | with_reducible apply keeps_checkInsert | with_reducible apply keeps_showCages | with_reducible refine keeps_ite ?_ ?_)

theorem keeps_execInsertSeated (cage : Nat) (insert : Insert) (s : State) (hκ : Keeps κ s) : KeepsOut κ (execInsertSeated cage insert s) := by
  unfold execInsertSeated
  repeat' (first | with_reducible assumption | with_reducible refine keepsOut_next ?_ | with_reducible refine keepsOut_onUnit ?_ | intro _ | with_reducible apply keeps_insertSeated)

theorem keeps_insertRemoved (s : State) (n : Nat) (hκ : Keeps κ s) : Keeps κ (insertRemoved s n) := by
  unfold insertRemoved
  repeat' (first | with_reducible assumption | intro _ | with_reducible apply keeps_setCage | with_reducible apply keeps_wr | with_reducible apply keeps_setBlob | with_reducible apply keeps_showCages | with_reducible apply keeps_showCounts | with_reducible apply keeps_engineTo | with_reducible refine keeps_ite ?_ ?_ | split | dsimp only)

theorem keeps_execInsertRemoved (cage : Nat) (s : State) (hκ : Keeps κ s) : KeepsOut κ (execInsertRemoved cage s) := by
  unfold execInsertRemoved
  repeat' (first | with_reducible assumption | with_reducible refine keepsOut_next ?_ | with_reducible refine keepsOut_onUnit ?_ | intro _ | with_reducible apply keeps_insertRemoved)

theorem keeps_engineFault (s : State) (n cause : Nat) (hκ : Keeps κ s) : Keeps κ (engineFault s n cause) := by
  unfold engineFault
  repeat' (first | with_reducible assumption | intro _ | with_reducible apply keeps_unitFault | with_reducible apply keeps_wr | with_reducible refine keeps_ite ?_ ?_)

theorem keeps_execEngineFault (cage cause : Nat) (s : State) (hκ : Keeps κ s) : KeepsOut κ (execEngineFault cage cause s) := by
  unfold execEngineFault
  repeat' (first | with_reducible assumption | with_reducible refine keepsOut_next ?_ | with_reducible refine keepsOut_onUnit ?_ | intro _ | with_reducible apply keeps_engineFault | with_reducible apply keeps_whenLive)

theorem keeps_laserHoursTick (s : State) (n : Nat) (hκ : Keeps κ s) : Keeps κ (laserHoursTick s n) := by
  unfold laserHoursTick
  repeat' (first | with_reducible assumption | intro _ | with_reducible apply keeps_showCounts | with_reducible apply keeps_writeCounts | with_reducible apply keeps_setEngineRecord | with_reducible apply keeps_wearEvents | with_reducible refine keeps_ite ?_ ?_)

theorem keeps_execLaserHoursTick (cage : Nat) (s : State) (hκ : Keeps κ s) : KeepsOut κ (execLaserHoursTick cage s) := by
  unfold execLaserHoursTick
  repeat' (first | with_reducible assumption | with_reducible refine keepsOut_next ?_ | with_reducible refine keepsOut_onUnit ?_ | intro _ | with_reducible apply keeps_laserHoursTick | with_reducible apply keeps_whenLive)

end Sys2Proof.Machine
end

