-- ==== Sys2Proof/Laws/KeepsModule.lean ====
section
/-! SUPPORT. What SAVE and RESTORE, faults, persistence, power, images and boot keep: the queue and both memories' canonical form, one lemma per operation. -/
namespace Sys2Proof.Machine

variable {κ : Kept}

theorem keeps_strictApply (s : State) (value : Nat) (hκ : Keeps κ s) : Keeps κ (strictApply s value) := by
  unfold strictApply
  repeat' (first | with_reducible assumption | intro _ | with_reducible apply keeps_writeReg | with_reducible apply keeps_fenceArray | with_reducible refine keeps_foldl ?_ ?_ _ | with_reducible refine keeps_foldlFst ?_ ?_ _ | with_reducible refine keeps_ite ?_ ?_)

theorem keeps_execStrictWrite (src : Source) (value : Nat) (s : State) (hκ : Keeps κ s) : KeepsOut κ (execStrictWrite src value s) := by
  unfold execStrictWrite
  repeat' (first | with_reducible assumption | with_reducible refine keepsOut_next ?_ | with_reducible refine keepsOut_onUnit ?_ | intro _ | with_reducible apply keeps_whenWritten | with_reducible apply keeps_strictApply)

theorem keeps_saveResult (s : State) (r : Nat) (hκ : Keeps κ s) : Keeps κ (saveResult s r) := by
  unfold saveResult
  repeat' (first | with_reducible assumption | intro _ | with_reducible apply keeps_wr)

theorem keeps_saveStart (s : State) (hκ : Keeps κ s) : Keeps κ (saveStart s) := by
  unfold saveStart
  repeat' (first | with_reducible assumption | intro _ | with_reducible apply keeps_saveResult | with_reducible refine keeps_ite ?_ ?_ | split | dsimp only | (refine keeps_of_parts ?_; dsimp only; with_reducible (first | refine keeps_parts ?_ | refine keepsParts_vat ?_ _ _ | refine keepsParts_cellar ?_ _ _ | refine keepsParts_vatFilter ?_ _)))

theorem keeps_saveMarker (s : State) (what total : Nat) (digest : Word) (hκ : Keeps κ s) : Keeps κ (saveMarker s what total digest) := by
  unfold saveMarker
  repeat' (first | with_reducible assumption | intro _ | with_reducible apply keeps_appendCrumb)

theorem keeps_putImage (s : State) (image : List Byte) (hκ : Keeps κ s) : Keeps κ (putImage s image) := by
  unfold putImage
  repeat' (first | with_reducible assumption | intro _ | with_reducible apply keeps_cellarPut | with_reducible apply keeps_bump64 | with_reducible apply keeps_emit | with_reducible refine keeps_ite ?_ ?_)

theorem keeps_saveComplete (s : State) (hκ : Keeps κ s) : Keeps κ (saveComplete s) := by
  unfold saveComplete
  repeat' (first | with_reducible assumption | intro _ | with_reducible apply keeps_readSlabs | with_reducible apply keeps_resume | with_reducible apply keeps_wr | with_reducible apply keeps_saveResult | with_reducible apply keeps_putImage | with_reducible apply keeps_saveMarker | with_reducible refine keeps_ite ?_ ?_ | split | dsimp only | (refine keeps_of_parts ?_; dsimp only; with_reducible (first | refine keeps_parts ?_ | refine keepsParts_vat ?_ _ _ | refine keepsParts_cellar ?_ _ _ | refine keepsParts_vatFilter ?_ _)))

theorem keeps_restoreStart (s : State) (hκ : Keeps κ s) : Keeps κ (restoreStart s) := by
  unfold restoreStart
  repeat' (first | with_reducible assumption | intro _ | with_reducible apply keeps_saveResult | with_reducible refine keeps_ite ?_ ?_ | split | dsimp only | (refine keeps_of_parts ?_; dsimp only; with_reducible (first | refine keeps_parts ?_ | refine keepsParts_vat ?_ _ _ | refine keepsParts_cellar ?_ _ _ | refine keepsParts_vatFilter ?_ _)))

theorem keeps_restoreEnd (s : State) (r : Nat) (hκ : Keeps κ s) : Keeps κ (restoreEnd s r) := by
  unfold restoreEnd
  repeat' (first | with_reducible assumption | intro _ | with_reducible apply keeps_saveResult | split | dsimp only | (refine keeps_of_parts ?_; dsimp only; with_reducible (first | refine keeps_parts ?_ | refine keepsParts_vat ?_ _ _ | refine keepsParts_cellar ?_ _ _ | refine keepsParts_vatFilter ?_ _)))

theorem keeps_restoreVerifyDone (s : State) (host : List Byte) (hκ : Keeps κ s) : Keeps κ (restoreVerifyDone s host) := by
  unfold restoreVerifyDone
  repeat' (first | with_reducible assumption | intro _ | with_reducible apply keeps_restoreEnd | with_reducible apply keeps_raiseFault | with_reducible apply keeps_bump | with_reducible apply keeps_wr | with_reducible refine keeps_ite ?_ ?_ | split | dsimp only | (refine keeps_of_parts ?_; dsimp only; with_reducible (first | refine keeps_parts ?_ | refine keepsParts_vat ?_ _ _ | refine keepsParts_cellar ?_ _ _ | refine keepsParts_vatFilter ?_ _)))

theorem keeps_restoreFields (k : Nat) (y : Station) (image b : List Byte) (s : State) (o : Nat) (l : List Nat) (hκ : Keeps κ s) :
    Keeps κ (restoreFields k y image b s o l) := by
  induction l generalizing s o with
  | nil => exact hκ
  | cons f fs ih =>
    unfold restoreFields
    dsimp only
    split
    · exact ih _ _ (keeps_clearSlabs _ _ _ hκ)
    · exact ih _ _ (keeps_foldl (fun s h i => keeps_vatPut _ _ _ h) hκ _)

theorem keeps_restoreCrumbs (s : State) (k : Nat) (hκ : Keeps κ s) : Keeps κ (restoreCrumbs s k) := by
  unfold restoreCrumbs
  repeat' (first | with_reducible assumption | intro _ | with_reducible apply keeps_keepCrumb | with_reducible refine keeps_foldl ?_ ?_ _ | with_reducible refine keeps_foldlFst ?_ ?_ _ | split)

theorem keeps_restoreStation (s : State) (image : List Byte) (x : List Byte × Nat) (hκ : Keeps κ s) : Keeps κ (restoreStation s image x) := by
  unfold restoreStation
  repeat' (first | with_reducible assumption | intro _ | with_reducible apply keeps_restoreFields | with_reducible apply keeps_restoreCrumbs | with_reducible apply keeps_setStation | split | dsimp only)

theorem keeps_restoreGroup (s : State) (g : Nat × Nat × Nat × Nat) (hκ : Keeps κ s) : Keeps κ (restoreGroup s g) := by
  unfold restoreGroup
  repeat' (first | with_reducible assumption | intro _ | with_reducible apply keeps_setGroup | split)

theorem keeps_restoreApplyDone (s : State) (failed : Option Nat) (hκ : Keeps κ s) : Keeps κ (restoreApplyDone s failed) := by
  unfold restoreApplyDone
  repeat' (first | with_reducible assumption | intro _ | with_reducible apply keeps_restoreStation | with_reducible apply keeps_restoreGroup | with_reducible apply keeps_wr | with_reducible apply keeps_saveMarker | with_reducible apply keeps_resume | with_reducible apply keeps_restoreEnd | with_reducible apply keeps_makeInconsistent | with_reducible refine keeps_foldl ?_ ?_ _ | with_reducible refine keeps_foldlFst ?_ ?_ _ | with_reducible refine keeps_ite ?_ ?_ | split)

theorem keeps_execSave (src : Source) (s : State) (hκ : Keeps κ s) : KeepsOut κ (execSave src s) := by
  unfold execSave
  repeat' (first | with_reducible assumption | with_reducible refine keepsOut_next ?_ | with_reducible refine keepsOut_onUnit ?_ | intro _ | with_reducible apply keeps_whenWritten | with_reducible apply keeps_saveStart)

theorem keeps_execRestore (src : Source) (s : State) (hκ : Keeps κ s) : KeepsOut κ (execRestore src s) := by
  unfold execRestore
  repeat' (first | with_reducible assumption | with_reducible refine keepsOut_next ?_ | with_reducible refine keepsOut_onUnit ?_ | intro _ | with_reducible apply keeps_whenWritten | with_reducible apply keeps_restoreStart)

theorem keeps_execSaveComplete (s : State) (hκ : Keeps κ s) : KeepsOut κ (execSaveComplete s) := by
  unfold execSaveComplete
  repeat' (first | with_reducible assumption | with_reducible refine keepsOut_next ?_ | with_reducible refine keepsOut_onUnit ?_ | intro _ | with_reducible apply keeps_whenLive | with_reducible apply keeps_saveComplete)

theorem keeps_execRestoreVerifyDone (hostImage : List Byte) (s : State) (hκ : Keeps κ s) : KeepsOut κ (execRestoreVerifyDone hostImage s) := by
  unfold execRestoreVerifyDone
  repeat' (first | with_reducible assumption | with_reducible refine keepsOut_next ?_ | with_reducible refine keepsOut_onUnit ?_ | intro _ | with_reducible apply keeps_whenLive | with_reducible apply keeps_restoreVerifyDone)

theorem keeps_execRestoreApplyDone (failedStation : Option Nat) (s : State) (hκ : Keeps κ s) : KeepsOut κ (execRestoreApplyDone failedStation s) := by
  unfold execRestoreApplyDone
  repeat' (first | with_reducible assumption | with_reducible refine keepsOut_next ?_ | with_reducible refine keepsOut_onUnit ?_ | intro _ | with_reducible apply keeps_whenLive | with_reducible apply keeps_restoreApplyDone)

theorem keeps_fatalRecordFlash (s : State) (hκ : Keeps κ s) : Keeps κ (fatalRecordFlash s) := by
  unfold fatalRecordFlash
  repeat' (first | with_reducible assumption | intro _ | with_reducible apply keeps_id | with_reducible refine keeps_ite ?_ ?_ | split | dsimp only | (refine keeps_of_parts ?_; dsimp only; with_reducible (first | refine keeps_parts ?_ | refine keepsParts_vat ?_ _ _ | refine keepsParts_cellar ?_ _ _ | refine keepsParts_vatFilter ?_ _)))

theorem keeps_execFatalRecordFlash (s : State) (hκ : Keeps κ s) : KeepsOut κ (execFatalRecordFlash s) := by
  unfold execFatalRecordFlash
  repeat' (first | with_reducible assumption | with_reducible refine keepsOut_next ?_ | with_reducible refine keepsOut_onUnit ?_ | intro _ | with_reducible apply keeps_fatalRecordFlash | with_reducible refine keeps_ite ?_ ?_)

theorem keeps_faultRecordClose (s : State) (i : Nat) (hκ : Keeps κ s) : Keeps κ (faultRecordClose s i) := by
  unfold faultRecordClose
  repeat' (first | with_reducible assumption | intro _ | with_reducible apply keeps_reportRecord | with_reducible apply keeps_setRecord | with_reducible apply keeps_id | with_reducible refine keeps_ite ?_ ?_ | split)

theorem keeps_execFaultRecordClose (record : Nat) (s : State) (hκ : Keeps κ s) : KeepsOut κ (execFaultRecordClose record s) := by
  unfold execFaultRecordClose
  repeat' (first | with_reducible assumption | with_reducible refine keepsOut_next ?_ | with_reducible refine keepsOut_onUnit ?_ | intro _ | with_reducible apply keeps_whenLive | with_reducible apply keeps_faultRecordClose)

theorem keeps_fenceNoticeDelay (s : State) (p : Nat) (hκ : Keeps κ s) : Keeps κ (fenceNoticeDelay s p) := by
  unfold fenceNoticeDelay
  repeat' (first | with_reducible assumption | intro _ | with_reducible apply keeps_originateNotice | with_reducible refine keeps_ite ?_ ?_ | split)

theorem keeps_execFenceNoticeDelay (port : Nat) (s : State) (hκ : Keeps κ s) : KeepsOut κ (execFenceNoticeDelay port s) := by
  unfold execFenceNoticeDelay
  repeat' (first | with_reducible assumption | with_reducible refine keepsOut_next ?_ | with_reducible refine keepsOut_onUnit ?_ | intro _ | with_reducible apply keeps_fenceNoticeDelay | with_reducible apply keeps_whenLive | with_reducible apply keeps_resume)

theorem keeps_fenceRefresh (s : State) (hκ : Keeps κ s) : Keeps κ (fenceRefresh s) := by
  unfold fenceRefresh
  repeat' (first | with_reducible assumption | intro _ | with_reducible apply keeps_originateNotice | with_reducible refine keeps_foldl ?_ ?_ _ | with_reducible refine keeps_foldlFst ?_ ?_ _ | with_reducible refine keeps_ite ?_ ?_)

theorem keeps_execFenceRefresh (s : State) (hκ : Keeps κ s) : KeepsOut κ (execFenceRefresh s) := by
  unfold execFenceRefresh
  repeat' (first | with_reducible assumption | with_reducible refine keepsOut_next ?_ | with_reducible refine keepsOut_onUnit ?_ | intro _ | with_reducible apply keeps_whenLive | with_reducible apply keeps_resume | with_reducible apply keeps_fenceRefresh)

theorem keeps_fenceNoticeReceived (s : State) (k : Packet) (hκ : Keeps κ s) : Keeps κ (fenceNoticeReceived s k) := by
  unfold fenceNoticeReceived
  repeat' (first | with_reducible assumption | intro _ | with_reducible apply keeps_bump | with_reducible apply keeps_expertsFenced | with_reducible apply keeps_forwardNotice | with_reducible apply keeps_setFenceBit | with_reducible refine keeps_ite ?_ ?_ | split | dsimp only | (refine keeps_of_parts ?_; dsimp only; with_reducible (first | refine keeps_parts ?_ | refine keepsParts_vat ?_ _ _ | refine keepsParts_cellar ?_ _ _ | refine keepsParts_vatFilter ?_ _)))

theorem keeps_execFenceNoticeReceived (port : Nat) (pkt : Packet) (s : State) (hκ : Keeps κ s) : KeepsOut κ (execFenceNoticeReceived port pkt s) := by
  unfold execFenceNoticeReceived
  repeat' (first | with_reducible assumption | with_reducible refine keepsOut_next ?_ | with_reducible refine keepsOut_onUnit ?_ | intro _ | with_reducible apply keeps_fenceNoticeReceived | with_reducible apply keeps_whenLive | with_reducible apply keeps_takeInbox | with_reducible apply keeps_clearTaken | with_reducible apply keeps_resume | with_reducible refine keeps_ite ?_ ?_)

theorem keeps_execFenceBitExpiry (module port : Nat) (s : State) (hκ : Keeps κ s) : KeepsOut κ (execFenceBitExpiry module port s) := by
  unfold execFenceBitExpiry
  repeat' (first | with_reducible assumption | with_reducible refine keepsOut_next ?_ | with_reducible refine keepsOut_onUnit ?_ | intro _ | with_reducible apply keeps_whenLive | with_reducible apply keeps_resume | with_reducible apply keeps_setFenceBit)

theorem keeps_setFwSlot (s : State) (k : Nat) (x : LoafSlot) (hκ : Keeps κ s) : Keeps κ (setFwSlot s k x) := by
  unfold setFwSlot
  repeat' (first | with_reducible assumption | intro _ | with_reducible refine keeps_ite ?_ ?_ | split | dsimp only | (refine keeps_of_parts ?_; dsimp only; with_reducible (first | refine keeps_parts ?_ | refine keepsParts_vat ?_ _ _ | refine keepsParts_cellar ?_ _ _ | refine keepsParts_vatFilter ?_ _)))

theorem keeps_afterRead (s : State) (index sub : Nat) (hκ : Keeps κ s) : Keeps κ (afterRead s index sub) := by
  unfold afterRead
  repeat' (first | with_reducible assumption | intro _ | with_reducible apply keeps_wr | with_reducible refine keeps_ite ?_ ?_)

theorem keeps_storeOne (s : State) (a : Nat) (hκ : Keeps κ s) : Keeps κ (storeOne s a) := by
  unfold storeOne
  repeat' (first | with_reducible assumption | intro _ | split | dsimp only | (refine keeps_of_parts ?_; dsimp only; with_reducible (first | refine keeps_parts ?_ | refine keepsParts_vat ?_ _ _ | refine keepsParts_cellar ?_ _ _ | refine keepsParts_vatFilter ?_ _)))

theorem keeps_storeWaiting (s : State) (hκ : Keeps κ s) : Keeps κ (storeWaiting s) := by
  unfold storeWaiting
  repeat' (first | with_reducible assumption | intro _ | with_reducible apply keeps_storeOne | with_reducible refine keeps_foldl ?_ ?_ _)

theorem keeps_revertOne (s : State) (a : Nat) (hκ : Keeps κ s) : Keeps κ (revertOne s a) := by
  unfold revertOne
  repeat' (first | with_reducible assumption | intro _ | with_reducible apply keeps_wr | with_reducible apply keeps_setBlob | with_reducible refine keeps_ite ?_ ?_ | split | dsimp only | (refine keeps_of_parts ?_; dsimp only; with_reducible (first | refine keeps_parts ?_ | refine keepsParts_vat ?_ _ _ | refine keepsParts_cellar ?_ _ _ | refine keepsParts_vatFilter ?_ _)))

theorem keeps_revertWaiting (s : State) (hκ : Keeps κ s) : Keeps κ (revertWaiting s) := by
  unfold revertWaiting
  repeat' (first | with_reducible assumption | intro _ | with_reducible apply keeps_revertOne | with_reducible refine keeps_foldl ?_ ?_ _ | with_reducible refine keeps_foldlFst ?_ ?_ _ | split | dsimp only | (refine keeps_of_parts ?_; dsimp only; with_reducible (first | refine keeps_parts ?_ | refine keepsParts_vat ?_ _ _ | refine keepsParts_cellar ?_ _ _ | refine keepsParts_vatFilter ?_ _)))

theorem keeps_applyPersistReset (s : State) (hκ : Keeps κ s) : Keeps κ (applyPersistReset s) := by
  unfold applyPersistReset
  dsimp only
  split
  · exact hκ
  · exact keeps_of_parts (keeps_parts hκ)

theorem keeps_programmingCut (s : State) (hκ : Keeps κ s) : Keeps κ (programmingCut s) := by
  unfold programmingCut
  repeat' (first | with_reducible assumption | intro _ | with_reducible apply keeps_drawBytes | with_reducible apply keeps_setFwSlot | with_reducible refine keeps_ite ?_ ?_)

theorem keeps_resetKeep (s : State) (hκ : Keeps κ s) (hz : κ.frozen = false) (hc : κ.clock = none) : Keeps κ (resetKeep s) where
  stands := fun c e => by rw [hc] at e; cases e
  queue := hκ.queue
  vatWf := rfl
  cellarWf := rfl
  lasts := by simp [hz]
  shows := by simp [resetKeep]
  logSize := by simp [resetKeep]
  sessionCount := by simp [resetKeep]
  rises := hκ.rises
  stays := hκ.stays
  sizesOk := by simp [resetKeep]
  committedOk := hκ.committedOk

theorem keeps_resetCore (s : State) (hκ : Keeps κ s) (hz : κ.frozen = false) (hc : κ.clock = none) : Keeps κ (resetCore s) := by
  unfold resetCore
  repeat' (first | with_reducible assumption | intro _ | with_reducible apply keeps_resetKeep | with_reducible apply keeps_programmingCut)

theorem keeps_railsDown (s : State) (hκ : Keeps κ s) (hz : κ.frozen = false) (hc : κ.clock = none) : Keeps κ (railsDown s) := by
  unfold railsDown
  repeat' (first | with_reducible assumption | intro _ | with_reducible apply keeps_resetCore | with_reducible apply keeps_revertWaiting | split | dsimp only | (refine keeps_of_parts ?_; dsimp only; with_reducible (first | refine keeps_parts ?_ | refine keepsParts_vat ?_ _ _ | refine keepsParts_cellar ?_ _ _ | refine keepsParts_vatFilter ?_ _ | refine keepsParts_clock ?_ _ _ (by with_reducible assumption))))

theorem keeps_whenMgmt (s : State) (f : State → State) (hκ : Keeps κ s) (hκf : ∀ z1, Keeps κ z1 → Keeps κ (f z1)) : Keeps κ (whenMgmt s f) := by
  unfold whenMgmt
  repeat' (first | with_reducible assumption | with_reducible apply hκf | intro _ | with_reducible refine keeps_ite ?_ ?_)

theorem keeps_driveFault (s : State) (fault : Bool) (hκ : Keeps κ s) (hf : s.faults.frozen = true → fault = true) : Keeps κ (driveFault s fault) :=
  keeps_of_parts { keeps_parts hκ with shows := fun e => ⟨(hκ.shows e).1, by rw [hf e]; rfl, hf e⟩ }

theorem keeps_alwaysOnStart (s : State) (mv : Nat) (hκ : Keeps κ s) (hz : κ.frozen = false) : Keeps κ (alwaysOnStart s mv) := by
  unfold alwaysOnStart
  refine keeps_ite hκ (keeps_ite (keeps_ite ?_ hκ) ?_)
  · exact keeps_driveFault _ _ (keeps_of_parts (keeps_parts hκ)) fun e => by
      have e : s.faults.frozen = true := e
      rw [e]; rfl
  · exact keeps_of_parts { keeps_parts hκ with lasts := (fun e => by rw [hz] at e; cases e), shows := fun e => by cases e }

theorem keeps_execAlwaysOnStart (mv : Nat) (s : State) (hκ : Keeps κ s) (hz : κ.frozen = false) : KeepsOut κ (execAlwaysOnStart mv s) := by
  unfold execAlwaysOnStart
  repeat' (first | with_reducible assumption | with_reducible refine keepsOut_next ?_ | with_reducible refine keepsOut_onUnit ?_ | intro _ | with_reducible apply keeps_alwaysOnStart)

theorem keeps_mainPowerStart (s : State) (mv : Nat) (hκ : Keeps κ s) (hc : κ.clock = none) : Keeps κ (mainPowerStart s mv) := by
  unfold mainPowerStart
  repeat' (first | with_reducible assumption | intro _ | with_reducible refine keeps_ite ?_ ?_ | split | dsimp only | (refine keeps_of_parts ?_; dsimp only; with_reducible (first | refine keeps_parts ?_ | refine keepsParts_vat ?_ _ _ | refine keepsParts_cellar ?_ _ _ | refine keepsParts_vatFilter ?_ _ | refine keepsParts_clock ?_ _ _ (by with_reducible assumption))))

theorem keeps_execMainPowerStart (mv : Nat) (s : State) (hκ : Keeps κ s) (hc : κ.clock = none) : KeepsOut κ (execMainPowerStart mv s) := by
  unfold execMainPowerStart
  repeat' (first | with_reducible assumption | with_reducible refine keepsOut_next ?_ | with_reducible refine keepsOut_onUnit ?_ | intro _ | with_reducible apply keeps_mainPowerStart)

theorem keeps_supplyLow (s : State) (mv : Nat) (hκ : Keeps κ s) : Keeps κ (supplyLow s mv) := by
  unfold supplyLow
  repeat' (first | with_reducible assumption | intro _ | with_reducible apply keeps_raiseEvent | with_reducible apply keeps_bump | with_reducible refine keeps_ite ?_ ?_)

theorem keeps_supplyHigh (s : State) (mv : Nat) (hκ : Keeps κ s) : Keeps κ (supplyHigh s mv) := by
  unfold supplyHigh
  repeat' (first | with_reducible assumption | intro _ | with_reducible apply keeps_raiseEvent | with_reducible apply keeps_bump | with_reducible refine keeps_ite ?_ ?_)

theorem keeps_execSupplyLow (mv : Nat) (s : State) (hκ : Keeps κ s) : KeepsOut κ (execSupplyLow mv s) := by
  unfold execSupplyLow
  repeat' (first | with_reducible assumption | with_reducible refine keepsOut_next ?_ | with_reducible refine keepsOut_onUnit ?_ | intro _ | with_reducible apply keeps_whenMgmt | with_reducible apply keeps_supplyLow)

theorem keeps_execSupplyHigh (mv : Nat) (s : State) (hκ : Keeps κ s) : KeepsOut κ (execSupplyHigh mv s) := by
  unfold execSupplyHigh
  repeat' (first | with_reducible assumption | with_reducible refine keepsOut_next ?_ | with_reducible refine keepsOut_onUnit ?_ | intro _ | with_reducible apply keeps_whenMgmt | with_reducible apply keeps_supplyHigh)

theorem keeps_supplyFatal (s : State) (code : Nat) (hκ : Keeps κ s) : Keeps κ (supplyFatal s code) := by
  unfold supplyFatal
  refine keeps_ite hκ (keeps_ite ?_ (keeps_ite hκ ?_))
  · exact keeps_of_parts { keeps_parts hκ with lasts := fun _ => rfl, shows := fun _ => ⟨rfl, rfl, rfl⟩ }
  · exact keeps_raiseFault _ _ _ _ _ hκ

theorem keeps_execSupplyUv (s : State) (hκ : Keeps κ s) : KeepsOut κ (execSupplyUv s) := by
  unfold execSupplyUv
  repeat' (first | with_reducible assumption | with_reducible refine keepsOut_next ?_ | with_reducible refine keepsOut_onUnit ?_ | intro _ | with_reducible apply keeps_supplyFatal)

theorem keeps_execSupplyOv (s : State) (hκ : Keeps κ s) : KeepsOut κ (execSupplyOv s) := by
  unfold execSupplyOv
  repeat' (first | with_reducible assumption | with_reducible refine keepsOut_next ?_ | with_reducible refine keepsOut_onUnit ?_ | intro _ | with_reducible apply keeps_supplyFatal)

theorem keeps_mainRailsShutdown (s : State) (hκ : Keeps κ s) (hz : κ.frozen = false) (hc : κ.clock = none) : Keeps κ (mainRailsShutdown s) := by
  unfold mainRailsShutdown
  repeat' (first | with_reducible assumption | intro _ | with_reducible apply keeps_railsDown | with_reducible refine keeps_ite ?_ ?_ | split | dsimp only | (refine keeps_of_parts ?_; dsimp only; with_reducible (first | refine keeps_parts ?_ | refine keepsParts_vat ?_ _ _ | refine keepsParts_cellar ?_ _ _ | refine keepsParts_vatFilter ?_ _ | refine keepsParts_clock ?_ _ _ (by with_reducible assumption))))

theorem keeps_execMainRailsShutdown (s : State) (hκ : Keeps κ s) (hz : κ.frozen = false) (hc : κ.clock = none) : KeepsOut κ (execMainRailsShutdown s) := by
  unfold execMainRailsShutdown
  repeat' (first | with_reducible assumption | with_reducible refine keepsOut_next ?_ | with_reducible refine keepsOut_onUnit ?_ | intro _ | with_reducible apply keeps_mainRailsShutdown)

theorem keeps_execInputLost (s : State) (hκ : Keeps κ s) : KeepsOut κ (execInputLost s) := by
  unfold execInputLost
  refine keepsOut_next (keeps_ite ?_ hκ)
  exact keeps_of_parts { keeps_parts hκ with shows := fun e => ⟨(hκ.shows e).1, rfl, rfl⟩ }

theorem keeps_alwaysOnLoss (s : State) (hκ : Keeps κ s) (hz : κ.frozen = false) (hc : κ.clock = none) : Keeps κ (alwaysOnLoss s) := by
  unfold alwaysOnLoss
  split
  · exact hκ
  · exact keeps_of_parts { keeps_parts (keeps_railsDown s hκ hz hc) with shows := fun e => by cases e }

theorem keeps_execAlwaysOnLoss (s : State) (hκ : Keeps κ s) (hz : κ.frozen = false) (hc : κ.clock = none) : KeepsOut κ (execAlwaysOnLoss s) := by
  unfold execAlwaysOnLoss
  repeat' (first | with_reducible assumption | with_reducible refine keepsOut_next ?_ | with_reducible refine keepsOut_onUnit ?_ | intro _ | with_reducible apply keeps_alwaysOnLoss)

theorem keeps_execMateNChange (high : Bool) (s : State) (hκ : Keeps κ s) : KeepsOut κ (execMateNChange high s) := by
  unfold execMateNChange
  repeat' (first | with_reducible assumption | with_reducible refine keepsOut_next ?_ | with_reducible refine keepsOut_onUnit ?_ | intro _ | split | dsimp only | (refine keeps_of_parts ?_; dsimp only; with_reducible (first | refine keeps_parts ?_ | refine keepsParts_vat ?_ _ _ | refine keepsParts_cellar ?_ _ _ | refine keepsParts_vatFilter ?_ _)))

theorem keeps_modReset (s : State) (hκ : Keeps κ s) (hz : κ.frozen = false) (hc : κ.clock = none) : Keeps κ (modReset s) := by
  unfold modReset
  split
  · exact hκ
  · exact keeps_of_parts { keeps_parts (keeps_resetCore s hκ hz hc) with shows := fun e => by cases e }

theorem keeps_execModReset (s : State) (hκ : Keeps κ s) (hz : κ.frozen = false) (hc : κ.clock = none) : KeepsOut κ (execModReset s) := by
  unfold execModReset
  repeat' (first | with_reducible assumption | with_reducible refine keepsOut_next ?_ | with_reducible refine keepsOut_onUnit ?_ | intro _ | with_reducible apply keeps_modReset)

theorem keeps_modResetRelease (s : State) (straps : BitVec 16) (mv : Nat) (hκ : Keeps κ s) (hc : κ.clock = none) : Keeps κ (modResetRelease s straps mv) := by
  unfold modResetRelease
  repeat' (first | with_reducible assumption | intro _ | with_reducible apply keeps_wr | with_reducible apply keeps_applyPersistReset | with_reducible refine keeps_ite ?_ ?_ | split | dsimp only | (refine keeps_of_parts ?_; dsimp only; with_reducible (first | refine keeps_parts ?_ | refine keepsParts_vat ?_ _ _ | refine keepsParts_cellar ?_ _ _ | refine keepsParts_vatFilter ?_ _ | refine keepsParts_clock ?_ _ _ (by with_reducible assumption))))

theorem keeps_execModResetRelease (straps : BitVec 16) (mv : Nat) (s : State) (hκ : Keeps κ s) (hc : κ.clock = none) : KeepsOut κ (execModResetRelease straps mv s) := by
  unfold execModResetRelease
  repeat' (first | with_reducible assumption | with_reducible refine keepsOut_next ?_ | with_reducible refine keepsOut_onUnit ?_ | intro _ | with_reducible apply keeps_modResetRelease)

theorem keeps_pcieReset (s : State) (hκ : Keeps κ s) : Keeps κ (pcieReset s) := by
  unfold pcieReset
  repeat' (first | with_reducible assumption | intro _ | with_reducible apply keeps_bumpBy | with_reducible refine keeps_ite ?_ ?_ | split | dsimp only | (refine keeps_of_parts ?_; dsimp only; with_reducible (first | refine keeps_parts ?_ | refine keepsParts_vat ?_ _ _ | refine keepsParts_cellar ?_ _ _ | refine keepsParts_vatFilter ?_ _)))

theorem keeps_perstNAssert (s : State) (hκ : Keeps κ s) : Keeps κ (perstNAssert s) := by
  unfold perstNAssert
  repeat' (first | with_reducible assumption | intro _ | with_reducible apply keeps_pcieReset | split | dsimp only | (refine keeps_of_parts ?_; dsimp only; with_reducible (first | refine keeps_parts ?_ | refine keepsParts_vat ?_ _ _ | refine keepsParts_cellar ?_ _ _ | refine keepsParts_vatFilter ?_ _)))

theorem keeps_execPerstNAssert (s : State) (hκ : Keeps κ s) : KeepsOut κ (execPerstNAssert s) := by
  unfold execPerstNAssert
  repeat' (first | with_reducible assumption | with_reducible refine keepsOut_next ?_ | with_reducible refine keepsOut_onUnit ?_ | intro _ | with_reducible apply keeps_perstNAssert)

theorem keeps_linkTrain (s : State) (hκ : Keeps κ s) : Keeps κ (linkTrain s) := by
  unfold linkTrain
  repeat' (first | with_reducible assumption | intro _ | split | dsimp only | (refine keeps_of_parts ?_; dsimp only; with_reducible (first | refine keeps_parts ?_ | refine keepsParts_vat ?_ _ _ | refine keepsParts_cellar ?_ _ _ | refine keepsParts_vatFilter ?_ _)))

theorem keeps_perstNRelease (s : State) (speed width : Nat) (hκ : Keeps κ s) : Keeps κ (perstNRelease s speed width) := by
  unfold perstNRelease
  repeat' (first | with_reducible assumption | intro _ | with_reducible apply keeps_linkTrain | split | dsimp only | (refine keeps_of_parts ?_; dsimp only; with_reducible (first | refine keeps_parts ?_ | refine keepsParts_vat ?_ _ _ | refine keepsParts_cellar ?_ _ _ | refine keepsParts_vatFilter ?_ _)))

theorem keeps_execPerstNRelease (speed width : Nat) (s : State) (hκ : Keeps κ s) : KeepsOut κ (execPerstNRelease speed width s) := by
  unfold execPerstNRelease
  repeat' (first | with_reducible assumption | with_reducible refine keepsOut_next ?_ | with_reducible refine keepsOut_onUnit ?_ | intro _ | with_reducible apply keeps_perstNRelease)

theorem keeps_execFunctionLevelReset (s : State) (hκ : Keeps κ s) : KeepsOut κ (execFunctionLevelReset s) := by
  unfold execFunctionLevelReset
  repeat' (first | with_reducible assumption | with_reducible refine keepsOut_next ?_ | with_reducible refine keepsOut_onUnit ?_ | intro _ | with_reducible apply keeps_pcieReset | with_reducible refine keeps_ite ?_ ?_)

theorem keeps_refclkLost (s : State) (hκ : Keeps κ s) : Keeps κ (refclkLost s) := by
  unfold refclkLost
  repeat' (first | with_reducible assumption | intro _ | with_reducible apply keeps_raiseFault | with_reducible apply keeps_bump | with_reducible apply keeps_wr | with_reducible refine keeps_ite ?_ ?_)

theorem keeps_execRefclkLost (s : State) (hκ : Keeps κ s) : KeepsOut κ (execRefclkLost s) := by
  unfold execRefclkLost
  repeat' (first | with_reducible assumption | with_reducible refine keepsOut_next ?_ | with_reducible refine keepsOut_onUnit ?_ | intro _ | with_reducible apply keeps_whenMgmt | with_reducible apply keeps_refclkLost | split | dsimp only | (refine keeps_of_parts ?_; dsimp only; with_reducible (first | refine keeps_parts ?_ | refine keepsParts_vat ?_ _ _ | refine keepsParts_cellar ?_ _ _ | refine keepsParts_vatFilter ?_ _)))

theorem keeps_execFallbackRelock (s : State) (hκ : Keeps κ s) : KeepsOut κ (execFallbackRelock s) := by
  unfold execFallbackRelock
  repeat' (first | with_reducible assumption | with_reducible refine keepsOut_next ?_ | with_reducible refine keepsOut_onUnit ?_ | intro _ | with_reducible apply keeps_whenMgmt | with_reducible apply keeps_wr | with_reducible refine keeps_ite ?_ ?_)

theorem keeps_refclkRestored (s : State) (hκ : Keeps κ s) : Keeps κ (refclkRestored s) := by
  unfold refclkRestored
  repeat' (first | with_reducible assumption | intro _ | with_reducible apply keeps_raiseEvent | with_reducible apply keeps_wr | with_reducible refine keeps_ite ?_ ?_)

theorem keeps_execRefclkRestored (s : State) (hκ : Keeps κ s) : KeepsOut κ (execRefclkRestored s) := by
  unfold execRefclkRestored
  repeat' (first | with_reducible assumption | with_reducible refine keepsOut_next ?_ | with_reducible refine keepsOut_onUnit ?_ | intro _ | with_reducible apply keeps_whenMgmt | with_reducible apply keeps_refclkRestored | split | dsimp only | (refine keeps_of_parts ?_; dsimp only; with_reducible (first | refine keeps_parts ?_ | refine keepsParts_vat ?_ _ _ | refine keepsParts_cellar ?_ _ _ | refine keepsParts_vatFilter ?_ _)))

theorem keeps_execPllLoss (s : State) (hκ : Keeps κ s) : KeepsOut κ (execPllLoss s) := by
  unfold execPllLoss
  repeat' (first | with_reducible assumption | with_reducible refine keepsOut_next ?_ | with_reducible refine keepsOut_onUnit ?_ | intro _ | with_reducible apply keeps_whenMgmt | with_reducible apply keeps_raiseFault | split | dsimp only | (refine keeps_of_parts ?_; dsimp only; with_reducible (first | refine keeps_parts ?_ | refine keepsParts_vat ?_ _ _ | refine keepsParts_cellar ?_ _ _ | refine keepsParts_vatFilter ?_ _)))

theorem keeps_showThrottle (s : State) (hκ : Keeps κ s) : Keeps κ (showThrottle s) := by
  unfold showThrottle
  repeat' (first | with_reducible assumption | intro _ | with_reducible apply keeps_wr)

theorem keeps_thermalLevelChange (s : State) (milliC : Int) (hκ : Keeps κ s) : Keeps κ (thermalLevelChange s milliC) := by
  unfold thermalLevelChange
  repeat' (first | with_reducible assumption | intro _ | with_reducible apply keeps_showThrottle | with_reducible apply keeps_wr)

theorem keeps_execThermalLevelChange (milliC : Int) (s : State) (hκ : Keeps κ s) : KeepsOut κ (execThermalLevelChange milliC s) := by
  unfold execThermalLevelChange
  repeat' (first | with_reducible assumption | with_reducible refine keepsOut_next ?_ | with_reducible refine keepsOut_onUnit ?_ | intro _ | with_reducible apply keeps_whenMgmt | with_reducible apply keeps_thermalLevelChange)

theorem keeps_thermalTrip (s : State) (milliC : Int) (hκ : Keeps κ s) : Keeps κ (thermalTrip s milliC) := by
  unfold thermalTrip
  repeat' (first | with_reducible assumption | intro _ | with_reducible apply keeps_raiseFault | with_reducible apply keeps_wr | with_reducible refine keeps_ite ?_ ?_)

theorem keeps_execThermalTrip (milliC : Int) (s : State) (hκ : Keeps κ s) : KeepsOut κ (execThermalTrip milliC s) := by
  unfold execThermalTrip
  repeat' (first | with_reducible assumption | with_reducible refine keepsOut_next ?_ | with_reducible refine keepsOut_onUnit ?_ | intro _ | with_reducible apply keeps_whenMgmt | with_reducible apply keeps_thermalTrip)

theorem keeps_powerWindow10us (s : State) (watts : Nat) (hκ : Keeps κ s) : Keeps κ (powerWindow10us s watts) := by
  unfold powerWindow10us
  repeat' (first | with_reducible assumption | intro _ | with_reducible apply keeps_wr | with_reducible apply keeps_showThrottle | with_reducible refine keeps_ite ?_ ?_ | split | dsimp only | (refine keeps_of_parts ?_; dsimp only; with_reducible (first | refine keeps_parts ?_ | refine keepsParts_vat ?_ _ _ | refine keepsParts_cellar ?_ _ _ | refine keepsParts_vatFilter ?_ _)))

theorem keeps_execPowerWindow10us (watts : Nat) (s : State) (hκ : Keeps κ s) : KeepsOut κ (execPowerWindow10us watts s) := by
  unfold execPowerWindow10us
  repeat' (first | with_reducible assumption | with_reducible refine keepsOut_next ?_ | with_reducible refine keepsOut_onUnit ?_ | intro _ | with_reducible apply keeps_whenMgmt | with_reducible apply keeps_powerWindow10us)

theorem keeps_powerWindow1ms (s : State) (mv ma watts : Nat) (hκ : Keeps κ s) : Keeps κ (powerWindow1ms s mv ma watts) := by
  unfold powerWindow1ms
  repeat' (first | with_reducible assumption | intro _ | with_reducible apply keeps_wr | with_reducible apply keeps_showThrottle | with_reducible refine keeps_ite ?_ ?_ | split | dsimp only | (refine keeps_of_parts ?_; dsimp only; with_reducible (first | refine keeps_parts ?_ | refine keepsParts_vat ?_ _ _ | refine keepsParts_cellar ?_ _ _ | refine keepsParts_vatFilter ?_ _)))

theorem keeps_execPowerWindow1ms (mv ma watts : Nat) (s : State) (hκ : Keeps κ s) : KeepsOut κ (execPowerWindow1ms mv ma watts s) := by
  unfold execPowerWindow1ms
  repeat' (first | with_reducible assumption | with_reducible refine keepsOut_next ?_ | with_reducible refine keepsOut_onUnit ?_ | intro _ | with_reducible apply keeps_whenMgmt | with_reducible apply keeps_powerWindow1ms)

theorem keeps_execSupplyPeakPowerRead (src : Source) (s : State) (hκ : Keeps κ s) : KeepsOut κ (execSupplyPeakPowerRead src s) := by
  unfold execSupplyPeakPowerRead
  repeat' (first | with_reducible assumption | with_reducible refine keepsOut_next ?_ | with_reducible refine keepsOut_onUnit ?_ | intro _ | with_reducible apply keeps_afterRead | with_reducible refine keeps_ite ?_ ?_)

theorem keeps_starterTry (s : State) (k : Nat) (signatureOk : Bool) (hκ : Keeps κ s) : Keeps κ (starterTry s k signatureOk).2 := by
  unfold starterTry
  repeat' (first | with_reducible assumption | intro _ | with_reducible apply keeps_setFwSlot | with_reducible refine keeps_ite ?_ ?_ | split | dsimp only | (refine keeps_of_parts ?_; dsimp only; with_reducible (first | refine keeps_parts ?_ | refine keepsParts_vat ?_ _ _ | refine keepsParts_cellar ?_ _ _ | refine keepsParts_vatFilter ?_ _)))

theorem keeps_starterChoice (s : State) (sigA sigB : Bool) (hκ : Keeps κ s) : Keeps κ (starterChoice s sigA sigB).2 := by
  unfold starterChoice
  repeat' (first | with_reducible assumption | intro _ | with_reducible apply keeps_starterTry | with_reducible refine keeps_ite ?_ ?_ | split | dsimp only)

theorem keeps_extendMeasure (s : State) (k : Nat) (d : List Byte) (hκ : Keeps κ s) : Keeps κ (extendMeasure s k d) := by
  unfold extendMeasure
  repeat' (first | with_reducible assumption | intro _ | split | dsimp only | (refine keeps_of_parts ?_; dsimp only; with_reducible (first | refine keeps_parts ?_ | refine keepsParts_vat ?_ _ _ | refine keepsParts_cellar ?_ _ _ | refine keepsParts_vatFilter ?_ _)))

theorem keeps_loafDigest (s : State) (img : List Byte) (hκ : Keeps κ s) : Keeps κ (loafDigest s img).2 := by
  unfold loafDigest
  repeat' (first | with_reducible assumption | intro _ | with_reducible apply keeps_drawBytes | with_reducible refine keeps_ite ?_ ?_ | split)

theorem keeps_showLevels (s : State) (hκ : Keeps κ s) : Keeps κ (showLevels s) := by
  unfold showLevels
  repeat' (first | with_reducible assumption | intro _ | with_reducible apply keeps_wr)

theorem keeps_bootAt (s : State) (b : Boot) (f : State → State) (hκ : Keeps κ s) (hκf : ∀ z1, Keeps κ z1 → Keeps κ (f z1)) : Keeps κ (bootAt s b f) := by
  unfold bootAt
  repeat' (first | with_reducible assumption | with_reducible apply hκf | intro _ | with_reducible refine keeps_ite ?_ ?_)

theorem keeps_bootFail (s : State) (hκ : Keeps κ s) : Keeps κ (bootFail s) := by
  unfold bootFail
  repeat' (first | with_reducible assumption | intro _ | with_reducible apply keeps_raiseFault)

theorem keeps_execBootPllLock (s : State) (hκ : Keeps κ s) (hc : κ.clock = none) : KeepsOut κ (execBootPllLock s) := by
  unfold execBootPllLock
  repeat' (first | with_reducible assumption | with_reducible refine keepsOut_next ?_ | with_reducible refine keepsOut_onUnit ?_ | intro _ | with_reducible apply keeps_bootAt | with_reducible apply keeps_linkTrain | split | dsimp only | (refine keeps_of_parts ?_; dsimp only; with_reducible (first | refine keeps_parts ?_ | refine keepsParts_vat ?_ _ _ | refine keepsParts_cellar ?_ _ _ | refine keepsParts_vatFilter ?_ _ | refine keepsParts_clock ?_ _ _ (by with_reducible assumption))))

theorem keeps_starterBoots (s : State) (k : Nat) (hκ : Keeps κ s) (hc : κ.clock = none) : Keeps κ (starterBoots s k) := by
  unfold starterBoots
  repeat' (first | with_reducible assumption | intro _ | with_reducible apply keeps_drawBytes | with_reducible apply keeps_extendMeasure | with_reducible apply keeps_loafDigest | split | dsimp only | (refine keeps_of_parts ?_; dsimp only; with_reducible (first | refine keeps_parts ?_ | refine keepsParts_vat ?_ _ _ | refine keepsParts_cellar ?_ _ _ | refine keepsParts_vatFilter ?_ _ | refine keepsParts_clock ?_ _ _ (by with_reducible assumption))))

theorem keeps_starterSelect (s : State) (sigA sigB : Bool) (hκ : Keeps κ s) (hc : κ.clock = none) :
    Keeps κ (starterSelect s sigA sigB) := by
  unfold starterSelect
  have hk := keeps_starterChoice s sigA sigB hκ
  split <;> rename_i e <;> rw [e] at hk
  · exact keeps_starterBoots _ _ hk hc
  · exact keeps_bootFail _ hk

theorem keeps_execStarterSelect (sigA sigB : Bool) (s : State) (hκ : Keeps κ s) (hc : κ.clock = none) : KeepsOut κ (execStarterSelect sigA sigB s) := by
  unfold execStarterSelect
  repeat' (first | with_reducible assumption | with_reducible refine keepsOut_next ?_ | with_reducible refine keepsOut_onUnit ?_ | intro _ | with_reducible apply keeps_bootAt | with_reducible apply keeps_starterSelect)

theorem keeps_lanesStart (s : State) (hκ : Keeps κ s) (hc : κ.clock = none) : Keeps κ (lanesStart s) := by
  unfold lanesStart
  repeat' (first | with_reducible assumption | intro _ | with_reducible apply keeps_requestEnable | with_reducible refine keeps_foldl ?_ ?_ _ | with_reducible refine keeps_foldlFst ?_ ?_ _ | split | dsimp only | (refine keeps_of_parts ?_; dsimp only; with_reducible (first | refine keeps_parts ?_ | refine keepsParts_vat ?_ _ _ | refine keepsParts_cellar ?_ _ _ | refine keepsParts_vatFilter ?_ _ | refine keepsParts_clock ?_ _ _ (by with_reducible assumption))))

theorem keeps_bootLanes (s : State) (refclkGood : Bool) (hκ : Keeps κ s) (hc : κ.clock = none) : Keeps κ (bootLanes s refclkGood) := by
  unfold bootLanes
  repeat' (first | with_reducible assumption | intro _ | with_reducible apply keeps_lanesStart | with_reducible refine keeps_ite ?_ ?_ | split | dsimp only | (refine keeps_of_parts ?_; dsimp only; with_reducible (first | refine keeps_parts ?_ | refine keepsParts_vat ?_ _ _ | refine keepsParts_cellar ?_ _ _ | refine keepsParts_vatFilter ?_ _ | refine keepsParts_clock ?_ _ _ (by with_reducible assumption))))

theorem keeps_execBootLanes (refclkGood : Bool) (s : State) (hκ : Keeps κ s) (hc : κ.clock = none) : KeepsOut κ (execBootLanes refclkGood s) := by
  unfold execBootLanes
  repeat' (first | with_reducible assumption | with_reducible refine keepsOut_next ?_ | with_reducible refine keepsOut_onUnit ?_ | intro _ | with_reducible apply keeps_bootLanes)

theorem keeps_bootLoaf (s : State) (hκ : Keeps κ s) (hc : κ.clock = none) : Keeps κ (bootLoaf s) := by
  unfold bootLoaf
  repeat' (first | with_reducible assumption | intro _ | with_reducible apply keeps_extendMeasure | with_reducible apply keeps_showLevels | with_reducible apply keeps_storeOne | with_reducible apply keeps_wr | with_reducible apply keeps_checkInsert | with_reducible apply keeps_showCages | with_reducible refine keeps_foldl ?_ ?_ _ | with_reducible refine keeps_foldlFst ?_ ?_ _ | split | dsimp only | (refine keeps_of_parts ?_; dsimp only; with_reducible (first | refine keeps_parts ?_ | refine keepsParts_vat ?_ _ _ | refine keepsParts_cellar ?_ _ _ | refine keepsParts_vatFilter ?_ _ | refine keepsParts_clock ?_ _ _ (by with_reducible assumption))))

theorem keeps_execBootLoaf (s : State) (hκ : Keeps κ s) (hc : κ.clock = none) : KeepsOut κ (execBootLoaf s) := by
  unfold execBootLoaf
  repeat' (first | with_reducible assumption | with_reducible refine keepsOut_next ?_ | with_reducible refine keepsOut_onUnit ?_ | intro _ | with_reducible apply keeps_bootAt | with_reducible apply keeps_bootLoaf)

theorem keeps_layMemory (s : State) (hκ : Keeps κ s) : Keeps κ (layMemory s) := { keeps_parts hκ with vatWf := rfl, cellarWf := rfl }

theorem keeps_shareEvent (s : State) (hκ : Keeps κ s) : Keeps κ (shareEvent s) := by
  unfold shareEvent
  repeat' (first | with_reducible assumption | intro _ | with_reducible apply keeps_raiseEvent | with_reducible refine keeps_ite ?_ ?_)

theorem keeps_reinstall (s : State) (hκ : Keeps κ s) : Keeps κ (reinstall s) := by
  unfold reinstall
  repeat' (first | with_reducible assumption | intro _ | with_reducible apply keeps_installStation | with_reducible apply keeps_installRecipe | with_reducible refine keeps_foldl ?_ ?_ _ | with_reducible refine keeps_foldlFst ?_ ?_ _ | split | dsimp only | (refine keeps_of_parts ?_; dsimp only; with_reducible (first | refine keeps_parts ?_ | refine keepsParts_vat ?_ _ _ | refine keepsParts_cellar ?_ _ _ | refine keepsParts_vatFilter ?_ _)))

theorem keeps_bootMemory (s : State) (trained : Bool) (hκ : Keeps κ s) (hc : κ.clock = none) : Keeps κ (bootMemory s trained) := by
  unfold bootMemory
  repeat' (first | with_reducible assumption | intro _ | with_reducible apply keeps_reinstall | with_reducible apply keeps_shareEvent | with_reducible apply keeps_layMemory | with_reducible apply keeps_bootFail | with_reducible refine keeps_ite ?_ ?_ | split | dsimp only | (refine keeps_of_parts ?_; dsimp only; with_reducible (first | refine keeps_parts ?_ | refine keepsParts_vat ?_ _ _ | refine keepsParts_cellar ?_ _ _ | refine keepsParts_vatFilter ?_ _ | refine keepsParts_clock ?_ _ _ (by with_reducible assumption))))

theorem keeps_execBootMemory (trained : Bool) (s : State) (hκ : Keeps κ s) (hc : κ.clock = none) : KeepsOut κ (execBootMemory trained s) := by
  unfold execBootMemory
  repeat' (first | with_reducible assumption | with_reducible refine keepsOut_next ?_ | with_reducible refine keepsOut_onUnit ?_ | intro _ | with_reducible apply keeps_bootAt | with_reducible apply keeps_bootMemory)

theorem keeps_proofFailed (s : State) (u : Nat) (hκ : Keeps κ s) : Keeps κ (proofFailed s u) := by
  unfold proofFailed
  repeat' (first | with_reducible assumption | intro _ | with_reducible apply keeps_raiseFault | with_reducible apply keeps_bump)

theorem keeps_proofDone (s : State) (u : Nat) (pass : Bool) (hκ : Keeps κ s) : Keeps κ (proofDone s u pass) := by
  unfold proofDone
  repeat' (first | with_reducible assumption | intro _ | with_reducible apply keeps_proofResult | with_reducible apply keeps_bump64)

theorem keeps_bootCluster (failed : List Nat) (pes : List (Nat × Nat × Nat)) (s : State) (c : Nat) (hκ : Keeps κ s) : Keeps κ (bootCluster failed pes s c) := by
  unfold bootCluster
  repeat' (first | with_reducible assumption | intro _ | with_reducible apply keeps_setKarray | with_reducible apply keeps_setFn | with_reducible apply keeps_proofDone | with_reducible apply keeps_proofFailed | with_reducible apply keeps_putRepairs | with_reducible refine keeps_foldl ?_ ?_ _ | with_reducible refine keeps_foldlFst ?_ ?_ _ | with_reducible refine keeps_ite ?_ ?_)

theorem keeps_dealClusters (s : State) (hκ : Keeps κ s) : Keeps κ (dealClusters s) := by
  unfold dealClusters
  repeat' (first | with_reducible assumption | intro _ | split | dsimp only | (refine keeps_of_parts ?_; dsimp only; with_reducible (first | refine keeps_parts ?_ | refine keepsParts_vat ?_ _ _ | refine keepsParts_cellar ?_ _ _ | refine keepsParts_vatFilter ?_ _)))

theorem keeps_bootChurn (failed : List Nat) (s : State) (l : Nat) (hκ : Keeps κ s) : Keeps κ (bootChurn failed s l) := by
  unfold bootChurn
  repeat' (first | with_reducible assumption | intro _ | with_reducible apply keeps_churnSpareTakeover | with_reducible apply keeps_churnLaneFence | with_reducible apply keeps_proofDone | with_reducible apply keeps_proofFailed | with_reducible refine keeps_ite ?_ ?_)

theorem keeps_bootCore (failed : List Nat) (s : State) (c : Nat) (hκ : Keeps κ s) : Keeps κ (bootCore failed s c) := by
  unfold bootCore
  repeat' (first | with_reducible assumption | intro _ | with_reducible apply keeps_wr | with_reducible apply keeps_proofDone | with_reducible apply keeps_proofFailed | with_reducible refine keeps_ite ?_ ?_)

theorem keeps_dealCores (s : State) (g : Nat) (hκ : Keeps κ s) : Keeps κ (dealCores s g) := by
  unfold dealCores
  repeat' (first | with_reducible assumption | intro _ | with_reducible apply keeps_wr | with_reducible refine keeps_foldl ?_ ?_ _)

theorem keeps_bootBank (failed : List Nat) (rows : List (Nat × Nat)) (s : State) (b : Nat) (hκ : Keeps κ s) : Keeps κ (bootBank failed rows s b) := by
  unfold bootBank
  repeat' (first | with_reducible assumption | intro _ | with_reducible apply keeps_proofDone | with_reducible apply keeps_remapRows | with_reducible apply keeps_proofFailed | with_reducible apply keeps_fenceBank | with_reducible refine keeps_ite ?_ ?_)

theorem keeps_bootProof (s : State) (failed : List Nat) (pes : List (Nat × Nat × Nat)) (rows : List (Nat × Nat)) (hκ : Keeps κ s) (hc : κ.clock = none) : Keeps κ (bootProof s failed pes rows) := by
  unfold bootProof
  repeat' (first | with_reducible assumption | intro _ | with_reducible apply keeps_dealClusters | with_reducible apply keeps_bootCluster | with_reducible apply keeps_bootChurn | with_reducible apply keeps_dealCores | with_reducible apply keeps_bootCore | with_reducible apply keeps_bootBank | with_reducible apply keeps_bootFail | with_reducible refine keeps_foldl ?_ ?_ _ | with_reducible refine keeps_foldlFst ?_ ?_ _ | with_reducible refine keeps_ite ?_ ?_ | split | dsimp only | (refine keeps_of_parts ?_; dsimp only; with_reducible (first | refine keeps_parts ?_ | refine keepsParts_vat ?_ _ _ | refine keepsParts_cellar ?_ _ _ | refine keepsParts_vatFilter ?_ _ | refine keepsParts_clock ?_ _ _ (by with_reducible assumption))))

theorem keeps_execBootProof (failed : List Nat) (pes : List (Nat × Nat × Nat)) (rows : List (Nat × Nat)) (s : State) (hκ : Keeps κ s) (hc : κ.clock = none) : KeepsOut κ (execBootProof failed pes rows s) := by
  unfold execBootProof
  repeat' (first | with_reducible assumption | with_reducible refine keepsOut_next ?_ | with_reducible refine keepsOut_onUnit ?_ | intro _ | with_reducible apply keeps_bootAt | with_reducible apply keeps_bootProof)

theorem keeps_bootTopology (s : State) (hκ : Keeps κ s) (hc : κ.clock = none) : Keeps κ (bootTopology s) := by
  unfold bootTopology
  dsimp only
  have h0 : Keeps κ { s with boot := .readyStep, topo := { s.topo with sizes := s.topo.committed } } :=
    keeps_of_parts { keeps_parts hκ with sizesOk := hκ.committedOk, stands := fun c e => by rw [hc] at e; cases e }
  refine keeps_foldl (fun s h k => keeps_sliceEnable _ _ h) (keeps_foldl (fun s h p => keeps_portTryOn _ _ h) (keeps_foldl (fun s h p => keeps_portRecheck _ _ h) ?_ _) _) _
  have h1 := keeps_installSlice0 _ (keeps_topoEval _ h0)
  exact keeps_ite (keeps_holdPorts _ (keeps_coordInvalidEvent _ h1)) h1

theorem keeps_execBootTopology (s : State) (hκ : Keeps κ s) (hc : κ.clock = none) : KeepsOut κ (execBootTopology s) := by
  unfold execBootTopology
  repeat' (first | with_reducible assumption | with_reducible refine keepsOut_next ?_ | with_reducible refine keepsOut_onUnit ?_ | intro _ | with_reducible apply keeps_bootAt | with_reducible apply keeps_bootTopology)

theorem keeps_bootReady (s : State) (ms : Nat) (hκ : Keeps κ s) (hf : s.faults.frozen = false) (hc : κ.clock = none) :
    Keeps κ (bootReady s ms) := by
  unfold bootReady
  dsimp only
  with_reducible apply keeps_setFwSlot
  with_reducible apply keeps_wr
  with_reducible apply keeps_wr
  exact keeps_of_parts { keeps_parts hκ with shows := (fun e => by rw [hf] at e; cases e), stands := fun c e => by rw [hc] at e; cases e }

theorem keeps_execBootReady (ms : Nat) (s : State) (hκ : Keeps κ s) (hc : κ.clock = none) : KeepsOut κ (execBootReady ms s) := by
  unfold execBootReady bootAt
  refine keepsOut_next ?_
  split
  · rename_i hb
    exact keeps_bootReady s ms hκ (by simp at hb; exact hb.2) hc
  · exact hκ

end Sys2Proof.Machine
end

