-- ==== Sys2Proof/Laws/KeepsTraffic.lean ====
section
/-! SUPPORT. What collective commands, links, pools, egress, firmware and invocations keep: the queue and both memories' canonical form, one lemma per operation. -/
namespace Sys2Proof.Machine

variable {κ : Kept}

theorem keeps_collCommand (s : State) (f : State → State) (hκ : Keeps κ s) (hκf : ∀ z1, Keeps κ z1 → Keeps κ (f z1)) : Keeps κ (collCommand s f) := by
  unfold collCommand
  repeat' (first | with_reducible assumption | with_reducible apply hκf | intro _ | with_reducible apply keeps_whenLive | with_reducible apply keeps_clearTaken | with_reducible apply keeps_resume)

theorem keeps_execGroupInstall (src : Source) (s : State) (hκ : Keeps κ s) : KeepsOut κ (execGroupInstall src s) := by
  unfold execGroupInstall
  repeat' (first | with_reducible assumption | with_reducible refine keepsOut_next ?_ | with_reducible refine keepsOut_onUnit ?_ | intro _ | with_reducible apply keeps_whenWritten | with_reducible apply keeps_resume | with_reducible apply keeps_beginInstall)

theorem keeps_execGroupRemove (src : Source) (s : State) (hκ : Keeps κ s) : KeepsOut κ (execGroupRemove src s) := by
  unfold execGroupRemove
  repeat' (first | with_reducible assumption | with_reducible refine keepsOut_next ?_ | with_reducible refine keepsOut_onUnit ?_ | intro _ | with_reducible apply keeps_whenWritten | with_reducible apply keeps_resume | with_reducible apply keeps_beginRemove)

theorem keeps_execGroupEntryMsg (group origin : Nat) (entry : Option GroupDef) (s : State) (hκ : Keeps κ s) : KeepsOut κ (execGroupEntryMsg group origin entry s) := by
  unfold execGroupEntryMsg
  repeat' (first | with_reducible assumption | with_reducible refine keepsOut_next ?_ | with_reducible refine keepsOut_onUnit ?_ | intro _ | with_reducible apply keeps_groupEntryMsg | with_reducible apply keeps_collCommand)

theorem keeps_execGroupEntryAck (group module refusal : Nat) (s : State) (hκ : Keeps κ s) : KeepsOut κ (execGroupEntryAck group module refusal s) := by
  unfold execGroupEntryAck
  repeat' (first | with_reducible assumption | with_reducible refine keepsOut_next ?_ | with_reducible refine keepsOut_onUnit ?_ | intro _ | with_reducible apply keeps_groupEntryAck | with_reducible apply keeps_collCommand)

theorem keeps_execJoinReceived (port : Nat) (pkt : Packet) (s : State) (hκ : Keeps κ s) : KeepsOut κ (execJoinReceived port pkt s) := by
  unfold execJoinReceived
  repeat' (first | with_reducible assumption | with_reducible refine keepsOut_next ?_ | with_reducible refine keepsOut_onUnit ?_ | intro _ | with_reducible apply keeps_joinReceived | with_reducible apply keeps_collCommand)

theorem keeps_execDataReceived (port : Nat) (pkt : Packet) (s : State) (hκ : Keeps κ s) : KeepsOut κ (execDataReceived port pkt s) := by
  unfold execDataReceived
  repeat' (first | with_reducible assumption | with_reducible refine keepsOut_next ?_ | with_reducible refine keepsOut_onUnit ?_ | intro _ | with_reducible apply keeps_dataReceived | with_reducible apply keeps_collCommand)

theorem keeps_execContribReceived (port : Nat) (pkt : Packet) (s : State) (hκ : Keeps κ s) : KeepsOut κ (execContribReceived port pkt s) := by
  unfold execContribReceived
  repeat' (first | with_reducible assumption | with_reducible refine keepsOut_next ?_ | with_reducible refine keepsOut_onUnit ?_ | intro _ | with_reducible apply keeps_contribReceived | with_reducible apply keeps_collCommand)

theorem keeps_execJoinUpReceived (port : Nat) (pkt : Packet) (s : State) (hκ : Keeps κ s) : KeepsOut κ (execJoinUpReceived port pkt s) := by
  unfold execJoinUpReceived
  repeat' (first | with_reducible assumption | with_reducible refine keepsOut_next ?_ | with_reducible refine keepsOut_onUnit ?_ | intro _ | with_reducible apply keeps_joinUpReceived | with_reducible apply keeps_collCommand)

theorem keeps_execDoneUpReceived (port : Nat) (pkt : Packet) (s : State) (hκ : Keeps κ s) : KeepsOut κ (execDoneUpReceived port pkt s) := by
  unfold execDoneUpReceived
  repeat' (first | with_reducible assumption | with_reducible refine keepsOut_next ?_ | with_reducible refine keepsOut_onUnit ?_ | intro _ | with_reducible apply keeps_doneUpReceived | with_reducible apply keeps_collCommand)

theorem keeps_execCommitReceived (port : Nat) (pkt : Packet) (s : State) (hκ : Keeps κ s) : KeepsOut κ (execCommitReceived port pkt s) := by
  unfold execCommitReceived
  repeat' (first | with_reducible assumption | with_reducible refine keepsOut_next ?_ | with_reducible refine keepsOut_onUnit ?_ | intro _ | with_reducible apply keeps_commitReceived | with_reducible apply keeps_collCommand)

theorem keeps_execCollResultReceived (port : Nat) (pkt : Packet) (s : State) (hκ : Keeps κ s) : KeepsOut κ (execCollResultReceived port pkt s) := by
  unfold execCollResultReceived
  repeat' (first | with_reducible assumption | with_reducible refine keepsOut_next ?_ | with_reducible refine keepsOut_onUnit ?_ | intro _ | with_reducible apply keeps_collResultReceived | with_reducible apply keeps_collCommand)

theorem keeps_execEndReceived (port : Nat) (pkt : Packet) (s : State) (hκ : Keeps κ s) : KeepsOut κ (execEndReceived port pkt s) := by
  unfold execEndReceived
  repeat' (first | with_reducible assumption | with_reducible refine keepsOut_next ?_ | with_reducible refine keepsOut_onUnit ?_ | intro _ | with_reducible apply keeps_endReceived | with_reducible apply keeps_collCommand)

theorem keeps_execRerunReceived (port : Nat) (pkt : Packet) (s : State) (hκ : Keeps κ s) : KeepsOut κ (execRerunReceived port pkt s) := by
  unfold execRerunReceived
  repeat' (first | with_reducible assumption | with_reducible refine keepsOut_next ?_ | with_reducible refine keepsOut_onUnit ?_ | intro _ | with_reducible apply keeps_rerunReceived | with_reducible apply keeps_collCommand)

theorem keeps_execReportReceived (port : Nat) (pkt : Packet) (s : State) (hκ : Keeps κ s) : KeepsOut κ (execReportReceived port pkt s) := by
  unfold execReportReceived
  repeat' (first | with_reducible assumption | with_reducible refine keepsOut_next ?_ | with_reducible refine keepsOut_onUnit ?_ | intro _ | with_reducible apply keeps_reportReceived | with_reducible apply keeps_collCommand)

theorem keeps_execMemberAbortReceived (port : Nat) (pkt : Packet) (s : State) (hκ : Keeps κ s) : KeepsOut κ (execMemberAbortReceived port pkt s) := by
  unfold execMemberAbortReceived
  repeat' (first | with_reducible assumption | with_reducible refine keepsOut_next ?_ | with_reducible refine keepsOut_onUnit ?_ | intro _ | with_reducible apply keeps_memberAbortReceived | with_reducible apply keeps_collCommand)

theorem keeps_execPoisonNoticeReceived (port : Nat) (pkt : Packet) (s : State) (hκ : Keeps κ s) : KeepsOut κ (execPoisonNoticeReceived port pkt s) := by
  unfold execPoisonNoticeReceived
  repeat' (first | with_reducible assumption | with_reducible refine keepsOut_next ?_ | with_reducible refine keepsOut_onUnit ?_ | intro _ | with_reducible apply keeps_poisonNoticeReceived | with_reducible apply keeps_collCommand)

theorem keeps_execJoinTimeout (group : Nat) (s : State) (hκ : Keeps κ s) : KeepsOut κ (execJoinTimeout group s) := by
  unfold execJoinTimeout
  repeat' (first | with_reducible assumption | with_reducible refine keepsOut_next ?_ | with_reducible refine keepsOut_onUnit ?_ | intro _ | with_reducible apply keeps_joinTimeout | with_reducible apply keeps_collCommand)

theorem keeps_execProgressTimeout (group : Nat) (s : State) (hκ : Keeps κ s) : KeepsOut κ (execProgressTimeout group s) := by
  unfold execProgressTimeout
  repeat' (first | with_reducible assumption | with_reducible refine keepsOut_next ?_ | with_reducible refine keepsOut_onUnit ?_ | intro _ | with_reducible apply keeps_progressTimeout | with_reducible apply keeps_collCommand)

theorem keeps_execTreeLossReport (group lostModule : Nat) (isMember : Bool) (s : State) (hκ : Keeps κ s) : KeepsOut κ (execTreeLossReport group lostModule isMember s) := by
  unfold execTreeLossReport
  repeat' (first | with_reducible assumption | with_reducible refine keepsOut_next ?_ | with_reducible refine keepsOut_onUnit ?_ | intro _ | with_reducible apply keeps_treeLossReport | with_reducible apply keeps_collCommand)

theorem keeps_execTreeRecompute (group : Nat) (entry : Option GroupDef) (s : State) (hκ : Keeps κ s) : KeepsOut κ (execTreeRecompute group entry s) := by
  unfold execTreeRecompute
  repeat' (first | with_reducible assumption | with_reducible refine keepsOut_next ?_ | with_reducible refine keepsOut_onUnit ?_ | intro _ | with_reducible apply keeps_treeRecompute | with_reducible apply keeps_collCommand)

theorem keeps_execContextSwap (group : Nat) (s : State) (hκ : Keeps κ s) : KeepsOut κ (execContextSwap group s) := by
  unfold execContextSwap
  repeat' (first | with_reducible assumption | with_reducible refine keepsOut_next ?_ | with_reducible refine keepsOut_onUnit ?_ | intro _ | with_reducible apply keeps_contextSwap | with_reducible apply keeps_collCommand)

theorem keeps_execMaximaReceived (port : Nat) (pkt : Packet) (s : State) (hκ : Keeps κ s) : KeepsOut κ (execMaximaReceived port pkt s) := by
  unfold execMaximaReceived
  repeat' (first | with_reducible assumption | with_reducible refine keepsOut_next ?_ | with_reducible refine keepsOut_onUnit ?_ | intro _ | with_reducible apply keeps_maximaReceived | with_reducible apply keeps_collCommand)

theorem keeps_execFinalReceived (port : Nat) (pkt : Packet) (s : State) (hκ : Keeps κ s) : KeepsOut κ (execFinalReceived port pkt s) := by
  unfold execFinalReceived
  repeat' (first | with_reducible assumption | with_reducible refine keepsOut_next ?_ | with_reducible refine keepsOut_onUnit ?_ | intro _ | with_reducible apply keeps_finalReceived | with_reducible apply keeps_collCommand)

theorem keeps_execChurnTake (group acc : Nat) (s : State) (hκ : Keeps κ s) : KeepsOut κ (execChurnTake group acc s) := by
  unfold execChurnTake
  repeat' (first | with_reducible assumption | with_reducible refine keepsOut_next ?_ | with_reducible refine keepsOut_onUnit ?_ | intro _ | with_reducible apply keeps_churnTake | with_reducible apply keeps_collCommand)

theorem keeps_execSkewWindowEnd (group acc : Nat) (s : State) (hκ : Keeps κ s) : KeepsOut κ (execSkewWindowEnd group acc s) := by
  unfold execSkewWindowEnd
  repeat' (first | with_reducible assumption | with_reducible refine keepsOut_next ?_ | with_reducible refine keepsOut_onUnit ?_ | intro _ | with_reducible apply keeps_skewWindowEnd | with_reducible apply keeps_collCommand)

theorem keeps_execAccumulatorComplete (group acc lane : Nat) (residueOk convertOk : Bool) (s : State) (hκ : Keeps κ s) : KeepsOut κ (execAccumulatorComplete group acc lane residueOk convertOk s) := by
  unfold execAccumulatorComplete
  repeat' (first | with_reducible assumption | with_reducible refine keepsOut_next ?_ | with_reducible refine keepsOut_onUnit ?_ | intro _ | with_reducible apply keeps_accumulatorComplete | with_reducible apply keeps_collCommand)

theorem keeps_execChurnSpareTakeover (lane : Nat) (s : State) (hκ : Keeps κ s) : KeepsOut κ (execChurnSpareTakeover lane s) := by
  unfold execChurnSpareTakeover
  repeat' (first | with_reducible assumption | with_reducible refine keepsOut_next ?_ | with_reducible refine keepsOut_onUnit ?_ | intro _ | with_reducible apply keeps_churnSpareTakeover | with_reducible apply keeps_whenLive)

theorem keeps_sendFrame (s : State) (p : Nat) (flit : BitVec 512) (isLink : Bool) (vc : Nat) (sop : Bool) (seq : Nat) (hκ : Keeps κ s) : Keeps κ (sendFrame s p flit isLink vc sop seq) := by
  unfold sendFrame
  repeat' (first | with_reducible assumption | intro _ | with_reducible apply keeps_setPort | with_reducible apply keeps_sendLanes)

theorem keeps_sendId (s : State) (p : Nat) (hκ : Keeps κ s) : Keeps κ (sendId s p) := by
  unfold sendId
  repeat' (first | with_reducible assumption | intro _ | with_reducible apply keeps_sendFrame | with_reducible apply keeps_setPort)

theorem keeps_spareOwnSlot (s : State) (g : Nat) (hκ : Keeps κ s) : Keeps κ (spareOwnSlot s g) := by
  unfold spareOwnSlot
  repeat' (first | with_reducible assumption | intro _ | with_reducible apply keeps_sendOnLane | with_reducible apply keeps_setLg | with_reducible refine keeps_ite ?_ ?_)

theorem keeps_linkError (s : State) (p : Nat) (hκ : Keeps κ s) : Keeps κ (linkError s p) := by
  unfold linkError
  repeat' (first | with_reducible assumption | intro _ | with_reducible apply keeps_portFail | with_reducible apply keeps_raiseEvent | with_reducible apply keeps_bump)

theorem keeps_enterNak (s : State) (p : Nat) (hκ : Keeps κ s) : Keeps κ (enterNak s p) := by
  unfold enterNak
  repeat' (first | with_reducible assumption | intro _ | with_reducible apply keeps_bump | with_reducible apply keeps_setLink | with_reducible refine keeps_ite ?_ ?_)

theorem keeps_startReplay (s : State) (p : Nat) (hκ : Keeps κ s) : Keeps κ (startReplay s p) := by
  unfold startReplay
  repeat' (first | with_reducible assumption | intro _ | with_reducible apply keeps_bump | with_reducible apply keeps_setLink | with_reducible refine keeps_ite ?_ ?_)

theorem keeps_advanceAck (s : State) (p v d : Nat) (hκ : Keeps κ s) : Keeps κ (advanceAck s p v d) := by
  unfold advanceAck
  repeat' (first | with_reducible assumption | intro _ | with_reducible apply keeps_collAcked | with_reducible apply keeps_setLink)

theorem keeps_applyAck (s : State) (p v : Nat) (nak : Bool) (hκ : Keeps κ s) : ∀ w, applyAck s p v nak = some w → Keeps κ w := by
  intro w e
  refine keeps_of_ite_some (fun w e => ?_) (fun w e => ?_) e
  · cases e
    exact keeps_ite (keeps_startReplay _ _ (keeps_ite hκ (keeps_advanceAck _ _ _ _ hκ))) (keeps_ite hκ (keeps_advanceAck _ _ _ _ hκ))
  · cases eq_of_ite_none e
    exact hκ

theorem keeps_applyGrants (s : State) (p : Nat) (f : BitVec 512) (hκ : Keeps κ s) : ∀ w, applyGrants s p f = some w → Keeps κ w := by
  intro w e
  refine keeps_of_ite_some (fun w e => ?_) (fun w e => keeps_of_ite_some (fun w e => ?_) (fun w e => ?_) e) e
  · cases e
    exact keeps_setLink _ _ _ hκ
  · cases e
    exact hκ
  · cases e

theorem keeps_applyReturns (s : State) (p : Nat) (f : BitVec 512) (hκ : Keeps κ s) : ∀ w, applyReturns s p f = some w → Keeps κ w := by
  intro w e
  refine keeps_of_ite_some (fun w e => ?_) (fun w e => ?_) e
  · cases e
    exact keeps_setLink _ _ _ hκ
  · cases e

theorem keeps_applyEcho (s : State) (p : Nat) (f : BitVec 512) (hκ : Keeps κ s) : Keeps κ (applyEcho s p f) := by
  unfold applyEcho
  repeat' (first | with_reducible assumption | intro _ | with_reducible apply keeps_setPort)

theorem keeps_applyAckOf (s : State) (p : Nat) (f : BitVec 512) (hκ : Keeps κ s) : ∀ w, applyAckOf s p f = some w → Keeps κ w := by
  intro w e
  refine keeps_of_ite_some (fun w e => ?_) (fun w e => keeps_of_ite_some (fun w e => ?_) (fun w e => ?_) e) e
  · exact keeps_applyAck _ _ _ _ hκ _ e
  · cases e
  · cases e
    exact keeps_ite (keeps_startReplay _ _ hκ) hκ

theorem keeps_applyLinkState (s : State) (p : Nat) (f : BitVec 512) (hκ : Keeps κ s) : Keeps κ (applyLinkState s p f) := by
  unfold applyLinkState
  repeat' (first | with_reducible assumption | intro _ | with_reducible refine keeps_applyGrants _ _ _ ?_ _ (by with_reducible assumption) | with_reducible apply keeps_linkError | with_reducible refine keeps_applyReturns _ _ _ ?_ _ (by with_reducible assumption) | with_reducible refine keeps_applyAckOf _ _ _ ?_ _ (by with_reducible assumption) | with_reducible apply keeps_applyEcho | split)

theorem keeps_recheckOn (s : State) (p : Nat) (f : BitVec 512) (hκ : Keeps κ s) : Keeps κ (recheckOn s p f) := by
  unfold recheckOn
  repeat' (first | with_reducible assumption | intro _ | with_reducible apply keeps_portRestart | with_reducible apply keeps_portQuarantine | with_reducible refine keeps_ite ?_ ?_ | split)

theorem keeps_recordIdentity (s : State) (p : Nat) (f : BitVec 512) (hκ : Keeps κ s) : Keeps κ (recordIdentity s p f) := by
  unfold recordIdentity
  repeat' (first | with_reducible assumption | intro _ | with_reducible apply keeps_setBlob | with_reducible apply keeps_wr | with_reducible apply keeps_setPort | with_reducible apply keeps_raiseEvent | with_reducible apply keeps_bondEval | with_reducible apply keeps_portCheck | with_reducible apply keeps_portRecheck | with_reducible apply keeps_portFail | with_reducible apply keeps_recheckOn | with_reducible refine keeps_ite ?_ ?_ | split | dsimp only)

theorem keeps_idOnSpare (s : State) (p : Nat) (f : BitVec 512) (ok : Bool) (hκ : Keeps κ s) : Keeps κ (idOnSpare s p f ok) := by
  unfold idOnSpare
  repeat' (first | with_reducible assumption | intro _ | with_reducible apply keeps_setLg | with_reducible apply keeps_bump | with_reducible refine keeps_ite ?_ ?_)

theorem keeps_crcFailed (s : State) (p : Nat) (hκ : Keeps κ s) : Keeps κ (crcFailed s p) := by
  unfold crcFailed
  repeat' (first | with_reducible assumption | intro _ | with_reducible apply keeps_bump | with_reducible apply keeps_setPort | with_reducible apply keeps_enterNak | with_reducible refine keeps_ite ?_ ?_)

theorem keeps_idOnPort (s : State) (p : Nat) (f : BitVec 512) (hκ : Keeps κ s) : Keeps κ (idOnPort s p f) := by
  unfold idOnPort
  repeat' (first | with_reducible assumption | intro _ | with_reducible apply keeps_bump | with_reducible apply keeps_setPort | with_reducible apply keeps_recordIdentity | with_reducible apply keeps_applyLinkState | with_reducible refine keeps_ite ?_ ?_)

theorem keeps_idFrameReceived (s : State) (p : Nat) (onSpare : Bool) (f : BitVec 512) (t : BitVec 32) (hκ : Keeps κ s) : Keeps κ (idFrameReceived s p onSpare f t) := by
  unfold idFrameReceived
  repeat' (first | with_reducible assumption | intro _ | with_reducible apply keeps_idOnSpare | with_reducible apply keeps_crcFailed | with_reducible apply keeps_idOnPort | with_reducible refine keeps_ite ?_ ?_)

theorem keeps_idHeard (s : State) (p : Nat) (onSpare : Bool) (f : BitVec 512) (t : BitVec 32) (hκ : Keeps κ s) : Keeps κ (idHeard s p onSpare f t) := by
  unfold idHeard
  repeat' (first | with_reducible assumption | intro _ | with_reducible apply keeps_hearSpare | with_reducible apply keeps_hearLanes | with_reducible refine keeps_ite ?_ ?_)

theorem keeps_execIdFrameReceived (port : Nat) (onSpare : Bool) (flit : BitVec 512) (trailer : BitVec 32) (s : State) (hκ : Keeps κ s) : KeepsOut κ (execIdFrameReceived port onSpare flit trailer s) := by
  unfold execIdFrameReceived
  repeat' (first | with_reducible assumption | with_reducible refine keepsOut_next ?_ | with_reducible refine keepsOut_onUnit ?_ | intro _ | with_reducible apply keeps_idFrameReceived | with_reducible apply keeps_whenLive | with_reducible apply keeps_idHeard)

theorem keeps_retryTimerExpiry (s : State) (p : Nat) (hκ : Keeps κ s) : Keeps κ (retryTimerExpiry s p) := by
  unfold retryTimerExpiry
  repeat' (first | with_reducible assumption | intro _ | with_reducible apply keeps_bump | with_reducible apply keeps_setLink | with_reducible apply keeps_portFail | with_reducible apply keeps_startReplay | with_reducible refine keeps_ite ?_ ?_)

theorem keeps_execRetryTimerExpiry (port : Nat) (s : State) (hκ : Keeps κ s) : KeepsOut κ (execRetryTimerExpiry port s) := by
  unfold execRetryTimerExpiry
  repeat' (first | with_reducible assumption | with_reducible refine keepsOut_next ?_ | with_reducible refine keepsOut_onUnit ?_ | intro _ | with_reducible apply keeps_retryTimerExpiry | with_reducible apply keeps_whenLive)

theorem keeps_roundTripFixed (s : State) (p : Nat) (hκ : Keeps κ s) : Keeps κ (roundTripFixed s p) := by
  unfold roundTripFixed
  repeat' (first | with_reducible assumption | intro _ | with_reducible apply keeps_setPort | with_reducible apply keeps_wr | with_reducible refine keeps_ite ?_ ?_ | split)

theorem keeps_execRoundTripFixed (port : Nat) (s : State) (hκ : Keeps κ s) : KeepsOut κ (execRoundTripFixed port s) := by
  unfold execRoundTripFixed
  repeat' (first | with_reducible assumption | with_reducible refine keepsOut_next ?_ | with_reducible refine keepsOut_onUnit ?_ | intro _ | with_reducible apply keeps_roundTripFixed | with_reducible apply keeps_whenLive)

theorem keeps_reserveTokens (s : State) (p c n : Nat) (hκ : Keeps κ s) : Keeps κ (reserveTokens s p c n) := by
  unfold reserveTokens
  repeat' (first | with_reducible assumption | intro _ | split | dsimp only | (refine keeps_of_parts ?_; dsimp only; with_reducible (first | refine keeps_parts ?_ | refine keepsParts_vat ?_ _ _ | refine keepsParts_cellar ?_ _ _ | refine keepsParts_vatFilter ?_ _)))

theorem keeps_countCause (s : State) (p c : Nat) (h : Header) (hκ : Keeps κ s) : Keeps κ (countCause s p c h) := by
  unfold countCause
  repeat' (first | with_reducible assumption | intro _ | with_reducible apply keeps_bump | with_reducible refine keeps_ite ?_ ?_)

theorem keeps_openPacket (s : State) (p vc : Nat) (flit : BitVec 512) (hκ : Keeps κ s) : Keeps κ (openPacket s p vc flit) := by
  unfold openPacket
  repeat' (first | with_reducible assumption | intro _ | with_reducible apply keeps_countCause | with_reducible apply keeps_countReturn | with_reducible apply keeps_bump | with_reducible apply keeps_reserveTokens | with_reducible apply keeps_bump64 | with_reducible apply keeps_setPort | with_reducible refine keeps_ite ?_ ?_ | split | dsimp only | (refine keeps_of_parts ?_; dsimp only; with_reducible (first | refine keeps_parts ?_ | refine keepsParts_vat ?_ _ _ | refine keepsParts_cellar ?_ _ _ | refine keepsParts_vatFilter ?_ _)))

theorem keeps_debitTokens (s : State) (p c n : Nat) (hκ : Keeps κ s) : Keeps κ (debitTokens s p c n) := by
  unfold debitTokens
  repeat' (first | with_reducible assumption | intro _ | with_reducible apply keeps_wr | split | dsimp only | (refine keeps_of_parts ?_; dsimp only; with_reducible (first | refine keeps_parts ?_ | refine keepsParts_vat ?_ _ _ | refine keepsParts_cellar ?_ _ _ | refine keepsParts_vatFilter ?_ _)))

theorem keeps_applyWindowUpd (s : State) (h : Header) (hκ : Keeps κ s) : Keeps κ (applyWindowUpd s h) := by
  unfold applyWindowUpd
  repeat' (first | with_reducible assumption | intro _ | with_reducible apply keeps_setWindow | with_reducible refine keeps_ite ?_ ?_)

theorem keeps_sourceAnswer (s : State) (p : Nat) (r : RxPacket) (crcOk : Bool) (hκ : Keeps κ s) : Keeps κ (sourceAnswer s p r crcOk) := by
  unfold sourceAnswer
  repeat' (first | with_reducible assumption | intro _ | with_reducible apply keeps_sendDrop | with_reducible apply keeps_setWindow | with_reducible apply keeps_sendAccept | with_reducible refine keeps_ite ?_ ?_ | split)

theorem keeps_countTrailer (s : State) (p : Nat) (r : RxPacket) (crcOk stomped : Bool) (hκ : Keeps κ s) : Keeps κ (countTrailer s p r crcOk stomped) := by
  unfold countTrailer
  repeat' (first | with_reducible assumption | intro _ | with_reducible apply keeps_bump | with_reducible refine keeps_ite ?_ ?_)

theorem keeps_placeFate (needs : Bool) (s : State) (a : Option SliceActive) (stamp : Nat) (o : OutPacket) (f : Fate) (hκ : Keeps κ s) : Keeps κ (placeFate needs s a stamp o f) := by
  unfold placeFate
  repeat' (first | with_reducible assumption | intro _ | with_reducible apply keeps_loseRoute | with_reducible apply keeps_toUnit | with_reducible apply keeps_reorderIn | with_reducible apply keeps_applyWindowUpd | with_reducible apply keeps_holdOut | with_reducible apply keeps_placeAs | with_reducible refine keeps_ite ?_ ?_ | split)

theorem keeps_forwardPacket (s : State) (p vc : Nat) (r : RxPacket) (crcOk : Bool) (hκ : Keeps κ s) : Keeps κ (forwardPacket s p vc r crcOk) := by
  unfold forwardPacket
  repeat' (first | with_reducible assumption | intro _ | with_reducible apply keeps_returnCredits | with_reducible apply keeps_bump | with_reducible apply keeps_addWaiter | with_reducible apply keeps_placeFate | with_reducible refine keeps_ite ?_ ?_)

theorem keeps_headNow (s : State) (w : Waiter) (hκ : Keeps κ s) : Keeps κ (headNow s w) := by
  unfold headNow
  repeat' (first | with_reducible assumption | intro _ | with_reducible apply keeps_countReturn | with_reducible apply keeps_releaseOut | with_reducible apply keeps_bump | with_reducible apply keeps_placeFate | with_reducible apply keeps_bump64 | with_reducible refine keeps_ite ?_ ?_)

theorem keeps_settleInputs (n : Nat) (s : State) (hκ : Keeps κ s) : Keeps κ (settleInputs n s) := by
  induction n generalizing s with
  | zero => exact hκ
  | succ n ih =>
    unfold settleInputs
    split
    · exact hκ
    · split
      · exact hκ
      · exact ih _ (keeps_headNow _ _ (keeps_of_parts (keeps_parts hκ)))

theorem keeps_settle (s : State) (hκ : Keeps κ s) : Keeps κ (settle s) := by
  unfold settle
  repeat' (first | with_reducible assumption | intro _ | with_reducible apply keeps_settleInputs)

theorem keeps_closePacket (s : State) (p vc : Nat) (r : RxPacket) (hκ : Keeps κ s) : Keeps κ (closePacket s p vc r) := by
  unfold closePacket
  repeat' (first | with_reducible assumption | intro _ | with_reducible apply keeps_setPort | with_reducible apply keeps_countTrailer | with_reducible apply keeps_debitTokens | with_reducible apply keeps_forwardPacket | with_reducible apply keeps_sourceAnswer | with_reducible refine keeps_ite ?_ ?_ | split)

theorem keeps_freeArriving (s : State) (p vc : Nat) (r : RxPacket) (hκ : Keeps κ s) : Keeps κ (freeArriving s p vc r) := by
  unfold freeArriving
  repeat' (first | with_reducible assumption | intro _ | with_reducible apply keeps_setPort | with_reducible apply keeps_returnCredits | with_reducible refine keeps_ite ?_ ?_)

theorem keeps_afterFrame (s : State) (p vc : Nat) (hκ : Keeps κ s) : Keeps κ (afterFrame s p vc) := by
  unfold afterFrame
  repeat' (first | with_reducible assumption | intro _ | with_reducible apply keeps_closePacket | with_reducible apply keeps_freeArriving | with_reducible refine keeps_ite ?_ ?_ | split)

theorem keeps_feedPacket (s : State) (p vc : Nat) (sop : Bool) (flit : BitVec 512) (hκ : Keeps κ s) : Keeps κ (feedPacket s p vc sop flit) := by
  unfold feedPacket
  repeat' (first | with_reducible assumption | intro _ | with_reducible apply keeps_afterFrame | with_reducible apply keeps_openPacket | with_reducible apply keeps_returnCredits | with_reducible apply keeps_bump | with_reducible apply keeps_truncateRx | with_reducible apply keeps_setPort | with_reducible refine keeps_ite ?_ ?_ | split)

theorem keeps_pktOn (s : State) (p : Nat) (flit : BitVec 512) (t : BitVec 32) (hκ : Keeps κ s) : Keeps κ (pktOn s p flit t) := by
  unfold pktOn
  repeat' (first | with_reducible assumption | intro _ | with_reducible apply keeps_linkError | with_reducible apply keeps_setLink | with_reducible apply keeps_feedPacket | with_reducible apply keeps_enterNak | with_reducible apply keeps_bump | with_reducible refine keeps_ite ?_ ?_)

theorem keeps_pktFrameReceived (s : State) (p : Nat) (flit : BitVec 512) (t : BitVec 32) (hκ : Keeps κ s) : Keeps κ (pktFrameReceived s p flit t) := by
  unfold pktFrameReceived
  repeat' (first | with_reducible assumption | intro _ | with_reducible apply keeps_crcFailed | with_reducible apply keeps_pktOn | with_reducible apply keeps_bump | with_reducible refine keeps_ite ?_ ?_ | split)

theorem keeps_execPktFrameReceived (port : Nat) (flit : BitVec 512) (trailer : BitVec 32) (s : State) (hκ : Keeps κ s) : KeepsOut κ (execPktFrameReceived port flit trailer s) := by
  unfold execPktFrameReceived
  repeat' (first | with_reducible assumption | with_reducible refine keepsOut_next ?_ | with_reducible refine keepsOut_onUnit ?_ | intro _ | with_reducible apply keeps_pktFrameReceived | with_reducible apply keeps_whenLive | with_reducible apply keeps_hearLanes)

theorem keeps_noteGrant (s : State) (k arrival : Nat) (hκ : Keeps κ s) : Keeps κ (noteGrant s k arrival) := by
  unfold noteGrant
  repeat' (first | with_reducible assumption | intro _ | split | dsimp only | (refine keeps_of_parts ?_; dsimp only; with_reducible (first | refine keeps_parts ?_ | refine keepsParts_vat ?_ _ _ | refine keepsParts_cellar ?_ _ _ | refine keepsParts_vatFilter ?_ _)))

theorem keeps_leaveInput (s : State) (o : OutPacket) (hκ : Keeps κ s) : Keeps κ (leaveInput s o) := by
  unfold leaveInput
  repeat' (first | with_reducible assumption | intro _ | with_reducible apply keeps_returnCredits | with_reducible refine keeps_ite ?_ ?_)

theorem keeps_queueCopies (s : State) (key : Nat) (cs : List (Nat × OutPacket)) (hκ : Keeps κ s) : Keeps κ (queueCopies s key cs) := by
  unfold queueCopies
  repeat' (first | with_reducible assumption | intro _ | with_reducible apply keeps_enqueue | with_reducible refine keeps_foldl ?_ ?_ _)

theorem keeps_blockGiven (s : State) (key : Nat) (w : Waiter) (now : List (Nat × OutPacket)) (hκ : Keeps κ s) : Keeps κ (blockGiven s key w now) := by
  unfold blockGiven
  repeat' (first | with_reducible assumption | intro _ | with_reducible apply keeps_reorderNow | with_reducible apply keeps_queueCopies | with_reducible refine keeps_ite ?_ ?_ | split | dsimp only | (refine keeps_of_parts ?_; dsimp only; with_reducible (first | refine keeps_parts ?_ | refine keepsParts_vat ?_ _ _ | refine keepsParts_cellar ?_ _ _ | refine keepsParts_vatFilter ?_ _)))

theorem keeps_grantBlock (s : State) (k i : Nat) (w : Waiter) (hκ : Keeps κ s) : Keeps κ (grantBlock s k i w) := by
  unfold grantBlock
  repeat' (first | with_reducible assumption | intro _ | with_reducible apply keeps_noteGrant | with_reducible apply keeps_bump64 | with_reducible apply keeps_blockGiven | with_reducible apply keeps_curdWrite | with_reducible apply keeps_leaveInput | with_reducible apply keeps_pressure | with_reducible refine keeps_ite ?_ ?_ | split | dsimp only | (refine keeps_of_parts ?_; dsimp only; with_reducible (first | refine keeps_parts ?_ | refine keepsParts_vat ?_ _ _ | refine keepsParts_cellar ?_ _ _ | refine keepsParts_vatFilter ?_ _)))

theorem keeps_curdGrant (s : State) (k : Nat) (hκ : Keeps κ s) : Keeps κ (curdGrant s k) := by
  unfold curdGrant
  repeat' (first | with_reducible assumption | intro _ | with_reducible apply keeps_settle | with_reducible apply keeps_grantBlock | with_reducible refine keeps_ite ?_ ?_ | split)

theorem keeps_execCurdGrant (pool : Nat) (s : State) (hκ : Keeps κ s) : KeepsOut κ (execCurdGrant pool s) := by
  unfold execCurdGrant
  repeat' (first | with_reducible assumption | with_reducible refine keepsOut_next ?_ | with_reducible refine keepsOut_onUnit ?_ | intro _ | with_reducible apply keeps_curdGrant | with_reducible apply keeps_whenLive)

theorem keeps_grantWhey (s : State) (i : Nat) (w : Waiter) (hκ : Keeps κ s) : Keeps κ (grantWhey s i w) := by
  unfold grantWhey
  repeat' (first | with_reducible assumption | intro _ | with_reducible apply keeps_noteGrant | with_reducible apply keeps_pressure | with_reducible apply keeps_blockGiven | with_reducible apply keeps_leaveInput | with_reducible refine keeps_ite ?_ ?_ | split | dsimp only | (refine keeps_of_parts ?_; dsimp only; with_reducible (first | refine keeps_parts ?_ | refine keepsParts_vat ?_ _ _ | refine keepsParts_cellar ?_ _ _ | refine keepsParts_vatFilter ?_ _)))

theorem keeps_loafTurn (s : State) (hκ : Keeps κ s) : Keeps κ (loafTurn s) := by
  unfold loafTurn
  repeat' (first | with_reducible assumption | intro _ | with_reducible apply keeps_refuseLoaf | with_reducible apply keeps_placeOut | with_reducible apply keeps_sendRouted | with_reducible refine keeps_foldl ?_ ?_ _ | with_reducible refine keeps_foldlFst ?_ ?_ _ | with_reducible refine keeps_ite ?_ ?_ | split | dsimp only | (refine keeps_of_parts ?_; dsimp only; with_reducible (first | refine keeps_parts ?_ | refine keepsParts_vat ?_ _ _ | refine keepsParts_cellar ?_ _ _ | refine keepsParts_vatFilter ?_ _)))

theorem keeps_wheyGrant (s : State) (hκ : Keeps κ s) : Keeps κ (wheyGrant s) := by
  unfold wheyGrant
  repeat' (first | with_reducible assumption | intro _ | with_reducible apply keeps_loafTurn | with_reducible apply keeps_settle | with_reducible apply keeps_grantWhey | with_reducible refine keeps_ite ?_ ?_ | split)

theorem keeps_execWheyGrant (s : State) (hκ : Keeps κ s) : KeepsOut κ (execWheyGrant s) := by
  unfold execWheyGrant
  repeat' (first | with_reducible assumption | with_reducible refine keepsOut_next ?_ | with_reducible refine keepsOut_onUnit ?_ | intro _ | with_reducible apply keeps_whenLive | with_reducible apply keeps_wheyGrant)

theorem keeps_refillPort (s : State) (p : Nat) (hκ : Keeps κ s) : Keeps κ (refillPort s p) := by
  unfold refillPort
  repeat' (first | with_reducible assumption | intro _ | with_reducible apply keeps_wr | with_reducible refine keeps_foldl ?_ ?_ _ | with_reducible refine keeps_foldlFst ?_ ?_ _ | with_reducible refine keeps_ite ?_ ?_)

theorem keeps_policerRefill (s : State) (hκ : Keeps κ s) : Keeps κ (policerRefill s) := by
  unfold policerRefill
  repeat' (first | with_reducible assumption | intro _ | with_reducible apply keeps_refillPort | with_reducible refine keeps_foldl ?_ ?_ _ | with_reducible refine keeps_foldlFst ?_ ?_ _ | split | dsimp only | (refine keeps_of_parts ?_; dsimp only; with_reducible (first | refine keeps_parts ?_ | refine keepsParts_vat ?_ _ _ | refine keepsParts_cellar ?_ _ _ | refine keepsParts_vatFilter ?_ _)))

theorem keeps_execPolicerRefill (s : State) (hκ : Keeps κ s) : KeepsOut κ (execPolicerRefill s) := by
  unfold execPolicerRefill
  repeat' (first | with_reducible assumption | with_reducible refine keepsOut_next ?_ | with_reducible refine keepsOut_onUnit ?_ | intro _ | with_reducible apply keeps_whenLive | with_reducible apply keeps_policerRefill)

theorem keeps_policerRateApply (s : State) (p k v : Nat) (hκ : Keeps κ s) : Keeps κ (policerRateApply s p k v) := by
  unfold policerRateApply
  repeat' (first | with_reducible assumption | intro _ | with_reducible apply keeps_writeReg)

theorem keeps_execPolicerRateWrite (src : Source) (port cls value : Nat) (s : State) (hκ : Keeps κ s) : KeepsOut κ (execPolicerRateWrite src port cls value s) := by
  unfold execPolicerRateWrite
  repeat' (first | with_reducible assumption | with_reducible refine keepsOut_next ?_ | with_reducible refine keepsOut_onUnit ?_ | intro _ | with_reducible apply keeps_whenWritten | with_reducible apply keeps_policerRateApply)

theorem keeps_policerBurstApply (s : State) (p k v : Nat) (hκ : Keeps κ s) : Keeps κ (policerBurstApply s p k v) := by
  unfold policerBurstApply
  repeat' (first | with_reducible assumption | intro _ | with_reducible apply keeps_writeReg | with_reducible apply keeps_wr | with_reducible refine keeps_ite ?_ ?_)

theorem keeps_execPolicerBurstWrite (src : Source) (port cls value : Nat) (s : State) (hκ : Keeps κ s) : KeepsOut κ (execPolicerBurstWrite src port cls value s) := by
  unfold execPolicerBurstWrite
  repeat' (first | with_reducible assumption | with_reducible refine keepsOut_next ?_ | with_reducible refine keepsOut_onUnit ?_ | intro _ | with_reducible apply keeps_whenWritten | with_reducible apply keeps_policerBurstApply)

theorem keeps_policerEnableApply (s : State) (p v : Nat) (hκ : Keeps κ s) : Keeps κ (policerEnableApply s p v) := by
  unfold policerEnableApply
  repeat' (first | with_reducible assumption | intro _ | with_reducible apply keeps_wr | with_reducible apply keeps_writeReg | with_reducible refine keeps_foldl ?_ ?_ _ | with_reducible refine keeps_foldlFst ?_ ?_ _ | with_reducible refine keeps_ite ?_ ?_)

theorem keeps_execPolicerEnableWrite (src : Source) (port value : Nat) (s : State) (hκ : Keeps κ s) : KeepsOut κ (execPolicerEnableWrite src port value s) := by
  unfold execPolicerEnableWrite
  repeat' (first | with_reducible assumption | with_reducible refine keepsOut_next ?_ | with_reducible refine keepsOut_onUnit ?_ | intro _ | with_reducible apply keeps_whenWritten | with_reducible apply keeps_policerEnableApply)

theorem keeps_policerWindowApply (s : State) (v : Nat) (hκ : Keeps κ s) : Keeps κ (policerWindowApply s v) := by
  unfold policerWindowApply
  repeat' (first | with_reducible assumption | intro _ | with_reducible apply keeps_writeReg | split | dsimp only | (refine keeps_of_parts ?_; dsimp only; with_reducible (first | refine keeps_parts ?_ | refine keepsParts_vat ?_ _ _ | refine keepsParts_cellar ?_ _ _ | refine keepsParts_vatFilter ?_ _)))

theorem keeps_execPolicerWindowWrite (src : Source) (value : Nat) (s : State) (hκ : Keeps κ s) : KeepsOut κ (execPolicerWindowWrite src value s) := by
  unfold execPolicerWindowWrite
  repeat' (first | with_reducible assumption | with_reducible refine keepsOut_next ?_ | with_reducible refine keepsOut_onUnit ?_ | intro _ | with_reducible apply keeps_whenWritten | with_reducible apply keeps_policerWindowApply)

theorem keeps_execShaperConfigWrite (src : Source) (port sub : Nat) (value : List Byte) (s : State) (hκ : Keeps κ s) : KeepsOut κ (execShaperConfigWrite src port sub value s) := by
  unfold execShaperConfigWrite
  repeat' (first | with_reducible assumption | with_reducible refine keepsOut_next ?_ | with_reducible refine keepsOut_onUnit ?_ | intro _ | with_reducible apply keeps_whenWritten | with_reducible apply keeps_writeReg)

theorem keeps_ctrlCeilingFill (s : State) (p : Nat) (hκ : Keeps κ s) : Keeps κ (ctrlCeilingFill s p) := by
  unfold ctrlCeilingFill
  repeat' (first | with_reducible assumption | intro _ | with_reducible apply keeps_setPort)

theorem keeps_execCtrlCeilingFill (port : Nat) (s : State) (hκ : Keeps κ s) : KeepsOut κ (execCtrlCeilingFill port s) := by
  unfold execCtrlCeilingFill
  repeat' (first | with_reducible assumption | with_reducible refine keepsOut_next ?_ | with_reducible refine keepsOut_onUnit ?_ | intro _ | with_reducible apply keeps_ctrlCeilingFill | with_reducible apply keeps_whenLive)

theorem keeps_setSched (s : State) (p : Nat) (x : Sched) (hκ : Keeps κ s) : Keeps κ (setSched s p x) := by
  unfold setSched
  repeat' (first | with_reducible assumption | intro _ | with_reducible apply keeps_setPort)

theorem keeps_onActive (s : State) (p : Nat) (hκ : Keeps κ s) : Keeps κ (onActive s p) := by
  unfold onActive
  repeat' (first | with_reducible assumption | intro _ | with_reducible apply keeps_setSched | with_reducible refine keeps_foldl ?_ ?_ _)

theorem keeps_chargeClass (s : State) (p c : Nat) (hκ : Keeps κ s) : Keeps κ (chargeClass s p c) := by
  unfold chargeClass
  repeat' (first | with_reducible assumption | intro _ | with_reducible apply keeps_wr | with_reducible apply keeps_setSched)

theorem keeps_followOn (s : State) (p c : Nat) (hκ : Keeps κ s) : Keeps κ (followOn s p c) := by
  unfold followOn
  repeat' (first | with_reducible assumption | intro _ | with_reducible apply keeps_setSched | with_reducible refine keeps_ite ?_ ?_)

theorem keeps_numberFrame (s : State) (p vc : Nat) (sop : Bool) (flit : BitVec 512) (hκ : Keeps κ s) : Keeps κ (numberFrame s p vc sop flit) := by
  unfold numberFrame
  repeat' (first | with_reducible assumption | intro _ | with_reducible apply keeps_setLink | with_reducible apply keeps_sendFrame)

theorem keeps_finishCopy (s : State) (p : Nat) (o : OutPacket) (hκ : Keeps κ s) : Keeps κ (finishCopy s p o) := by
  unfold finishCopy
  repeat' (first | with_reducible assumption | intro _ | with_reducible apply keeps_collSent | with_reducible apply keeps_releaseBlock | with_reducible apply keeps_countReturn | with_reducible refine keeps_ite ?_ ?_ | split)

theorem keeps_sendPkt (s : State) (p i : Nat) (o : OutPacket) (hκ : Keeps κ s) : Keeps κ (sendPkt s p i o) := by
  unfold sendPkt
  repeat' (first | with_reducible assumption | intro _ | with_reducible apply keeps_curdRead | with_reducible apply keeps_noteCopyPoison | with_reducible apply keeps_numberFrame | with_reducible apply keeps_returnCredits | with_reducible apply keeps_finishCopy | with_reducible apply keeps_setPort | with_reducible refine keeps_ite ?_ ?_ | split)

theorem keeps_countClass (s : State) (p c : Nat) (hκ : Keeps κ s) : Keeps κ (countClass s p c) := by
  unfold countClass
  repeat' (first | with_reducible assumption | intro _ | with_reducible apply keeps_bump64)

theorem keeps_beginData (s : State) (p c : Nat) (hκ : Keeps κ s) : Keeps κ (beginData s p c) := by
  unfold beginData
  repeat' (first | with_reducible assumption | intro _ | with_reducible apply keeps_followOn | with_reducible apply keeps_sendPkt | with_reducible apply keeps_chargeClass | split)

theorem keeps_sendReplay (s : State) (p : Nat) (hκ : Keeps κ s) : Keeps κ (sendReplay s p) := by
  unfold sendReplay
  repeat' (first | with_reducible assumption | intro _ | with_reducible apply keeps_setLink | with_reducible apply keeps_sendFrame | with_reducible refine keeps_ite ?_ ?_ | split | dsimp only)

theorem keeps_slotWithoutId (s : State) (p : Nat) (hκ : Keeps κ s) : Keeps κ (slotWithoutId s p) := by
  unfold slotWithoutId
  repeat' (first | with_reducible assumption | intro _ | with_reducible apply keeps_setLink)

theorem keeps_slotSend (s : State) (p : Nat) (k : SlotKind) (hκ : Keeps κ s) : Keeps κ (slotSend s p k) := by
  unfold slotSend
  repeat' (first | with_reducible assumption | intro _ | with_reducible apply keeps_sendId | with_reducible apply keeps_sendReplay | with_reducible apply keeps_slotWithoutId | with_reducible apply keeps_sendPkt | with_reducible apply keeps_setSched | with_reducible apply keeps_countClass | with_reducible apply keeps_beginData | with_reducible apply keeps_id | split | dsimp only)

theorem keeps_shaperStep (s : State) (p c : Nat) (sends hasPacket : Bool) (hκ : Keeps κ s) : Keeps κ (shaperStep s p c sends hasPacket) := by
  unfold shaperStep
  repeat' (first | with_reducible assumption | intro _ | with_reducible apply keeps_wr)

theorem keeps_shapers (s : State) (p : Nat) (cls : Option Nat) (had : Nat → Bool) (hκ : Keeps κ s) : Keeps κ (shapers s p cls had) := by
  unfold shapers
  repeat' (first | with_reducible assumption | intro _ | with_reducible apply keeps_shaperStep | with_reducible refine keeps_foldl ?_ ?_ _)

theorem keeps_sendSwitch (s : State) (g : Nat) (hκ : Keeps κ s) : Keeps κ (sendSwitch s g) := by
  unfold sendSwitch
  repeat' (first | with_reducible assumption | intro _ | with_reducible apply keeps_setLg | with_reducible apply keeps_bump | with_reducible apply keeps_sendBlock | with_reducible refine keeps_ite ?_ ?_ | split | dsimp only)

theorem keeps_spareSlot (s : State) (p : Nat) (hκ : Keeps κ s) : Keeps κ (spareSlot s p) := by
  unfold spareSlot
  repeat' (first | with_reducible assumption | intro _ | with_reducible apply keeps_setLg | with_reducible apply keeps_sendSwitch | with_reducible apply keeps_spareOwnSlot | with_reducible refine keeps_ite ?_ ?_)

theorem keeps_dropWaiter (s : State) (i : Nat) (hκ : Keeps κ s) : Keeps κ (dropWaiter s i) := by
  unfold dropWaiter
  repeat' (first | with_reducible assumption | intro _ | split | dsimp only | (refine keeps_of_parts ?_; dsimp only; with_reducible (first | refine keeps_parts ?_ | refine keepsParts_vat ?_ _ _ | refine keepsParts_cellar ?_ _ _ | refine keepsParts_vatFilter ?_ _)))

theorem keeps_serveHeld (s : State) (p : Nat) (hκ : Keeps κ s) : Keeps κ (serveHeld s p) := by
  unfold serveHeld
  repeat' (first | with_reducible assumption | intro _ | with_reducible apply keeps_settle | with_reducible apply keeps_placeOut | with_reducible apply keeps_dropWaiter | split)

theorem keeps_frameSlot (s : State) (p : Nat) (hκ : Keeps κ s) : Keeps κ (frameSlot s p) := by
  unfold frameSlot
  repeat' (first | with_reducible assumption | intro _ | with_reducible apply keeps_spareSlot | with_reducible apply keeps_sendFrame | with_reducible apply keeps_onActive | with_reducible apply keeps_serveHeld | with_reducible apply keeps_settle | with_reducible apply keeps_shapers | with_reducible apply keeps_slotSend | with_reducible refine keeps_ite ?_ ?_)

theorem keeps_execFrameSlot (port : Nat) (s : State) (hκ : Keeps κ s) : KeepsOut κ (execFrameSlot port s) := by
  unfold execFrameSlot
  repeat' (first | with_reducible assumption | with_reducible refine keepsOut_next ?_ | with_reducible refine keepsOut_onUnit ?_ | intro _ | with_reducible apply keeps_frameSlot | with_reducible apply keeps_recordsLeft | with_reducible refine keeps_ite ?_ ?_)

theorem keeps_requeueOne (s : State) (p : Nat) (o : OutPacket) (hκ : Keeps κ s) : Keeps κ (requeueOne s p o) := by
  unfold requeueOne
  repeat' (first | with_reducible assumption | intro _ | with_reducible apply keeps_enqueue | with_reducible apply keeps_bump | with_reducible apply keeps_releaseOut | split)

theorem keeps_rerouteWaiter (s : State) (p : Nat) (w : Waiter) (hκ : Keeps κ s) : Keeps κ (rerouteWaiter s p w) := by
  unfold rerouteWaiter
  repeat' (first | with_reducible assumption | intro _ | with_reducible apply keeps_loseRoute | with_reducible apply keeps_addWaiter | with_reducible refine keeps_foldl ?_ ?_ _ | with_reducible refine keeps_foldlFst ?_ ?_ _ | with_reducible refine keeps_ite ?_ ?_ | split | dsimp only)

theorem keeps_egressRequeue (s : State) (p : Nat) (hκ : Keeps κ s) : Keeps κ (egressRequeue s p) := by
  unfold egressRequeue
  repeat' (first | with_reducible assumption | intro _ | with_reducible apply keeps_setPort | with_reducible apply keeps_afterColl | with_reducible apply keeps_settleAll | with_reducible apply keeps_settle | with_reducible apply keeps_rerouteWaiter | with_reducible apply keeps_requeueOne | with_reducible refine keeps_foldl ?_ ?_ _ | with_reducible refine keeps_foldlFst ?_ ?_ _ | split | dsimp only | (refine keeps_of_parts ?_; dsimp only; with_reducible (first | refine keeps_parts ?_ | refine keepsParts_vat ?_ _ _ | refine keepsParts_cellar ?_ _ _ | refine keepsParts_vatFilter ?_ _)))

theorem keeps_execEgressRequeue (port : Nat) (s : State) (hκ : Keeps κ s) : KeepsOut κ (execEgressRequeue port s) := by
  unfold execEgressRequeue
  repeat' (first | with_reducible assumption | with_reducible refine keepsOut_next ?_ | with_reducible refine keepsOut_onUnit ?_ | intro _ | with_reducible apply keeps_egressRequeue | with_reducible apply keeps_whenLive | with_reducible apply keeps_recordsLeft)

theorem keeps_localFailover (s : State) (p : Nat) (hκ : Keeps κ s) : Keeps κ (localFailover s p) := by
  unfold localFailover
  repeat' (first | with_reducible assumption | intro _ | with_reducible apply keeps_bump | with_reducible refine keeps_ite ?_ ?_)

theorem keeps_execLocalFailover (port : Nat) (s : State) (hκ : Keeps κ s) : KeepsOut κ (execLocalFailover port s) := by
  unfold execLocalFailover
  repeat' (first | with_reducible assumption | with_reducible refine keepsOut_next ?_ | with_reducible refine keepsOut_onUnit ?_ | intro _ | with_reducible apply keeps_localFailover | with_reducible apply keeps_whenLive)

theorem keeps_toEscape (s : State) (w : Waiter) (hκ : Keeps κ s) : Keeps κ (toEscape s w) := by
  unfold toEscape
  repeat' (first | with_reducible assumption | intro _ | with_reducible apply keeps_loseRoute | with_reducible apply keeps_settle | with_reducible apply keeps_placeOut | with_reducible apply keeps_holdOut | split)

theorem keeps_bulkEscapeWait (s : State) (p vc : Nat) (hκ : Keeps κ s) : Keeps κ (bulkEscapeWait s p vc) := by
  unfold bulkEscapeWait
  repeat' (first | with_reducible assumption | intro _ | with_reducible apply keeps_toEscape | with_reducible apply keeps_bump64 | with_reducible apply keeps_dropWaiter | split)

theorem keeps_execBulkEscapeWait (port vc : Nat) (s : State) (hκ : Keeps κ s) : KeepsOut κ (execBulkEscapeWait port vc s) := by
  unfold execBulkEscapeWait
  repeat' (first | with_reducible assumption | with_reducible refine keepsOut_next ?_ | with_reducible refine keepsOut_onUnit ?_ | intro _ | with_reducible apply keeps_bulkEscapeWait | with_reducible apply keeps_whenLive)

theorem keeps_escapeProceed (s : State) (p vc : Nat) (hκ : Keeps κ s) : Keeps κ (escapeProceed s p vc) := by
  unfold escapeProceed
  repeat' (first | with_reducible assumption | intro _ | with_reducible apply keeps_toEscape | with_reducible apply keeps_dropWaiter | split)

theorem keeps_execEscapeProceed (port vc : Nat) (s : State) (hκ : Keeps κ s) : KeepsOut κ (execEscapeProceed port vc s) := by
  unfold execEscapeProceed
  repeat' (first | with_reducible assumption | with_reducible refine keepsOut_next ?_ | with_reducible refine keepsOut_onUnit ?_ | intro _ | with_reducible apply keeps_escapeProceed | with_reducible apply keeps_whenLive)

theorem keeps_dropStalled (s : State) (q p vc n : Nat) (hκ : Keeps κ s) : Keeps κ (dropStalled s q p vc n) := by
  unfold dropStalled
  repeat' (first | with_reducible assumption | intro _ | with_reducible apply keeps_releaseOut | with_reducible apply keeps_setPort | with_reducible refine keeps_ite ?_ ?_ | split)

theorem keeps_dropWaiting (s : State) (p vc n : Nat) (hκ : Keeps κ s) : Keeps κ (dropWaiting s p vc n) := by
  unfold dropWaiting
  repeat' (first | with_reducible assumption | intro _ | with_reducible apply keeps_settle | with_reducible apply keeps_releaseOut | with_reducible apply keeps_dropWaiter | split)

theorem keeps_stallTimeout (s : State) (p vc : Nat) (hκ : Keeps κ s) : Keeps κ (stallTimeout s p vc) := by
  unfold stallTimeout
  repeat' (first | with_reducible assumption | intro _ | with_reducible apply keeps_raiseFault | with_reducible apply keeps_bump | with_reducible apply keeps_dropStalled | with_reducible apply keeps_dropWaiting | with_reducible apply keeps_setPort | split | dsimp only)

theorem keeps_execStallTimeout (port vc : Nat) (s : State) (hκ : Keeps κ s) : KeepsOut κ (execStallTimeout port vc s) := by
  unfold execStallTimeout
  repeat' (first | with_reducible assumption | with_reducible refine keepsOut_next ?_ | with_reducible refine keepsOut_onUnit ?_ | intro _ | with_reducible apply keeps_stallTimeout | with_reducible apply keeps_whenLive | with_reducible apply keeps_recordsLeft)

theorem keeps_fwResult (s : State) (r : Nat) (hκ : Keeps κ s) : Keeps κ (fwResult s r) := by
  unfold fwResult
  repeat' (first | with_reducible assumption | intro _ | with_reducible apply keeps_wr)

theorem keeps_setSlotState (s : State) (k st : Nat) (hκ : Keeps κ s) : Keeps κ (setSlotState s k st) := by
  unfold setSlotState
  repeat' (first | with_reducible assumption | intro _ | with_reducible apply keeps_setFwSlot)

theorem keeps_makeActive (s : State) (k st : Nat) (hκ : Keeps κ s) : Keeps κ (makeActive s k st) := by
  unfold makeActive
  repeat' (first | with_reducible assumption | intro _ | with_reducible apply keeps_setFwSlot | split | dsimp only | (refine keeps_of_parts ?_; dsimp only; with_reducible (first | refine keeps_parts ?_ | refine keepsParts_vat ?_ _ _ | refine keepsParts_cellar ?_ _ _ | refine keepsParts_vatFilter ?_ _)))

theorem keeps_loafImageApply (s : State) (img : List Byte) (hκ : Keeps κ s) : Keeps κ (loafImageApply s img) := by
  unfold loafImageApply
  repeat' (first | with_reducible assumption | intro _ | with_reducible apply keeps_setFwSlot | with_reducible apply keeps_fwResult | split | dsimp only | (refine keeps_of_parts ?_; dsimp only; with_reducible (first | refine keeps_parts ?_ | refine keepsParts_vat ?_ _ _ | refine keepsParts_cellar ?_ _ _ | refine keepsParts_vatFilter ?_ _)))

theorem keeps_execLoafImageWrite (src : Source) (image : List Byte) (s : State) (hκ : Keeps κ s) : KeepsOut κ (execLoafImageWrite src image s) := by
  unfold execLoafImageWrite
  repeat' (first | with_reducible assumption | with_reducible refine keepsOut_next ?_ | with_reducible refine keepsOut_onUnit ?_ | intro _ | with_reducible apply keeps_whenWritten | with_reducible apply keeps_loafImageApply)

theorem keeps_loafProgramDone (s : State) (signatureOk : Bool) (hκ : Keeps κ s) : Keeps κ (loafProgramDone s signatureOk) := by
  unfold loafProgramDone
  repeat' (first | with_reducible assumption | intro _ | with_reducible apply keeps_setSlotState | with_reducible apply keeps_fwResult | with_reducible refine keeps_ite ?_ ?_ | split | dsimp only | (refine keeps_of_parts ?_; dsimp only; with_reducible (first | refine keeps_parts ?_ | refine keepsParts_vat ?_ _ _ | refine keepsParts_cellar ?_ _ _ | refine keepsParts_vatFilter ?_ _)))

theorem keeps_execLoafProgramDone (signatureOk : Bool) (s : State) (hκ : Keeps κ s) : KeepsOut κ (execLoafProgramDone signatureOk s) := by
  unfold execLoafProgramDone
  repeat' (first | with_reducible assumption | with_reducible refine keepsOut_next ?_ | with_reducible refine keepsOut_onUnit ?_ | intro _ | with_reducible apply keeps_whenLive | with_reducible apply keeps_loafProgramDone | with_reducible refine keeps_ite ?_ ?_)

theorem keeps_fwVerify (s : State) (signatureOk : Bool) (hκ : Keeps κ s) : Keeps κ (fwVerify s signatureOk) := by
  unfold fwVerify
  repeat' (first | with_reducible assumption | intro _ | with_reducible apply keeps_fwResult | with_reducible apply keeps_setSlotState | with_reducible refine keeps_ite ?_ ?_)

theorem keeps_fwActivateLive (s : State) (hκ : Keeps κ s) : Keeps κ (fwActivateLive s) := by
  unfold fwActivateLive
  repeat' (first | with_reducible assumption | intro _ | with_reducible apply keeps_fwResult | with_reducible apply keeps_wr | with_reducible refine keeps_ite ?_ ?_ | split | dsimp only | (refine keeps_of_parts ?_; dsimp only; with_reducible (first | refine keeps_parts ?_ | refine keepsParts_vat ?_ _ _ | refine keepsParts_cellar ?_ _ _ | refine keepsParts_vatFilter ?_ _)))

theorem keeps_fwActivateAtReset (s : State) (hκ : Keeps κ s) : Keeps κ (fwActivateAtReset s) := by
  unfold fwActivateAtReset
  repeat' (first | with_reducible assumption | intro _ | with_reducible apply keeps_fwResult | with_reducible apply keeps_makeActive | with_reducible apply keeps_setSlotState | with_reducible refine keeps_ite ?_ ?_)

theorem keeps_fwConfirm (s : State) (hκ : Keeps κ s) : Keeps κ (fwConfirm s) := by
  unfold fwConfirm
  dsimp only
  refine keeps_ite (keeps_fwResult _ _ hκ) ?_
  have h0 := keeps_setSlotState s s.fw.running 4 hκ
  generalize setSlotState s s.fw.running 4 = w at h0
  have h1 : ∀ (n : Nat) (b : BitVec 4), Keeps κ { w with fw := { w.fw with rollback := max w.fw.rollback n, revokedFirmware := w.fw.revokedFirmware ||| b } } := by
    intro n b
    refine keeps_of_parts { keeps_parts h0 with rises := le_trans h0.rises (le_max_left _ _), stays := ?_ }
    have hs := h0.stays
    refine BitVec.eq_of_getLsbD_eq fun i hi => ?_
    have := congrArg (fun x => BitVec.getLsbD x i) hs
    simp only [BitVec.getLsbD_and, BitVec.getLsbD_or] at this ⊢
    cases hr : κ.revoked.getLsbD i <;> simp_all
  exact keeps_fwResult _ _ (keeps_ite (keeps_setSlotState _ _ _ (h1 _ _)) (h1 _ _))

theorem keeps_fwReject (s : State) (hκ : Keeps κ s) : Keeps κ (fwReject s) := by
  unfold fwReject
  repeat' (first | with_reducible assumption | intro _ | with_reducible apply keeps_fwResult | with_reducible apply keeps_makeActive | with_reducible apply keeps_setSlotState | with_reducible refine keeps_ite ?_ ?_)

theorem keeps_fwCommand (s : State) (v : Nat) (signatureOk : Bool) (hκ : Keeps κ s) : Keeps κ (fwCommand s v signatureOk) := by
  unfold fwCommand
  repeat' (first | with_reducible assumption | intro _ | with_reducible apply keeps_fwResult | with_reducible apply keeps_fwVerify | with_reducible apply keeps_fwActivateLive | with_reducible apply keeps_fwActivateAtReset | with_reducible apply keeps_fwConfirm | with_reducible apply keeps_fwReject | with_reducible refine keeps_ite ?_ ?_ | split)

theorem keeps_fwWrite (src : Source) (v : Nat) (signatureOk : Bool) (s : State) (hκ : Keeps κ s) : Keeps κ (fwWrite src v signatureOk s) := by
  unfold fwWrite
  repeat' (first | with_reducible assumption | intro _ | with_reducible apply keeps_whenWritten | with_reducible apply keeps_fwCommand)

theorem keeps_execVerify (src : Source) (signatureOk : Bool) (s : State) (hκ : Keeps κ s) : KeepsOut κ (execVerify src signatureOk s) := by
  unfold execVerify
  repeat' (first | with_reducible assumption | with_reducible refine keepsOut_next ?_ | with_reducible refine keepsOut_onUnit ?_ | intro _ | with_reducible apply keeps_fwWrite)

theorem keeps_execActivateLive (src : Source) (s : State) (hκ : Keeps κ s) : KeepsOut κ (execActivateLive src s) := by
  unfold execActivateLive
  repeat' (first | with_reducible assumption | with_reducible refine keepsOut_next ?_ | with_reducible refine keepsOut_onUnit ?_ | intro _ | with_reducible apply keeps_fwWrite)

theorem keeps_execActivateAtReset (src : Source) (s : State) (hκ : Keeps κ s) : KeepsOut κ (execActivateAtReset src s) := by
  unfold execActivateAtReset
  repeat' (first | with_reducible assumption | with_reducible refine keepsOut_next ?_ | with_reducible refine keepsOut_onUnit ?_ | intro _ | with_reducible apply keeps_fwWrite)

theorem keeps_execConfirm (src : Source) (s : State) (hκ : Keeps κ s) : KeepsOut κ (execConfirm src s) := by
  unfold execConfirm
  repeat' (first | with_reducible assumption | with_reducible refine keepsOut_next ?_ | with_reducible refine keepsOut_onUnit ?_ | intro _ | with_reducible apply keeps_fwWrite)

theorem keeps_execReject (src : Source) (s : State) (hκ : Keeps κ s) : KeepsOut κ (execReject src s) := by
  unfold execReject
  repeat' (first | with_reducible assumption | with_reducible refine keepsOut_next ?_ | with_reducible refine keepsOut_onUnit ?_ | intro _ | with_reducible apply keeps_fwWrite)

theorem keeps_liveFinish (s : State) (hκ : Keeps κ s) : Keeps κ (liveFinish s) := by
  unfold liveFinish
  repeat' (first | with_reducible assumption | intro _ | with_reducible apply keeps_makeActive | with_reducible apply keeps_setSlotState | with_reducible apply keeps_loafDigest | with_reducible apply keeps_showLevels | with_reducible apply keeps_extendMeasure | with_reducible apply keeps_proofNext | with_reducible apply keeps_wr | with_reducible apply keeps_fwResult | with_reducible apply keeps_bump | split | dsimp only | (refine keeps_of_parts ?_; dsimp only; with_reducible (first | refine keeps_parts ?_ | refine keepsParts_vat ?_ _ _ | refine keepsParts_cellar ?_ _ _ | refine keepsParts_vatFilter ?_ _)))

theorem keeps_liveUpdateGroupDone (s : State) (started : Bool) (hκ : Keeps κ s) : Keeps κ (liveUpdateGroupDone s started) := by
  unfold liveUpdateGroupDone
  repeat' (first | with_reducible assumption | intro _ | with_reducible apply keeps_proofNext | with_reducible apply keeps_liveRevert | with_reducible apply keeps_wr | with_reducible apply keeps_liveFinish | with_reducible refine keeps_ite ?_ ?_ | split | dsimp only | (refine keeps_of_parts ?_; dsimp only; with_reducible (first | refine keeps_parts ?_ | refine keepsParts_vat ?_ _ _ | refine keepsParts_cellar ?_ _ _ | refine keepsParts_vatFilter ?_ _)))

theorem keeps_execLiveUpdateGroupDone (started : Bool) (s : State) (hκ : Keeps κ s) : KeepsOut κ (execLiveUpdateGroupDone started s) := by
  unfold execLiveUpdateGroupDone
  repeat' (first | with_reducible assumption | with_reducible refine keepsOut_next ?_ | with_reducible refine keepsOut_onUnit ?_ | intro _ | with_reducible apply keeps_whenLive | with_reducible apply keeps_liveUpdateGroupDone)

theorem keeps_attestApply (s : State) (nonce : List Byte) (hκ : Keeps κ s) : Keeps κ (attestApply s nonce) := by
  unfold attestApply
  repeat' (first | with_reducible assumption | intro _ | with_reducible apply keeps_drawBytes | with_reducible apply keeps_setBlob)

theorem keeps_execAttestNonceWrite (src : Source) (nonce : List Byte) (s : State) (hκ : Keeps κ s) : KeepsOut κ (execAttestNonceWrite src nonce s) := by
  unfold execAttestNonceWrite
  repeat' (first | with_reducible assumption | with_reducible refine keepsOut_next ?_ | with_reducible refine keepsOut_onUnit ?_ | intro _ | with_reducible apply keeps_whenWritten | with_reducible apply keeps_attestApply)

theorem keeps_sendRecord (s : State) (h : Header) (r : BitVec 512) (hκ : Keeps κ s) : Keeps κ (sendRecord s h r) := by
  unfold sendRecord
  repeat' (first | with_reducible assumption | intro _ | with_reducible apply keeps_sendPacket)

theorem keeps_refuseInvoke (s : State) (h : Header) (status : Nat) (hκ : Keeps κ s) : Keeps κ (refuseInvoke s h status) := by
  unfold refuseInvoke
  repeat' (first | with_reducible assumption | intro _ | with_reducible apply keeps_sendRecord | with_reducible apply keeps_bump)

theorem keeps_workArea (s : State) (r : Recipe) (hκ : Keeps κ s) : ∀ a b c t, workArea s r = some (a, b, c, t) → Keeps κ t := by
  intro a b c t
  unfold workArea
  split
  · simp
  · rename_i e1
    have h1 := keeps_allocSlabs _ _ hκ _ _ e1
    split
    · simp
    · rename_i e2
      have h2 := keeps_allocSlabs _ _ h1 _ _ e2
      split
      · simp
      · rename_i e3
        rintro ⟨⟩
        exact keeps_clearSlabs _ _ _ (keeps_clearSlabs _ _ _ (keeps_clearSlabs _ _ _ (keeps_allocSlabs _ _ h2 _ _ e3)))

theorem keeps_badInput (s : State) (i : Nat) (hκ : Keeps κ s) : Keeps κ (badInput s i) := by
  unfold badInput
  repeat' (first | with_reducible assumption | intro _ | with_reducible apply keeps_endInv)

theorem keeps_takeInput (s : State) (i : Nat) (h : Header) (whole : Nat) (pay : List Byte) (hκ : Keeps κ s) : Keeps κ (takeInput s i h whole pay) := by
  unfold takeInput
  repeat' (first | with_reducible assumption | intro _ | with_reducible apply keeps_badInput | with_reducible apply keeps_vatPut | with_reducible apply keeps_setInv | with_reducible apply keeps_modInv | with_reducible refine keeps_ite ?_ ?_ | split | dsimp only | (refine keeps_of_parts ?_; dsimp only; with_reducible (first | refine keeps_parts ?_ | refine keepsParts_vat ?_ _ _ | refine keepsParts_cellar ?_ _ _ | refine keepsParts_vatFilter ?_ _)))

theorem keeps_admitInvoke (s : State) (p : Nat) (pkt : Packet) (r : Recipe) (i : Nat) (a b c : Nat) (hκ : Keeps κ s) : Keeps κ (admitInvoke s p pkt r i a b c) := by
  unfold admitInvoke
  repeat' (first | with_reducible assumption | intro _ | with_reducible apply keeps_setInv | with_reducible apply keeps_bump64 | with_reducible apply keeps_badInput | with_reducible apply keeps_bump | with_reducible apply keeps_takeInput | with_reducible refine keeps_ite ?_ ?_ | split | dsimp only | (refine keeps_of_parts ?_; dsimp only; with_reducible (first | refine keeps_parts ?_ | refine keepsParts_vat ?_ _ _ | refine keepsParts_cellar ?_ _ _ | refine keepsParts_vatFilter ?_ _)))

theorem keeps_newInvoke (s : State) (p : Nat) (pkt : Packet) (hκ : Keeps κ s) : Keeps κ (newInvoke s p pkt) := by
  unfold newInvoke
  repeat' (first | with_reducible assumption | intro _ | with_reducible apply keeps_refuseInvoke | with_reducible refine keeps_workArea _ _ ?_ _ _ _ _ (by with_reducible assumption) | with_reducible apply keeps_admitInvoke | with_reducible refine keeps_ite ?_ ?_ | split)

theorem keeps_invokeReceived (s : State) (p : Nat) (pkt : Packet) (hκ : Keeps κ s) : Keeps κ (invokeReceived s p pkt) := by
  unfold invokeReceived
  repeat' (first | with_reducible assumption | intro _ | with_reducible apply keeps_takeInbox | with_reducible apply keeps_modInv | with_reducible apply keeps_bump | with_reducible apply keeps_sendRecord | with_reducible apply keeps_newInvoke | with_reducible refine keeps_ite ?_ ?_ | split | dsimp only)

theorem keeps_invokePacketReceived (s : State) (p : Nat) (pkt : Packet) (hκ : Keeps κ s) : Keeps κ (invokePacketReceived s p pkt) := by
  unfold invokePacketReceived
  repeat' (first | with_reducible assumption | intro _ | with_reducible apply keeps_takeInbox | with_reducible apply keeps_bump | with_reducible apply keeps_badInput | with_reducible apply keeps_takeInput | with_reducible refine keeps_ite ?_ ?_ | split | dsimp only)

theorem keeps_recipeInputTimeout (s : State) (i : Nat) (hκ : Keeps κ s) : Keeps κ (recipeInputTimeout s i) := by
  unfold recipeInputTimeout
  repeat' (first | with_reducible assumption | intro _ | with_reducible apply keeps_badInput | with_reducible refine keeps_ite ?_ ?_ | split)

theorem keeps_invocationStart (s : State) (i : Nat) (hκ : Keeps κ s) : Keeps κ (invocationStart s i) := by
  unfold invocationStart
  repeat' (first | with_reducible assumption | intro _ | with_reducible apply keeps_modInv | with_reducible refine keeps_ite ?_ ?_ | split | dsimp only | (refine keeps_of_parts ?_; dsimp only; with_reducible (first | refine keeps_parts ?_ | refine keepsParts_vat ?_ _ _ | refine keepsParts_cellar ?_ _ _ | refine keepsParts_vatFilter ?_ _)))

theorem keeps_execInvokeReceived (port : Nat) (pkt : Packet) (s : State) (hκ : Keeps κ s) : KeepsOut κ (execInvokeReceived port pkt s) := by
  unfold execInvokeReceived
  repeat' (first | with_reducible assumption | with_reducible refine keepsOut_next ?_ | with_reducible refine keepsOut_onUnit ?_ | intro _ | with_reducible apply keeps_invokeReceived | with_reducible apply keeps_whenLive | with_reducible apply keeps_clearTaken)

theorem keeps_execInvokePacketReceived (port : Nat) (pkt : Packet) (s : State) (hκ : Keeps κ s) : KeepsOut κ (execInvokePacketReceived port pkt s) := by
  unfold execInvokePacketReceived
  repeat' (first | with_reducible assumption | with_reducible refine keepsOut_next ?_ | with_reducible refine keepsOut_onUnit ?_ | intro _ | with_reducible apply keeps_invokePacketReceived | with_reducible apply keeps_whenLive | with_reducible apply keeps_clearTaken)

theorem keeps_execRecipeInputTimeout (inv : Nat) (s : State) (hκ : Keeps κ s) : KeepsOut κ (execRecipeInputTimeout inv s) := by
  unfold execRecipeInputTimeout
  repeat' (first | with_reducible assumption | with_reducible refine keepsOut_next ?_ | with_reducible refine keepsOut_onUnit ?_ | intro _ | with_reducible apply keeps_whenLive | with_reducible apply keeps_recipeInputTimeout)

theorem keeps_execInvocationStart (inv : Nat) (s : State) (hκ : Keeps κ s) : KeepsOut κ (execInvocationStart inv s) := by
  unfold execInvocationStart
  repeat' (first | with_reducible assumption | with_reducible refine keepsOut_next ?_ | with_reducible refine keepsOut_onUnit ?_ | intro _ | with_reducible apply keeps_whenLive | with_reducible apply keeps_invocationStart)

theorem keeps_stepCommand (ok : BitVec 128 → Bool) (s : State) (i : Nat) (hκ : Keeps κ s) : Keeps κ (stepCommand ok s i) := by
  unfold stepCommand
  repeat' (first | with_reducible assumption | intro _ | with_reducible apply keeps_resume | with_reducible apply keeps_runStep | with_reducible refine keeps_ite ?_ ?_ | split)

theorem keeps_execMatmulForward (inv : Nat) (s : State) (hκ : Keeps κ s) : KeepsOut κ (execMatmulForward inv s) := by
  unfold execMatmulForward
  repeat' (first | with_reducible assumption | with_reducible refine keepsOut_next ?_ | with_reducible refine keepsOut_onUnit ?_ | intro _ | with_reducible apply keeps_whenLive | with_reducible apply keeps_stepCommand)

theorem keeps_execMatmulBackwardPair (inv : Nat) (s : State) (hκ : Keeps κ s) : KeepsOut κ (execMatmulBackwardPair inv s) := by
  unfold execMatmulBackwardPair
  repeat' (first | with_reducible assumption | with_reducible refine keepsOut_next ?_ | with_reducible refine keepsOut_onUnit ?_ | intro _ | with_reducible apply keeps_whenLive | with_reducible apply keeps_stepCommand)

theorem keeps_execTopk (inv : Nat) (s : State) (hκ : Keeps κ s) : KeepsOut κ (execTopk inv s) := by
  unfold execTopk
  repeat' (first | with_reducible assumption | with_reducible refine keepsOut_next ?_ | with_reducible refine keepsOut_onUnit ?_ | intro _ | with_reducible apply keeps_whenLive | with_reducible apply keeps_stepCommand)

theorem keeps_execSoftmax (inv : Nat) (s : State) (hκ : Keeps κ s) : KeepsOut κ (execSoftmax inv s) := by
  unfold execSoftmax
  repeat' (first | with_reducible assumption | with_reducible refine keepsOut_next ?_ | with_reducible refine keepsOut_onUnit ?_ | intro _ | with_reducible apply keeps_whenLive | with_reducible apply keeps_stepCommand)

theorem keeps_execNormRms (inv : Nat) (s : State) (hκ : Keeps κ s) : KeepsOut κ (execNormRms inv s) := by
  unfold execNormRms
  repeat' (first | with_reducible assumption | with_reducible refine keepsOut_next ?_ | with_reducible refine keepsOut_onUnit ?_ | intro _ | with_reducible apply keeps_whenLive | with_reducible apply keeps_stepCommand)

theorem keeps_execNormLayer (inv : Nat) (s : State) (hκ : Keeps κ s) : KeepsOut κ (execNormLayer inv s) := by
  unfold execNormLayer
  repeat' (first | with_reducible assumption | with_reducible refine keepsOut_next ?_ | with_reducible refine keepsOut_onUnit ?_ | intro _ | with_reducible apply keeps_whenLive | with_reducible apply keeps_stepCommand)

theorem keeps_execScaleMul (inv : Nat) (s : State) (hκ : Keeps κ s) : KeepsOut κ (execScaleMul inv s) := by
  unfold execScaleMul
  repeat' (first | with_reducible assumption | with_reducible refine keepsOut_next ?_ | with_reducible refine keepsOut_onUnit ?_ | intro _ | with_reducible apply keeps_whenLive | with_reducible apply keeps_stepCommand)

theorem keeps_execScaleRowvec (inv : Nat) (s : State) (hκ : Keeps κ s) : KeepsOut κ (execScaleRowvec inv s) := by
  unfold execScaleRowvec
  repeat' (first | with_reducible assumption | with_reducible refine keepsOut_next ?_ | with_reducible refine keepsOut_onUnit ?_ | intro _ | with_reducible apply keeps_whenLive | with_reducible apply keeps_stepCommand)

theorem keeps_execScaleColvec (inv : Nat) (s : State) (hκ : Keeps κ s) : KeepsOut κ (execScaleColvec inv s) := by
  unfold execScaleColvec
  repeat' (first | with_reducible assumption | with_reducible refine keepsOut_next ?_ | with_reducible refine keepsOut_onUnit ?_ | intro _ | with_reducible apply keeps_whenLive | with_reducible apply keeps_stepCommand)

theorem keeps_execScaleRelu (inv : Nat) (s : State) (hκ : Keeps κ s) : KeepsOut κ (execScaleRelu inv s) := by
  unfold execScaleRelu
  repeat' (first | with_reducible assumption | with_reducible refine keepsOut_next ?_ | with_reducible refine keepsOut_onUnit ?_ | intro _ | with_reducible apply keeps_whenLive | with_reducible apply keeps_stepCommand)

theorem keeps_execScaleSilu (inv : Nat) (s : State) (hκ : Keeps κ s) : KeepsOut κ (execScaleSilu inv s) := by
  unfold execScaleSilu
  repeat' (first | with_reducible assumption | with_reducible refine keepsOut_next ?_ | with_reducible refine keepsOut_onUnit ?_ | intro _ | with_reducible apply keeps_whenLive | with_reducible apply keeps_stepCommand)

theorem keeps_execAddStep (inv : Nat) (s : State) (hκ : Keeps κ s) : KeepsOut κ (execAddStep inv s) := by
  unfold execAddStep
  repeat' (first | with_reducible assumption | with_reducible refine keepsOut_next ?_ | with_reducible refine keepsOut_onUnit ?_ | intro _ | with_reducible apply keeps_whenLive | with_reducible apply keeps_stepCommand)

theorem keeps_execSubStep (inv : Nat) (s : State) (hκ : Keeps κ s) : KeepsOut κ (execSubStep inv s) := by
  unfold execSubStep
  repeat' (first | with_reducible assumption | with_reducible refine keepsOut_next ?_ | with_reducible refine keepsOut_onUnit ?_ | intro _ | with_reducible apply keeps_whenLive | with_reducible apply keeps_stepCommand)

theorem keeps_execMulStep (inv : Nat) (s : State) (hκ : Keeps κ s) : KeepsOut κ (execMulStep inv s) := by
  unfold execMulStep
  repeat' (first | with_reducible assumption | with_reducible refine keepsOut_next ?_ | with_reducible refine keepsOut_onUnit ?_ | intro _ | with_reducible apply keeps_whenLive | with_reducible apply keeps_stepCommand)

theorem keeps_execConvert (inv : Nat) (s : State) (hκ : Keeps κ s) : KeepsOut κ (execConvert inv s) := by
  unfold execConvert
  repeat' (first | with_reducible assumption | with_reducible refine keepsOut_next ?_ | with_reducible refine keepsOut_onUnit ?_ | intro _ | with_reducible apply keeps_whenLive | with_reducible apply keeps_stepCommand)

theorem keeps_execStageIn (inv : Nat) (s : State) (hκ : Keeps κ s) : KeepsOut κ (execStageIn inv s) := by
  unfold execStageIn
  repeat' (first | with_reducible assumption | with_reducible refine keepsOut_next ?_ | with_reducible refine keepsOut_onUnit ?_ | intro _ | with_reducible apply keeps_whenLive | with_reducible apply keeps_stepCommand)

theorem keeps_execStageOut (inv : Nat) (s : State) (hκ : Keeps κ s) : KeepsOut κ (execStageOut inv s) := by
  unfold execStageOut
  repeat' (first | with_reducible assumption | with_reducible refine keepsOut_next ?_ | with_reducible refine keepsOut_onUnit ?_ | intro _ | with_reducible apply keeps_whenLive | with_reducible apply keeps_stepCommand)

theorem keeps_execDispatch (inv : Nat) (s : State) (hκ : Keeps κ s) : KeepsOut κ (execDispatch inv s) := by
  unfold execDispatch
  repeat' (first | with_reducible assumption | with_reducible refine keepsOut_next ?_ | with_reducible refine keepsOut_onUnit ?_ | intro _ | with_reducible apply keeps_whenLive | with_reducible apply keeps_stepCommand)

theorem keeps_execCombine (inv : Nat) (s : State) (hκ : Keeps κ s) : KeepsOut κ (execCombine inv s) := by
  unfold execCombine
  repeat' (first | with_reducible assumption | with_reducible refine keepsOut_next ?_ | with_reducible refine keepsOut_onUnit ?_ | intro _ | with_reducible apply keeps_whenLive | with_reducible apply keeps_stepCommand)

theorem keeps_execReduceInit (inv : Nat) (s : State) (hκ : Keeps κ s) : KeepsOut κ (execReduceInit inv s) := by
  unfold execReduceInit
  repeat' (first | with_reducible assumption | with_reducible refine keepsOut_next ?_ | with_reducible refine keepsOut_onUnit ?_ | intro _ | with_reducible apply keeps_whenLive | with_reducible apply keeps_stepCommand)

theorem keeps_execReduceAccumulate (inv : Nat) (s : State) (hκ : Keeps κ s) : KeepsOut κ (execReduceAccumulate inv s) := by
  unfold execReduceAccumulate
  repeat' (first | with_reducible assumption | with_reducible refine keepsOut_next ?_ | with_reducible refine keepsOut_onUnit ?_ | intro _ | with_reducible apply keeps_whenLive | with_reducible apply keeps_stepCommand)

theorem keeps_execReduceRows (inv : Nat) (s : State) (hκ : Keeps κ s) : KeepsOut κ (execReduceRows inv s) := by
  unfold execReduceRows
  repeat' (first | with_reducible assumption | with_reducible refine keepsOut_next ?_ | with_reducible refine keepsOut_onUnit ?_ | intro _ | with_reducible apply keeps_whenLive | with_reducible apply keeps_stepCommand)

theorem keeps_execUpdateSgdM (inv : Nat) (s : State) (hκ : Keeps κ s) : KeepsOut κ (execUpdateSgdM inv s) := by
  unfold execUpdateSgdM
  repeat' (first | with_reducible assumption | with_reducible refine keepsOut_next ?_ | with_reducible refine keepsOut_onUnit ?_ | intro _ | with_reducible apply keeps_whenLive | with_reducible apply keeps_stepCommand)

theorem keeps_execUpdateAdamw (inv : Nat) (s : State) (hκ : Keeps κ s) : KeepsOut κ (execUpdateAdamw inv s) := by
  unfold execUpdateAdamw
  repeat' (first | with_reducible assumption | with_reducible refine keepsOut_next ?_ | with_reducible refine keepsOut_onUnit ?_ | intro _ | with_reducible apply keeps_whenLive | with_reducible apply keeps_stepCommand)

theorem keeps_execDigestCompute (inv : Nat) (s : State) (hκ : Keeps κ s) : KeepsOut κ (execDigestCompute inv s) := by
  unfold execDigestCompute
  repeat' (first | with_reducible assumption | with_reducible refine keepsOut_next ?_ | with_reducible refine keepsOut_onUnit ?_ | intro _ | with_reducible apply keeps_whenLive | with_reducible apply keeps_stepCommand)

theorem keeps_execDigestCompare (inv : Nat) (s : State) (hκ : Keeps κ s) : KeepsOut κ (execDigestCompare inv s) := by
  unfold execDigestCompare
  repeat' (first | with_reducible assumption | with_reducible refine keepsOut_next ?_ | with_reducible refine keepsOut_onUnit ?_ | intro _ | with_reducible apply keeps_whenLive | with_reducible apply keeps_stepCommand)

theorem keeps_execDigestAuto (inv : Nat) (s : State) (hκ : Keeps κ s) : KeepsOut κ (execDigestAuto inv s) := by
  unfold execDigestAuto
  repeat' (first | with_reducible assumption | with_reducible refine keepsOut_next ?_ | with_reducible refine keepsOut_onUnit ?_ | intro _ | with_reducible apply keeps_whenLive | with_reducible apply keeps_stepCommand)

theorem keeps_execBarrier (inv : Nat) (s : State) (hκ : Keeps κ s) : KeepsOut κ (execBarrier inv s) := by
  unfold execBarrier
  repeat' (first | with_reducible assumption | with_reducible refine keepsOut_next ?_ | with_reducible refine keepsOut_onUnit ?_ | intro _ | with_reducible apply keeps_whenLive | with_reducible apply keeps_stepCommand)

theorem keeps_returnBufferAllocated (s : State) (i : Nat) (hκ : Keeps κ s) : Keeps κ (returnBufferAllocated s i) := by
  unfold returnBufferAllocated
  repeat' (first | with_reducible assumption | intro _ | with_reducible apply keeps_resume | with_reducible apply keeps_runStep | with_reducible refine keeps_ite ?_ ?_ | split)

theorem keeps_updateSlotTaken (s : State) (i : Nat) (hκ : Keeps κ s) : Keeps κ (updateSlotTaken s i) := by
  unfold updateSlotTaken
  repeat' (first | with_reducible assumption | intro _ | with_reducible apply keeps_resume | with_reducible apply keeps_runStep | with_reducible refine keeps_ite ?_ ?_ | split)

theorem keeps_execReturnBufferAllocated (inv : Nat) (s : State) (hκ : Keeps κ s) : KeepsOut κ (execReturnBufferAllocated inv s) := by
  unfold execReturnBufferAllocated
  repeat' (first | with_reducible assumption | with_reducible refine keepsOut_next ?_ | with_reducible refine keepsOut_onUnit ?_ | intro _ | with_reducible apply keeps_whenLive | with_reducible apply keeps_returnBufferAllocated)

theorem keeps_execUpdateSlotTaken (inv : Nat) (s : State) (hκ : Keeps κ s) : KeepsOut κ (execUpdateSlotTaken inv s) := by
  unfold execUpdateSlotTaken
  repeat' (first | with_reducible assumption | with_reducible refine keepsOut_next ?_ | with_reducible refine keepsOut_onUnit ?_ | intro _ | with_reducible apply keeps_whenLive | with_reducible apply keeps_updateSlotTaken)

theorem keeps_execStepComplete (inv : Nat) (s : State) (hκ : Keeps κ s) : KeepsOut κ (execStepComplete inv s) := by
  unfold execStepComplete
  repeat' (first | with_reducible assumption | with_reducible refine keepsOut_next ?_ | with_reducible refine keepsOut_onUnit ?_ | intro _ | with_reducible apply keeps_whenLive | with_reducible apply keeps_stepComplete)

theorem keeps_execRecipeStepTimeout (inv : Nat) (s : State) (hκ : Keeps κ s) : KeepsOut κ (execRecipeStepTimeout inv s) := by
  unfold execRecipeStepTimeout
  repeat' (first | with_reducible assumption | with_reducible refine keepsOut_next ?_ | with_reducible refine keepsOut_onUnit ?_ | intro _ | with_reducible apply keeps_whenLive | with_reducible apply keeps_recipeStepTimeout)

theorem keeps_combineDataReceived (s : State) (p : Nat) (pkt : Packet) (hκ : Keeps κ s) : Keeps κ (combineDataReceived s p pkt) := by
  unfold combineDataReceived
  repeat' (first | with_reducible assumption | intro _ | with_reducible apply keeps_clearTaken | with_reducible apply keeps_resume | with_reducible apply keeps_combineData | with_reducible apply keeps_takeInbox | with_reducible apply keeps_statusFromOutside | with_reducible refine keeps_ite ?_ ?_)

theorem keeps_execCombineDataReceived (port : Nat) (pkt : Packet) (s : State) (hκ : Keeps κ s) : KeepsOut κ (execCombineDataReceived port pkt s) := by
  unfold execCombineDataReceived
  repeat' (first | with_reducible assumption | with_reducible refine keepsOut_next ?_ | with_reducible refine keepsOut_onUnit ?_ | intro _ | with_reducible apply keeps_combineDataReceived | with_reducible apply keeps_whenLive)

theorem keeps_execOwnerWindowFree (inv token slot : Nat) (s : State) (hκ : Keeps κ s) : KeepsOut κ (execOwnerWindowFree inv token slot s) := by
  unfold execOwnerWindowFree
  repeat' (first | with_reducible assumption | with_reducible refine keepsOut_next ?_ | with_reducible refine keepsOut_onUnit ?_ | intro _ | with_reducible apply keeps_whenLive | with_reducible apply keeps_ownerWindowFree)

theorem keeps_execExpertRetry (inv token slot : Nat) (s : State) (hκ : Keeps κ s) : KeepsOut κ (execExpertRetry inv token slot s) := by
  unfold execExpertRetry
  repeat' (first | with_reducible assumption | with_reducible refine keepsOut_next ?_ | with_reducible refine keepsOut_onUnit ?_ | intro _ | with_reducible apply keeps_whenLive | with_reducible apply keeps_expertRetry)

theorem keeps_execExpertReturnTimeout (inv token slot : Nat) (s : State) (hκ : Keeps κ s) : KeepsOut κ (execExpertReturnTimeout inv token slot s) := by
  unfold execExpertReturnTimeout
  repeat' (first | with_reducible assumption | with_reducible refine keepsOut_next ?_ | with_reducible refine keepsOut_onUnit ?_ | intro _ | with_reducible apply keeps_whenLive | with_reducible apply keeps_resume | with_reducible apply keeps_expertReturnTimeout)

end Sys2Proof.Machine
end

