-- ==== Sys2Proof/Laws/KeepsManage.lean ====
section
/-! SUPPORT. What writes, the MDP, the mailbox and time keep: the queue and both memories' canonical form, one lemma per operation. -/
namespace Sys2Proof.Machine

variable {κ : Kept}

theorem keeps_closeSession (s : State) (id : Nat) (hκ : Keeps κ s) : Keeps κ (closeSession s id) :=
  keeps_of_parts (keepsParts_sessions hκ _ (le_trans (List.length_filter_le _ _) hκ.sessionCount))

theorem keeps_closeSlot (s : State) (slot : Nat) (hκ : Keeps κ s) : Keeps κ (closeSlot s slot) := by
  unfold closeSlot
  repeat' (first | with_reducible assumption | intro _ | with_reducible apply keeps_closeSession | with_reducible refine keeps_foldl ?_ ?_ _)

theorem keeps_stageRecipe (s : State) (src : Source) (f : RecipeStage → RecipeStage) (hκ : Keeps κ s) : Keeps κ (stageRecipe s src f) := by
  unfold stageRecipe
  repeat' (first | with_reducible assumption | intro _ | split | dsimp only | (refine keeps_of_parts ?_; dsimp only; with_reducible (first | refine keeps_parts ?_ | refine keepsParts_vat ?_ _ _ | refine keepsParts_cellar ?_ _ _ | refine keepsParts_vatFilter ?_ _)))

theorem keeps_stageStation (s : State) (src : Source) (f : StationStage → StationStage) (hκ : Keeps κ s) : Keeps κ (stageStation s src f) := by
  unfold stageStation
  repeat' (first | with_reducible assumption | intro _ | split | dsimp only | (refine keeps_of_parts ?_; dsimp only; with_reducible (first | refine keeps_parts ?_ | refine keepsParts_vat ?_ _ _ | refine keepsParts_cellar ?_ _ _ | refine keepsParts_vatFilter ?_ _)))

theorem keeps_applyPort (s : State) (a v : Nat) (hκ : Keeps κ s) : Keeps κ (applyPort s a v) := by
  unfold applyPort
  repeat' (first | with_reducible assumption | intro _ | with_reducible apply keeps_expectedEndpointApply | with_reducible apply keeps_bondApply | with_reducible apply keeps_writeReg | with_reducible apply keeps_policerEnableApply | with_reducible apply keeps_policerRateApply | with_reducible apply keeps_policerBurstApply | with_reducible apply keeps_closeSlot | with_reducible apply keeps_pressure | with_reducible apply keeps_commitTables | with_reducible refine keeps_foldl ?_ ?_ _ | with_reducible refine keeps_foldlFst ?_ ?_ _ | with_reducible refine keeps_ite ?_ ?_)

theorem keeps_applyAction (s : State) (src : Source) (a v : Nat) (hκ : Keeps κ s) : Keeps κ (applyAction s src a v) := by
  unfold applyAction
  repeat' (first | with_reducible assumption | intro _ | with_reducible apply keeps_torusSizeCommit | with_reducible apply keeps_fabricAdmit | with_reducible apply keeps_policerWindowApply | with_reducible apply keeps_resume | with_reducible apply keeps_beginInstall | with_reducible apply keeps_beginRemove | with_reducible apply keeps_installRecipe | with_reducible apply keeps_removeRecipe | with_reducible apply keeps_installStation | with_reducible apply keeps_removeStation | with_reducible apply keeps_readyStation | with_reducible apply keeps_reloadStation | with_reducible apply keeps_markPersist | with_reducible apply keeps_stageStation | with_reducible apply keeps_strictApply | with_reducible apply keeps_saveStart | with_reducible apply keeps_restoreStart | with_reducible apply keeps_unfence | with_reducible apply keeps_proofEnqueue | with_reducible apply keeps_proofPeriodApply | with_reducible apply keeps_storeWaiting | with_reducible apply keeps_drawBytes | with_reducible apply keeps_fwCommand | with_reducible apply keeps_applyPort | with_reducible refine keeps_ite ?_ ?_ | split | dsimp only | (refine keeps_of_parts ?_; dsimp only; with_reducible (first | refine keeps_parts ?_ | refine keepsParts_vat ?_ _ _ | refine keepsParts_cellar ?_ _ _ | refine keepsParts_vatFilter ?_ _)))

theorem keeps_applyBytes (s : State) (src : Source) (a : Nat) (v : List Byte) (hκ : Keeps κ s) : Keeps κ (applyBytes s src a v) := by
  unfold applyBytes
  repeat' (first | with_reducible assumption | intro _ | with_reducible apply keeps_markPersist | with_reducible apply keeps_stageRecipe | with_reducible apply keeps_stageStation | with_reducible apply keeps_loafImageApply | with_reducible apply keeps_attestApply | with_reducible apply keeps_closeSlot | with_reducible apply keeps_writeBlob | with_reducible refine keeps_ite ?_ ?_)

theorem keeps_applyWrite (s : State) (src : Source) (a : Nat) (v : List Byte) (hκ : Keeps κ s) : Keeps κ (applyWrite s src a v) := by
  unfold applyWrite
  repeat' (first | with_reducible assumption | intro _ | with_reducible apply keeps_enableWritten | with_reducible apply keeps_disableWritten | with_reducible apply keeps_setScoped | with_reducible apply keeps_applyBytes | with_reducible apply keeps_writeReg | with_reducible apply keeps_applyAction | with_reducible refine keeps_ite ?_ ?_ | split)

theorem keeps_writeItem (s : State) (src : Source) (it : Item) (hκ : Keeps κ s) : Keeps κ (writeItem s src it) := by
  unfold writeItem
  repeat' (first | with_reducible assumption | intro _ | with_reducible apply keeps_applyWrite | with_reducible refine keeps_ite ?_ ?_)

theorem keeps_stageItem (s : State) (it : Item) (hκ : Keeps κ s) : Keeps κ (stageItem s it) := by
  unfold stageItem
  repeat' (first | with_reducible assumption | intro _ | with_reducible apply keeps_wr | with_reducible refine keeps_ite ?_ ?_ | split)

theorem keeps_execRegisterWrite (src : Source) (item : Item) (s : State) (hκ : Keeps κ s) : KeepsOut κ (execRegisterWrite src item s) := by
  unfold execRegisterWrite
  repeat' (first | with_reducible assumption | with_reducible refine keepsOut_next ?_ | with_reducible refine keepsOut_onUnit ?_ | intro _ | with_reducible apply keeps_writeItem)

theorem keeps_execManagerKeyWrite (src : Source) (item : Item) (s : State) (hκ : Keeps κ s) : KeepsOut κ (execManagerKeyWrite src item s) := by
  unfold execManagerKeyWrite
  repeat' (first | with_reducible assumption | with_reducible refine keepsOut_next ?_ | with_reducible refine keepsOut_onUnit ?_ | intro _ | with_reducible apply keeps_writeItem | with_reducible refine keeps_ite ?_ ?_)

theorem keeps_execPlihotuProbeWrite (src : Source) (value : List Byte) (s : State) (hκ : Keeps κ s) : KeepsOut κ (execPlihotuProbeWrite src value s) := by
  unfold execPlihotuProbeWrite
  repeat' (first | with_reducible assumption | with_reducible refine keepsOut_next ?_ | with_reducible refine keepsOut_onUnit ?_ | intro _ | with_reducible apply keeps_writeItem)

theorem keeps_execPersistStore (s : State) (hκ : Keeps κ s) : KeepsOut κ (execPersistStore s) := by
  unfold execPersistStore
  repeat' (first | with_reducible assumption | with_reducible refine keepsOut_next ?_ | with_reducible refine keepsOut_onUnit ?_ | intro _ | with_reducible apply keeps_storeWaiting | with_reducible refine keeps_ite ?_ ?_)

theorem keeps_execPersistFlush (src : Source) (s : State) (hκ : Keeps κ s) : KeepsOut κ (execPersistFlush src s) := by
  unfold execPersistFlush
  repeat' (first | with_reducible assumption | with_reducible refine keepsOut_next ?_ | with_reducible refine keepsOut_onUnit ?_ | intro _ | with_reducible apply keeps_whenWritten | with_reducible apply keeps_storeWaiting)

theorem keeps_execPersistReset (src : Source) (value : Nat) (s : State) (hκ : Keeps κ s) : KeepsOut κ (execPersistReset src value s) := by
  unfold execPersistReset
  repeat' (first | with_reducible assumption | with_reducible refine keepsOut_next ?_ | with_reducible refine keepsOut_onUnit ?_ | intro _ | with_reducible apply keeps_writeItem | with_reducible refine keeps_ite ?_ ?_)

theorem keeps_countMdp (s : State) (a : Nat) (hκ : Keeps κ s) : Keeps κ (countMdp s a) := by
  unfold countMdp
  repeat' (first | with_reducible assumption | intro _ | with_reducible apply keeps_bump | with_reducible refine keeps_ite ?_ ?_)

theorem keeps_mdpDiscard (s : State) (hκ : Keeps κ s) : Keeps κ (mdpDiscard s) := by
  unfold mdpDiscard
  repeat' (first | with_reducible assumption | intro _ | with_reducible apply keeps_countMdp)

theorem keeps_execMdpFrameError (msg : Datagram) (s : State) (hκ : Keeps κ s) : KeepsOut κ (execMdpFrameError msg s) := by
  unfold execMdpFrameError
  repeat' (first | with_reducible assumption | with_reducible refine keepsOut_next ?_ | with_reducible refine keepsOut_onUnit ?_ | intro _ | with_reducible apply keeps_mdpDiscard | with_reducible refine keeps_ite ?_ ?_)

theorem keeps_sendPlain (s : State) (addr : BitVec 128) (type status session seq : Nat) (body : List Byte) (hκ : Keeps κ s) : Keeps κ (sendPlain s addr type status session seq body) := by
  unfold sendPlain
  repeat' (first | with_reducible assumption | intro _ | with_reducible apply keeps_emit)

theorem keeps_discover (s : State) (m : Datagram) (hκ : Keeps κ s) : Keeps κ (discover s m) := by
  unfold discover
  repeat' (first | with_reducible assumption | intro _ | with_reducible apply keeps_mdpDiscard | with_reducible apply keeps_sendPlain | with_reducible refine keeps_ite ?_ ?_)

theorem keeps_execDiscover (msg : Datagram) (s : State) (hκ : Keeps κ s) : KeepsOut κ (execDiscover msg s) := by
  unfold execDiscover
  repeat' (first | with_reducible assumption | with_reducible refine keepsOut_next ?_ | with_reducible refine keepsOut_onUnit ?_ | intro _ | with_reducible apply keeps_discover | with_reducible refine keeps_ite ?_ ?_)

theorem keeps_authFail (s : State) (addr : BitVec 128) (hκ : Keeps κ s) : Keeps κ (authFail s addr) := by
  unfold authFail
  repeat' (first | with_reducible assumption | intro _ | with_reducible apply keeps_countMdp | with_reducible refine keeps_ite ?_ ?_ | split | dsimp only | (refine keeps_of_parts ?_; dsimp only; with_reducible (first | refine keeps_parts ?_ | refine keepsParts_vat ?_ _ _ | refine keepsParts_cellar ?_ _ _ | refine keepsParts_vatFilter ?_ _)))

theorem keeps_challenge (s : State) (m : Datagram) (hκ : Keeps κ s) (hn : s.mgmt.sessions.length < 8) : Keeps κ (challenge s m) := by
  unfold challenge
  dsimp only
  with_reducible apply keeps_sendPlain
  refine keeps_of_parts ?_
  dsimp only
  have hd : Keeps κ (drawBytes s 297).2 := keeps_drawBytes s 297 hκ
  with_reducible refine keepsParts_sessions hd _ ?_
  rw [List.length_append]
  exact hn

theorem keeps_mdpOpen (s : State) (m : Datagram) (hκ : Keeps κ s) : Keeps κ (mdpOpen s m) := by
  unfold mdpOpen
  dsimp only
  refine keeps_ite (keeps_mdpDiscard _ hκ) (keeps_ite hκ (keeps_ite ?_ (keeps_ite ?_ ?_)))
  · exact keeps_sendPlain _ _ _ _ _ _ _ hκ
  · exact keeps_sendPlain _ _ _ _ _ _ _ hκ
  · split
    · exact keeps_sendPlain _ _ _ _ _ _ _ hκ
    · rename_i hn
      refine keeps_ite ?_ (keeps_challenge _ _ hκ (by omega))
      exact keeps_sendPlain _ _ _ _ _ _ _ (keeps_authFail _ _ hκ)

theorem keeps_execMdpOpen (msg : Datagram) (s : State) (hκ : Keeps κ s) : KeepsOut κ (execMdpOpen msg s) := by
  unfold execMdpOpen
  repeat' (first | with_reducible assumption | with_reducible refine keepsOut_next ?_ | with_reducible refine keepsOut_onUnit ?_ | intro _ | with_reducible apply keeps_mdpOpen | with_reducible refine keeps_ite ?_ ?_)

theorem keeps_prove (s : State) (m : Datagram) (signatureOk : Bool) (hκ : Keeps κ s) : Keeps κ (prove s m signatureOk) := by
  unfold prove
  repeat' (first | with_reducible assumption | intro _ | with_reducible apply keeps_mdpDiscard | with_reducible apply keeps_sendPlain | with_reducible apply keeps_authFail | with_reducible apply keeps_closeSession | with_reducible apply keeps_sendSession | with_reducible apply keeps_setSession | with_reducible apply keeps_id | with_reducible refine keeps_ite ?_ ?_ | split)

theorem keeps_execProve (msg : Datagram) (signatureOk : Bool) (s : State) (hκ : Keeps κ s) : KeepsOut κ (execProve msg signatureOk s) := by
  unfold execProve
  repeat' (first | with_reducible assumption | with_reducible refine keepsOut_next ?_ | with_reducible refine keepsOut_onUnit ?_ | intro _ | with_reducible apply keeps_prove | with_reducible refine keeps_ite ?_ ?_)

theorem keeps_proveTimeout (s : State) (id : Nat) (hκ : Keeps κ s) : Keeps κ (proveTimeout s id) := by
  unfold proveTimeout
  repeat' (first | with_reducible assumption | intro _ | with_reducible apply keeps_sendPlain | with_reducible apply keeps_authFail | with_reducible apply keeps_closeSession | with_reducible apply keeps_id | with_reducible refine keeps_ite ?_ ?_ | split)

theorem keeps_execProveTimeout (session : Nat) (s : State) (hκ : Keeps κ s) : KeepsOut κ (execProveTimeout session s) := by
  unfold execProveTimeout
  repeat' (first | with_reducible assumption | with_reducible refine keepsOut_next ?_ | with_reducible refine keepsOut_onUnit ?_ | intro _ | with_reducible apply keeps_proveTimeout)

theorem keeps_execOpenLockoutExpiry (addr : BitVec 128) (s : State) (hκ : Keeps κ s) : KeepsOut κ (execOpenLockoutExpiry addr s) := by
  unfold execOpenLockoutExpiry
  repeat' (first | with_reducible assumption | with_reducible refine keepsOut_next ?_ | with_reducible refine keepsOut_onUnit ?_ | intro _ | split | dsimp only | (refine keeps_of_parts ?_; dsimp only; with_reducible (first | refine keeps_parts ?_ | refine keepsParts_vat ?_ _ _ | refine keepsParts_cellar ?_ _ _ | refine keepsParts_vatFilter ?_ _)))

theorem keeps_respond (s : State) (x : Session) (type seq : Nat) (r : Reply) (hκ : Keeps κ s) : Keeps κ (respond s x type seq r) := by
  unfold respond
  repeat' (first | with_reducible assumption | intro _ | with_reducible apply keeps_setSession | with_reducible apply keeps_sendSession | with_reducible apply keeps_id | split)

theorem keeps_request (s : State) (m : Datagram) (type : Nat) (f : State → Session → Reply × State) (hκ : Keeps κ s) (hκf : ∀ z1, Keeps κ z1 → ∀ z2, Keeps κ (f z1 z2).2) : Keeps κ (request s m type f) := by
  unfold request
  repeat' (first | with_reducible assumption | with_reducible apply hκf | intro _ | with_reducible apply keeps_mdpDiscard | with_reducible apply keeps_respond | with_reducible apply keeps_sendSession | with_reducible apply keeps_countMdp | with_reducible refine keeps_ite ?_ ?_ | split)

theorem keeps_emptyRequest (s : State) (m : Datagram) (type : Nat) (f : State → Session → State) (hκ : Keeps κ s) (hκf : ∀ z1, Keeps κ z1 → ∀ z2, Keeps κ (f z1 z2)) : Keeps κ (emptyRequest s m type f) := by
  unfold emptyRequest
  repeat' (first | with_reducible assumption | with_reducible apply hκf | intro _ | with_reducible apply keeps_request | with_reducible refine keeps_ite ?_ ?_ | split)

theorem keeps_execMdpClose (msg : Datagram) (s : State) (hκ : Keeps κ s) : KeepsOut κ (execMdpClose msg s) := by
  unfold execMdpClose
  repeat' (first | with_reducible assumption | with_reducible refine keepsOut_next ?_ | with_reducible refine keepsOut_onUnit ?_ | intro _ | with_reducible apply keeps_emptyRequest | with_reducible apply keeps_closeSession)

theorem keeps_execPing (msg : Datagram) (s : State) (hκ : Keeps κ s) : KeepsOut κ (execPing msg s) := by
  unfold execPing
  repeat' (first | with_reducible assumption | with_reducible refine keepsOut_next ?_ | with_reducible refine keepsOut_onUnit ?_ | intro _ | with_reducible apply keeps_emptyRequest)

theorem keeps_sessionTimeout (s : State) (id : Nat) (hκ : Keeps κ s) : Keeps κ (sessionTimeout s id) := by
  unfold sessionTimeout
  repeat' (first | with_reducible assumption | intro _ | with_reducible apply keeps_closeSession | with_reducible apply keeps_id | with_reducible refine keeps_ite ?_ ?_ | split)

theorem keeps_execSessionTimeout (session : Nat) (s : State) (hκ : Keeps κ s) : KeepsOut κ (execSessionTimeout session s) := by
  unfold execSessionTimeout
  repeat' (first | with_reducible assumption | with_reducible refine keepsOut_next ?_ | with_reducible refine keepsOut_onUnit ?_ | intro _ | with_reducible apply keeps_sessionTimeout)

theorem keeps_readBody (s : State) (src : Source) (b : List Byte) (room : Nat) (hκ : Keeps κ s) : Keeps κ (readBody s src b room).2 := by
  unfold readBody
  repeat' (first | with_reducible assumption | intro _ | with_reducible apply keeps_afterRead | with_reducible refine keeps_foldl ?_ ?_ _ | with_reducible refine keeps_foldlFst ?_ ?_ _ | with_reducible refine keeps_ite ?_ ?_ | split | dsimp only)

theorem keeps_setTransfer (s : State) (src : Source) (t : Option Transfer) (hκ : Keeps κ s) : Keeps κ (setTransfer s src t) := by
  unfold setTransfer
  repeat' (first | with_reducible assumption | intro _ | with_reducible apply keeps_setSession | split | dsimp only | (refine keeps_of_parts ?_; dsimp only; with_reducible (first | refine keeps_parts ?_ | refine keepsParts_vat ?_ _ _ | refine keepsParts_cellar ?_ _ _ | refine keepsParts_vatFilter ?_ _)))

theorem keeps_endOtherTransfer (s : State) (src : Source) (es : List (Nat × Nat)) (hκ : Keeps κ s) : Keeps κ (endOtherTransfer s src es) := by
  unfold endOtherTransfer
  repeat' (first | with_reducible assumption | intro _ | with_reducible apply keeps_setTransfer | with_reducible refine keeps_ite ?_ ?_ | split)

theorem keeps_writeBody (s : State) (src : Source) (b : List Byte) (hκ : Keeps κ s) : Keeps κ (writeBody s src b).2 := by
  unfold writeBody
  repeat' (first | with_reducible assumption | intro _ | with_reducible apply keeps_endOtherTransfer | with_reducible apply keeps_applyWrite | with_reducible refine keeps_foldl ?_ ?_ _ | with_reducible refine keeps_foldlFst ?_ ?_ _ | with_reducible refine keeps_ite ?_ ?_ | split)

theorem keeps_adminOnly (x : Session) (s : State) (f : Reply × State) (hκ : Keeps κ s) (hκ2 : Keeps κ f.2) : Keeps κ (adminOnly x s f).2 := by
  unfold adminOnly
  repeat' (first | with_reducible assumption | intro _ | with_reducible refine keeps_ite ?_ ?_ | split)

theorem keeps_execMdpRead (msg : Datagram) (s : State) (hκ : Keeps κ s) : KeepsOut κ (execMdpRead msg s) := by
  unfold execMdpRead
  repeat' (first | with_reducible assumption | with_reducible refine keepsOut_next ?_ | with_reducible refine keepsOut_onUnit ?_ | intro _ | with_reducible apply keeps_request | with_reducible apply keeps_readBody)

theorem keeps_execMdpWrite (msg : Datagram) (s : State) (hκ : Keeps κ s) : KeepsOut κ (execMdpWrite msg s) := by
  unfold execMdpWrite
  repeat' (first | with_reducible assumption | with_reducible refine keepsOut_next ?_ | with_reducible refine keepsOut_onUnit ?_ | intro _ | with_reducible apply keeps_request | with_reducible apply keeps_adminOnly | with_reducible apply keeps_writeBody)

theorem keeps_readBlock (s : State) (src : Source) (b : List Byte) (most : Nat) (hκ : Keeps κ s) : Keeps κ (readBlock s src b most).2 := by
  unfold readBlock
  repeat' (first | with_reducible assumption | intro _ | with_reducible apply keeps_afterRead | with_reducible refine keeps_ite ?_ ?_ | split | dsimp only)

theorem keeps_writeBlock (s : State) (src : Source) (b : List Byte) (last : Bool) (most : Nat) (hκ : Keeps κ s) : Keeps κ (writeBlock s src b last most).2 := by
  unfold writeBlock
  repeat' (first | with_reducible assumption | intro _ | with_reducible apply keeps_setTransfer | with_reducible apply keeps_endOtherTransfer | with_reducible apply keeps_applyWrite | with_reducible refine keeps_ite ?_ ?_ | split | dsimp only)

theorem keeps_execReadBlock (msg : Datagram) (s : State) (hκ : Keeps κ s) : KeepsOut κ (execReadBlock msg s) := by
  unfold execReadBlock
  repeat' (first | with_reducible assumption | with_reducible refine keepsOut_next ?_ | with_reducible refine keepsOut_onUnit ?_ | intro _ | with_reducible apply keeps_request | with_reducible apply keeps_readBlock)

theorem keeps_execWriteBlock (msg : Datagram) (s : State) (hκ : Keeps κ s) : KeepsOut κ (execWriteBlock msg s) := by
  unfold execWriteBlock
  repeat' (first | with_reducible assumption | with_reducible refine keepsOut_next ?_ | with_reducible refine keepsOut_onUnit ?_ | intro _ | with_reducible apply keeps_request | with_reducible apply keeps_adminOnly | with_reducible apply keeps_writeBlock)

theorem keeps_execBlockTransferTimeout (src : Source) (s : State) (hκ : Keeps κ s) : KeepsOut κ (execBlockTransferTimeout src s) := by
  unfold execBlockTransferTimeout
  repeat' (first | with_reducible assumption | with_reducible refine keepsOut_next ?_ | with_reducible refine keepsOut_onUnit ?_ | intro _ | with_reducible apply keeps_setTransfer)

theorem keeps_subscribe (s : State) (x : Session) (b : List Byte) (hκ : Keeps κ s) : Keeps κ (subscribe s x b).2 := by
  unfold subscribe
  repeat' (first | with_reducible assumption | intro _ | with_reducible apply keeps_setSession | with_reducible refine keeps_ite ?_ ?_ | split | dsimp only)

theorem keeps_execSubscribe (msg : Datagram) (s : State) (hκ : Keeps κ s) : KeepsOut κ (execSubscribe msg s) := by
  unfold execSubscribe
  repeat' (first | with_reducible assumption | with_reducible refine keepsOut_next ?_ | with_reducible refine keepsOut_onUnit ?_ | intro _ | with_reducible apply keeps_request | with_reducible apply keeps_subscribe)

theorem keeps_lostToSession (s : State) (id : Nat) (hκ : Keeps κ s) : Keeps κ (lostToSession s id) := by
  unfold lostToSession
  repeat' (first | with_reducible assumption | intro _ | with_reducible apply keeps_sendEvents | with_reducible apply keeps_setSession | with_reducible apply keeps_id | with_reducible refine keeps_ite ?_ ?_ | split | dsimp only | (refine keeps_of_parts ?_; dsimp only; with_reducible (first | refine keeps_parts ?_ | refine keepsParts_vat ?_ _ _ | refine keepsParts_cellar ?_ _ _ | refine keepsParts_vatFilter ?_ _)))

theorem keeps_eventAck (s : State) (m : Datagram) (hκ : Keeps κ s) : Keeps κ (eventAck s m) := by
  unfold eventAck
  repeat' (first | with_reducible assumption | intro _ | with_reducible apply keeps_mdpDiscard | with_reducible apply keeps_countMdp | with_reducible apply keeps_lostToSession | with_reducible apply keeps_setSession | with_reducible apply keeps_id | with_reducible refine keeps_ite ?_ ?_ | split)

theorem keeps_execEventAck (msg : Datagram) (s : State) (hκ : Keeps κ s) : KeepsOut κ (execEventAck msg s) := by
  unfold execEventAck
  repeat' (first | with_reducible assumption | with_reducible refine keepsOut_next ?_ | with_reducible refine keepsOut_onUnit ?_ | intro _ | with_reducible apply keeps_eventAck)

theorem keeps_eventResend (s : State) (id seq : Nat) (hκ : Keeps κ s) : Keeps κ (eventResend s id seq) := by
  unfold eventResend
  repeat' (first | with_reducible assumption | intro _ | with_reducible apply keeps_sendEvents | with_reducible apply keeps_setSession | with_reducible apply keeps_lostToSession | with_reducible apply keeps_countMdp | with_reducible apply keeps_id | with_reducible refine keeps_ite ?_ ?_ | split)

theorem keeps_execEventResend (session seq : Nat) (s : State) (hκ : Keeps κ s) : KeepsOut κ (execEventResend session seq s) := by
  unfold execEventResend
  repeat' (first | with_reducible assumption | with_reducible refine keepsOut_next ?_ | with_reducible refine keepsOut_onUnit ?_ | intro _ | with_reducible apply keeps_eventResend)

theorem keeps_watchCheck (s : State) (id n : Nat) (hκ : Keeps κ s) : Keeps κ (watchCheck s id n) := by
  unfold watchCheck
  repeat' (first | with_reducible assumption | intro _ | with_reducible apply keeps_setSession | with_reducible apply keeps_eventToSession | with_reducible apply keeps_id | with_reducible refine keeps_ite ?_ ?_ | split | dsimp only | (refine keeps_of_parts ?_; dsimp only; with_reducible (first | refine keeps_parts ?_ | refine keepsParts_vat ?_ _ _ | refine keepsParts_cellar ?_ _ _ | refine keepsParts_vatFilter ?_ _)))

theorem keeps_execWatchCheck (session watch : Nat) (s : State) (hκ : Keeps κ s) : KeepsOut κ (execWatchCheck session watch s) := by
  unfold execWatchCheck
  repeat' (first | with_reducible assumption | with_reducible refine keepsOut_next ?_ | with_reducible refine keepsOut_onUnit ?_ | intro _ | with_reducible apply keeps_watchCheck)

theorem keeps_execIcmpv6Echo (dst src : BitVec 128) (payload : List Byte) (s : State) (hκ : Keeps κ s) : KeepsOut κ (execIcmpv6Echo dst src payload s) := by
  unfold execIcmpv6Echo
  repeat' (first | with_reducible assumption | with_reducible refine keepsOut_next ?_ | with_reducible refine keepsOut_onUnit ?_ | intro _ | with_reducible apply keeps_emit | with_reducible refine keeps_ite ?_ ?_)

theorem keeps_execNeighborDiscovery (target src : BitVec 128) (s : State) (hκ : Keeps κ s) : KeepsOut κ (execNeighborDiscovery target src s) := by
  unfold execNeighborDiscovery
  repeat' (first | with_reducible assumption | with_reducible refine keepsOut_next ?_ | with_reducible refine keepsOut_onUnit ?_ | intro _ | with_reducible apply keeps_emit | with_reducible refine keeps_ite ?_ ?_)

theorem keeps_putCompletion (s : State) (id status done detail : Nat) (hκ : Keeps κ s) : Keeps κ (putCompletion s id status done detail) := by
  unfold putCompletion
  repeat' (first | with_reducible assumption | intro _ | with_reducible apply keeps_emit | with_reducible apply keeps_raiseMsix | with_reducible apply keeps_id | with_reducible refine keeps_ite ?_ ?_ | split | dsimp only | (refine keeps_of_parts ?_; dsimp only; with_reducible (first | refine keeps_parts ?_ | refine keepsParts_vat ?_ _ _ | refine keepsParts_cellar ?_ _ _ | refine keepsParts_vatFilter ?_ _)))

theorem keeps_flushAborted (l : List (BitVec 16)) (s : State) (hκ : Keeps κ s) : Keeps κ (flushAborted l s) := by
  induction l generalizing s with
  | nil => exact hκ
  | cons a t ih =>
    unfold flushAborted
    split
    · exact hκ
    · exact ih _ (keeps_putCompletion _ _ _ _ _ hκ)

theorem keeps_fetchRung (s : State) (hκ : Keeps κ s) : Keeps κ (fetchRung s) := by
  unfold fetchRung
  repeat' (first | with_reducible assumption | intro _ | with_reducible refine keeps_ite ?_ ?_ | split | dsimp only | (refine keeps_of_parts ?_; dsimp only; with_reducible (first | refine keeps_parts ?_ | refine keepsParts_vat ?_ _ _ | refine keepsParts_cellar ?_ _ _ | refine keepsParts_vatFilter ?_ _)))

theorem keeps_sqDoorbell (s : State) (tail : Nat) (entries : List (BitVec 512)) (hκ : Keeps κ s) : Keeps κ (sqDoorbell s tail entries) := by
  unfold sqDoorbell
  repeat' (first | with_reducible assumption | intro _ | with_reducible apply keeps_fetchRung | with_reducible refine keeps_ite ?_ ?_ | split | dsimp only | (refine keeps_of_parts ?_; dsimp only; with_reducible (first | refine keeps_parts ?_ | refine keepsParts_vat ?_ _ _ | refine keepsParts_cellar ?_ _ _ | refine keepsParts_vatFilter ?_ _)))

theorem keeps_execSqDoorbell (tail : Nat) (entries : List (BitVec 512)) (s : State) (hκ : Keeps κ s) : KeepsOut κ (execSqDoorbell tail entries s) := by
  unfold execSqDoorbell
  repeat' (first | with_reducible assumption | with_reducible refine keepsOut_next ?_ | with_reducible refine keepsOut_onUnit ?_ | intro _ | with_reducible apply keeps_sqDoorbell)

theorem keeps_finish (s : State) (e : BitVec 512) (status done detail : Nat) (hκ : Keeps κ s) : Keeps κ (finish s e status done detail) := by
  unfold finish
  repeat' (first | with_reducible assumption | intro _ | split | dsimp only | (refine keeps_of_parts ?_; dsimp only; with_reducible (first | refine keeps_parts ?_ | refine keepsParts_vat ?_ _ _ | refine keepsParts_cellar ?_ _ _ | refine keepsParts_vatFilter ?_ _)))

theorem keeps_dictRequest (s : State) (e : BitVec 512) (body : List Byte) (hκ : Keeps κ s) : Keeps κ (dictRequest s e body).2 := by
  unfold dictRequest
  repeat' (first | with_reducible assumption | intro _ | with_reducible apply keeps_readBody | with_reducible apply keeps_writeBody | with_reducible apply keeps_readBlock | with_reducible apply keeps_writeBlock | with_reducible refine keeps_ite ?_ ?_ | split)

theorem keeps_dict (s : State) (e : BitVec 512) (body : List Byte) (hκ : Keeps κ s) : Keeps κ (dict s e body) := by
  unfold dict
  repeat' (first | with_reducible assumption | intro _ | with_reducible apply keeps_finish | with_reducible apply keeps_dictRequest | with_reducible apply keeps_emit | with_reducible refine keeps_ite ?_ ?_)

theorem keeps_execDict (entry : BitVec 512) (body : List Byte) (s : State) (hκ : Keeps κ s) : KeepsOut κ (execDict entry body s) := by
  unfold execDict
  repeat' (first | with_reducible assumption | with_reducible refine keepsOut_next ?_ | with_reducible refine keepsOut_onUnit ?_ | intro _ | with_reducible apply keeps_dict)

theorem keeps_dmaWrite (s : State) (e : BitVec 512) (status : Nat) (move : State → State) (hκ : Keeps κ s) (hκmove : ∀ z1, Keeps κ z1 → Keeps κ (move z1)) : Keeps κ (dmaWrite s e status move) := by
  unfold dmaWrite
  repeat' (first | with_reducible assumption | with_reducible apply hκmove | intro _ | with_reducible apply keeps_finish | with_reducible apply keeps_bump64 | with_reducible refine keeps_ite ?_ ?_)

theorem keeps_vatWrite (s : State) (e : BitVec 512) (data : List Byte) (hκ : Keeps κ s) : Keeps κ (vatWrite s e data) := by
  unfold vatWrite
  repeat' (first | with_reducible assumption | intro _ | with_reducible apply keeps_dmaWrite | with_reducible apply keeps_vatPut | with_reducible refine keeps_ite ?_ ?_)

theorem keeps_execVatWrite (entry : BitVec 512) (data : List Byte) (s : State) (hκ : Keeps κ s) : KeepsOut κ (execVatWrite entry data s) := by
  unfold execVatWrite
  repeat' (first | with_reducible assumption | with_reducible refine keepsOut_next ?_ | with_reducible refine keepsOut_onUnit ?_ | intro _ | with_reducible apply keeps_vatWrite)

theorem keeps_cellarWrite (s : State) (e : BitVec 512) (data : List Byte) (hκ : Keeps κ s) : Keeps κ (cellarWrite s e data) := by
  unfold cellarWrite
  repeat' (first | with_reducible assumption | intro _ | with_reducible apply keeps_dmaWrite | with_reducible apply keeps_cellarPut | with_reducible refine keeps_ite ?_ ?_)

theorem keeps_execCellarWrite (entry : BitVec 512) (data : List Byte) (s : State) (hκ : Keeps κ s) : KeepsOut κ (execCellarWrite entry data s) := by
  unfold execCellarWrite
  repeat' (first | with_reducible assumption | with_reducible refine keepsOut_next ?_ | with_reducible refine keepsOut_onUnit ?_ | intro _ | with_reducible apply keeps_cellarWrite)

theorem keeps_dmaRead (s : State) (e : BitVec 512) (status : Nat) (good : Nat → Bool) (bytes : Nat → List Byte) (fail : State → Nat → State) (hκ : Keeps κ s) (hκfail : ∀ z1, Keeps κ z1 → ∀ z2, Keeps κ (fail z1 z2)) : Keeps κ (dmaRead s e status good bytes fail) := by
  unfold dmaRead
  repeat' (first | with_reducible assumption | with_reducible apply hκfail | intro _ | with_reducible apply keeps_finish | with_reducible apply keeps_emit | with_reducible apply keeps_bump64 | with_reducible refine keeps_ite ?_ ?_ | split | dsimp only)

theorem keeps_vatRead (s : State) (e : BitVec 512) (hκ : Keeps κ s) : Keeps κ (vatRead s e) := by
  unfold vatRead
  repeat' (first | with_reducible assumption | intro _ | with_reducible apply keeps_dmaRead | with_reducible apply keeps_failUnit | with_reducible refine keeps_ite ?_ ?_)

theorem keeps_execVatRead (entry : BitVec 512) (s : State) (hκ : Keeps κ s) : KeepsOut κ (execVatRead entry s) := by
  unfold execVatRead
  repeat' (first | with_reducible assumption | with_reducible refine keepsOut_next ?_ | with_reducible refine keepsOut_onUnit ?_ | intro _ | with_reducible apply keeps_vatRead)

theorem keeps_cellarRead (s : State) (e : BitVec 512) (hκ : Keeps κ s) : Keeps κ (cellarRead s e) := by
  unfold cellarRead
  repeat' (first | with_reducible assumption | intro _ | with_reducible apply keeps_dmaRead | with_reducible apply keeps_raiseFault | with_reducible apply keeps_bump | with_reducible refine keeps_ite ?_ ?_)

theorem keeps_execCellarRead (entry : BitVec 512) (s : State) (hκ : Keeps κ s) : KeepsOut κ (execCellarRead entry s) := by
  unfold execCellarRead
  repeat' (first | with_reducible assumption | with_reducible refine keepsOut_next ?_ | with_reducible refine keepsOut_onUnit ?_ | intro _ | with_reducible apply keeps_cellarRead)

theorem keeps_setSaveBuffer (s : State) (e : BitVec 512) (hκ : Keeps κ s) : Keeps κ (setSaveBuffer s e) := by
  unfold setSaveBuffer
  repeat' (first | with_reducible assumption | intro _ | with_reducible apply keeps_finish | with_reducible refine keeps_ite ?_ ?_ | split | dsimp only | (refine keeps_of_parts ?_; dsimp only; with_reducible (first | refine keeps_parts ?_ | refine keepsParts_vat ?_ _ _ | refine keepsParts_cellar ?_ _ _ | refine keepsParts_vatFilter ?_ _)))

theorem keeps_execSetSaveBuffer (entry : BitVec 512) (s : State) (hκ : Keeps κ s) : KeepsOut κ (execSetSaveBuffer entry s) := by
  unfold execSetSaveBuffer
  repeat' (first | with_reducible assumption | with_reducible refine keepsOut_next ?_ | with_reducible refine keepsOut_onUnit ?_ | intro _ | with_reducible apply keeps_setSaveBuffer)

theorem keeps_execNop (entry : BitVec 512) (s : State) (hκ : Keeps κ s) : KeepsOut κ (execNop entry s) := by
  unfold execNop
  repeat' (first | with_reducible assumption | with_reducible refine keepsOut_next ?_ | with_reducible refine keepsOut_onUnit ?_ | intro _ | with_reducible apply keeps_finish | with_reducible refine keeps_ite ?_ ?_)

theorem keeps_mailboxComplete (s : State) (hκ : Keeps κ s) : Keeps κ (mailboxComplete s) := by
  unfold mailboxComplete
  repeat' (first | with_reducible assumption | intro _ | with_reducible apply keeps_putCompletion | with_reducible apply keeps_fetchRung | with_reducible refine keeps_ite ?_ ?_ | split | dsimp only | (refine keeps_of_parts ?_; dsimp only; with_reducible (first | refine keeps_parts ?_ | refine keepsParts_vat ?_ _ _ | refine keepsParts_cellar ?_ _ _ | refine keepsParts_vatFilter ?_ _)))

theorem keeps_execMailboxCommandComplete (s : State) (hκ : Keeps κ s) : KeepsOut κ (execMailboxCommandComplete s) := by
  unfold execMailboxCommandComplete
  repeat' (first | with_reducible assumption | with_reducible refine keepsOut_next ?_ | with_reducible refine keepsOut_onUnit ?_ | intro _ | with_reducible apply keeps_mailboxComplete)

theorem keeps_cqHeadWrite (s : State) (v : Nat) (hκ : Keeps κ s) : Keeps κ (cqHeadWrite s v) := by
  unfold cqHeadWrite
  repeat' (first | with_reducible assumption | intro _ | with_reducible apply keeps_fetchRung | with_reducible apply keeps_flushAborted | with_reducible refine keeps_ite ?_ ?_ | split | dsimp only | (refine keeps_of_parts ?_; dsimp only; with_reducible (first | refine keeps_parts ?_ | refine keepsParts_vat ?_ _ _ | refine keepsParts_cellar ?_ _ _ | refine keepsParts_vatFilter ?_ _)))

theorem keeps_execCqHeadWrite (value : Nat) (s : State) (hκ : Keeps κ s) : KeepsOut κ (execCqHeadWrite value s) := by
  unfold execCqHeadWrite
  repeat' (first | with_reducible assumption | with_reducible refine keepsOut_next ?_ | with_reducible refine keepsOut_onUnit ?_ | intro _ | with_reducible apply keeps_cqHeadWrite)

theorem keeps_lostToHost (s : State) (hκ : Keeps κ s) : Keeps κ (lostToHost s) := by
  unfold lostToHost
  repeat' (first | with_reducible assumption | intro _ | with_reducible apply keeps_emit | with_reducible apply keeps_deferMsix | with_reducible refine keeps_ite ?_ ?_ | split | dsimp only | (refine keeps_of_parts ?_; dsimp only; with_reducible (first | refine keeps_parts ?_ | refine keepsParts_vat ?_ _ _ | refine keepsParts_cellar ?_ _ _ | refine keepsParts_vatFilter ?_ _)))

theorem keeps_eqHeadWrite (s : State) (v : Nat) (hκ : Keeps κ s) : Keeps κ (eqHeadWrite s v) := by
  unfold eqHeadWrite
  repeat' (first | with_reducible assumption | intro _ | with_reducible apply keeps_lostToHost | with_reducible refine keeps_ite ?_ ?_ | split | dsimp only | (refine keeps_of_parts ?_; dsimp only; with_reducible (first | refine keeps_parts ?_ | refine keepsParts_vat ?_ _ _ | refine keepsParts_cellar ?_ _ _ | refine keepsParts_vatFilter ?_ _)))

theorem keeps_execEqHeadWrite (value : Nat) (s : State) (hκ : Keeps κ s) : KeepsOut κ (execEqHeadWrite value s) := by
  unfold execEqHeadWrite
  repeat' (first | with_reducible assumption | with_reducible refine keepsOut_next ?_ | with_reducible refine keepsOut_onUnit ?_ | intro _ | with_reducible apply keeps_eqHeadWrite)

theorem keeps_mbControlWrite (s : State) (value : BitVec 32) (sq cq eq : BitVec 64) (sqN cqN eqN : Nat) (hκ : Keeps κ s) : Keeps κ (mbControlWrite s value sq cq eq sqN cqN eqN) := by
  unfold mbControlWrite
  repeat' (first | with_reducible assumption | intro _ | with_reducible apply keeps_fetchRung | with_reducible apply keeps_flushAborted | with_reducible refine keeps_ite ?_ ?_ | split | dsimp only | (refine keeps_of_parts ?_; dsimp only; with_reducible (first | refine keeps_parts ?_ | refine keepsParts_vat ?_ _ _ | refine keepsParts_cellar ?_ _ _ | refine keepsParts_vatFilter ?_ _)))

theorem keeps_execMbControlWrite (value : BitVec 32) (sqBase cqBase eqBase : BitVec 64) (sqSize cqSize eqSize : Nat) (s : State) (hκ : Keeps κ s) : KeepsOut κ (execMbControlWrite value sqBase cqBase eqBase sqSize cqSize eqSize s) := by
  unfold execMbControlWrite
  repeat' (first | with_reducible assumption | with_reducible refine keepsOut_next ?_ | with_reducible refine keepsOut_onUnit ?_ | intro _ | with_reducible apply keeps_mbControlWrite)

theorem keeps_eventMsixTimer (s : State) (v : Nat) (hκ : Keeps κ s) : Keeps κ (eventMsixTimer s v) := by
  unfold eventMsixTimer
  repeat' (first | with_reducible assumption | intro _ | with_reducible apply keeps_raiseMsix | with_reducible refine keeps_ite ?_ ?_ | split | dsimp only | (refine keeps_of_parts ?_; dsimp only; with_reducible (first | refine keeps_parts ?_ | refine keepsParts_vat ?_ _ _ | refine keepsParts_cellar ?_ _ _ | refine keepsParts_vatFilter ?_ _)))

theorem keeps_execEventMsixTimer (vector : Nat) (s : State) (hκ : Keeps κ s) : KeepsOut κ (execEventMsixTimer vector s) := by
  unfold execEventMsixTimer
  repeat' (first | with_reducible assumption | with_reducible refine keepsOut_next ?_ | with_reducible refine keepsOut_onUnit ?_ | intro _ | with_reducible apply keeps_eventMsixTimer)

theorem keeps_countTime (s : State) (a : Nat) (c : Bool) (hκ : Keeps κ s) : Keeps κ (countTime s a c) := by
  unfold countTime
  repeat' (first | with_reducible assumption | intro _ | with_reducible apply keeps_bump64 | with_reducible refine keeps_ite ?_ ?_)

theorem keeps_tickAclk (s : State) (hκ : Keeps κ s) : Keeps κ (tickAclk s) := by
  unfold tickAclk
  repeat' (first | with_reducible assumption | intro _ | with_reducible apply keeps_countTime | with_reducible refine keeps_ite ?_ ?_ | split | dsimp only | (refine keeps_of_parts ?_; dsimp only; with_reducible (first | refine keeps_parts ?_ | refine keepsParts_vat ?_ _ _ | refine keepsParts_cellar ?_ _ _ | refine keepsParts_vatFilter ?_ _)))

theorem keeps_tickPort (s : State) (p : Nat) (hκ : Keeps κ s) : Keeps κ (tickPort s p) := by
  unfold tickPort
  repeat' (first | with_reducible assumption | intro _ | with_reducible apply keeps_countTime)

theorem keeps_tickPools (s : State) (hκ : Keeps κ s) : Keeps κ (tickPools s) := by
  unfold tickPools
  repeat' (first | with_reducible assumption | intro _ | with_reducible apply keeps_countTime | with_reducible refine keeps_foldl ?_ ?_ _)

theorem keeps_tickSteps (s : State) (hκ : Keeps κ s) : Keeps κ (tickSteps s) := by
  unfold tickSteps
  repeat' (first | with_reducible assumption | intro _ | with_reducible apply keeps_countTime | with_reducible apply keeps_bump64 | split | dsimp only | (refine keeps_of_parts ?_; dsimp only; with_reducible (first | refine keeps_parts ?_ | refine keepsParts_vat ?_ _ _ | refine keepsParts_cellar ?_ _ _ | refine keepsParts_vatFilter ?_ _)))

end Sys2Proof.Machine
end

