-- ==== Sys2Proof/Laws/KeepsTick.lean ====
section
/-! SUPPORT. One fabric cycle keeps the queue and everything else that operations keep. -/
namespace Sys2Proof.Machine

variable {κ : Kept}

/-- Another cycle, where nothing holds it. -/
theorem keeps_now {s : State} (n : Nat) (h : Keeps κ s) (hc : κ.clock = none) : Keeps κ { s with now := n } :=
  keeps_of_parts (keepsParts_clock h n s.boot hc)

theorem keeps_tickPorts {s : State} (h : Keeps κ s) (l : List Nat) : Keeps κ (l.foldl tickPort s) :=
  keeps_foldl (fun s h p => keeps_tickPort s p h) h l

theorem keeps_tick (s : State) (hκ : Keeps κ s) (hc : κ.clock = none) : Keeps κ (tick s) := by
  unfold tick
  generalize List.range 128 = l
  split
  · have h := keeps_tickSteps _ (keeps_tickPools _ (keeps_tickPorts (keeps_tickAclk s hκ) l))
    exact keeps_now _ h hc
  · exact hκ

end Sys2Proof.Machine
end

