-- ==== Sys2Proof/Laws/Serial.lean ====
section
/-! SUPPORT. What the serial layer touches: receiving and sending on lanes changes the lanes alone (R46, R47). -/
namespace Sys2Proof.Machine

/-- Receiving on one lane touches the lanes alone. -/
theorem hearSlot_parts (s : State) (l : Nat) (b : List Byte) : hearSlot s l b = { s with lanes := (hearSlot s l b).lanes } := rfl

/-- A frame on a spare touches the lanes alone. -/
theorem hearSpare_parts (s : State) (g : Nat) (f : List Byte) : hearSpare s g f = { s with lanes := (hearSpare s g f).lanes } := rfl

/-- Steps that touch the lanes alone touch the lanes alone in a row. -/
theorem lanes_foldl {α : Type} {f : State → α → State} (h : ∀ s x, ∃ t, f s x = { s with lanes := t }) (l : List α) (s : State) :
    ∃ t, l.foldl f s = { s with lanes := t } := by
  induction l generalizing s with
  | nil => exact ⟨s.lanes, rfl⟩
  | cons x l ih =>
    obtain ⟨t, ht⟩ := h s x
    obtain ⟨u, hu⟩ := ih (f s x)
    exact ⟨u, by rw [List.foldl_cons, hu, ht]⟩

/-- A frame on a port's lanes touches the lanes alone. -/
theorem hearLanes_parts (s : State) (p : Nat) (f : List Byte) : hearLanes s p f = { s with lanes := (hearLanes s p f).lanes } := by
  have h : ∃ t, hearLanes s p f = { s with lanes := t } :=
    lanes_foldl (f := fun s j => hearSlot s (servingLane s p j) (laneBytes f j)) (fun s j => ⟨_, hearSlot_parts s (servingLane s p j) (laneBytes f j)⟩) _ s
  obtain ⟨t, ht⟩ := h
  rw [ht]

/-- Sending in a lane's slot touches the lanes alone. -/
theorem sendOnLane_parts (s : State) (l : Nat) (b : List Byte) : ∃ t, sendOnLane s l b = { s with lanes := t } := by
  unfold sendOnLane
  dsimp only
  split
  · exact ⟨_, rfl⟩
  · exact ⟨s.lanes, rfl⟩

/-- A control block touches the lanes alone. -/
theorem sendBlock_parts (s : State) (l : Nat) (b : BitVec 136) : ∃ t, sendBlock s l b = { s with lanes := t } := by
  unfold sendBlock
  dsimp only
  split
  · exact ⟨_, rfl⟩
  · exact ⟨s.lanes, rfl⟩

/-- A group's MARKERs touch the lanes alone. -/
theorem sendMarkers_parts (s : State) (g : Nat) : ∃ t, sendMarkers s g = { s with lanes := t } := by
  unfold sendMarkers
  exact lanes_foldl (fun s i => sendBlock_parts s _ _) _ s

/-- The descrambler recovers what the scrambler sent, from an equal register, and its register stays equal (R47). -/
theorem descramble_scramble (d : List Bool) (h : BitVec 58) : descramble h (scramble h d).1 = (d, (scramble h d).2) := by
  induction d generalizing h with
  | nil => rfl
  | cons b d ih => simp [scramble, descramble, ih, Bool.xor_assoc]

/-- An inverted bit pair shows the opposite level (Table 03.1, R48). -/
theorem levelOf_not (b1 b0 : Bool) : levelOf (!b1) b0 = -levelOf b1 b0 := by cases b1 <;> cases b0 <;> rfl

end Sys2Proof.Machine
end

