-- ==== Sys2Proof/Laws/State.lean ====
section
/-! SUPPORT. What each named update of the state leaves alone: one equation per field per update, so that no proof unfolds a record
update. -/
namespace Sys2Proof.Machine

variable (s : State)

@[simp] theorem wr_now (a v : Nat) : (wr s a v).now = s.now := rfl
@[simp] theorem wr_boot (a v : Nat) : (wr s a v).boot = s.boot := rfl
@[simp] theorem wr_pins (a v : Nat) : (wr s a v).pins = s.pins := rfl
@[simp] theorem wr_clk (a v : Nat) : (wr s a v).clk = s.clk := rfl
@[simp] theorem wr_blobs (a v : Nat) : (wr s a v).blobs = s.blobs := rfl
@[simp] theorem wr_fns (a v : Nat) : (wr s a v).fns = s.fns := rfl
@[simp] theorem wr_lanes (a v : Nat) : (wr s a v).lanes = s.lanes := rfl
@[simp] theorem wr_laneGroups (a v : Nat) : (wr s a v).laneGroups = s.laneGroups := rfl
@[simp] theorem wr_ports (a v : Nat) : (wr s a v).ports = s.ports := rfl
@[simp] theorem wr_topo (a v : Nat) : (wr s a v).topo = s.topo := rfl
@[simp] theorem wr_e2e (a v : Nat) : (wr s a v).e2e = s.e2e := rfl
@[simp] theorem wr_pools (a v : Nat) : (wr s a v).pools = s.pools := rfl
@[simp] theorem wr_vat (a v : Nat) : (wr s a v).vat = s.vat := rfl
@[simp] theorem wr_cellar (a v : Nat) : (wr s a v).cellar = s.cellar := rfl
@[simp] theorem wr_tbuf (a v : Nat) : (wr s a v).tbuf = s.tbuf := rfl
@[simp] theorem wr_groups (a v : Nat) : (wr s a v).groups = s.groups := rfl
@[simp] theorem wr_groupCommit (a v : Nat) : (wr s a v).groupCommit = s.groupCommit := rfl
@[simp] theorem wr_knead (a v : Nat) : (wr s a v).knead = s.knead := rfl
@[simp] theorem wr_recipes (a v : Nat) : (wr s a v).recipes = s.recipes := rfl
@[simp] theorem wr_stations (a v : Nat) : (wr s a v).stations = s.stations := rfl
@[simp] theorem wr_save (a v : Nat) : (wr s a v).save = s.save := rfl
@[simp] theorem wr_faults (a v : Nat) : (wr s a v).faults = s.faults := rfl
@[simp] theorem wr_fence (a v : Nat) : (wr s a v).fence = s.fence := rfl
@[simp] theorem wr_proof (a v : Nat) : (wr s a v).proof = s.proof := rfl
@[simp] theorem wr_cores (a v : Nat) : (wr s a v).cores = s.cores := rfl
@[simp] theorem wr_mgmt (a v : Nat) : (wr s a v).mgmt = s.mgmt := rfl
@[simp] theorem wr_host (a v : Nat) : (wr s a v).host = s.host := rfl
@[simp] theorem wr_fw (a v : Nat) : (wr s a v).fw = s.fw := rfl
@[simp] theorem wr_cages (a v : Nat) : (wr s a v).cages = s.cages := rfl
@[simp] theorem wr_engineRecords (a v : Nat) : (wr s a v).engineRecords = s.engineRecords := rfl
@[simp] theorem wr_inbox (a v : Nat) : (wr s a v).inbox = s.inbox := rfl
@[simp] theorem wr_outbox (a v : Nat) : (wr s a v).outbox = s.outbox := rfl
@[simp] theorem wr_draws (a v : Nat) : (wr s a v).draws = s.draws := rfl
@[simp] theorem wr_pending (a v : Nat) : (wr s a v).pending = s.pending := rfl

@[simp] theorem setBlob_now (a : Nat) (v : List Byte) : (setBlob s a v).now = s.now := rfl
@[simp] theorem setBlob_boot (a : Nat) (v : List Byte) : (setBlob s a v).boot = s.boot := rfl
@[simp] theorem setBlob_pins (a : Nat) (v : List Byte) : (setBlob s a v).pins = s.pins := rfl
@[simp] theorem setBlob_clk (a : Nat) (v : List Byte) : (setBlob s a v).clk = s.clk := rfl
@[simp] theorem setBlob_regs (a : Nat) (v : List Byte) : (setBlob s a v).regs = s.regs := rfl
@[simp] theorem setBlob_fns (a : Nat) (v : List Byte) : (setBlob s a v).fns = s.fns := rfl
@[simp] theorem setBlob_lanes (a : Nat) (v : List Byte) : (setBlob s a v).lanes = s.lanes := rfl
@[simp] theorem setBlob_laneGroups (a : Nat) (v : List Byte) : (setBlob s a v).laneGroups = s.laneGroups := rfl
@[simp] theorem setBlob_ports (a : Nat) (v : List Byte) : (setBlob s a v).ports = s.ports := rfl
@[simp] theorem setBlob_topo (a : Nat) (v : List Byte) : (setBlob s a v).topo = s.topo := rfl
@[simp] theorem setBlob_e2e (a : Nat) (v : List Byte) : (setBlob s a v).e2e = s.e2e := rfl
@[simp] theorem setBlob_pools (a : Nat) (v : List Byte) : (setBlob s a v).pools = s.pools := rfl
@[simp] theorem setBlob_vat (a : Nat) (v : List Byte) : (setBlob s a v).vat = s.vat := rfl
@[simp] theorem setBlob_cellar (a : Nat) (v : List Byte) : (setBlob s a v).cellar = s.cellar := rfl
@[simp] theorem setBlob_tbuf (a : Nat) (v : List Byte) : (setBlob s a v).tbuf = s.tbuf := rfl
@[simp] theorem setBlob_groups (a : Nat) (v : List Byte) : (setBlob s a v).groups = s.groups := rfl
@[simp] theorem setBlob_groupCommit (a : Nat) (v : List Byte) : (setBlob s a v).groupCommit = s.groupCommit := rfl
@[simp] theorem setBlob_knead (a : Nat) (v : List Byte) : (setBlob s a v).knead = s.knead := rfl
@[simp] theorem setBlob_recipes (a : Nat) (v : List Byte) : (setBlob s a v).recipes = s.recipes := rfl
@[simp] theorem setBlob_stations (a : Nat) (v : List Byte) : (setBlob s a v).stations = s.stations := rfl
@[simp] theorem setBlob_save (a : Nat) (v : List Byte) : (setBlob s a v).save = s.save := rfl
@[simp] theorem setBlob_faults (a : Nat) (v : List Byte) : (setBlob s a v).faults = s.faults := rfl
@[simp] theorem setBlob_fence (a : Nat) (v : List Byte) : (setBlob s a v).fence = s.fence := rfl
@[simp] theorem setBlob_proof (a : Nat) (v : List Byte) : (setBlob s a v).proof = s.proof := rfl
@[simp] theorem setBlob_cores (a : Nat) (v : List Byte) : (setBlob s a v).cores = s.cores := rfl
@[simp] theorem setBlob_mgmt (a : Nat) (v : List Byte) : (setBlob s a v).mgmt = s.mgmt := rfl
@[simp] theorem setBlob_host (a : Nat) (v : List Byte) : (setBlob s a v).host = s.host := rfl
@[simp] theorem setBlob_fw (a : Nat) (v : List Byte) : (setBlob s a v).fw = s.fw := rfl
@[simp] theorem setBlob_cages (a : Nat) (v : List Byte) : (setBlob s a v).cages = s.cages := rfl
@[simp] theorem setBlob_engineRecords (a : Nat) (v : List Byte) : (setBlob s a v).engineRecords = s.engineRecords := rfl
@[simp] theorem setBlob_inbox (a : Nat) (v : List Byte) : (setBlob s a v).inbox = s.inbox := rfl
@[simp] theorem setBlob_outbox (a : Nat) (v : List Byte) : (setBlob s a v).outbox = s.outbox := rfl
@[simp] theorem setBlob_draws (a : Nat) (v : List Byte) : (setBlob s a v).draws = s.draws := rfl
@[simp] theorem setBlob_pending (a : Nat) (v : List Byte) : (setBlob s a v).pending = s.pending := rfl

@[simp] theorem setFn_now (a : Nat) (f : Fn) : (setFn s a f).now = s.now := rfl
@[simp] theorem setFn_boot (a : Nat) (f : Fn) : (setFn s a f).boot = s.boot := rfl
@[simp] theorem setFn_pins (a : Nat) (f : Fn) : (setFn s a f).pins = s.pins := rfl
@[simp] theorem setFn_clk (a : Nat) (f : Fn) : (setFn s a f).clk = s.clk := rfl
@[simp] theorem setFn_regs (a : Nat) (f : Fn) : (setFn s a f).regs = s.regs := rfl
@[simp] theorem setFn_blobs (a : Nat) (f : Fn) : (setFn s a f).blobs = s.blobs := rfl
@[simp] theorem setFn_lanes (a : Nat) (f : Fn) : (setFn s a f).lanes = s.lanes := rfl
@[simp] theorem setFn_laneGroups (a : Nat) (f : Fn) : (setFn s a f).laneGroups = s.laneGroups := rfl
@[simp] theorem setFn_ports (a : Nat) (f : Fn) : (setFn s a f).ports = s.ports := rfl
@[simp] theorem setFn_topo (a : Nat) (f : Fn) : (setFn s a f).topo = s.topo := rfl
@[simp] theorem setFn_e2e (a : Nat) (f : Fn) : (setFn s a f).e2e = s.e2e := rfl
@[simp] theorem setFn_pools (a : Nat) (f : Fn) : (setFn s a f).pools = s.pools := rfl
@[simp] theorem setFn_vat (a : Nat) (f : Fn) : (setFn s a f).vat = s.vat := rfl
@[simp] theorem setFn_cellar (a : Nat) (f : Fn) : (setFn s a f).cellar = s.cellar := rfl
@[simp] theorem setFn_tbuf (a : Nat) (f : Fn) : (setFn s a f).tbuf = s.tbuf := rfl
@[simp] theorem setFn_groups (a : Nat) (f : Fn) : (setFn s a f).groups = s.groups := rfl
@[simp] theorem setFn_groupCommit (a : Nat) (f : Fn) : (setFn s a f).groupCommit = s.groupCommit := rfl
@[simp] theorem setFn_knead (a : Nat) (f : Fn) : (setFn s a f).knead = s.knead := rfl
@[simp] theorem setFn_recipes (a : Nat) (f : Fn) : (setFn s a f).recipes = s.recipes := rfl
@[simp] theorem setFn_stations (a : Nat) (f : Fn) : (setFn s a f).stations = s.stations := rfl
@[simp] theorem setFn_save (a : Nat) (f : Fn) : (setFn s a f).save = s.save := rfl
@[simp] theorem setFn_faults (a : Nat) (f : Fn) : (setFn s a f).faults = s.faults := rfl
@[simp] theorem setFn_fence (a : Nat) (f : Fn) : (setFn s a f).fence = s.fence := rfl
@[simp] theorem setFn_proof (a : Nat) (f : Fn) : (setFn s a f).proof = s.proof := rfl
@[simp] theorem setFn_cores (a : Nat) (f : Fn) : (setFn s a f).cores = s.cores := rfl
@[simp] theorem setFn_mgmt (a : Nat) (f : Fn) : (setFn s a f).mgmt = s.mgmt := rfl
@[simp] theorem setFn_host (a : Nat) (f : Fn) : (setFn s a f).host = s.host := rfl
@[simp] theorem setFn_fw (a : Nat) (f : Fn) : (setFn s a f).fw = s.fw := rfl
@[simp] theorem setFn_cages (a : Nat) (f : Fn) : (setFn s a f).cages = s.cages := rfl
@[simp] theorem setFn_engineRecords (a : Nat) (f : Fn) : (setFn s a f).engineRecords = s.engineRecords := rfl
@[simp] theorem setFn_inbox (a : Nat) (f : Fn) : (setFn s a f).inbox = s.inbox := rfl
@[simp] theorem setFn_outbox (a : Nat) (f : Fn) : (setFn s a f).outbox = s.outbox := rfl
@[simp] theorem setFn_draws (a : Nat) (f : Fn) : (setFn s a f).draws = s.draws := rfl
@[simp] theorem setFn_pending (a : Nat) (f : Fn) : (setFn s a f).pending = s.pending := rfl

@[simp] theorem setPort_now (p : Nat) (x : Port) : (setPort s p x).now = s.now := rfl
@[simp] theorem setPort_boot (p : Nat) (x : Port) : (setPort s p x).boot = s.boot := rfl
@[simp] theorem setPort_pins (p : Nat) (x : Port) : (setPort s p x).pins = s.pins := rfl
@[simp] theorem setPort_clk (p : Nat) (x : Port) : (setPort s p x).clk = s.clk := rfl
@[simp] theorem setPort_regs (p : Nat) (x : Port) : (setPort s p x).regs = s.regs := rfl
@[simp] theorem setPort_blobs (p : Nat) (x : Port) : (setPort s p x).blobs = s.blobs := rfl
@[simp] theorem setPort_fns (p : Nat) (x : Port) : (setPort s p x).fns = s.fns := rfl
@[simp] theorem setPort_lanes (p : Nat) (x : Port) : (setPort s p x).lanes = s.lanes := rfl
@[simp] theorem setPort_laneGroups (p : Nat) (x : Port) : (setPort s p x).laneGroups = s.laneGroups := rfl
@[simp] theorem setPort_topo (p : Nat) (x : Port) : (setPort s p x).topo = s.topo := rfl
@[simp] theorem setPort_e2e (p : Nat) (x : Port) : (setPort s p x).e2e = s.e2e := rfl
@[simp] theorem setPort_pools (p : Nat) (x : Port) : (setPort s p x).pools = s.pools := rfl
@[simp] theorem setPort_vat (p : Nat) (x : Port) : (setPort s p x).vat = s.vat := rfl
@[simp] theorem setPort_cellar (p : Nat) (x : Port) : (setPort s p x).cellar = s.cellar := rfl
@[simp] theorem setPort_tbuf (p : Nat) (x : Port) : (setPort s p x).tbuf = s.tbuf := rfl
@[simp] theorem setPort_groups (p : Nat) (x : Port) : (setPort s p x).groups = s.groups := rfl
@[simp] theorem setPort_groupCommit (p : Nat) (x : Port) : (setPort s p x).groupCommit = s.groupCommit := rfl
@[simp] theorem setPort_knead (p : Nat) (x : Port) : (setPort s p x).knead = s.knead := rfl
@[simp] theorem setPort_recipes (p : Nat) (x : Port) : (setPort s p x).recipes = s.recipes := rfl
@[simp] theorem setPort_stations (p : Nat) (x : Port) : (setPort s p x).stations = s.stations := rfl
@[simp] theorem setPort_save (p : Nat) (x : Port) : (setPort s p x).save = s.save := rfl
@[simp] theorem setPort_faults (p : Nat) (x : Port) : (setPort s p x).faults = s.faults := rfl
@[simp] theorem setPort_fence (p : Nat) (x : Port) : (setPort s p x).fence = s.fence := rfl
@[simp] theorem setPort_proof (p : Nat) (x : Port) : (setPort s p x).proof = s.proof := rfl
@[simp] theorem setPort_cores (p : Nat) (x : Port) : (setPort s p x).cores = s.cores := rfl
@[simp] theorem setPort_mgmt (p : Nat) (x : Port) : (setPort s p x).mgmt = s.mgmt := rfl
@[simp] theorem setPort_host (p : Nat) (x : Port) : (setPort s p x).host = s.host := rfl
@[simp] theorem setPort_fw (p : Nat) (x : Port) : (setPort s p x).fw = s.fw := rfl
@[simp] theorem setPort_cages (p : Nat) (x : Port) : (setPort s p x).cages = s.cages := rfl
@[simp] theorem setPort_engineRecords (p : Nat) (x : Port) : (setPort s p x).engineRecords = s.engineRecords := rfl
@[simp] theorem setPort_inbox (p : Nat) (x : Port) : (setPort s p x).inbox = s.inbox := rfl
@[simp] theorem setPort_outbox (p : Nat) (x : Port) : (setPort s p x).outbox = s.outbox := rfl
@[simp] theorem setPort_draws (p : Nat) (x : Port) : (setPort s p x).draws = s.draws := rfl
@[simp] theorem setPort_pending (p : Nat) (x : Port) : (setPort s p x).pending = s.pending := rfl

@[simp] theorem setLane_now (l : Nat) (x : Lane) : (setLane s l x).now = s.now := rfl
@[simp] theorem setLane_boot (l : Nat) (x : Lane) : (setLane s l x).boot = s.boot := rfl
@[simp] theorem setLane_pins (l : Nat) (x : Lane) : (setLane s l x).pins = s.pins := rfl
@[simp] theorem setLane_clk (l : Nat) (x : Lane) : (setLane s l x).clk = s.clk := rfl
@[simp] theorem setLane_regs (l : Nat) (x : Lane) : (setLane s l x).regs = s.regs := rfl
@[simp] theorem setLane_blobs (l : Nat) (x : Lane) : (setLane s l x).blobs = s.blobs := rfl
@[simp] theorem setLane_fns (l : Nat) (x : Lane) : (setLane s l x).fns = s.fns := rfl
@[simp] theorem setLane_laneGroups (l : Nat) (x : Lane) : (setLane s l x).laneGroups = s.laneGroups := rfl
@[simp] theorem setLane_ports (l : Nat) (x : Lane) : (setLane s l x).ports = s.ports := rfl
@[simp] theorem setLane_topo (l : Nat) (x : Lane) : (setLane s l x).topo = s.topo := rfl
@[simp] theorem setLane_e2e (l : Nat) (x : Lane) : (setLane s l x).e2e = s.e2e := rfl
@[simp] theorem setLane_pools (l : Nat) (x : Lane) : (setLane s l x).pools = s.pools := rfl
@[simp] theorem setLane_vat (l : Nat) (x : Lane) : (setLane s l x).vat = s.vat := rfl
@[simp] theorem setLane_cellar (l : Nat) (x : Lane) : (setLane s l x).cellar = s.cellar := rfl
@[simp] theorem setLane_tbuf (l : Nat) (x : Lane) : (setLane s l x).tbuf = s.tbuf := rfl
@[simp] theorem setLane_groups (l : Nat) (x : Lane) : (setLane s l x).groups = s.groups := rfl
@[simp] theorem setLane_groupCommit (l : Nat) (x : Lane) : (setLane s l x).groupCommit = s.groupCommit := rfl
@[simp] theorem setLane_knead (l : Nat) (x : Lane) : (setLane s l x).knead = s.knead := rfl
@[simp] theorem setLane_recipes (l : Nat) (x : Lane) : (setLane s l x).recipes = s.recipes := rfl
@[simp] theorem setLane_stations (l : Nat) (x : Lane) : (setLane s l x).stations = s.stations := rfl
@[simp] theorem setLane_save (l : Nat) (x : Lane) : (setLane s l x).save = s.save := rfl
@[simp] theorem setLane_faults (l : Nat) (x : Lane) : (setLane s l x).faults = s.faults := rfl
@[simp] theorem setLane_fence (l : Nat) (x : Lane) : (setLane s l x).fence = s.fence := rfl
@[simp] theorem setLane_proof (l : Nat) (x : Lane) : (setLane s l x).proof = s.proof := rfl
@[simp] theorem setLane_cores (l : Nat) (x : Lane) : (setLane s l x).cores = s.cores := rfl
@[simp] theorem setLane_mgmt (l : Nat) (x : Lane) : (setLane s l x).mgmt = s.mgmt := rfl
@[simp] theorem setLane_host (l : Nat) (x : Lane) : (setLane s l x).host = s.host := rfl
@[simp] theorem setLane_fw (l : Nat) (x : Lane) : (setLane s l x).fw = s.fw := rfl
@[simp] theorem setLane_cages (l : Nat) (x : Lane) : (setLane s l x).cages = s.cages := rfl
@[simp] theorem setLane_engineRecords (l : Nat) (x : Lane) : (setLane s l x).engineRecords = s.engineRecords := rfl
@[simp] theorem setLane_inbox (l : Nat) (x : Lane) : (setLane s l x).inbox = s.inbox := rfl
@[simp] theorem setLane_outbox (l : Nat) (x : Lane) : (setLane s l x).outbox = s.outbox := rfl
@[simp] theorem setLane_draws (l : Nat) (x : Lane) : (setLane s l x).draws = s.draws := rfl
@[simp] theorem setLane_pending (l : Nat) (x : Lane) : (setLane s l x).pending = s.pending := rfl

@[simp] theorem setLg_now (g : Nat) (x : LaneGroup) : (setLg s g x).now = s.now := rfl
@[simp] theorem setLg_boot (g : Nat) (x : LaneGroup) : (setLg s g x).boot = s.boot := rfl
@[simp] theorem setLg_pins (g : Nat) (x : LaneGroup) : (setLg s g x).pins = s.pins := rfl
@[simp] theorem setLg_clk (g : Nat) (x : LaneGroup) : (setLg s g x).clk = s.clk := rfl
@[simp] theorem setLg_regs (g : Nat) (x : LaneGroup) : (setLg s g x).regs = s.regs := rfl
@[simp] theorem setLg_blobs (g : Nat) (x : LaneGroup) : (setLg s g x).blobs = s.blobs := rfl
@[simp] theorem setLg_fns (g : Nat) (x : LaneGroup) : (setLg s g x).fns = s.fns := rfl
@[simp] theorem setLg_lanes (g : Nat) (x : LaneGroup) : (setLg s g x).lanes = s.lanes := rfl
@[simp] theorem setLg_ports (g : Nat) (x : LaneGroup) : (setLg s g x).ports = s.ports := rfl
@[simp] theorem setLg_topo (g : Nat) (x : LaneGroup) : (setLg s g x).topo = s.topo := rfl
@[simp] theorem setLg_e2e (g : Nat) (x : LaneGroup) : (setLg s g x).e2e = s.e2e := rfl
@[simp] theorem setLg_pools (g : Nat) (x : LaneGroup) : (setLg s g x).pools = s.pools := rfl
@[simp] theorem setLg_vat (g : Nat) (x : LaneGroup) : (setLg s g x).vat = s.vat := rfl
@[simp] theorem setLg_cellar (g : Nat) (x : LaneGroup) : (setLg s g x).cellar = s.cellar := rfl
@[simp] theorem setLg_tbuf (g : Nat) (x : LaneGroup) : (setLg s g x).tbuf = s.tbuf := rfl
@[simp] theorem setLg_groups (g : Nat) (x : LaneGroup) : (setLg s g x).groups = s.groups := rfl
@[simp] theorem setLg_groupCommit (g : Nat) (x : LaneGroup) : (setLg s g x).groupCommit = s.groupCommit := rfl
@[simp] theorem setLg_knead (g : Nat) (x : LaneGroup) : (setLg s g x).knead = s.knead := rfl
@[simp] theorem setLg_recipes (g : Nat) (x : LaneGroup) : (setLg s g x).recipes = s.recipes := rfl
@[simp] theorem setLg_stations (g : Nat) (x : LaneGroup) : (setLg s g x).stations = s.stations := rfl
@[simp] theorem setLg_save (g : Nat) (x : LaneGroup) : (setLg s g x).save = s.save := rfl
@[simp] theorem setLg_faults (g : Nat) (x : LaneGroup) : (setLg s g x).faults = s.faults := rfl
@[simp] theorem setLg_fence (g : Nat) (x : LaneGroup) : (setLg s g x).fence = s.fence := rfl
@[simp] theorem setLg_proof (g : Nat) (x : LaneGroup) : (setLg s g x).proof = s.proof := rfl
@[simp] theorem setLg_cores (g : Nat) (x : LaneGroup) : (setLg s g x).cores = s.cores := rfl
@[simp] theorem setLg_mgmt (g : Nat) (x : LaneGroup) : (setLg s g x).mgmt = s.mgmt := rfl
@[simp] theorem setLg_host (g : Nat) (x : LaneGroup) : (setLg s g x).host = s.host := rfl
@[simp] theorem setLg_fw (g : Nat) (x : LaneGroup) : (setLg s g x).fw = s.fw := rfl
@[simp] theorem setLg_cages (g : Nat) (x : LaneGroup) : (setLg s g x).cages = s.cages := rfl
@[simp] theorem setLg_engineRecords (g : Nat) (x : LaneGroup) : (setLg s g x).engineRecords = s.engineRecords := rfl
@[simp] theorem setLg_inbox (g : Nat) (x : LaneGroup) : (setLg s g x).inbox = s.inbox := rfl
@[simp] theorem setLg_outbox (g : Nat) (x : LaneGroup) : (setLg s g x).outbox = s.outbox := rfl
@[simp] theorem setLg_draws (g : Nat) (x : LaneGroup) : (setLg s g x).draws = s.draws := rfl
@[simp] theorem setLg_pending (g : Nat) (x : LaneGroup) : (setLg s g x).pending = s.pending := rfl

@[simp] theorem emit_now (o : Out) : (emit s o).now = s.now := rfl
@[simp] theorem emit_boot (o : Out) : (emit s o).boot = s.boot := rfl
@[simp] theorem emit_pins (o : Out) : (emit s o).pins = s.pins := rfl
@[simp] theorem emit_clk (o : Out) : (emit s o).clk = s.clk := rfl
@[simp] theorem emit_regs (o : Out) : (emit s o).regs = s.regs := rfl
@[simp] theorem emit_blobs (o : Out) : (emit s o).blobs = s.blobs := rfl
@[simp] theorem emit_fns (o : Out) : (emit s o).fns = s.fns := rfl
@[simp] theorem emit_lanes (o : Out) : (emit s o).lanes = s.lanes := rfl
@[simp] theorem emit_laneGroups (o : Out) : (emit s o).laneGroups = s.laneGroups := rfl
@[simp] theorem emit_ports (o : Out) : (emit s o).ports = s.ports := rfl
@[simp] theorem emit_topo (o : Out) : (emit s o).topo = s.topo := rfl
@[simp] theorem emit_e2e (o : Out) : (emit s o).e2e = s.e2e := rfl
@[simp] theorem emit_pools (o : Out) : (emit s o).pools = s.pools := rfl
@[simp] theorem emit_vat (o : Out) : (emit s o).vat = s.vat := rfl
@[simp] theorem emit_cellar (o : Out) : (emit s o).cellar = s.cellar := rfl
@[simp] theorem emit_tbuf (o : Out) : (emit s o).tbuf = s.tbuf := rfl
@[simp] theorem emit_groups (o : Out) : (emit s o).groups = s.groups := rfl
@[simp] theorem emit_groupCommit (o : Out) : (emit s o).groupCommit = s.groupCommit := rfl
@[simp] theorem emit_knead (o : Out) : (emit s o).knead = s.knead := rfl
@[simp] theorem emit_recipes (o : Out) : (emit s o).recipes = s.recipes := rfl
@[simp] theorem emit_stations (o : Out) : (emit s o).stations = s.stations := rfl
@[simp] theorem emit_save (o : Out) : (emit s o).save = s.save := rfl
@[simp] theorem emit_faults (o : Out) : (emit s o).faults = s.faults := rfl
@[simp] theorem emit_fence (o : Out) : (emit s o).fence = s.fence := rfl
@[simp] theorem emit_proof (o : Out) : (emit s o).proof = s.proof := rfl
@[simp] theorem emit_cores (o : Out) : (emit s o).cores = s.cores := rfl
@[simp] theorem emit_mgmt (o : Out) : (emit s o).mgmt = s.mgmt := rfl
@[simp] theorem emit_host (o : Out) : (emit s o).host = s.host := rfl
@[simp] theorem emit_fw (o : Out) : (emit s o).fw = s.fw := rfl
@[simp] theorem emit_cages (o : Out) : (emit s o).cages = s.cages := rfl
@[simp] theorem emit_engineRecords (o : Out) : (emit s o).engineRecords = s.engineRecords := rfl
@[simp] theorem emit_inbox (o : Out) : (emit s o).inbox = s.inbox := rfl
@[simp] theorem emit_draws (o : Out) : (emit s o).draws = s.draws := rfl
@[simp] theorem emit_pending (o : Out) : (emit s o).pending = s.pending := rfl

@[simp] theorem setSession_now (x : Session) : (setSession s x).now = s.now := rfl
@[simp] theorem setSession_boot (x : Session) : (setSession s x).boot = s.boot := rfl
@[simp] theorem setSession_pins (x : Session) : (setSession s x).pins = s.pins := rfl
@[simp] theorem setSession_clk (x : Session) : (setSession s x).clk = s.clk := rfl
@[simp] theorem setSession_regs (x : Session) : (setSession s x).regs = s.regs := rfl
@[simp] theorem setSession_blobs (x : Session) : (setSession s x).blobs = s.blobs := rfl
@[simp] theorem setSession_fns (x : Session) : (setSession s x).fns = s.fns := rfl
@[simp] theorem setSession_lanes (x : Session) : (setSession s x).lanes = s.lanes := rfl
@[simp] theorem setSession_laneGroups (x : Session) : (setSession s x).laneGroups = s.laneGroups := rfl
@[simp] theorem setSession_ports (x : Session) : (setSession s x).ports = s.ports := rfl
@[simp] theorem setSession_topo (x : Session) : (setSession s x).topo = s.topo := rfl
@[simp] theorem setSession_e2e (x : Session) : (setSession s x).e2e = s.e2e := rfl
@[simp] theorem setSession_pools (x : Session) : (setSession s x).pools = s.pools := rfl
@[simp] theorem setSession_vat (x : Session) : (setSession s x).vat = s.vat := rfl
@[simp] theorem setSession_cellar (x : Session) : (setSession s x).cellar = s.cellar := rfl
@[simp] theorem setSession_tbuf (x : Session) : (setSession s x).tbuf = s.tbuf := rfl
@[simp] theorem setSession_groups (x : Session) : (setSession s x).groups = s.groups := rfl
@[simp] theorem setSession_groupCommit (x : Session) : (setSession s x).groupCommit = s.groupCommit := rfl
@[simp] theorem setSession_knead (x : Session) : (setSession s x).knead = s.knead := rfl
@[simp] theorem setSession_recipes (x : Session) : (setSession s x).recipes = s.recipes := rfl
@[simp] theorem setSession_stations (x : Session) : (setSession s x).stations = s.stations := rfl
@[simp] theorem setSession_save (x : Session) : (setSession s x).save = s.save := rfl
@[simp] theorem setSession_faults (x : Session) : (setSession s x).faults = s.faults := rfl
@[simp] theorem setSession_fence (x : Session) : (setSession s x).fence = s.fence := rfl
@[simp] theorem setSession_proof (x : Session) : (setSession s x).proof = s.proof := rfl
@[simp] theorem setSession_cores (x : Session) : (setSession s x).cores = s.cores := rfl
@[simp] theorem setSession_host (x : Session) : (setSession s x).host = s.host := rfl
@[simp] theorem setSession_fw (x : Session) : (setSession s x).fw = s.fw := rfl
@[simp] theorem setSession_cages (x : Session) : (setSession s x).cages = s.cages := rfl
@[simp] theorem setSession_engineRecords (x : Session) : (setSession s x).engineRecords = s.engineRecords := rfl
@[simp] theorem setSession_inbox (x : Session) : (setSession s x).inbox = s.inbox := rfl
@[simp] theorem setSession_outbox (x : Session) : (setSession s x).outbox = s.outbox := rfl
@[simp] theorem setSession_draws (x : Session) : (setSession s x).draws = s.draws := rfl
@[simp] theorem setSession_pending (x : Session) : (setSession s x).pending = s.pending := rfl

@[simp] theorem setRecord_now (r : Record) : (setRecord s r).now = s.now := rfl
@[simp] theorem setRecord_boot (r : Record) : (setRecord s r).boot = s.boot := rfl
@[simp] theorem setRecord_pins (r : Record) : (setRecord s r).pins = s.pins := rfl
@[simp] theorem setRecord_clk (r : Record) : (setRecord s r).clk = s.clk := rfl
@[simp] theorem setRecord_regs (r : Record) : (setRecord s r).regs = s.regs := rfl
@[simp] theorem setRecord_blobs (r : Record) : (setRecord s r).blobs = s.blobs := rfl
@[simp] theorem setRecord_fns (r : Record) : (setRecord s r).fns = s.fns := rfl
@[simp] theorem setRecord_lanes (r : Record) : (setRecord s r).lanes = s.lanes := rfl
@[simp] theorem setRecord_laneGroups (r : Record) : (setRecord s r).laneGroups = s.laneGroups := rfl
@[simp] theorem setRecord_ports (r : Record) : (setRecord s r).ports = s.ports := rfl
@[simp] theorem setRecord_topo (r : Record) : (setRecord s r).topo = s.topo := rfl
@[simp] theorem setRecord_e2e (r : Record) : (setRecord s r).e2e = s.e2e := rfl
@[simp] theorem setRecord_pools (r : Record) : (setRecord s r).pools = s.pools := rfl
@[simp] theorem setRecord_vat (r : Record) : (setRecord s r).vat = s.vat := rfl
@[simp] theorem setRecord_cellar (r : Record) : (setRecord s r).cellar = s.cellar := rfl
@[simp] theorem setRecord_tbuf (r : Record) : (setRecord s r).tbuf = s.tbuf := rfl
@[simp] theorem setRecord_groups (r : Record) : (setRecord s r).groups = s.groups := rfl
@[simp] theorem setRecord_groupCommit (r : Record) : (setRecord s r).groupCommit = s.groupCommit := rfl
@[simp] theorem setRecord_knead (r : Record) : (setRecord s r).knead = s.knead := rfl
@[simp] theorem setRecord_recipes (r : Record) : (setRecord s r).recipes = s.recipes := rfl
@[simp] theorem setRecord_stations (r : Record) : (setRecord s r).stations = s.stations := rfl
@[simp] theorem setRecord_save (r : Record) : (setRecord s r).save = s.save := rfl
@[simp] theorem setRecord_fence (r : Record) : (setRecord s r).fence = s.fence := rfl
@[simp] theorem setRecord_proof (r : Record) : (setRecord s r).proof = s.proof := rfl
@[simp] theorem setRecord_cores (r : Record) : (setRecord s r).cores = s.cores := rfl
@[simp] theorem setRecord_mgmt (r : Record) : (setRecord s r).mgmt = s.mgmt := rfl
@[simp] theorem setRecord_host (r : Record) : (setRecord s r).host = s.host := rfl
@[simp] theorem setRecord_fw (r : Record) : (setRecord s r).fw = s.fw := rfl
@[simp] theorem setRecord_cages (r : Record) : (setRecord s r).cages = s.cages := rfl
@[simp] theorem setRecord_engineRecords (r : Record) : (setRecord s r).engineRecords = s.engineRecords := rfl
@[simp] theorem setRecord_inbox (r : Record) : (setRecord s r).inbox = s.inbox := rfl
@[simp] theorem setRecord_outbox (r : Record) : (setRecord s r).outbox = s.outbox := rfl
@[simp] theorem setRecord_draws (r : Record) : (setRecord s r).draws = s.draws := rfl
@[simp] theorem setRecord_pending (r : Record) : (setRecord s r).pending = s.pending := rfl

@[simp] theorem setTag_now (n : Nat) (t : Tag) : (setTag s n t).now = s.now := rfl
@[simp] theorem setTag_boot (n : Nat) (t : Tag) : (setTag s n t).boot = s.boot := rfl
@[simp] theorem setTag_pins (n : Nat) (t : Tag) : (setTag s n t).pins = s.pins := rfl
@[simp] theorem setTag_clk (n : Nat) (t : Tag) : (setTag s n t).clk = s.clk := rfl
@[simp] theorem setTag_regs (n : Nat) (t : Tag) : (setTag s n t).regs = s.regs := rfl
@[simp] theorem setTag_blobs (n : Nat) (t : Tag) : (setTag s n t).blobs = s.blobs := rfl
@[simp] theorem setTag_fns (n : Nat) (t : Tag) : (setTag s n t).fns = s.fns := rfl
@[simp] theorem setTag_lanes (n : Nat) (t : Tag) : (setTag s n t).lanes = s.lanes := rfl
@[simp] theorem setTag_laneGroups (n : Nat) (t : Tag) : (setTag s n t).laneGroups = s.laneGroups := rfl
@[simp] theorem setTag_ports (n : Nat) (t : Tag) : (setTag s n t).ports = s.ports := rfl
@[simp] theorem setTag_topo (n : Nat) (t : Tag) : (setTag s n t).topo = s.topo := rfl
@[simp] theorem setTag_e2e (n : Nat) (t : Tag) : (setTag s n t).e2e = s.e2e := rfl
@[simp] theorem setTag_pools (n : Nat) (t : Tag) : (setTag s n t).pools = s.pools := rfl
@[simp] theorem setTag_cellar (n : Nat) (t : Tag) : (setTag s n t).cellar = s.cellar := rfl
@[simp] theorem setTag_tbuf (n : Nat) (t : Tag) : (setTag s n t).tbuf = s.tbuf := rfl
@[simp] theorem setTag_groups (n : Nat) (t : Tag) : (setTag s n t).groups = s.groups := rfl
@[simp] theorem setTag_groupCommit (n : Nat) (t : Tag) : (setTag s n t).groupCommit = s.groupCommit := rfl
@[simp] theorem setTag_knead (n : Nat) (t : Tag) : (setTag s n t).knead = s.knead := rfl
@[simp] theorem setTag_recipes (n : Nat) (t : Tag) : (setTag s n t).recipes = s.recipes := rfl
@[simp] theorem setTag_stations (n : Nat) (t : Tag) : (setTag s n t).stations = s.stations := rfl
@[simp] theorem setTag_save (n : Nat) (t : Tag) : (setTag s n t).save = s.save := rfl
@[simp] theorem setTag_faults (n : Nat) (t : Tag) : (setTag s n t).faults = s.faults := rfl
@[simp] theorem setTag_fence (n : Nat) (t : Tag) : (setTag s n t).fence = s.fence := rfl
@[simp] theorem setTag_proof (n : Nat) (t : Tag) : (setTag s n t).proof = s.proof := rfl
@[simp] theorem setTag_cores (n : Nat) (t : Tag) : (setTag s n t).cores = s.cores := rfl
@[simp] theorem setTag_mgmt (n : Nat) (t : Tag) : (setTag s n t).mgmt = s.mgmt := rfl
@[simp] theorem setTag_host (n : Nat) (t : Tag) : (setTag s n t).host = s.host := rfl
@[simp] theorem setTag_fw (n : Nat) (t : Tag) : (setTag s n t).fw = s.fw := rfl
@[simp] theorem setTag_cages (n : Nat) (t : Tag) : (setTag s n t).cages = s.cages := rfl
@[simp] theorem setTag_engineRecords (n : Nat) (t : Tag) : (setTag s n t).engineRecords = s.engineRecords := rfl
@[simp] theorem setTag_inbox (n : Nat) (t : Tag) : (setTag s n t).inbox = s.inbox := rfl
@[simp] theorem setTag_outbox (n : Nat) (t : Tag) : (setTag s n t).outbox = s.outbox := rfl
@[simp] theorem setTag_draws (n : Nat) (t : Tag) : (setTag s n t).draws = s.draws := rfl
@[simp] theorem setTag_pending (n : Nat) (t : Tag) : (setTag s n t).pending = s.pending := rfl

@[simp] theorem setGroup_now (g : Nat) (x : Group) : (setGroup s g x).now = s.now := rfl
@[simp] theorem setGroup_boot (g : Nat) (x : Group) : (setGroup s g x).boot = s.boot := rfl
@[simp] theorem setGroup_pins (g : Nat) (x : Group) : (setGroup s g x).pins = s.pins := rfl
@[simp] theorem setGroup_clk (g : Nat) (x : Group) : (setGroup s g x).clk = s.clk := rfl
@[simp] theorem setGroup_regs (g : Nat) (x : Group) : (setGroup s g x).regs = s.regs := rfl
@[simp] theorem setGroup_blobs (g : Nat) (x : Group) : (setGroup s g x).blobs = s.blobs := rfl
@[simp] theorem setGroup_fns (g : Nat) (x : Group) : (setGroup s g x).fns = s.fns := rfl
@[simp] theorem setGroup_lanes (g : Nat) (x : Group) : (setGroup s g x).lanes = s.lanes := rfl
@[simp] theorem setGroup_laneGroups (g : Nat) (x : Group) : (setGroup s g x).laneGroups = s.laneGroups := rfl
@[simp] theorem setGroup_ports (g : Nat) (x : Group) : (setGroup s g x).ports = s.ports := rfl
@[simp] theorem setGroup_topo (g : Nat) (x : Group) : (setGroup s g x).topo = s.topo := rfl
@[simp] theorem setGroup_e2e (g : Nat) (x : Group) : (setGroup s g x).e2e = s.e2e := rfl
@[simp] theorem setGroup_pools (g : Nat) (x : Group) : (setGroup s g x).pools = s.pools := rfl
@[simp] theorem setGroup_vat (g : Nat) (x : Group) : (setGroup s g x).vat = s.vat := rfl
@[simp] theorem setGroup_cellar (g : Nat) (x : Group) : (setGroup s g x).cellar = s.cellar := rfl
@[simp] theorem setGroup_tbuf (g : Nat) (x : Group) : (setGroup s g x).tbuf = s.tbuf := rfl
@[simp] theorem setGroup_groupCommit (g : Nat) (x : Group) : (setGroup s g x).groupCommit = s.groupCommit := rfl
@[simp] theorem setGroup_knead (g : Nat) (x : Group) : (setGroup s g x).knead = s.knead := rfl
@[simp] theorem setGroup_recipes (g : Nat) (x : Group) : (setGroup s g x).recipes = s.recipes := rfl
@[simp] theorem setGroup_stations (g : Nat) (x : Group) : (setGroup s g x).stations = s.stations := rfl
@[simp] theorem setGroup_save (g : Nat) (x : Group) : (setGroup s g x).save = s.save := rfl
@[simp] theorem setGroup_faults (g : Nat) (x : Group) : (setGroup s g x).faults = s.faults := rfl
@[simp] theorem setGroup_fence (g : Nat) (x : Group) : (setGroup s g x).fence = s.fence := rfl
@[simp] theorem setGroup_proof (g : Nat) (x : Group) : (setGroup s g x).proof = s.proof := rfl
@[simp] theorem setGroup_cores (g : Nat) (x : Group) : (setGroup s g x).cores = s.cores := rfl
@[simp] theorem setGroup_mgmt (g : Nat) (x : Group) : (setGroup s g x).mgmt = s.mgmt := rfl
@[simp] theorem setGroup_host (g : Nat) (x : Group) : (setGroup s g x).host = s.host := rfl
@[simp] theorem setGroup_fw (g : Nat) (x : Group) : (setGroup s g x).fw = s.fw := rfl
@[simp] theorem setGroup_cages (g : Nat) (x : Group) : (setGroup s g x).cages = s.cages := rfl
@[simp] theorem setGroup_engineRecords (g : Nat) (x : Group) : (setGroup s g x).engineRecords = s.engineRecords := rfl
@[simp] theorem setGroup_inbox (g : Nat) (x : Group) : (setGroup s g x).inbox = s.inbox := rfl
@[simp] theorem setGroup_outbox (g : Nat) (x : Group) : (setGroup s g x).outbox = s.outbox := rfl
@[simp] theorem setGroup_draws (g : Nat) (x : Group) : (setGroup s g x).draws = s.draws := rfl
@[simp] theorem setGroup_pending (g : Nat) (x : Group) : (setGroup s g x).pending = s.pending := rfl

@[simp] theorem setInv_now (i : Nat) (v : Inv) : (setInv s i v).now = s.now := rfl
@[simp] theorem setInv_boot (i : Nat) (v : Inv) : (setInv s i v).boot = s.boot := rfl
@[simp] theorem setInv_pins (i : Nat) (v : Inv) : (setInv s i v).pins = s.pins := rfl
@[simp] theorem setInv_clk (i : Nat) (v : Inv) : (setInv s i v).clk = s.clk := rfl
@[simp] theorem setInv_regs (i : Nat) (v : Inv) : (setInv s i v).regs = s.regs := rfl
@[simp] theorem setInv_blobs (i : Nat) (v : Inv) : (setInv s i v).blobs = s.blobs := rfl
@[simp] theorem setInv_fns (i : Nat) (v : Inv) : (setInv s i v).fns = s.fns := rfl
@[simp] theorem setInv_lanes (i : Nat) (v : Inv) : (setInv s i v).lanes = s.lanes := rfl
@[simp] theorem setInv_laneGroups (i : Nat) (v : Inv) : (setInv s i v).laneGroups = s.laneGroups := rfl
@[simp] theorem setInv_ports (i : Nat) (v : Inv) : (setInv s i v).ports = s.ports := rfl
@[simp] theorem setInv_topo (i : Nat) (v : Inv) : (setInv s i v).topo = s.topo := rfl
@[simp] theorem setInv_e2e (i : Nat) (v : Inv) : (setInv s i v).e2e = s.e2e := rfl
@[simp] theorem setInv_pools (i : Nat) (v : Inv) : (setInv s i v).pools = s.pools := rfl
@[simp] theorem setInv_vat (i : Nat) (v : Inv) : (setInv s i v).vat = s.vat := rfl
@[simp] theorem setInv_cellar (i : Nat) (v : Inv) : (setInv s i v).cellar = s.cellar := rfl
@[simp] theorem setInv_tbuf (i : Nat) (v : Inv) : (setInv s i v).tbuf = s.tbuf := rfl
@[simp] theorem setInv_groups (i : Nat) (v : Inv) : (setInv s i v).groups = s.groups := rfl
@[simp] theorem setInv_groupCommit (i : Nat) (v : Inv) : (setInv s i v).groupCommit = s.groupCommit := rfl
@[simp] theorem setInv_knead (i : Nat) (v : Inv) : (setInv s i v).knead = s.knead := rfl
@[simp] theorem setInv_stations (i : Nat) (v : Inv) : (setInv s i v).stations = s.stations := rfl
@[simp] theorem setInv_save (i : Nat) (v : Inv) : (setInv s i v).save = s.save := rfl
@[simp] theorem setInv_faults (i : Nat) (v : Inv) : (setInv s i v).faults = s.faults := rfl
@[simp] theorem setInv_fence (i : Nat) (v : Inv) : (setInv s i v).fence = s.fence := rfl
@[simp] theorem setInv_proof (i : Nat) (v : Inv) : (setInv s i v).proof = s.proof := rfl
@[simp] theorem setInv_cores (i : Nat) (v : Inv) : (setInv s i v).cores = s.cores := rfl
@[simp] theorem setInv_mgmt (i : Nat) (v : Inv) : (setInv s i v).mgmt = s.mgmt := rfl
@[simp] theorem setInv_host (i : Nat) (v : Inv) : (setInv s i v).host = s.host := rfl
@[simp] theorem setInv_fw (i : Nat) (v : Inv) : (setInv s i v).fw = s.fw := rfl
@[simp] theorem setInv_cages (i : Nat) (v : Inv) : (setInv s i v).cages = s.cages := rfl
@[simp] theorem setInv_engineRecords (i : Nat) (v : Inv) : (setInv s i v).engineRecords = s.engineRecords := rfl
@[simp] theorem setInv_inbox (i : Nat) (v : Inv) : (setInv s i v).inbox = s.inbox := rfl
@[simp] theorem setInv_outbox (i : Nat) (v : Inv) : (setInv s i v).outbox = s.outbox := rfl
@[simp] theorem setInv_draws (i : Nat) (v : Inv) : (setInv s i v).draws = s.draws := rfl
@[simp] theorem setInv_pending (i : Nat) (v : Inv) : (setInv s i v).pending = s.pending := rfl

@[simp] theorem setUnit_now (u : Nat) (x : KUnit) : (setUnit s u x).now = s.now := rfl
@[simp] theorem setUnit_boot (u : Nat) (x : KUnit) : (setUnit s u x).boot = s.boot := rfl
@[simp] theorem setUnit_pins (u : Nat) (x : KUnit) : (setUnit s u x).pins = s.pins := rfl
@[simp] theorem setUnit_clk (u : Nat) (x : KUnit) : (setUnit s u x).clk = s.clk := rfl
@[simp] theorem setUnit_regs (u : Nat) (x : KUnit) : (setUnit s u x).regs = s.regs := rfl
@[simp] theorem setUnit_blobs (u : Nat) (x : KUnit) : (setUnit s u x).blobs = s.blobs := rfl
@[simp] theorem setUnit_fns (u : Nat) (x : KUnit) : (setUnit s u x).fns = s.fns := rfl
@[simp] theorem setUnit_lanes (u : Nat) (x : KUnit) : (setUnit s u x).lanes = s.lanes := rfl
@[simp] theorem setUnit_laneGroups (u : Nat) (x : KUnit) : (setUnit s u x).laneGroups = s.laneGroups := rfl
@[simp] theorem setUnit_ports (u : Nat) (x : KUnit) : (setUnit s u x).ports = s.ports := rfl
@[simp] theorem setUnit_topo (u : Nat) (x : KUnit) : (setUnit s u x).topo = s.topo := rfl
@[simp] theorem setUnit_e2e (u : Nat) (x : KUnit) : (setUnit s u x).e2e = s.e2e := rfl
@[simp] theorem setUnit_pools (u : Nat) (x : KUnit) : (setUnit s u x).pools = s.pools := rfl
@[simp] theorem setUnit_vat (u : Nat) (x : KUnit) : (setUnit s u x).vat = s.vat := rfl
@[simp] theorem setUnit_cellar (u : Nat) (x : KUnit) : (setUnit s u x).cellar = s.cellar := rfl
@[simp] theorem setUnit_tbuf (u : Nat) (x : KUnit) : (setUnit s u x).tbuf = s.tbuf := rfl
@[simp] theorem setUnit_groups (u : Nat) (x : KUnit) : (setUnit s u x).groups = s.groups := rfl
@[simp] theorem setUnit_groupCommit (u : Nat) (x : KUnit) : (setUnit s u x).groupCommit = s.groupCommit := rfl
@[simp] theorem setUnit_recipes (u : Nat) (x : KUnit) : (setUnit s u x).recipes = s.recipes := rfl
@[simp] theorem setUnit_stations (u : Nat) (x : KUnit) : (setUnit s u x).stations = s.stations := rfl
@[simp] theorem setUnit_save (u : Nat) (x : KUnit) : (setUnit s u x).save = s.save := rfl
@[simp] theorem setUnit_faults (u : Nat) (x : KUnit) : (setUnit s u x).faults = s.faults := rfl
@[simp] theorem setUnit_fence (u : Nat) (x : KUnit) : (setUnit s u x).fence = s.fence := rfl
@[simp] theorem setUnit_proof (u : Nat) (x : KUnit) : (setUnit s u x).proof = s.proof := rfl
@[simp] theorem setUnit_cores (u : Nat) (x : KUnit) : (setUnit s u x).cores = s.cores := rfl
@[simp] theorem setUnit_mgmt (u : Nat) (x : KUnit) : (setUnit s u x).mgmt = s.mgmt := rfl
@[simp] theorem setUnit_host (u : Nat) (x : KUnit) : (setUnit s u x).host = s.host := rfl
@[simp] theorem setUnit_fw (u : Nat) (x : KUnit) : (setUnit s u x).fw = s.fw := rfl
@[simp] theorem setUnit_cages (u : Nat) (x : KUnit) : (setUnit s u x).cages = s.cages := rfl
@[simp] theorem setUnit_engineRecords (u : Nat) (x : KUnit) : (setUnit s u x).engineRecords = s.engineRecords := rfl
@[simp] theorem setUnit_inbox (u : Nat) (x : KUnit) : (setUnit s u x).inbox = s.inbox := rfl
@[simp] theorem setUnit_outbox (u : Nat) (x : KUnit) : (setUnit s u x).outbox = s.outbox := rfl
@[simp] theorem setUnit_draws (u : Nat) (x : KUnit) : (setUnit s u x).draws = s.draws := rfl
@[simp] theorem setUnit_pending (u : Nat) (x : KUnit) : (setUnit s u x).pending = s.pending := rfl

@[simp] theorem setStation_now (k : Nat) (x : Station) : (setStation s k x).now = s.now := rfl
@[simp] theorem setStation_boot (k : Nat) (x : Station) : (setStation s k x).boot = s.boot := rfl
@[simp] theorem setStation_pins (k : Nat) (x : Station) : (setStation s k x).pins = s.pins := rfl
@[simp] theorem setStation_clk (k : Nat) (x : Station) : (setStation s k x).clk = s.clk := rfl
@[simp] theorem setStation_regs (k : Nat) (x : Station) : (setStation s k x).regs = s.regs := rfl
@[simp] theorem setStation_blobs (k : Nat) (x : Station) : (setStation s k x).blobs = s.blobs := rfl
@[simp] theorem setStation_fns (k : Nat) (x : Station) : (setStation s k x).fns = s.fns := rfl
@[simp] theorem setStation_lanes (k : Nat) (x : Station) : (setStation s k x).lanes = s.lanes := rfl
@[simp] theorem setStation_laneGroups (k : Nat) (x : Station) : (setStation s k x).laneGroups = s.laneGroups := rfl
@[simp] theorem setStation_ports (k : Nat) (x : Station) : (setStation s k x).ports = s.ports := rfl
@[simp] theorem setStation_topo (k : Nat) (x : Station) : (setStation s k x).topo = s.topo := rfl
@[simp] theorem setStation_e2e (k : Nat) (x : Station) : (setStation s k x).e2e = s.e2e := rfl
@[simp] theorem setStation_pools (k : Nat) (x : Station) : (setStation s k x).pools = s.pools := rfl
@[simp] theorem setStation_vat (k : Nat) (x : Station) : (setStation s k x).vat = s.vat := rfl
@[simp] theorem setStation_cellar (k : Nat) (x : Station) : (setStation s k x).cellar = s.cellar := rfl
@[simp] theorem setStation_tbuf (k : Nat) (x : Station) : (setStation s k x).tbuf = s.tbuf := rfl
@[simp] theorem setStation_groups (k : Nat) (x : Station) : (setStation s k x).groups = s.groups := rfl
@[simp] theorem setStation_groupCommit (k : Nat) (x : Station) : (setStation s k x).groupCommit = s.groupCommit := rfl
@[simp] theorem setStation_knead (k : Nat) (x : Station) : (setStation s k x).knead = s.knead := rfl
@[simp] theorem setStation_recipes (k : Nat) (x : Station) : (setStation s k x).recipes = s.recipes := rfl
@[simp] theorem setStation_save (k : Nat) (x : Station) : (setStation s k x).save = s.save := rfl
@[simp] theorem setStation_faults (k : Nat) (x : Station) : (setStation s k x).faults = s.faults := rfl
@[simp] theorem setStation_fence (k : Nat) (x : Station) : (setStation s k x).fence = s.fence := rfl
@[simp] theorem setStation_proof (k : Nat) (x : Station) : (setStation s k x).proof = s.proof := rfl
@[simp] theorem setStation_cores (k : Nat) (x : Station) : (setStation s k x).cores = s.cores := rfl
@[simp] theorem setStation_mgmt (k : Nat) (x : Station) : (setStation s k x).mgmt = s.mgmt := rfl
@[simp] theorem setStation_host (k : Nat) (x : Station) : (setStation s k x).host = s.host := rfl
@[simp] theorem setStation_fw (k : Nat) (x : Station) : (setStation s k x).fw = s.fw := rfl
@[simp] theorem setStation_cages (k : Nat) (x : Station) : (setStation s k x).cages = s.cages := rfl
@[simp] theorem setStation_engineRecords (k : Nat) (x : Station) : (setStation s k x).engineRecords = s.engineRecords := rfl
@[simp] theorem setStation_inbox (k : Nat) (x : Station) : (setStation s k x).inbox = s.inbox := rfl
@[simp] theorem setStation_outbox (k : Nat) (x : Station) : (setStation s k x).outbox = s.outbox := rfl
@[simp] theorem setStation_draws (k : Nat) (x : Station) : (setStation s k x).draws = s.draws := rfl
@[simp] theorem setStation_pending (k : Nat) (x : Station) : (setStation s k x).pending = s.pending := rfl

@[simp] theorem setHalf_now (c h : Nat) (x : TbufHalf) : (setHalf s c h x).now = s.now := rfl
@[simp] theorem setHalf_boot (c h : Nat) (x : TbufHalf) : (setHalf s c h x).boot = s.boot := rfl
@[simp] theorem setHalf_pins (c h : Nat) (x : TbufHalf) : (setHalf s c h x).pins = s.pins := rfl
@[simp] theorem setHalf_clk (c h : Nat) (x : TbufHalf) : (setHalf s c h x).clk = s.clk := rfl
@[simp] theorem setHalf_regs (c h : Nat) (x : TbufHalf) : (setHalf s c h x).regs = s.regs := rfl
@[simp] theorem setHalf_blobs (c h : Nat) (x : TbufHalf) : (setHalf s c h x).blobs = s.blobs := rfl
@[simp] theorem setHalf_fns (c h : Nat) (x : TbufHalf) : (setHalf s c h x).fns = s.fns := rfl
@[simp] theorem setHalf_lanes (c h : Nat) (x : TbufHalf) : (setHalf s c h x).lanes = s.lanes := rfl
@[simp] theorem setHalf_laneGroups (c h : Nat) (x : TbufHalf) : (setHalf s c h x).laneGroups = s.laneGroups := rfl
@[simp] theorem setHalf_ports (c h : Nat) (x : TbufHalf) : (setHalf s c h x).ports = s.ports := rfl
@[simp] theorem setHalf_topo (c h : Nat) (x : TbufHalf) : (setHalf s c h x).topo = s.topo := rfl
@[simp] theorem setHalf_e2e (c h : Nat) (x : TbufHalf) : (setHalf s c h x).e2e = s.e2e := rfl
@[simp] theorem setHalf_pools (c h : Nat) (x : TbufHalf) : (setHalf s c h x).pools = s.pools := rfl
@[simp] theorem setHalf_vat (c h : Nat) (x : TbufHalf) : (setHalf s c h x).vat = s.vat := rfl
@[simp] theorem setHalf_cellar (c h : Nat) (x : TbufHalf) : (setHalf s c h x).cellar = s.cellar := rfl
@[simp] theorem setHalf_groups (c h : Nat) (x : TbufHalf) : (setHalf s c h x).groups = s.groups := rfl
@[simp] theorem setHalf_groupCommit (c h : Nat) (x : TbufHalf) : (setHalf s c h x).groupCommit = s.groupCommit := rfl
@[simp] theorem setHalf_knead (c h : Nat) (x : TbufHalf) : (setHalf s c h x).knead = s.knead := rfl
@[simp] theorem setHalf_recipes (c h : Nat) (x : TbufHalf) : (setHalf s c h x).recipes = s.recipes := rfl
@[simp] theorem setHalf_stations (c h : Nat) (x : TbufHalf) : (setHalf s c h x).stations = s.stations := rfl
@[simp] theorem setHalf_save (c h : Nat) (x : TbufHalf) : (setHalf s c h x).save = s.save := rfl
@[simp] theorem setHalf_faults (c h : Nat) (x : TbufHalf) : (setHalf s c h x).faults = s.faults := rfl
@[simp] theorem setHalf_fence (c h : Nat) (x : TbufHalf) : (setHalf s c h x).fence = s.fence := rfl
@[simp] theorem setHalf_proof (c h : Nat) (x : TbufHalf) : (setHalf s c h x).proof = s.proof := rfl
@[simp] theorem setHalf_cores (c h : Nat) (x : TbufHalf) : (setHalf s c h x).cores = s.cores := rfl
@[simp] theorem setHalf_mgmt (c h : Nat) (x : TbufHalf) : (setHalf s c h x).mgmt = s.mgmt := rfl
@[simp] theorem setHalf_host (c h : Nat) (x : TbufHalf) : (setHalf s c h x).host = s.host := rfl
@[simp] theorem setHalf_fw (c h : Nat) (x : TbufHalf) : (setHalf s c h x).fw = s.fw := rfl
@[simp] theorem setHalf_cages (c h : Nat) (x : TbufHalf) : (setHalf s c h x).cages = s.cages := rfl
@[simp] theorem setHalf_engineRecords (c h : Nat) (x : TbufHalf) : (setHalf s c h x).engineRecords = s.engineRecords := rfl
@[simp] theorem setHalf_inbox (c h : Nat) (x : TbufHalf) : (setHalf s c h x).inbox = s.inbox := rfl
@[simp] theorem setHalf_outbox (c h : Nat) (x : TbufHalf) : (setHalf s c h x).outbox = s.outbox := rfl
@[simp] theorem setHalf_draws (c h : Nat) (x : TbufHalf) : (setHalf s c h x).draws = s.draws := rfl
@[simp] theorem setHalf_pending (c h : Nat) (x : TbufHalf) : (setHalf s c h x).pending = s.pending := rfl

@[simp] theorem setKarray_now (a : Nat) (x : KArray) : (setKarray s a x).now = s.now := rfl
@[simp] theorem setKarray_boot (a : Nat) (x : KArray) : (setKarray s a x).boot = s.boot := rfl
@[simp] theorem setKarray_pins (a : Nat) (x : KArray) : (setKarray s a x).pins = s.pins := rfl
@[simp] theorem setKarray_clk (a : Nat) (x : KArray) : (setKarray s a x).clk = s.clk := rfl
@[simp] theorem setKarray_regs (a : Nat) (x : KArray) : (setKarray s a x).regs = s.regs := rfl
@[simp] theorem setKarray_blobs (a : Nat) (x : KArray) : (setKarray s a x).blobs = s.blobs := rfl
@[simp] theorem setKarray_fns (a : Nat) (x : KArray) : (setKarray s a x).fns = s.fns := rfl
@[simp] theorem setKarray_lanes (a : Nat) (x : KArray) : (setKarray s a x).lanes = s.lanes := rfl
@[simp] theorem setKarray_laneGroups (a : Nat) (x : KArray) : (setKarray s a x).laneGroups = s.laneGroups := rfl
@[simp] theorem setKarray_ports (a : Nat) (x : KArray) : (setKarray s a x).ports = s.ports := rfl
@[simp] theorem setKarray_topo (a : Nat) (x : KArray) : (setKarray s a x).topo = s.topo := rfl
@[simp] theorem setKarray_e2e (a : Nat) (x : KArray) : (setKarray s a x).e2e = s.e2e := rfl
@[simp] theorem setKarray_pools (a : Nat) (x : KArray) : (setKarray s a x).pools = s.pools := rfl
@[simp] theorem setKarray_vat (a : Nat) (x : KArray) : (setKarray s a x).vat = s.vat := rfl
@[simp] theorem setKarray_cellar (a : Nat) (x : KArray) : (setKarray s a x).cellar = s.cellar := rfl
@[simp] theorem setKarray_tbuf (a : Nat) (x : KArray) : (setKarray s a x).tbuf = s.tbuf := rfl
@[simp] theorem setKarray_groups (a : Nat) (x : KArray) : (setKarray s a x).groups = s.groups := rfl
@[simp] theorem setKarray_groupCommit (a : Nat) (x : KArray) : (setKarray s a x).groupCommit = s.groupCommit := rfl
@[simp] theorem setKarray_recipes (a : Nat) (x : KArray) : (setKarray s a x).recipes = s.recipes := rfl
@[simp] theorem setKarray_stations (a : Nat) (x : KArray) : (setKarray s a x).stations = s.stations := rfl
@[simp] theorem setKarray_save (a : Nat) (x : KArray) : (setKarray s a x).save = s.save := rfl
@[simp] theorem setKarray_faults (a : Nat) (x : KArray) : (setKarray s a x).faults = s.faults := rfl
@[simp] theorem setKarray_fence (a : Nat) (x : KArray) : (setKarray s a x).fence = s.fence := rfl
@[simp] theorem setKarray_proof (a : Nat) (x : KArray) : (setKarray s a x).proof = s.proof := rfl
@[simp] theorem setKarray_cores (a : Nat) (x : KArray) : (setKarray s a x).cores = s.cores := rfl
@[simp] theorem setKarray_mgmt (a : Nat) (x : KArray) : (setKarray s a x).mgmt = s.mgmt := rfl
@[simp] theorem setKarray_host (a : Nat) (x : KArray) : (setKarray s a x).host = s.host := rfl
@[simp] theorem setKarray_fw (a : Nat) (x : KArray) : (setKarray s a x).fw = s.fw := rfl
@[simp] theorem setKarray_cages (a : Nat) (x : KArray) : (setKarray s a x).cages = s.cages := rfl
@[simp] theorem setKarray_engineRecords (a : Nat) (x : KArray) : (setKarray s a x).engineRecords = s.engineRecords := rfl
@[simp] theorem setKarray_inbox (a : Nat) (x : KArray) : (setKarray s a x).inbox = s.inbox := rfl
@[simp] theorem setKarray_outbox (a : Nat) (x : KArray) : (setKarray s a x).outbox = s.outbox := rfl
@[simp] theorem setKarray_draws (a : Nat) (x : KArray) : (setKarray s a x).draws = s.draws := rfl
@[simp] theorem setKarray_pending (a : Nat) (x : KArray) : (setKarray s a x).pending = s.pending := rfl

@[simp] theorem setCage_now (n : Nat) (x : Cage) : (setCage s n x).now = s.now := rfl
@[simp] theorem setCage_boot (n : Nat) (x : Cage) : (setCage s n x).boot = s.boot := rfl
@[simp] theorem setCage_pins (n : Nat) (x : Cage) : (setCage s n x).pins = s.pins := rfl
@[simp] theorem setCage_clk (n : Nat) (x : Cage) : (setCage s n x).clk = s.clk := rfl
@[simp] theorem setCage_regs (n : Nat) (x : Cage) : (setCage s n x).regs = s.regs := rfl
@[simp] theorem setCage_blobs (n : Nat) (x : Cage) : (setCage s n x).blobs = s.blobs := rfl
@[simp] theorem setCage_fns (n : Nat) (x : Cage) : (setCage s n x).fns = s.fns := rfl
@[simp] theorem setCage_lanes (n : Nat) (x : Cage) : (setCage s n x).lanes = s.lanes := rfl
@[simp] theorem setCage_laneGroups (n : Nat) (x : Cage) : (setCage s n x).laneGroups = s.laneGroups := rfl
@[simp] theorem setCage_ports (n : Nat) (x : Cage) : (setCage s n x).ports = s.ports := rfl
@[simp] theorem setCage_topo (n : Nat) (x : Cage) : (setCage s n x).topo = s.topo := rfl
@[simp] theorem setCage_e2e (n : Nat) (x : Cage) : (setCage s n x).e2e = s.e2e := rfl
@[simp] theorem setCage_pools (n : Nat) (x : Cage) : (setCage s n x).pools = s.pools := rfl
@[simp] theorem setCage_vat (n : Nat) (x : Cage) : (setCage s n x).vat = s.vat := rfl
@[simp] theorem setCage_cellar (n : Nat) (x : Cage) : (setCage s n x).cellar = s.cellar := rfl
@[simp] theorem setCage_tbuf (n : Nat) (x : Cage) : (setCage s n x).tbuf = s.tbuf := rfl
@[simp] theorem setCage_groups (n : Nat) (x : Cage) : (setCage s n x).groups = s.groups := rfl
@[simp] theorem setCage_groupCommit (n : Nat) (x : Cage) : (setCage s n x).groupCommit = s.groupCommit := rfl
@[simp] theorem setCage_knead (n : Nat) (x : Cage) : (setCage s n x).knead = s.knead := rfl
@[simp] theorem setCage_recipes (n : Nat) (x : Cage) : (setCage s n x).recipes = s.recipes := rfl
@[simp] theorem setCage_stations (n : Nat) (x : Cage) : (setCage s n x).stations = s.stations := rfl
@[simp] theorem setCage_save (n : Nat) (x : Cage) : (setCage s n x).save = s.save := rfl
@[simp] theorem setCage_faults (n : Nat) (x : Cage) : (setCage s n x).faults = s.faults := rfl
@[simp] theorem setCage_fence (n : Nat) (x : Cage) : (setCage s n x).fence = s.fence := rfl
@[simp] theorem setCage_proof (n : Nat) (x : Cage) : (setCage s n x).proof = s.proof := rfl
@[simp] theorem setCage_cores (n : Nat) (x : Cage) : (setCage s n x).cores = s.cores := rfl
@[simp] theorem setCage_mgmt (n : Nat) (x : Cage) : (setCage s n x).mgmt = s.mgmt := rfl
@[simp] theorem setCage_host (n : Nat) (x : Cage) : (setCage s n x).host = s.host := rfl
@[simp] theorem setCage_fw (n : Nat) (x : Cage) : (setCage s n x).fw = s.fw := rfl
@[simp] theorem setCage_engineRecords (n : Nat) (x : Cage) : (setCage s n x).engineRecords = s.engineRecords := rfl
@[simp] theorem setCage_inbox (n : Nat) (x : Cage) : (setCage s n x).inbox = s.inbox := rfl
@[simp] theorem setCage_outbox (n : Nat) (x : Cage) : (setCage s n x).outbox = s.outbox := rfl
@[simp] theorem setCage_draws (n : Nat) (x : Cage) : (setCage s n x).draws = s.draws := rfl
@[simp] theorem setCage_pending (n : Nat) (x : Cage) : (setCage s n x).pending = s.pending := rfl

/-! What an update shows of its own field. -/

@[simp] theorem setHalf_fill (c h : Nat) (x : TbufHalf) : (setHalf s c h x).tbuf.fill = s.tbuf.fill := rfl
@[simp] theorem setKarray_units (a : Nat) (x : KArray) : (setKarray s a x).knead.units = s.knead.units := rfl
@[simp] theorem setKarray_order (a : Nat) (x : KArray) : (setKarray s a x).knead.order = s.knead.order := rfl
@[simp] theorem setKarray_spare (a : Nat) (x : KArray) : (setKarray s a x).knead.spare = s.knead.spare := rfl
@[simp] theorem setUnit_arrays (u : Nat) (x : KUnit) : (setUnit s u x).knead.arrays = s.knead.arrays := rfl
@[simp] theorem setUnit_order (u : Nat) (x : KUnit) : (setUnit s u x).knead.order = s.knead.order := rfl
@[simp] theorem setUnit_spare (u : Nat) (x : KUnit) : (setUnit s u x).knead.spare = s.knead.spare := rfl
@[simp] theorem setTag_mem (n : Nat) (x : Tag) : (setTag s n x).vat.mem = s.vat.mem := rfl
@[simp] theorem setTag_place (n : Nat) (x : Tag) : (setTag s n x).vat.place = s.vat.place := rfl
@[simp] theorem setTag_allocs (n : Nat) (x : Tag) : (setTag s n x).vat.allocs = s.vat.allocs := rfl
@[simp] theorem setTag_queue (n : Nat) (x : Tag) : (setTag s n x).vat.queue = s.vat.queue := rfl
@[simp] theorem setTag_copies (n : Nat) (x : Tag) : (setTag s n x).vat.copies = s.vat.copies := rfl
@[simp] theorem setTag_remaps (n : Nat) (x : Tag) : (setTag s n x).vat.remaps = s.vat.remaps := rfl

end Sys2Proof.Machine
end

