-- ==== Sys2Proof/Laws/Vat.lean ====
section
/-! SUPPORT. The laws of a slab's tag and of a write into a CRC unit (08): what it reads afterwards, that its check passes, and what it
leaves alone. -/
namespace Sys2Proof.Machine

@[simp] theorem tagOf_setTag_same (s : State) (n : Nat) (x : Tag) : tagOf (setTag s n x) n = x := Tab.getD_set_same _ _ _ _

theorem tagOf_setTag_other (s : State) {n m : Nat} (x : Tag) (h : m ≠ n) : tagOf (setTag s n x) m = tagOf s m :=
  Tab.getD_set_other _ _ _ h

/-- A slab's CRC mode rests on the pools' layout alone. -/
theorem crcModeOf_congr {s t : State} (h : t.pools.shared = s.pools.shared) (n : Nat) : crcModeOf t n = crcModeOf s n := by
  unfold crcModeOf smallSlabs midSlabs
  rw [h]

/-- A unit's check rests on the bytes, the layout and the stored CRC words. -/
theorem unitGood_congr {s t : State} (hm : t.vat.mem = s.vat.mem) (hp : t.pools.shared = s.pools.shared) {n : Nat}
    (hc : (tagOf t n).crc = (tagOf s n).crc) (u : Nat) : unitGood t n u = unitGood s n u := by
  unfold unitGood storedCrc unitBytes
  rw [hm, hc, crcModeOf_congr hp n]

/-- Sealing stores the CRC of the bytes as they stand: the check passes (R165). -/
theorem unitGood_sealUnit (s : State) (n u : Nat) : unitGood (sealUnit s n u) n u = true := by
  have e : storedCrc (sealUnit s n u) n u = crc32c (unitBytes s n u) := by
    unfold storedCrc sealUnit
    rw [tagOf_setTag_same]
    exact Tab.getD_set_same _ _ _ _
  unfold unitGood
  rw [e]
  exact decide_eq_true rfl

/-- Sealing leaves every part of the tag but the CRC words. -/
theorem tagOf_sealUnit (s : State) (n u : Nat) :
    tagOf (sealUnit s n u) n = { tagOf s n with crc := Tab.set (tagOf s n).crc u (crc32c (unitBytes s n u)) } := by
  unfold sealUnit
  rw [tagOf_setTag_same]

/-- A tag of the same CRC words keeps the check. -/
theorem unitGood_setTag (s : State) (n u : Nat) {x : Tag} (h : x.crc = (tagOf s n).crc) : unitGood (setTag s n x) n u = unitGood s n u :=
  unitGood_congr (s := s) (t := setTag s n x) rfl rfl (by rw [tagOf_setTag_same, h]) u

/-- Clearing a unit's poison leaves the CRC words. -/
theorem clearPoison_eq (s : State) (n u : Nat) : ∃ x : Tag, clearPoison s n u = setTag s n x ∧ x.crc = (tagOf s n).crc := by
  unfold clearPoison
  split
  · exact ⟨_, rfl, rfl⟩
  · exact ⟨_, rfl, rfl⟩

theorem unitPoisoned_clearPoison (s : State) (n u : Nat) : unitPoisoned (clearPoison s n u) n u = false := by
  unfold clearPoison
  split
  · rename_i h
    unfold unitPoisoned
    rw [crcModeOf_congr (show (setTag s n _).pools.shared = s.pools.shared from rfl) n, if_pos h, tagOf_setTag_same]
  · rename_i h
    unfold unitPoisoned
    rw [crcModeOf_congr (show (setTag s n _).pools.shared = s.pools.shared from rfl) n, if_neg h, tagOf_setTag_same]
    simp

/-- What a write into a unit does (R165, R168, R170): the bytes, the tag of this slab, and nothing else; the check passes; the poison
goes with a write of the whole unit. -/
theorem writeUnit_law (s : State) (n u off : Nat) (b : List Byte) :
    (∃ tg, writeUnit s n u off b = { s with vat := { s.vat with
      mem := Memory.write s.vat.mem (4096 * n + u * unitSize (crcModeOf s n) + off) b, tags := tg } }) ∧
    unitGood (writeUnit s n u off b) n u = true ∧ (∀ k, k ≠ n → tagOf (writeUnit s n u off b) k = tagOf s k) ∧
    unitPoisoned (writeUnit s n u off b) n u = (if off = 0 ∧ b.length = unitSize (crcModeOf s n) then false else unitPoisoned s n u) ∧
    (tagOf (writeUnit s n u off b) n).sourceValid = false := by
  have key : ∃ r, r = rawPut s (4096 * n + u * unitSize (crcModeOf s n) + off) b := ⟨_, rfl⟩
  obtain ⟨r, hr⟩ := key
  have hv : ∃ v, v = setTag (sealUnit r n u) n { tagOf (sealUnit r n u) n with sourceValid := false } := ⟨_, rfl⟩
  obtain ⟨v, hv⟩ := hv
  have gv : unitGood v n u = true := by
    rw [hv, unitGood_setTag]
    · exact unitGood_sealUnit r n u
    · rfl
  have ov : ∀ k, k ≠ n → tagOf v k = tagOf s k := by
    intro k hk
    rw [hv, tagOf_setTag_other _ _ hk]
    unfold sealUnit
    rw [tagOf_setTag_other _ _ hk, hr]
    rfl
  have sv : (tagOf v n).sourceValid = false := by rw [hv, tagOf_setTag_same]
  have ev : ∃ tg, v = { s with vat := { s.vat with
      mem := Memory.write s.vat.mem (4096 * n + u * unitSize (crcModeOf s n) + off) b, tags := tg } } := by
    rw [hv, hr]
    exact ⟨_, rfl⟩
  have cm : crcModeOf v n = crcModeOf s n := by
    obtain ⟨tg, e⟩ := ev
    rw [e]
    exact crcModeOf_congr rfl n
  have pv : unitPoisoned v n u = unitPoisoned s n u := by
    unfold unitPoisoned
    rw [cm, hv, tagOf_setTag_same, tagOf_sealUnit, hr]
    rfl
  have w : writeUnit s n u off b = if off = 0 ∧ b.length = unitSize (crcModeOf s n) then clearPoison v n u else v := by
    unfold writeUnit
    dsimp only
    rw [← hr, ← hv, cm]
    by_cases h : off = 0 ∧ b.length = unitSize (crcModeOf s n)
    · rw [if_pos h, if_pos (by simpa using h)]
    · rw [if_neg h, if_neg (by simpa using h)]
  rw [w]
  split
  · obtain ⟨x, ex, hx⟩ := clearPoison_eq v n u
    refine ⟨?_, ?_, ?_, unitPoisoned_clearPoison v n u, ?_⟩
    · rw [ex]
      obtain ⟨tg, e⟩ := ev
      rw [e]
      exact ⟨_, rfl⟩
    · rw [ex, unitGood_setTag v n u hx]
      exact gv
    · intro k hk
      rw [ex, tagOf_setTag_other _ _ hk]
      exact ov k hk
    · unfold clearPoison
      split <;> rw [tagOf_setTag_same] <;> exact sv
  · exact ⟨ev, gv, ov, pv, sv⟩

/-- Flips keep a length. -/
theorem flipBytes_length (l : List Byte) (fl : List (Nat × Byte)) : (flipBytes l fl).length = l.length := by
  unfold flipBytes
  induction fl generalizing l with
  | nil => rfl
  | cons f fl ih => rw [List.foldl_cons, ih, List.length_set]

theorem unitBytes_length (s : State) (n u : Nat) : (unitBytes s n u).length = unitSize (crcModeOf s n) := by
  unfold unitBytes Memory.read
  simp

/-- Corruption of a unit changes bytes of that unit alone. -/
theorem corruptUnit_law (s : State) (n u : Nat) (fl : List (Nat × Byte)) :
    ∃ m, corruptUnit s n u fl = { s with vat := { s.vat with mem := m } } ∧
      ∀ a, a < 4096 * n + u * unitSize (crcModeOf s n) ∨ 4096 * n + u * unitSize (crcModeOf s n) + unitSize (crcModeOf s n) ≤ a →
        Memory.get m a = Memory.get s.vat.mem a := by
  unfold corruptUnit
  split
  · exact ⟨s.vat.mem, rfl, fun _ _ => rfl⟩
  · refine ⟨_, rfl, fun a h => Memory.get_write_outside _ _ _ _ ?_⟩
    rw [flipBytes_length, unitBytes_length]
    exact h

end Sys2Proof.Machine
end

