-- ==== Sys2Proof/Tests/Slice0.lean ====
section
/-! SUPPORT. The tests of this row: ill-formed terms that WellFormed refuses, check values that the spec or a standard states, and for each
obligation concrete states and operands that meet its hypotheses (log entries 1 to 6 name the values that a factory or reset gives). -/
namespace Sys2Proof.Tests
set_option Elab.async false
open Sys2Proof Sys2Proof.Machine

/-! A few small states that the tests start from. -/

/-- An open ADMIN session. -/
def admin : Session := { id := 1, addr := 7, slot := 0, isOpen := true, role := 2, managerKey := [1], moduleKey := [2] }

/-- A module whose boot is complete, in a torus of 4 × 4 × 4 modules, with its link to the host and one session. -/
def up : State :=
  { boot := .done, now := 1400, clk := { rootLocked := true }, pins := { resetLow := false, perstLow := false, ready := true },
    topo := { committed := some (4, 4, 4), sizes := some (4, 4, 4), state := .ready },
    host := { linkUp := true, link := 0x45 }, mgmt := { sessions := [admin], nextSession := 2 } }

/-- The same module after a FATAL fault. -/
def stopped : State := safeIdle up

/-- A module that stands at a boot step. -/
def at_ (b : Boot) : State := { up with boot := b, pins := { up.pins with ready := false } }

/-- A module with one function in a state. -/
def fnAt (a : Nat) (st : FnState) : State := setFn up a { state := st }

/-- An ON port, with its far end ON. -/
def portUp (p : Nat) : State := setPort (fnAt (ePortState p) .on) p { farOn := true }

theorem safe_up : Safe up := by
  refine ⟨⟨rfl, rfl⟩, nofun, ⟨by decide, by decide⟩, ?_, ?_⟩ <;> rintro z ⟨⟩ <;> rfl

theorem safe_stopped : Safe stopped := by
  refine ⟨⟨rfl, rfl⟩, fun _ => ⟨rfl, rfl, rfl⟩, ⟨by decide, by decide⟩, ?_, ?_⟩ <;> rintro z ⟨⟩ <;> rfl

/-- A command is refused because an operand names no unit. -/
def noUnit (c : Instr) (s : State) : Bool :=
  match exec c s with
  | .fault .noSuchUnit => true
  | _ => false

/-- The state a command leaves (the same where it stops). -/
def after (c : Instr) (s : State) : State :=
  match exec c s with
  | .next t => t
  | _ => s

/-! Every command's operands name units, or the command is refused: one ill-formed term for each check (WellFormed). -/

def somePkt : Packet := { h := { opcode := 0, cls := 0, dst := 0, src := 0, payloadLength := 0, slice := 0 }, payload := [] }
def someDef : GroupDef := { slice := 0, members := [], permute := [], root := 0, parentBundle := 255, childMask := 0, subtreeMembers := 0, depth := 0 }

theorem test_ill_formed_state_entries : ∀ c ∈ [Instr.enableRequest 0x1F01 0, .enableRequest 0x1F01 0x81, .disableRequest 0x1F12 0x20,
    .functionStartDone 0x1F20 9 .success, .functionStopDone 0x1F21 4, .stopTimeout 0x1F34 0, .enableRequest 0x1F40 6],
    c.wellFormed = false ∧ noUnit c up = true := by decide +kernel

theorem test_ill_formed_lanes_and_ports : ∀ c ∈ [Instr.frameSlot 128, .markerSlot 32, .signalDetect 544, .cdrLock 544, .markerReceived 544 0 0 0,
    .idFrameReceived 128 false 0 0, .quarantineRelease 128, .portExpectedEndpointWrite .mailbox 128 0, .lossOfSignal 544, .cdrLossOfLock 544,
    .markerLoss 544, .marginWindowEnd 544 0, .lossClassify 128, .switchReceived 32 0, .laneUserCalWrite .mailbox 32 1 0, .pktFrameReceived 128 0 0,
    .retryTimerExpiry 128, .roundTripFixed 128], c.wellFormed = false ∧ noUnit c up = true := by decide +kernel

theorem test_ill_formed_torus_and_pools : ∀ c ∈ [Instr.portBondLeaderWrite .mailbox 104 0, .sliceCommit .mailbox 1024, .sliceDrainTimeout 1024,
    .bulkEscapeWait 128 0, .bulkEscapeWait 255 8, .escapeProceed 254 0, .stallTimeout 255 0, .stallTimeout 0 8, .localFailover 128, .egressRequeue 128,
    .routeAdmission 128, .windowLeakTimeout 0 32768 0, .curdGrant 3, .policerRateWrite .mailbox 104 0 0, .policerRateWrite .mailbox 0 3 0,
    .policerBurstWrite .mailbox 104 0 0, .policerEnableWrite .mailbox 104 0, .shaperConfigWrite .mailbox 128 4 [], .ctrlCeilingFill 128],
    c.wellFormed = false ∧ noUnit c up = true := by decide +kernel

theorem test_ill_formed_memories : ∀ c ∈ [Instr.vatAccess 524288 0 none [], .vatAccess 0 16 none [], .vatRefetchDone 524288 [], .vatReadbackDone 524288 [],
    .vatRemapDone 524288, .vatBankMoveDone 256, .tbufParityError 9 0, .tbufReload 0 2, .cellarSlabReadDone 33554432 0 [],
    .cellarSlabReadDone 0 524288 [], .cellarChannel 32], c.wellFormed = false ∧ noUnit c up = true := by decide +kernel

theorem test_ill_formed_groups_and_clusters : ∀ c ∈ [Instr.groupEntryMsg 65536 0 none, .groupEntryAck 65536 0 0, .groupEntryAck 0 4096 0,
    .joinReceived 128 somePkt, .dataReceived 254 somePkt, .contribReceived 128 somePkt, .joinUpReceived 128 somePkt, .doneUpReceived 128 somePkt,
    .commitReceived 128 somePkt, .collResultReceived 128 somePkt, .endReceived 128 somePkt, .rerunReceived 128 somePkt, .reportReceived 128 somePkt,
    .memberAbortReceived 128 somePkt, .poisonNoticeReceived 128 somePkt, .maximaReceived 128 somePkt, .finalReceived 128 somePkt,
    .joinTimeout 65536, .progressTimeout 65536, .treeLossReport 65536 0 true, .treeLossReport 0 4096 true, .treeRecompute 65536 none,
    .contextSwap 65536, .churnTake 65536 0, .skewWindowEnd 65536 0, .accumulatorComplete 65536 0 0 true true, .accumulatorComplete 0 0 68 true true,
    .churnSpareTakeover 68, .kneadPassDone 0 27 .pass, .kneadRepairApply 27, .clusterTakeover 9 .fault],
    c.wellFormed = false ∧ noUnit c up = true := by decide +kernel

theorem test_ill_formed_recipes_faults_and_cages : ∀ c ∈ [Instr.invokeReceived 128 somePkt, .invokePacketReceived 254 somePkt,
    .combineDataReceived 128 somePkt, .coreFault 16, .coreEcc 16, .coreRestartDone 16, .fenceNoticeDelay 128, .fenceNoticeReceived 128 somePkt,
    .fenceBitExpiry 4096 0, .fenceBitExpiry 0 104, .proofDue 893, .insertSeated 6 { page0 := none, page1 := [], signatureOk := false },
    .insertRemoved 6, .engineFault 6 0, .laserHoursTick 6], c.wellFormed = false ∧ noUnit c up = true := by decide +kernel

theorem test_well_formed_at_the_last_unit : ∀ c ∈ [Instr.enableRequest 0x1F12 0x1F, .frameSlot 127, .signalDetect 543, .markerSlot 31,
    .bulkEscapeWait 255 7, .stallTimeout 127 7, .curdGrant 2, .policerEnableWrite .mailbox 103 0, .vatAccess 524287 15 none [], .tbufReload 8 1,
    .cellarChannel 31, .groupEntryAck 65535 4095 0, .joinReceived 255 somePkt, .churnSpareTakeover 67, .kneadRepairApply 26, .clusterTakeover 8 .fault,
    .coreFault 15, .fenceBitExpiry 4095 103, .proofDue 892, .insertRemoved 5], c.wellFormed = true := by decide +kernel

/-! Witnesses: for each statement with hypotheses, states and operands that meet them, clause by clause, at the ends of their ranges. -/

theorem witness_SupplyStartsDomainsAndRaisesItsEvents :
    (({ pins := { alwaysOn := false } } : State).pins.alwaysOn = false ∧ 40000 ≤ 40000) ∧ (up.pins.alwaysOn = true ∧ up.pins.inputLost = false ∧ 39999 < 40000) ∧
    (let s : State := { pins := { inputLost := true } }
     s.pins.alwaysOn = true ∧ s.pins.inputLost = true) ∧
    (let s : State := { pins := { mainUp := false } }
     s.pins.alwaysOn = true ∧ s.pins.mainUp = false ∧ s.pins.mateHigh = false ∧ s.pins.shutdown = false ∧ 45000 ≤ 45000) ∧
    (up.pins.mainUp = true ∧ 44999 < 45000) ∧ (mgmtUp up = true ∧ up.faults.frozen = false ∧ (44000 ≤ 44000 ∧ 44000 < 46000) ∧ 45999 < 46000) ∧
    ((60000 < 60001 ∧ 60001 ≤ 62000) ∧ 62000 ≤ 62000) ∧ stopped.faults.frozen = true ∧ (43999 < 44000 ∧ 46000 ≤ 46000) ∧ (60000 ≤ 60000 ∧ 62000 < 62001) := by
  decide +kernel

theorem witness_FatalFaultsFreezeModule :
    (up.pins.mainUp = true ∧ mgmtUp up = true ∧ up.faults.frozen = false) ∧ ((at_ .pll).pins.mainUp = true ∧ mgmtUp (at_ .pll) = false) ∧
    (stopped.pins.mainUp = true ∧ mgmtUp stopped = true ∧ stopped.faults.frozen = true ∧ ({ pins := { mainUp := false } } : State).pins.mainUp = false) ∧
    (110000 : Int) < 110001 ∧ (110000 : Int) ≤ 110000 ∧ live up = true ∧ 31 < 32 := by decide +kernel

theorem witness_ResetKeepsOnlyWhatIsStored :
    up.pins.alwaysOn = true ∧ (let s : State := { stopped with pins := { stopped.pins with uvOv := true } }
      s.pins.mainUp = true ∧ s.pins.uvOv = true) ∧ stopped.pins.uvOv = false ∧
    (isPersist eTorusSizeX = true ∧ eTorusSizeX ∉ stopped.mgmt.waiting) ∧ ({ pins := { alwaysOn := false } } : State).pins.alwaysOn = false ∧
    up.faults.frozen = false := by decide +kernel

theorem witness_ReleaseSamplesStrapsAndBoots :
    (State.reset.pins.alwaysOn = true ∧ State.reset.pins.resetLow = true ∧ State.reset.mgmt.resetAtBoot = 0) ∧
    (let s : State := { mgmt := { resetAtBoot := 1 } }
     s.pins.alwaysOn = true ∧ s.pins.resetLow = true ∧ s.mgmt.resetAtBoot ≠ 0) ∧ up.pins.resetLow = false := by decide +kernel

theorem witness_PcieResetsTouchOnlyPcie : up.host.linkUp = true ∧ State.reset.host.linkUp = false := by decide

theorem witness_ReferenceClockSourceFollows :
    (mgmtUp up = true ∧ up.faults.frozen = false ∧ rd up eRefClkSource = 0) ∧ rd (wr up eRefClkSource 1) eRefClkSource = 1 ∧
    rd (wr up eRefClkSource 2) eRefClkSource ≠ 0 ∧ stopped.faults.frozen = true := by decide +kernel

theorem witness_ThrottleFollowsHeatAndPower :
    (mgmtUp up = true ∧ up.faults.frozen = false ∧ loafUp up = true) ∧ up.mgmt.sessions.any (fun x => x.id = 1 && x.isOpen) = true ∧ 1750 < 1751 := by decide +kernel

theorem witness_BootStepsRunInOrder :
    ((at_ .pll).boot = .pll ∧ (at_ .pll).faults.frozen = false) ∧ (at_ .refWait).boot = .refWait ∧ (at_ .loaf).boot = .loaf ∧
    (at_ .memory).boot = .memory ∧ (at_ .proof).boot = .proof ∧ (at_ .topology).boot = .topology ∧ (at_ .readyStep).boot = .readyStep ∧
    (State.reset.boot = .held ∧ up.boot = .done ∧ stopped.faults.frozen = true) := by decide

theorem witness_BootStepsRunInOrder_safe : ∀ b, Safe (at_ b) ∧ (at_ b).faults.frozen = false := fun _ =>
  ⟨⟨⟨rfl, rfl⟩, nofun, ⟨Nat.zero_le _, by show 1 ≤ 8; decide⟩, ⟨by rintro z ⟨⟩; rfl, by rintro z ⟨⟩; rfl⟩⟩, rfl⟩

theorem witness_StarterTakesTheFirstGoodSlot :
    ((at_ .starter).boot = .starter ∧ (at_ .starter).faults.frozen = false) ∧ (starterChoice (at_ .starter) true true).1 = some 0 ∧
    (starterChoice (at_ .starter) false false).1 = none ∧ (at_ .starter).fw.active < 2 ∧
    (let s : State := { (at_ .starter) with fw := { slotB := { state := 4 } } }
     imageCheck s (fwSlot s 0).image false ≠ 0 ∧ (starterChoice s false true).1 = some 1) := by decide +kernel

theorem witness_FunctionStatesFollowTable :
    (({} : Fn).state = .off) ∧ ({ state := .starting } : Fn).state = .starting ∧ ({ state := .stopping } : Fn).state = .stopping ∧
    ({ state := .fenced } : Fn).state = .fenced ∧ ({ pendingOn := true } : Fn).pendingOn = true ∧ ({ state := .quarantined } : Fn).state = .quarantined := by decide

theorem witness_RequestsReachEveryKindOfFunction :
    (isStateEntry 0x1F01 1 = true ∧ addrStatus up .mailbox (entryAddr 0x1F01 1) [2] = stOK ∧ entryAddr 0x1F01 1 ≠ eSliceState 0 ∧
      fnState up (entryAddr 0x1F01 1) ≠ .fenced) ∧
    (isStateEntry 0x1F33 255 = true ∧ addrStatus up .mailbox (entryAddr 0x1F33 255) [0] = stOK ∧ entryAddr 0x1F33 255 ≠ eSliceState 0) ∧
    (∀ g < 4, addrStatus up .mailbox (eControlGroupState g) [2] = stOK ∧ addrStatus up .mailbox (eControlGroupState g) [0] = stOK) ∧
    (127 < 128 ∧ 543 < 544 ∧ 8 < 9 ∧ 1023 < 1024 ∧ 5 < 6) ∧ fnState (fnAt (entryAddr 0x1F01 1) .fenced) (entryAddr 0x1F01 1) = .fenced ∧
    addrStatus stopped .mailbox (entryAddr 0x1F01 1) [2] ≠ stOK ∧ isStateEntry 0x1F40 6 = false := by decide +kernel

theorem witness_FunctionCompletionsTaken :
    (isStateEntry 0x1F01 1 = true ∧ live (fnAt (entryAddr 0x1F01 1) .starting) = true ∧ fnState (fnAt (entryAddr 0x1F01 1) .starting) (entryAddr 0x1F01 1) = .starting) ∧
    (live (fnAt (entryAddr 0x1F01 1) .stopping) = true ∧ fnState (fnAt (entryAddr 0x1F01 1) .stopping) (entryAddr 0x1F01 1) = .stopping ∧
      (fnSite (entryAddr 0x1F01 1)).1 ≠ 13) ∧ (live stopped = false ∧ fnState up (entryAddr 0x1F01 1) = .off) ∧ 3 < 4 := by decide +kernel

theorem witness_LaneNumberingFollowsMap : (543 < 544 ∧ 543 % 17 = 16) ∧ (542 < 544 ∧ 542 % 17 < 16) ∧ (127 < 128 ∧ 3 < 4 ∧ ownLane 127 3 = 542) := by decide

/-- A lane in STARTING that has its clock and one MARKER, at slot 0. -/
def laneStart : State := setLane (fnAt (eLaneState 0) .starting) 0 { signal := true, cdrLocked := true, lastMarker := some 0 }
/-- The MARKER of lane 0, and a SWITCH of its group that names a carried lane. -/
def marker : BitVec 136 := lcbMake 0 0 0 7
def switchTo (n : Nat) : BitVec 136 := lcbMake 16 1 n 0

theorem witness_LaneSignalsAndLossesTaken :
    (live up = true ∧ 543 < 544 ∧ (laneOf up 543).signal = false) ∧ (laneOf laneStart 0).signal = true ∧
    (0 ≤ rd up eLaneMarginLimit ∧ fnState (fnAt (eLaneState 0) .fenced) (eLaneState 0) = .fenced) ∧
    (rd up eLaneMarginLimit < rd up eLaneMarginLimit + 1 ∧ fnState up (eLaneState 0) ≠ .fenced) ∧
    (31 < 32 ∧ addrStatus up .mailbox (0x2E1F * 256 + 0x44) [0] = stOK ∧ addrStatus up .mailbox (0x2E00 * 256 + 1) [255] = stOK) ∧
    (dataUp up = true ∧ dataUp State.reset = false ∧ (laneOf (setLane up 543 { txActive := true }) (17 * 31 + 16)).txActive = true) ∧
    live stopped = false := by decide +kernel

/-- Group 0 with its spare's reading and carrying, over a lane 0 in a state. -/
def switching_ (reads carries : Option Nat) (l : Lane) (st : FnState) : State :=
  setLg (setLane (fnAt (eLaneState 0) st) 0 l) 0 { reads := reads, carries := carries }

theorem witness_MarkersAlignLanes :
    (live up = true ∧ fnState up (eLaneState 0) = .off) ∧ (lcbSynced (lcbUpright (marker ^^^ 1)) = false ∧ fnState laneStart (eLaneState 0) = .starting) ∧
    (let b := lcbUpright (marker ^^^ BitVec.ofNat 136 (2 ^ 80))
     lcbSynced b = true ∧ lcbGood b = false) ∧
    (let b := lcbUpright (switchTo 3)
     lcbSynced b = true ∧ lcbGood b = true ∧ lcbType b ≠ 0) ∧
    ((laneOf laneStart 0).cdrLocked = true ∧ (laneOf laneStart 0).lastMarker = some 0 ∧ lcbUpright marker = marker ∧ lcbUpright (lcbInvert marker) = marker ∧
      lcbSynced marker = true ∧ lcbGood marker = true ∧ lcbType marker = 0 ∧ lcbSynced (lcbInvert marker) = false) ∧
    (let s := setLane (fnAt (eLaneState 0) .on) 0 { aligned := true, lastMarker := some 1025 }
     fnState s (eLaneState 0) = .on ∧ (laneOf s 0).aligned = true ∧ (laneOf s 0).lastMarker = some 1025) ∧
    ((lcbSynced marker && lcbGood marker && decide (lcbType marker = 1)) = false) ∧
    (∀ n ∈ [0, 15, 16, 30, 31], lcbUpright (switchTo n) = switchTo n ∧
      (lcbSynced (switchTo n) && lcbGood (switchTo n) && decide (lcbType (switchTo n) = 1)) = true ∧ lcbCarried (switchTo n) = n) ∧
    ((lgOf up 31).reads = none ∧ (lgOf up 31).carries = none) ∧
    ((lgOf (switching_ (some 0) (some 5) {} .on) 0).carries = some 5 ∧ 3 < 5 ∧ 5 < 6) ∧
    (let s := switching_ (some 0) (some 0) { fencedBySwitch := true } .fenced
     (lgOf s 0).reads = some 0 ∧ (lgOf s 0).carries = some 0 ∧ (laneOf s 0).fencedBySwitch = true ∧ fnState s (eLaneState 0) = .fenced ∧ laneOn s 0 = false) ∧
    (let s := switching_ (some 0) (some 0) {} .on
     laneOn s 0 = true ∧ (laneOf s 0).fencedBySwitch = false) ∧
    (let s := switching_ (some 0) (some 0) {} .off
     laneOn s 0 = false ∧ (laneOf s 0).fencedBySwitch = false) ∧
    ((lgOf (switching_ (some 0) none {} .on) 0).carries ≠ some 0) := by decide +kernel

/-- An identity frame of an endpoint in ON, and its trailer. -/
def idOn : BitVec 512 := BitVec.ofNat 512 (0x40 + 1 * 2 ^ 8 + 2 * 2 ^ 16)
def linkTrailer (f : BitVec 512) : BitVec 32 := frameTrailer f true 0 false 0

theorem witness_PortIdentityRulesHold :
    (live up = true ∧ portHears up 127 = false) ∧
    (portHears (portUp 0) 0 = true ∧ frameOk idOn (linkTrailer idOn ^^^ 1) = false ∧
      portHears (setPort (fnAt (ePortState 0) .starting) 0 { deskewed := true }) 0 = true) ∧
    (frameOk idOn (linkTrailer idOn) = true ∧ trLink (linkTrailer idOn) = true ∧ idRecordable idOn = true) ∧
    (frameOk 0 (linkTrailer 0) = true ∧ trLink (linkTrailer 0) = true ∧ idRecordable 0 = false) ∧
    (portHears (fnAt (ePortState 0) .stopping) 0 = true ∧ fnState (fnAt (ePortState 0) .stopping) (ePortState 0) = .stopping) ∧
    (portOn (fnAt (ePortState 0) .starting) 0 = false ∧ (runNext (portOf (fnAt (ePortState 0) .starting) 0).run idOn).2 ≠ 4) ∧
    (let s := setPort (portUp 0) 0 { portOf (portUp 0) 0 with run := some (idContent idOn, 3) }
     portHears s 0 = true ∧ fnState s (ePortState 0) = .on ∧ (portOf s 0).farOn = true ∧ idState idOn = 2 ∧ (runNext (portOf s 0).run idOn).2 = 4) ∧
    (let s := setPort (portUp 0) 0 { portOf (portUp 0) 0 with run := some (0, 3) }
     portOn s 0 = true ∧ (runNext (portOf s 0).run idOn).2 ≠ 4) ∧
    (idState (idOn - 1 * 2 ^ 16) ≠ 2 ∧ (portOf (setPort (portUp 0) 0 { recorded := some idOn }) 0).recorded.map idContent = some (idContent idOn)) ∧
    ((lgOf up (127 / 4)).reads = none ∧ (lgOf (setLg up 31 { reads := some 15 }) (127 / 4)).reads ≠ none) ∧
    (let s := (List.range 4).foldl (fun s j => setLane s j { los := true }) (fnAt (ePortState 0) .quarantined)
     fnState s (ePortState 0) = .quarantined ∧ ∀ j < 4, (laneOf s (servingLane s 0 j)).los = true) ∧
    ((laneOf up (servingLane up 0 3)).los = false ∧ fnState up (ePortState 0) ≠ .quarantined) := by decide +kernel

/-- A port in ON with a loss to classify; the lanes of the list are not in ON. -/
def losing (ls : List Nat) : State :=
  let s := (List.range 17).foldl (fun s l => if ls.contains l then s else setFn s (eLaneState l) { state := .on })
    (setPort (portUp 0) 0 { farOn := true, lossPending := true, recorded := some idOn })
  setLg s 0 { spareIdent := some (idContent idOn) }

theorem witness_PortIdentityRulesHold_losses :
    (portOn (losing []) 0 = true ∧ (portOf (losing []) 0).lossPending = true ∧ lostPositions (losing []) 0 = []) ∧
    (lostPositions (losing [3]) 0 = [3] ∧ spareAvailable (losing [3]) 0 0 = true) ∧
    (lostPositions (losing [3, 16]) 0 = [3] ∧ spareAvailable (losing [3, 16]) 0 0 = false) ∧ 2 ≤ (lostPositions (losing [0, 1]) 0).length ∧
    (portOn up 127 = false ∧ (portOf (portUp 0) 0).lossPending = false) ∧
    (103 < 104 ∧ addrStatus up .mailbox (ePortExpectedEndpoint 103) (leBytes 8 (2 ^ 64 - 1)) = stOK ∧
      addrStatus stopped .mailbox (ePortExpectedEndpoint 103) (leBytes 8 0) ≠ stOK ∧
      addrStatus (fnAt (ePortState 103) .starting) .mailbox (ePortExpectedEndpoint 103) (leBytes 8 1) = stOK) := by decide +kernel

/-- A data frame's trailer: VC 2, first frame, with a sequence number. -/
def dataTrailer (f : BitVec 512) (seq : Nat) : BitVec 32 := frameTrailer f false 2 true seq

theorem witness_PktFramesAcceptedInSequence :
    (fnState up (ePortState 0) = .off ∧ fnState (fnAt (ePortState 127) .fenced) (ePortState 127) = .fenced) ∧
    (fnState (fnAt (ePortState 0) .quarantined) (ePortState 0) = .quarantined ∧ frameOk 0 (dataTrailer 0 0) = true ∧ trLink (dataTrailer 0 0) = false) ∧
    fnState (fnAt (ePortState 0) .stopping) (ePortState 0) = .stopping ∧ (fnState (portUp 0) (ePortState 0) = .on ∧ frameOk 0 (dataTrailer 0 0 ^^^ 1) = false) ∧
    (let l := (portOf (portUp 0) 0).link
     (trSeq (dataTrailer 0 0) = l.expected ∧ l.expected < 1024 ∧ Tab.getD l.farUsed (trVc (dataTrailer 0 0)) 0 < rd (portUp 0) (ePortCreditGrant 0 (trVc (dataTrailer 0 0)))) ∧
     (trSeq (dataTrailer 0 1) + 1024 - l.expected) % 1024 = 1 ∧ (trSeq (dataTrailer 0 511) + 1024 - l.expected) % 1024 = 511 ∧
     (trSeq (dataTrailer 0 512) + 1024 - l.expected) % 1024 = 512) ∧
    (let s := setPort (portUp 0) 0 { link := { farUsed := [(2, rd up (ePortCreditGrant 0 2))] } }
     rd s (ePortCreditGrant 0 (trVc (dataTrailer 0 0))) ≤ Tab.getD (portOf s 0).link.farUsed (trVc (dataTrailer 0 0)) 0) ∧
    (let s := setPort (portUp 0) 0 { link := { retry := [⟨0, 2, true, 0, 0⟩] } }
     portOn s 0 = true ∧ (portOf s 0).link.retry ≠ [] ∧ (portOf s 0).link.t0 + 560 * ((portOf s 0).link.k + 1) ≤ fcNow s) ∧
    (let s := setPort (portUp 0) 0 { link := { retry := [⟨0, 2, true, 0, 0⟩], t0 := 841 } }
     fcNow s < (portOf s 0).link.t0 + 560 * ((portOf s 0).link.k + 1)) ∧ (portOn (portUp 0) 0 = true ∧ (portOf (portUp 0) 0).link.retry = []) ∧
    (portOf (portUp 0) 0).echo.fixed = false ∧ (portOf (setPort (portUp 0) 0 { echo := { fixed := true } }) 0).echo.fixed = true := by decide +kernel

/-- A packet on the egress queue of a class, and its port with credit on every VC. -/
def outPkt (vc cls sent : Nat) : OutPacket := { pkt := { somePkt with h := { somePkt.h with cls := BitVec.ofNat 2 cls } }, vc := vc, sent := sent }
def sending_ (q : List OutPacket) (l : Link) (ceiling : Nat) : State :=
  setPort (portUp 0) 0 { farOn := true, queue := q, sched := { ceiling := ceiling }, link := { l with farGrant := (List.range 8).map fun v => (v, 100) } }

theorem witness_FrameSlotSendsWhatIsDue :
    (dataUp up = true ∧ portSends (spareSlot up 127) 127 = false ∧ dataUp State.reset = false) ∧
    (let s := setFn stopped (ePortState 127) { state := .on }
     dataUp s = true ∧ s.faults.frozen = true ∧ portSends (spareSlot s 127) 127 = true) ∧
    (live (portUp 0) = true ∧ portSends (spareSlot (portUp 0) 0) 0 = true) ∧
    (portSends (setLane up 0 { txActive := true }) 0 = true ∧ portSends (setLg (setLane up 16 { txActive := true }) 0 { carries := some 15 }) 3 = true) ∧
    (let x (ps : List Nat) (d : Option Nat) : LaneGroup := { slotPorts := ps, switchDue := d }
     (x [] none).slotPorts = [] ∧ 3 ∈ (x [3] none).slotPorts ∧ ¬ 3 ∈ (x [2] none).slotPorts ∧ (x [2] (some 31)).switchDue = some 31) ∧
    ((laneOf (setLane up 16 { txActive := true }) (spareOf 0)).txActive = true ∧ (laneOf up (spareOf 0)).txActive = false ∧
      (lgOf (setLg up 0 { carries := some 3 }) 0).carries ≠ none) ∧
    (portOn (portUp 0) 0 = true ∧ (portOf (portUp 0) 0).farOn = true ∧ idDue (portUp 0) 0 = false ∧ portOn up 0 = false) ∧
    ((portOf (sending_ [] { replay := some 0 } 0) 0).link.replay ≠ none) ∧
    330 ≤ (portOf (sending_ [] { retry := List.replicate 330 ⟨0, 0, false, 0, 0⟩ } 0) 0).link.retry.length ∧
    (ctrlPick (sending_ [outPkt 0 0 0] {} 1) 0 = some 0 ∧ 0 < (portOf (sending_ [outPkt 0 0 0] {} 1) 0).sched.ceiling) ∧
    (ctrlPick (sending_ [outPkt 2 1 1] {} 1) 0 = none ∧ dataPick (sending_ [outPkt 2 1 1] {} 1) 0 = some 0) ∧
    (dataPick (sending_ [outPkt 2 1 0] {} 0) 0 = none ∧ chooseClass (sending_ [outPkt 2 1 0] {} 0) 0 = some 1) ∧ chooseClass (sending_ [] {} 0) 0 = none := by
  decide +kernel

theorem witness_TorusSizeCommitChecksBounds :
    (let s := wr (wr (wr up eTorusSizeX 32) eTorusSizeY 32) eTorusSizeZ 4
     addrStatus s .mailbox eTorusSizeCommit [1] = stOK ∧ sizesValid (rd s eTorusSizeX, rd s eTorusSizeY, rd s eTorusSizeZ) = true ∧
     s.topo.sizes ≠ some (rd s eTorusSizeX, rd s eTorusSizeY, rd s eTorusSizeZ)) ∧
    sizesValid (2, 2, 2) = true ∧ (sizesValid (33, 2, 2) = false ∧ sizesValid (2, 1, 2) = false ∧ sizesValid (32, 32, 5) = false) ∧
    addrStatus stopped .mailbox eTorusSizeCommit [1] ≠ stOK ∧
    (let s := wr (wr (wr up eTorusSizeX 4) eTorusSizeY 4) eTorusSizeZ 4
     s.topo.sizes = some (rd s eTorusSizeX, rd s eTorusSizeY, rd s eTorusSizeZ)) := by decide +kernel

/-- A TABLE slice 1023 in a state, whose staged table sends this module's own packets to itself. -/
def tableSlice (st : FnState) (table : List Byte) : State :=
  wr (setBlob (fnAt (eSliceState 1023) st) (eSliceRouteTable 1023) table) (eSliceKind 1023) 1

theorem witness_BondsAndSlicesCommit :
    (103 < 104 ∧ 255 < 256 ∧ addrStatus up .mailbox (ePortBondLeader 103) (leBytes 1 255) = stOK) ∧
    (0 < 1023 ∧ 1023 < 1024 ∧ addrStatus (tableSlice .on []) .mailbox (eSliceCommit 1023) [1] = stOK ∧ rd (tableSlice .on []) (eSliceKind 1023) = 1) ∧
    (fnState (tableSlice .starting []) (eSliceState 1023) = .starting ∧ fnState (tableSlice .stopping []) (eSliceState 1023) = .stopping) ∧
    (fnState (tableSlice .off []) (eSliceState 1023) = .off ∧ addrStatus (tableSlice .off []) .mailbox (eSliceCommit 1023) [1] = stOK) ∧
    (fnState (tableSlice .on []) (eSliceState 1023) = .on ∧ (tableSlice .on []).topo.sizes = some (4, 4, 4)) ∧
    tableOk (tableSlice .on []) (4, 4, 4) (sliceZ (blob (tableSlice .on []) (eSliceRouteTable 1023)) 0 8192) 0 = false ∧
    overlaps (tableSlice .on []) 1023 1 = false ∧
    (let s := setFn { tableSlice .on [] with topo := { up.topo with slices := [(1, ⟨1, 1, [], 0, 0, 0⟩)] } } (eSliceState 1) { state := .on }
     overlaps s 1023 1 = true) ∧
    (rd up (eSliceKind 1) ≠ 1 ∧ addrStatus stopped .mailbox (eSliceCommit 1) [1] ≠ stOK) ∧ (live stopped = false ∧ fnState up (eSliceState 5) ≠ .stopping) := by
  decide +kernel

/-- A table of one valid entry, this module's own, is right. -/
theorem witness_BondsAndSlicesCommit_table : tableOk up (4, 4, 4) ([6, 0x80] ++ List.replicate 8190 0) 0 = true := by
  have e (m : Nat) : (([6, 0x80] : List Byte) ++ List.replicate 8190 0).drop (2 * (m + 1)) = List.replicate (8190 - 2 * m) 0 := by
    show (List.replicate 8190 (0 : Byte)).drop (2 * m) = _
    rw [List.drop_replicate]
  have z (n : Nat) : leNat ((List.replicate n (0 : Byte)).take 2) = 0 := by
    rcases n with _ | _ | n <;> rfl
  unfold tableOk
  simp only [List.all_eq_true]
  intro m _
  cases m with
  | zero => decide +kernel
  | succ m =>
    rw [e, z]
    have h0 : moduleNum (4, 4, 4) (myCoord up) = 0 := by decide +kernel
    rw [h0]
    simp [teNext, teMask, teValid, bitsAt, bitAt]

/-- A header held at port 0's VC 2: waiting for the port or channel of a mark. -/
def holding (mark : Nat) : State :=
  { up with pools := { up.pools with waiting := [{ out := { outPkt 2 1 0 with arrival := 0, arrivalVc := 2, inBuf := true }, outPort := mark, copies := 1, stamp := 3 }] } }

theorem witness_EscapeStallAndFailoverAct :
    (live (holding 255) = true ∧ heldAt (holding 255) 255 0 2 = some 0 ∧ (holding 255).pools.waiting[0]?.isSome) ∧
    (heldAt (holding 254) 254 0 2 = some 0 ∧ heldAt up 255 127 7 = none ∧ heldAt up 254 255 7 = none) ∧
    ((stalledQueues (holding 3) 0 2).map (·.1) ++ stalledWaiters (holding 3) 0 2).min? = some 0 ∧
    ((stalledQueues (holding 3) 0 2).find? (fun x => decide (x.1 = 0)) = none ∧
      ((holding 3).pools.waiting.findIdx? fun w => atInput 0 2 w.out && decide (w.out.order = 0)) = some 0) ∧
    (let s := setPort (portUp 3) 3 { queue := [{ outPkt 2 1 0 with arrival := 127, arrivalVc := 7, inBuf := true, order := 4 }] }
     ((stalledQueues s 127 7).map (·.1) ++ stalledWaiters s 127 7).min? = some 4 ∧
     (stalledQueues s 127 7).find? (fun x => decide (x.1 = 4)) = some (4, 3)) ∧
    (stalledQueues up 127 7 = [] ∧ stalledWaiters up 127 7 = [] ∧ Tab.find (portOf up 127).rx 7 = none) ∧
    (moveTo (portUp 3) 0 somePkt.h = none ∧ (holding 255).pools.waiting.all (·.slice.isNone)) ∧
    (portOn (portUp 107) 104 = false ∧ 107 ∈ bundlePorts (bundleOf 104) ∧ portOn (portUp 107) 107 = true) ∧
    (portOn (portUp 127) 127 = true ∧ ∀ q ∈ bundlePorts (bundleOf 104), portOn up q = false) := by decide +kernel

theorem witness_RoutesWindowsAndReorderingAct :
    (addrStatus up .mailbox eFabricAdmit [1] = stOK ∧ up.topo.state = .ready ∧ rd up eFabricAdmitted ≠ 1) ∧
    (State.reset.topo.state ≠ .ready ∧ rd (wr up eFabricAdmitted 1) eFabricAdmitted = 1) ∧
    (104 ≤ 104 ∧ portOn (portUp 104) 104 = true) ∧ (103 < 104 ∧ portOn up 127 = false) ∧
    (let s : State := { up with e2e := { returns := [⟨5, 1, 4096, 0⟩] } }
     live s = true ∧ (s.e2e.returns.find? fun r => r.src = 5 && r.cls = 1) = some ⟨5, 1, 4096, 0⟩) ∧
    ((up.e2e.returns.find? fun r => r.src = 5 && r.cls = 1) = none) ∧
    (let s : State := { up with e2e := { windows := [⟨5, 32767, 3, 1⟩] } }
     live s = true ∧ windowBytes s 5 32767 3 ≠ 0) ∧ windowBytes up 5 32767 3 = 0 ∧
    (let s : State := { up with e2e := { reorder := [⟨5, 6, 0, [outPkt 2 1 0], false⟩] } }
     live s = true ∧ ∃ r, reorderOf s 5 6 = some r ∧ r.held ≠ []) ∧
    (let s : State := { up with e2e := { reorder := [⟨5, 6, 0, [], false⟩] } }
     ∃ r, reorderOf s 5 6 = some r ∧ r.held = []) ∧ reorderOf up 5 6 = none := by
  refine ⟨?_, ?_, ?_, ?_, ?_, ?_, ?_, ?_, ⟨rfl, _, rfl, nofun⟩, ⟨_, rfl, rfl⟩, ?_⟩ <;> decide +kernel

/-- Pools with one free block each, and two headers that wait for a curd block: the second came first. -/
def pooled (cls : Nat) : State :=
  { up with pools := { shared := [(0, 1), (1, 1), (2, 1)], waiting :=
      [{ out := outPkt 2 cls 0, outPort := 0, copies := 1, stamp := 9 }, { out := outPkt 2 cls 0, outPort := 127, copies := 1, stamp := 8 }] } }

theorem witness_GrantsGoToTheOldestHeaderServed :
    (live (pooled 1) = true ∧ mayGrant (pooled 1) 0 = true ∧ oldestWaiter (pooled 1) (canServe (pooled 1) 0) = some 1 ∧ (pooled 1).pools.waiting[1]?.isSome) ∧
    (live (pooled 0) = true ∧ (let u := loafTurn (pooled 0)
      mayGrant u 3 = true ∧ oldestWaiter u (wheyServe u) = some 1 ∧ u.pools.waiting[1]?.isSome)) ∧
    (live (pooled 1) = true ∧ ∀ w ∈ (loafTurn (pooled 1)).pools.waiting, wheyServe (loafTurn (pooled 1)) w = false) ∧
    ((∀ w ∈ (pooled 0).pools.waiting, loafRefused (pooled 0) w = false) ∧ (pooled 0).pools.loafQueue = [] ∧ live stopped = false) ∧
    (mayGrant { up with pools := { grantedAt := [(2, 1401), (3, 1401)] } } 2 = false ∧ mayGrant { up with pools := { grantedAt := [(2, 1401), (3, 1401)] } } 3 = false) ∧
    (∀ w ∈ (pooled 1).pools.waiting, canServe (pooled 1) 2 w = false ∧ wheyServe (pooled 1) w = false) := by decide +kernel

theorem witness_PolicersRefillAndTakeTheirSettings :
    (live up = true ∧ live stopped = false ∧ (rd (wr up (ePolicerEnable 103) 7) (ePolicerEnable 103)).testBit 2 = true) ∧
    (∀ k < 3, addrStatus up .mailbox (ePolicerRate 103 k) (leBytes 4 (2 ^ 32 - 1)) = stOK ∧ addrStatus up .mailbox (ePolicerBurst 0 k) (leBytes 4 4132) = stOK) ∧
    addrStatus up .mailbox (ePolicerEnable 0) (leBytes 1 7) = stOK ∧ addrStatus up (.session 1) ePolicerWindow (leBytes 4 1400) = stOK ∧
    (addrStatus up .mailbox ((0x3200 + 127) * 256 + 4) (leBytes 2 1024) = stOK ∧ addrStatus up .mailbox ((0x3200 + 127) * 256 + 12) (leBytes 4 (2 ^ 32 - 1024)) = stOK) ∧
    (addrStatus stopped .mailbox (ePolicerRate 0 0) (leBytes 4 0) ≠ stOK ∧ addrStatus up (.session 2) (ePolicerBurst 0 0) (leBytes 4 0) ≠ stOK ∧
      addrStatus (at_ .loaf) .mailbox (ePolicerEnable 0) (leBytes 1 0) ≠ stOK ∧ addrStatus stopped .mailbox ePolicerWindow (leBytes 4 0) ≠ stOK) := by decide +kernel

/-- A module whose slab 0 holds blocks of 256 bytes and slab 1 blocks of 1 KiB (a test then reads few bytes). -/
def blocks : State := { up with pools := { shared := [(0, 16), (1, 4)] } }

/-- The stored CRC words of zero bytes are what R86's CRC gives. -/
theorem test_zero_crc : crc32c (List.replicate 256 0) = zeroCrc 2 ∧ crc32c (List.replicate 1024 0) = zeroCrc 1 := by
  decide +kernel

theorem witness_VatUnitsKeepWhatIsWritten :
    (live blocks = true ∧ slabPending blocks 0 = false ∧ 15 < unitCount (crcModeOf blocks 0) ∧ (List.replicate 256 (7 : Byte)).length = unitSize (crcModeOf blocks 0)) ∧
    (524287 < 524288 ∧ 0 < unitCount (crcModeOf blocks 524287)) ∧
    (255 + [(1 : Byte)].length ≤ unitSize (crcModeOf blocks 0) ∧ [(1 : Byte)].length < unitSize (crcModeOf blocks 0) ∧ unitGood blocks 0 15 = true) ∧
    unitPoisoned (setTag up 0 { poisoned := true }) 0 0 = true ∧
    (let s := corruptUnit blocks 0 15 [(255, 1)]
     unitPoisoned s 0 15 = false ∧ unitGood s 0 15 = false ∧ slabPending s 0 = false) ∧
    (slabPending (setTag up 0 { pend := .stage }) 0 = true ∧ unitCount (crcModeOf up 0) ≤ 1 ∧ unitCount (crcModeOf blocks 1) ≤ 4) ∧
    unitSize (crcModeOf blocks 0) < 256 + [(1 : Byte)].length := by decide +kernel

theorem witness_VatRepairsComplete :
    (let s := { setTag up 524287 { pend := .refetch, sourceValid := true, sourceSlab := 33554431 } with cellar := { queue := [⟨true, 33554431, 524287, 0⟩] } }
     live s = true ∧ (tagOf s 524287).pend = .refetch ∧ s.cellar.queue = [⟨true, (tagOf s 524287).sourceSlab, 524287, 0⟩]) ∧
    (cellarGood (corruptCellar up 0 []) 0 = true ∧ cellarGood (corruptCellar { up with cellar := { crc := [(0, 1)] } } 0 []) 0 = false) ∧
    (let s := setTag blocks 0 { pend := .readback }
     (tagOf s 0).pend = .readback ∧ unitGood s 0 0 = true ∧ unitGood (corruptUnit s 0 0 [(255, 1)]) 0 0 = false) ∧
    ((({ up with vat := { remaps := [(524287, 2047)] } } : State).vat.remaps.find? fun x => decide (x.1 = 524287)) = some (524287, 2047) ∧
      rd up (eVatBankSpareRowsUsed 0) < 128 ∧ 128 ≤ rd (wr up (eVatBankSpareRowsUsed 0) 128) (eVatBankSpareRowsUsed 0)) ∧
    255 ∈ ({ up with vat := { moves := [255] } } : State).vat.moves ∧
    ((tagOf up 0).pend ≠ .refetch ∧ (tagOf up 0).pend ≠ .readback ∧ (∀ x ∈ up.vat.remaps, x.1 ≠ 0) ∧ 255 ∉ up.vat.moves) ∧
    ((halfOf up 8 1).reloading = false ∧ (readSlabs up (halfOf up 8 1).slabs).2 ≠ .wait) ∧
    (let s := setHalf (setTag up 5 { pend := .stage }) 8 1 { reloading := true, slabs := [5] }
     (halfOf s 8 1).reloading = true ∧ (readSlabs s (halfOf s 8 1).slabs).2 = .wait) ∧
    (cellarServes up false 0 0 = false ∧ ({ up with cellar := { queue := [⟨false, 33554431, 524287, 0⟩] } } : State).cellar.queue = [⟨false, 33554431, 524287, 0⟩]) := by
  decide +kernel

/-- A group of two member endpoints of this module, ports 0 and 1, rooted here; and one rooted elsewhere, below bundle 2, whose child bundle is 1. -/
def group1 : GroupDef := { someDef with slice := 5, members := [(idOf 0 0).toNat, (idOf 0 1).toNat], root := 0, parentBundle := 6, childMask := 2, subtreeMembers := 2 }
def group2 : GroupDef := { group1 with root := 1, parentBundle := 2 }

/-- The module with one group, whose instance is open or not. -/
def grouped (d : GroupDef) (i : Option Inst) : State := { up with groups := [(9, { gdef := d, inst := i })] }

theorem witness_GroupCommitsAndEntriesApply :
    (addrStatus up .mailbox eGroupStageCommit [1] = stOK ∧ addrStatus up (.session 1) eGroupStageCommit [2] = stOK ∧ up.groupCommit = none) ∧
    (let s : State := { up with groupCommit := some ⟨65535, true, [coordOfNum (4, 4, 4) 63], [], 0⟩ }
     s.groupCommit ≠ none ∧ live s = true ∧ s.topo.sizes = some (4, 4, 4) ∧
     (∃ c, s.groupCommit = some c ∧ c.group = 65535 ∧ coordOfNum (4, 4, 4) 63 ∈ c.awaiting ∧ coordOfNum (4, 4, 4) 62 ∉ c.awaiting)) ∧
    addrStatus stopped .mailbox eGroupStageCommit [1] ≠ stOK ∧ addrStatus stopped .mailbox eGroupStageCommit [2] ≠ stOK ∧
    (let s : State := setFn { up with topo := { up.topo with slices := [(5, ⟨1, 1, [], 0, 0, 0⟩)] } } (eSliceState 5) { state := .on }
     entryRefusal s 65535 group1.slice = 0) ∧ (entryRefusal up 65535 group1.slice ≠ 0 ∧ groupOf up 65535 = none) ∧
    (∃ g, groupOf (grouped group1 none) 9 = some g ∧ g.inst = none) ∧ (∃ g, groupOf (grouped group1 (some {})) 9 = some g ∧ g.inst ≠ none) := by
  refine ⟨by decide +kernel, ⟨by decide +kernel, by decide +kernel, by decide +kernel, _, rfl, by decide +kernel⟩, by decide +kernel, by decide +kernel,
    by decide +kernel, by decide +kernel, ⟨_, rfl, rfl⟩, ⟨_, rfl, nofun⟩⟩

/-- An open instance that runs a descriptor: SUM all-reduce of 64 BF16 elements with a static anchor. -/
def sumDesc : BitVec 512 := BitVec.ofNat 512 (1 + 1 * 2 ^ 8 + 1 * 2 ^ 16 + 2 ^ 50 + 64 * 2 ^ 64)
def openInst1 : Inst := { resident := true, desc := some sumDesc }
/-- A packet of group 9, epoch 1. -/
def groupPkt (op : BitVec 8) (src : BitVec 23) (aux : Nat) (payload : List Byte) : Packet :=
  { h := { somePkt.h with opcode := op, src := src, loc := locOf 9 1 0, aux := BitVec.ofNat 64 aux }, payload := payload }
/-- A group entry as `grouped` makes it. -/
def entryOf (d : GroupDef) (i : Option Inst) : Group := { gdef := d, inst := i }

theorem witness_MemberPacketsReachTheirInstance :
    (GroupPacket (grouped group1 (some openInst1)) 0 (groupPkt opDATA (idOf 0 0) 0 []) (entryOf group1 (some openInst1)) openInst1 ∧
      fromMember (grouped group1 (some openInst1)) (groupPkt opDATA (idOf 0 0) 0 []).h (entryOf group1 (some openInst1)) = true ∧
      auxKind (groupPkt opDATA (idOf 0 0) 0 []).h = kCONTRIB) ∧
    (GroupPacket (grouped group1 (some openInst1)) 1 (groupPkt opANCHOR (idOf 0 1) 0 []) (entryOf group1 (some openInst1)) openInst1 ∧
      bitsAt (groupPkt opANCHOR (idOf 0 1) 0 []).h.aux.toNat 0 8 = 0) ∧
    (GroupPacket (grouped group1 (some openInst1)) 1 (groupPkt opABORT (idOf 0 1) 0 [5]) (entryOf group1 (some openInst1)) openInst1 ∧
      abCause (groupPkt opABORT (idOf 0 1) 0 [5]).payload = caMEMBER_ABORT ∧ rankOf group1 (idOf 0 1) = some 1) := by
  unfold GroupPacket
  decide +kernel

theorem witness_MemberPacketsReachTheirInstance_joins_and_strangers :
    (let s := grouped group1 none
     live s = true ∧ 0 < 104 ∧ sourceOk s 0 (idOf 0 0) = true ∧ s.groupCommit = none ∧ groupOf s 9 = some (entryOf group1 none) ∧
     hEpoch (groupPkt opJOIN (idOf 0 0) 0 []).h = 1 ∧ residentCount s < 4096) ∧
    (hGroup (groupPkt opJOIN (idOf 0 2) 0 []).h = 9 ∧ groupOf up 9 = none ∧ rankOf group1 (idOf 0 2) = none) ∧
    ((isEdge 255 && sourceOk up 255 (idOf 0 103)) = false ∧ (isEdge 0 && sourceOk up 0 (idOf 0 103)) = false ∧ idPort (idOf 0 103) = 103) ∧
    (isEdge 103 = true ∧ sourceOk up 103 (idOf 0 103) = true ∧ idPort (idOf 1 255) = 255) ∧
    (let s : State := { up with groupCommit := some ⟨9, true, [], [], 0⟩ }
     installing s 9 = true) ∧ hEpoch { somePkt.h with loc := locOf 9 2 0 } ≠ (entryOf group1 none).epoch := by
  decide +kernel

theorem witness_TreePacketsReachTheirInstance :
    (∀ q ∈ [groupPkt opCOLL_RESULT (idOf (behind up 2) 255) (auxOf kCOMMIT 0 0 0) [], groupPkt opCOLL_RESULT (idOf (behind up 2) 255) 0 [],
        groupPkt opABORT (idOf (behind up 2) 255) 0 [1], groupPkt opABORT (idOf (behind up 2) 255) 0 [2], groupPkt opPOISON (idOf (behind up 2) 255) 0 [],
        groupPkt opANCHOR (idOf (behind up 2) 255) 1 []],
      GroupPacket (grouped group2 (some openInst1)) 112 q (entryOf group2 (some openInst1)) openInst1 ∧
      fromParent (grouped group2 (some openInst1)) q.h (entryOf group2 (some openInst1)) = true) ∧
    (auxKind (groupPkt opCOLL_RESULT 0 (auxOf kCOMMIT 0 0 0) []).h = kCOMMIT ∧ abCause [1] = caEND ∧ abCause [2] = caRERUN) ∧
    (∀ q ∈ [groupPkt opDATA (idOf (behind up 1) 255) 0 [], groupPkt opDATA (idOf (behind up 1) 255) (auxOf kJOIN_UP 0 0 0) [],
        groupPkt opDATA (idOf (behind up 1) 255) (auxOf kDONE_UP 0 0 0) [], groupPkt opABORT (idOf (behind up 1) 255) 0 [6]],
      GroupPacket (grouped group1 (some openInst1)) 255 q (entryOf group1 (some openInst1)) openInst1 ∧
      fromChild (grouped group1 (some openInst1)) q.h (entryOf group1 (some openInst1)) = some 1) ∧
    (abCause [6] = caREPORT ∧ dOp sumDesc ≠ 6 ∧ dOp sumDesc ≠ 7) := by
  unfold GroupPacket
  decide +kernel

theorem witness_CollectiveTimersAct :
    (isRoot group1 = true ∧ openInst1.joinDone = false ∧ isRoot group2 = false ∧ groupOf (grouped group1 (some openInst1)) 9 = some (entryOf group1 (some openInst1))) ∧
    (({ entryOf group2 (some openInst1) with lost := [5] } : Group).lost ≠ []) ∧
    (owedData (grouped group1 (some openInst1)) (entryOf group1 (some openInst1)) openInst1 = true ∧
      owedData (grouped group1 (some {})) (entryOf group1 (some {})) {} = false) ∧
    (openInst1.resident = true ∧ ({ openInst1 with resident := false } : Inst).resident = false) ∧
    (coordOfNum (4, 4, 4) 1 = group2.root ∧ coordOfNum (4, 4, 4) 63 ≠ group2.root) ∧ groupOf up 65535 = none := by decide +kernel

/-- A contribution of the member of rank 0 that waits, and the accumulator it goes to, whose terms have all come. -/
def waitingInst : Inst := { openInst1 with waiting := [{ source := 0, chunk := 0, pkt := groupPkt opDATA (idOf 0 0) 0 [], port := 0 }] }
def fullAcc : Acc := { added := [(0, 0), (1, 0), (2 ^ 20 + 1, 0)] }
def churning (i : Inst) : State := { grouped group1 (some i) with vat := { churnSlabs := 1 } }
/-- The same, with the term of rank 0 on its way. -/
def arriving (i : Inst) : State := { churning i with inbox := [{ port := 0, pkt := groupPkt opDATA (idOf 0 0) 0 [] }] }

theorem witness_ChurnTakesSpillsAndEmits :
    (instOf (churning waitingInst) 9 = some waitingInst ∧ isReduction sumDesc = true ∧
      (waitingInst.waiting.findIdx? fun t => (accsOf sumDesc t).contains 0 && takeable (churning waitingInst) sumDesc waitingInst t) = some 0 ∧
      ∀ t ∈ waitingInst.waiting, ((accsOf sumDesc t).contains 1 && takeable (churning waitingInst) sumDesc waitingInst t) = false) ∧
    (let i : Inst := { openInst1 with accs := [(0, {}), (1, { closed := true }), (2, fullAcc), (3, { slab := some 0 })] }
     live (churning i) = true ∧ Tab.find i.accs 0 = some {} ∧ accFull (churning i) group1 sumDesc i 0 = false ∧ freeChurnSlab (churning i) = some 0 ∧
     termsMissing (churning i) (entryOf group1 (some i)) sumDesc i 0 ≠ [] ∧
     (∀ t ∈ termsMissing (churning i) (entryOf group1 (some i)) sumDesc i 0, inFlight (churning i) 9 (entryOf group1 (some i)) t = false) ∧
     freeChurnSlab { churning i with vat := {} } = none ∧
     (∃ t ∈ termsMissing (arriving i) (entryOf group1 (some i)) sumDesc i 0, inFlight (arriving i) 9 (entryOf group1 (some i)) t = true) ∧
     ∃ t ∈ termsMissing (arriving i) (entryOf group1 (some i)) sumDesc i 0, inFlight (arriving i) 9 (entryOf group1 (some i)) t = false) ∧
    (let i : Inst := { openInst1 with accs := [(0, fullAcc)], joinDone := true }
     (isReduction sumDesc && decide (0 < accCount sumDesc) && accFull (churning i) group1 sumDesc i 0) = true ∧ (accOf i 0).emitted = false ∧
     i.joinDone = true ∧ plainRelay (churning i) group1 = false ∧ 67 < 68) ∧
    accCount sumDesc ≤ 1 ∧
    (let s := wr up (eChurnLaneStatus 66) 3
     spareChurn s (67 / 17) = some 67 ∧ lanesServing s (67 / 17) < 16) ∧ 16 ≤ lanesServing up (67 / 17) ∧
    (spareChurn (wr up (eChurnLaneStatus 16) 2) 0 = none) := by decide +kernel

/-- A recipe of one step over three tensors of one BF16 element each: its input, its scratch area and its output. -/
def tensor1 (space : Nat) : BitVec 256 := BitVec.ofNat 256 (1 * 2 ^ 48 + 1 * 2 ^ 64 + 1 * 2 ^ 96 + space * 2 ^ 228)
def recipe1 (w : Nat) : Recipe := { header := 0, steps := [BitVec.ofNat 128 w], tensors := [tensor1 0, tensor1 1, tensor1 2] }
/-- A step word: operation, sub-operation, and tensors 2 ← 0, 1. -/
def word1 (op sub : Nat) : Nat := op + sub * 2 ^ 8 + 2 * 2 ^ 16 + 0 * 2 ^ 24 + 1 * 2 ^ 32 + 0xFF * 2 ^ 40
/-- The word of a MATMUL of one product. -/
def matWord : Nat := word1 1 0 + 0xFFFF * 2 ^ 48 + 0xFF * 2 ^ 96
def inv1 : Inv :=
  { port := 0, srcId := 0, dstId := idOf 0 255, tag := 1, recipe := 3, slice := 0, generation := 0, inputBytes := 2, tokenBase := 0, tokenCount := 1, stepTag := 0,
    inputBase := 0, scratchBase := 1, outputBase := 2, readyAt := some 1, context := true, started := true }
/-- Invocation 0 stands at the one step of recipe 3; its slabs hold blocks of 256 bytes, which a test reads quickly. -/
def running (w : Nat) (v : Inv) : State :=
  { up with pools := { shared := [(0, 64)] }, recipes := { installed := [(3, recipe1 w)], invs := [(0, v)] } }

/-- A MATMUL in progress, its unit as given, cluster 0 in service. -/
def matInv : Inv := { inv1 with phase := .running, job := some { groups := [1] } }
def unit1 : KUnit := { inv := 0, product := 0, mTile := 0, nChunk := 0, kGroup := 0, cluster := 0, chunk := 0 }
def multiplying (x : KUnit) : State :=
  setFn { running matWord matInv with knead := { units := [(0, x)] } } (eClusterState 0) { state := .on }
def matProduct : Product := ((productsOf (running matWord matInv) ⟨0, matInv, recipe1 matWord, BitVec.ofNat 128 matWord⟩)[0]?).getD
  { a := ⟨0, 0, 0, 0, 0, 0, 0, 0, none⟩, transA := false, b := ⟨0, 0, 0, 0, 0, 0, 0, 0, none⟩, transB := false, d := ⟨0, 0, 0, 0, 0, 0, 0, 0, none⟩,
    backward := false, anchored := false, mode := 0, static := 0, colmax := none, sparse := none, zero := none }

theorem witness_KneadPassesUnitsAndTakeovers_passes :
    (let s := multiplying unit1
     live s = true ∧ unitOf s 0 = some unit1 ∧ unitProduct s unit1 = some (matProduct, { groups := [1] }) ∧
     loadArray s matProduct { groups := [1] } unit1 = some 0 ∧ ownTile s 0 { groups := [1] } unit1 = false ∧ (halfOf s 0 (fillOf s 0)).reloading = false ∧
     (readSlabs s (matProduct.bSlabs 0 0)).2 = .go ∧ (readSlabs (setTag s 1 { poisoned := true, badUnits := [0] }) (matProduct.bSlabs 0 0)).2 = .poison ∧
     (readSlabs (setTag s 1 { pend := .stage }) (matProduct.bSlabs 0 0)).2 = .wait) ∧
    (loadArray (multiplying { unit1 with finished := true }) matProduct { groups := [1] } { unit1 with finished := true } = none) ∧
    (let x := { unit1 with bank := true }
     let s := setKarray (multiplying x) 0 { active := some { job := 0, product := 0, side := 1, index := 0, chunk := 0 } }
     unitProduct s x = some (matProduct, { groups := [1] }) ∧ passOpen s matProduct { groups := [1] } x 0 = true ∧ tileReady s { groups := [1] } x 0 = true ∧
     matProduct.transA = false ∧ (readSlabs s (passReads matProduct x)).2 = .go ∧ (readSlabs (setTag s 0 { badUnits := [0] }) (passReads matProduct x)).2 = .poison ∧
     (readSlabs (setTag s 0 { pend := .stage }) (passReads matProduct x)).2 = .wait ∧ passOpen s matProduct { groups := [1] } x 26 = false) ∧
    (let x := { unit1 with chunk := 1, bank := true }
     let s := multiplying x
     unitProduct s x = some (matProduct, { groups := [1] }) ∧ (runningOf s 0).isSome ∧ x.finished = false ∧ unitEnd matProduct { groups := [1] } x ≤ x.chunk ∧
     clusterServes s x.cluster = true ∧ (readSlabs s (endReads matProduct x)).2 ≠ .wait ∧
     (writeSlabs s (matProduct.dWhole 0) (matProduct.dSlabs 0 0)).2 ≠ .wait ∧
     (writeSlabs (setTag s 2 { pend := .stage }) (matProduct.dWhole 0) (matProduct.dSlabs 0 0)).2 = .wait) ∧
    ((unit1.failing.getD (lastVerdict unit1 .checksum)).1 = .pass ∧
      (({ unit1 with failing := some (.column 0, 0) } : KUnit).failing.getD (lastVerdict unit1 .pass)).1 ≠ .pass) ∧
    (unitOf up 0 = none ∧ 26 < 27) := by decide +kernel

theorem witness_KneadPassesUnitsAndTakeovers_takeovers :
    (let s := fnAt (eClusterState 7) .fenced
     live s = true ∧ 7 ∈ s.knead.order ∧ departs s 7 .fault = true ∧ s.proof.cover ≠ some 7 ∧ s.knead.spare = some 8) ∧
    (({ up with knead := { spare := none } } : State).knead.spare = none ∧ departs (fnAt (eClusterState 0) .stopping) 0 .disable = true) ∧
    (let s : State := { fnAt (eClusterState 0) .on with proof := { active := some 0, phase := 1 } }
     departs s 0 .proof = true ∧ 0 ∈ s.knead.order) ∧
    (let s : State := { fnAt (eClusterState 8) .fenced with knead := { order := [8, 1], spare := none }, proof := { active := some 0, phase := 2, cover := some 8 } }
     8 ∈ s.knead.order ∧ departs s 8 .fault = true ∧ s.proof.cover = some 8 ∧ s.proof.active = some 0) ∧
    (8 ∉ up.knead.order ∧ departs up 0 .fault = false) := by decide +kernel

/-- The staged bytes of a recipe of one BARRIER and one tensor, and its number. -/
def stagedRecipe : RecipeStage :=
  { header := leBytes 32 (2 ^ 80 + 2 ^ 64 + 2 ^ 48 + 2 ^ 32 + 2 ^ 16), steps := leBytes 16 (14 + 0xFFFFFFFF * 2 ^ 16), tensors := leBytes 32 (tensor1 0).toNat }
/-- A station with one field of one slab, as staged; and an installed one in a state. -/
def stagedStation : StationStage := { fields := leBytes 32 (7 + 1 * 2 ^ 48 + 1 * 2 ^ 64 + 1 * 2 ^ 96 + 1 * 2 ^ 160) }
def station1 (st : Nat) : Station := { header := 0, fields := [], state := st, initTag := 0, bases := [], slots := [{ state := 1 }, {}] }
/-- A recipe whose tensor lies in station 0. -/
def stationRecipe : Recipe := { recipe1 0 with tensors := [tensor1 3] }

theorem witness_RecipesAndStationsInstall :
    (∀ v ∈ [1, 2], addrStatus up .mailbox eRecipeCommit [BitVec.ofNat 8 v] = stOK) ∧ (∀ v ∈ [1, 2, 3, 4], addrStatus up .mailbox eStationCommit [BitVec.ofNat 8 v] = stOK) ∧
    (recipeCode up 0 (recipeStage up 0) ≠ 0 ∧ recipeOf up 0 = none ∧ stationOf up 0 = none ∧ recipeSelected up .mailbox = 0) ∧
    (let s : State := { up with recipes := { stages := [(0, stagedRecipe)] } }
     recipeCode s 0 (recipeStage s 0) = 0) ∧
    (stationCode up 0 {} = 0 ∧ (allocFields 0 up (stagedFields [])).isSome) ∧
    (stationCode up 0 stagedStation = 0 ∧ (allocFields 0 { up with vat := { headroom := [] } } (stagedFields stagedStation.fields)).isNone) ∧ stationCode up 0 { header := [1] } = 0 ∧ stationCode up 0 { header := [0, 0, 1] } ≠ 0 ∧
    (recipe1 0).removing = false ∧ ({ recipe1 0 with removing := true } : Recipe).removing = true ∧
    (let s : State := { up with stations := { installed := [(0, station1 1)] } }
     stationOf s 0 = some (station1 1) ∧ stationNamed s 0 = false ∧ stationInUse s 0 = false ∧ (station1 2).state ≠ 1) ∧
    (let s : State := { up with recipes := { installed := [(3, stationRecipe)], invs := [(0, inv1)] } }
     stationNamed s 0 = true ∧ stationInUse s 0 = true) ∧
    (addrStatus stopped .mailbox eRecipeCommit [1] ≠ stOK ∧ addrStatus stopped .mailbox eStationCommit [4] ≠ stOK) := by decide +kernel

/-- Packet `chunk` of an INVOKE of recipe 3 from port 0; packet 0 brings the invocation header, for one token and no input. -/
def invokePkt (chunk : Nat) : Packet :=
  { h := { somePkt.h with opcode := opINVOKE, slice := 1, loc := locOf 3 1 chunk }, payload := leBytes 16 (1 * 2 ^ 8) }
def invocable : Recipe := { header := BitVec.ofNat 256 (2 ^ 64 + 2 ^ 48), steps := [], tensors := [] }

theorem witness_InvocationsOpenStartAndEnd :
    ((invokePkt 0).h.opcode = opINVOKE ∧ hChunk (invokePkt 0).h = 0 ∧ hChunk (invokePkt 1).h ≠ 0 ∧ live up = true) ∧
    (openOf (running 14 inv1) 0 (invokePkt 0).h = some 0 ∧ invOf (running 14 inv1) 0 = some inv1 ∧ openOf up 0 (invokePkt 0).h = none ∧ keptOf up 127 (invokePkt 0).h = none) ∧
    (keptOf { up with recipes := { histories := [(0, [(0, 1, 5)])] } } 0 (invokePkt 0).h = some 5) ∧
    (isEdge 127 = false ∧ isEdge 0 = true ∧ hGroup (invokePkt 0).h = 3 ∧ recipeOf up 3 = none) ∧
    (let s : State := { up with recipes := { installed := [(3, invocable)] } }
     recipeOf s 3 = some invocable ∧ invocable.removing = false ∧ rhSlice invocable.header = (invokePkt 0).h.slice.toNat ∧
     invokeHeaderOk invocable (leNat (sliceZ (invokePkt 0).payload 0 16)) = true ∧ invokeHeaderOk invocable 0 = false ∧
     s.recipes.invs.length < rd s eRecipeOpenLimit ∧ freeIndex s = some 0) ∧
    (({ invocable with removing := true } : Recipe).removing = true ∧ rhSlice ({ invocable with header := 1 } : Recipe).header ≠ (invokePkt 0).h.slice.toNat ∧
      ({ inv1 with closing := some 0 } : Inv).closing ≠ none ∧ inv1.closing = none) ∧
    (let s : State := wr { up with recipes := { installed := [(3, invocable)], invs := [(0, inv1)] } } eRecipeOpenLimit 1
     rd s eRecipeOpenLimit ≤ s.recipes.invs.length) ∧
    (inv1.dup = false ∧ inv1.readyAt ≠ none ∧ ({ inv1 with readyAt := none } : Inv).readyAt = none ∧ hChunk (invokePkt 1).h = inv1.nextChunk ∧ hChunk (invokePkt 2).h ≠ inv1.nextChunk) ∧
    (let s : State := { up with recipes := { invs := [(1023, { inv1 with context := false })], ready := [1023] } }
     s.recipes.ready.head? = some 1023 ∧ (s.recipes.invs.filter fun x => x.2.context).length < rd s eRecipeContextCount) ∧
    (up.recipes.ready.head? ≠ some 0 ∧ rd (wr (running 14 inv1) eRecipeContextCount 1) eRecipeContextCount ≤ ((running 14 inv1).recipes.invs.filter fun x => x.2.context).length) := by
  decide +kernel

/-- The areas of a recipe fit where the station partition has slabs. -/
theorem witness_InvocationsOpenStartAndEnd_areas :
    ∃ a b c t, workArea up { invocable with header := BitVec.ofNat 256 (2 ^ 112 + 2 ^ 96 + 2 ^ 80) } = some (a, b, c, t) := by
  refine ⟨_, _, _, _, rfl⟩

/-- Invocation 0 of `running w inv1` at its step. -/
def stepAt (w : Nat) (v : Inv) : Run := ⟨0, v, recipe1 w, BitVec.ofNat 128 w⟩

/-- What makes a step of `running` start, each part a fact of its own. -/
def StartsHere (w : Nat) (v : Inv) : Prop :=
  live (running w v) = true ∧ runOf (running w v) 0 = some (stepAt w v) ∧ (stepAt w v).problem (running w v) = none ∧
  matmulProblem (running w v) (stepAt w v).w = none ∧ (stepAt w v).versions = [] ∧ (takeLocks (running w v) (stepAt w v)).2 = true

theorem stepReady_of_startsHere {w : Nat} {v : Inv} (h : StartsHere w v) : StepReady (running w v) 0 (stepAt w v) (running w v) (stepAt w v) := by
  obtain ⟨h1, h2, h3, h4, h5, -⟩ := h
  refine ⟨h1, h2, h3, h4, ?_, h2, rfl⟩
  rw [h5]
  rfl

theorem stepStarts_of_startsHere {w : Nat} {v : Inv} (h : StartsHere w v) : ∃ t, StepStarts (running w v) 0 (stepAt w v) t (stepAt w v) :=
  ⟨(takeLocks (running w v) (stepAt w v)).1, running w v, stepReady_of_startsHere h, Prod.ext rfl h.2.2.2.2.2⟩

/-- The words of the MATMUL kinds. -/
def pairWord : Nat := word1 1 0 + 0xFFFF * 2 ^ 48 + 2 * 2 ^ 104 + 0xFF * 2 ^ 96 + 2 ^ 112

theorem witness_NumericStepsCompute :
    (∀ e ∈ [(2, 0), (3, 0), (4, 0), (4, 1), (5, 0), (5, 1), (5, 2), (5, 3), (5, 4), (6, 0), (6, 1), (6, 2), (7, 0), (11, 0), (11, 1), (11, 2)],
      swOp (stepAt (word1 e.1 e.2) inv1).w = e.1 ∧ swSub (stepAt (word1 e.1 e.2) inv1).w = e.2) ∧
    (swOp (stepAt matWord matInv).w = soMATMUL ∧ mmKind (stepAt matWord matInv).w = 0 ∧ mmKind (stepAt pairWord matInv).w = 1) ∧
    (runOf up 0 = none ∧ live up = true) ∧
    (let x : Run := ⟨0, inv1, stationRecipe, BitVec.ofNat 128 (word1 3 0)⟩
     x.problem up = some (isNOT_READY, 0) ∧ swOp x.w = soSOFTMAX ∧ swSub x.w = 0) := by decide +kernel

theorem witness_NumericStepsCompute_starts :
    ∀ w ∈ [word1 2 0, word1 3 0, word1 4 0, word1 4 1, word1 5 0, word1 5 1, word1 5 2, word1 5 3, word1 5 4, word1 6 0, word1 6 1, word1 6 2, word1 7 0,
      word1 11 0, word1 11 1, word1 11 2, matWord, pairWord], StartsHere w inv1 := by
  unfold StartsHere
  decide +kernel

/-- An invocation with a STAGE in progress. -/
def staged1 : Inv := { inv1 with asyncs := [{ step := 0 }] }

theorem witness_BarrierWaitsForAsynchronousSteps :
    StartsHere (word1 14 0) inv1 ∧ StartsHere (word1 14 0) staged1 ∧
    (swOp (stepAt (word1 14 0) inv1).w = soBARRIER ∧ swSub (stepAt (word1 14 0) inv1).w = 0 ∧ inv1.asyncs = [] ∧ staged1.asyncs ≠ []) := by
  unfold StartsHere
  decide +kernel

theorem witness_StagesUpdatesAndStepEndings :
    (∀ w ∈ [word1 8 0, word1 8 1, word1 9 0, word1 10 0, word1 13 0, word1 13 1, word1 13 2, word1 12 0, word1 12 1], StartsHere w inv1 ∧
      StartsHere w { inv1 with phase := .waiting }) ∧
    (∀ e ∈ [(8, 0), (8, 1), (9, 0), (10, 0), (13, 0), (13, 1), (13, 2), (12, 0), (12, 1)],
      swOp (stepAt (word1 e.1 e.2) inv1).w = e.1 ∧ swSub (stepAt (word1 e.1 e.2) inv1).w = e.2) ∧ inv1.slotTaken = none := by
  unfold StartsHere
  decide +kernel

/-- Invocation 0 waits at a DISPATCH for slabs, with the step's lock. -/
def bufferWaits : State :=
  { running (word1 9 0) { inv1 with phase := .waiting } with
    recipes := { (running (word1 9 0) { inv1 with phase := .waiting }).recipes with locks := [⟨0, 0, 0, 0, false, none⟩] } }

theorem witness_StagesUpdatesAndStepEndings_waits :
    (waitsBuffer bufferWaits (stepAt (word1 9 0) { inv1 with phase := .waiting }) = true ∧ runOf bufferWaits 0 = some (stepAt (word1 9 0) { inv1 with phase := .waiting })) ∧
    (invOf (running 14 { inv1 with phase := .done }) 0 = some { inv1 with phase := .done } ∧ inv1.started = true ∧ inv1.status = none) ∧
    (runOf up 0 = none ∧ invOf up 0 = none) ∧ (inv1.phase ≠ .done ∧ inv1.phase ≠ .waiting) := by decide +kernel

theorem witness_StagesUpdatesAndStepEndings_buffer :
    ∃ t, StepStarts bufferWaits 0 (stepAt (word1 9 0) { inv1 with phase := .waiting }) t (stepAt (word1 9 0) { inv1 with phase := .waiting }) :=
  ⟨(takeLocks bufferWaits (stepAt (word1 9 0) { inv1 with phase := .waiting })).1, bufferWaits,
    ⟨by decide +kernel, by decide +kernel, by decide +kernel, by decide +kernel, by decide +kernel, by decide +kernel, rfl⟩, Prod.ext rfl (by decide +kernel)⟩

/-- An invocation with three expert slots: one waits, one is out with a backup, one is out without. -/
def eslot (slot : Nat) (st : SlotState) (b : Option Nat) : ESlot := { token := 0, slot := slot, expert := 0, state := st, backup := b, disp := 0 }
def routed : Inv := { inv1 with slots := [eslot 0 .waiting none, eslot 1 .outstanding (some (5 * 2 ^ 15)), eslot 2 .outstanding none] }

theorem witness_ExpertSlotsGoOn :
    (invOf (running 14 routed) 0 = some routed ∧ sending routed = true ∧ routed.slots[0]? = some (eslot 0 .waiting none)) ∧
    ((findSlot routed 0 0 fun e => e.state = .waiting) = some 0 ∧ (findSlot routed 0 1 fun e => e.state = .outstanding) = some 1 ∧
      (findSlot routed 0 2 fun e => e.state = .outstanding || e.state = .waiting) = some 2) ∧
    ((eslot 1 .outstanding (some (5 * 2 ^ 15))).backup = some (5 * 2 ^ 15) ∧ (eslot 1 .outstanding (some (5 * 2 ^ 15))).toBackup = false ∧
      ownerUsable (portUp 5) 0 (5 * 2 ^ 15) = true) ∧ (eslot 2 .outstanding none).backup = none ∧ invOf up 0 = none ∧
    ((groupPkt opCOMBINE_DATA 0 0 []).h.opcode = opCOMBINE_DATA ∧ live up = true) := by decide +kernel

/-- An image of no station and no group. -/
def emptyImage : List Byte := leBytes 42 0 ++ leBytes 2 0x5A53 ++ leBytes 2 1 ++ leBytes 6 0 ++ leBytes 4 1 ++ leBytes 8 0 ++ List.replicate 4032 0
def saving (phase : Nat) : State := { up with save := { phase := phase, target := 1, buffer := some (0, 4096) } }
/-- An image whose parts are those of a state, and a RESTORE of it from the host's buffer over a state. -/
def imageOf (s : State) (ks gs : List Nat) : List Byte :=
  let b := imageBody s ks gs
  imageHeader s ks gs (1 + b.length / 4096) (imageDigest b) ++ b
def restoring (s : State) : State := { s with save := { phase := 2, target := 1, buffer := some (0, 8192) } }
/-- The image of a group and of a station without fields, and whether RESTORE reads it whole and undamaged. -/
def groupImage : List Byte := imageOf (grouped group1 none) [] [9]
def withStation (h : BitVec 128) : State := { up with stations := { installed := [(0, { station1 2 with header := h })] } }
def stationImage : List Byte := imageOf (withStation 0) [0] []
def reads (im : List Byte) : Bool :=
  imageWhole (readImage (restoring up) im) && decide ((imageDigest (sliceZ im 4096 (4096 * (ihTotal im - 1)))).toNat = ihDigest im)

theorem witness_StrictSaveAndRestoreRun :
    (addrStatus up .mailbox eDeterminismStrict [0] = stOK ∧ addrStatus up .mailbox eDeterminismStrict [1] = stOK ∧ addrStatus stopped .mailbox eDeterminismStrict [1] ≠ stOK) ∧
    (addrStatus up .mailbox eSaveCommand [1] = stOK ∧ addrStatus up .mailbox eSaveCommand [2] = stOK ∧ addrStatus stopped .mailbox eSaveCommand [1] ≠ stOK) ∧
    ((saving 1).save.phase ≠ 0 ∧ up.save.phase = 0) ∧
    (let s : State := setBlob { up with stations := { installed := [(0, station1 1)] } } eSaveStationList [0, 0]
     u16List (blob s eSaveStationList) = [0] ∧ (u16List (blob s eSaveStationList)).any (stationInUse s) = false ∧ (station1 1).state ≠ 2) ∧
    (groupBusy (setBlob (grouped group1 (some {})) eSaveGroupList [9, 0]) 9 = true) ∧
    (noSpace up (imageSlabs up [] []) = false ∧ noSpace (wr up eSaveTarget 1) (imageSlabs up [] []) = true) ∧
    (let r := readSlabs (saving 1) []
     r.2 ≠ .wait ∧ unreadable r.1 [] = none) ∧
    (imageWhole (readImage (saving 2) []) = false ∧ imageWhole (readImage (saving 2) emptyImage) = true ∧
      (imageDigest (sliceZ emptyImage 4096 (4096 * (ihTotal emptyImage - 1)))).toNat = ihDigest emptyImage ∧ imageSections emptyImage = [] ∧ imageGroups emptyImage = []) ∧
    (let im := emptyImage.set 56 1
     imageWhole im = true ∧ (imageDigest (sliceZ im 4096 (4096 * (ihTotal im - 1)))).toNat ≠ ihDigest im) ∧ ((saving 3).save.phase = 3 ∧ live (saving 3) = true) := by
  decide +kernel

theorem witness_StrictSaveAndRestoreRun_images :
    (reads groupImage = true ∧ imageSections groupImage = [] ∧ (imageGroups groupImage).map (·.1) = [9]) ∧
    (groupOf up 9 = none ∧ groupOf (grouped group1 none) 9 ≠ none ∧ groupBusy (grouped group1 (some {})) 9 = true ∧ groupBusy (grouped group1 none) 9 = false) ∧
    (reads stationImage = true ∧ (imageSections stationImage).map (fun x => scStation x.1) = [0]) ∧
    (stationOf up 0 = none ∧ (imageSections stationImage).all (fun x => sectionMatches (restoring (withStation 0)) x.1) = true ∧
      (imageSections stationImage).any (fun x => !sectionMatches (restoring (withStation 1)) x.1) = true) ∧
    (let s : State := { up with save := { phase := 2, target := 0 }, cellar := { crc := [(0, 1)] } }
     badImageSlab s 1 = some 0 ∧ badImageSlab (saving 2) 1 = none) ∧
    (let s : State := setBlob up eSaveGroupList [9, 0]
     groupOf s 9 = none ∧ (u16List (blob s eSaveGroupList)) = [9] ∧ (station1 1).state ≠ 2) := by decide +kernel

/-- One record in the log, open or closed, of a class and with causes. -/
def recordOf (o : Bool) (cls : Nat) (causes : BitVec 64) : Record :=
  { id := 0, siteKind := 1, siteIndex := 5, cls := cls, firstCode := 16, lastCode := 16, causes := causes, firstFc := 0, lastFc := 0, opened := o }
def logged (r : Record) (fatal : Option Nat) : State := { up with faults := { records := [r], fatal := fatal } }

theorem witness_RecordsCloseAndReachFlash :
    (live (logged (recordOf true 1 0) none) = true ∧ ((logged (recordOf true 1 0) none).faults.records.find? fun r => r.id = 0) = some (recordOf true 1 0) ∧
      (recordOf true 1 0).opened = true ∧ (recordOf true 1 0).cls ≠ 2) ∧ (recordOf false 0 0).opened = false ∧ (recordOf true 2 0).cls = 2 ∧
    ((up.faults.records.find? fun r => r.id = 0) = none ∧ up.faults.fatal = none) ∧
    ((logged (recordOf true 2 (2 ^ 34 : BitVec 64)) (some 0)).faults.fatal = some 0 ∧ (recordOf true 2 (2 ^ 34 : BitVec 64)).causes.getLsbD 34 = true ∧
      (recordOf true 2 (2 ^ 63 : BitVec 64)).causes.getLsbD 63 = true) ∧
    (∀ n < 64, 34 ≤ n → (recordOf true 2 (2 ^ 32 + 2 ^ 33 : BitVec 64)).causes.getLsbD n = false) := by decide +kernel

theorem witness_UnfencingAndCoresAct :
    (∀ v ∈ [0x1F0101, 0x1F1000, 0x1F2008, 0x1F2103, 0x1F33FF, 0x1F4005],
      isStateEntry (v / 256) (v % 256) = true ∧ addrStatus up .mailbox eFaultUnfence (leBytes 4 v) = stOK ∧ fnState (fnAt v .fenced) v = .fenced ∧ fnState (fnAt v .off) v ≠ .fenced) ∧
    ((fnSite 0x1F0101).1 = 1 ∧ (fnSite 0x1F1000).1 = 2 ∧ (fnSite 0x1F2008).1 = 7 ∧ (fnSite 0x1F2103).1 = 9 ∧ (fnSite 0x1F33FF).1 = 13 ∧ (fnSite 0x1F4005).1 = 14) ∧
    (({ up with proof := { active := some 8, phase := 2 } } : State).proof.active = some 8 ∧ up.proof.active ≠ some 8) ∧
    (isStateEntry (0x1F4006 / 256) (0x1F4006 % 256) = false ∧ addrStatus stopped .mailbox eFaultUnfence (leBytes 4 0x1F0101) ≠ stOK) ∧
    (live up = true ∧ 15 < 16 ∧ rd (wr up (eControlCoreState 15) 2) (eControlCoreState 15) = 2 ∧ rd up (eControlCoreState 15) ≠ 2) := by decide +kernel

/-- A FENCE_NOTICE of a module about one of its ports, of an age. -/
def notice (coord port age : Nat) : Packet :=
  { h := { somePkt.h with opcode := opFENCE_NOTICE, src := idOf 1 255 }, payload := leBytes 16 ((idOf coord port).toNat + 2 ^ 64 + age % 2 ^ 32 * 2 ^ 80 + age / 2 ^ 32 * 2 ^ 112) }
def noticeBits (coord port age : Nat) : Nat := leNat ((notice coord port age).payload.take 16)

theorem witness_FenceNoticesAct :
    (live up = true ∧ 103 < 104 ∧ fnState up (ePortState 103) ≠ .on ∧ fnState up (ePortState 103) ≠ .fenced ∧ fnState up (ePortState 103) ≠ .quarantined) ∧
    (fnState (portUp 0) (ePortState 0) = .on ∧ fnState (fnAt (ePortState 0) .fenced) (ePortState 0) = .fenced ∧
      fnState (fnAt (ePortState 0) .quarantined) (ePortState 0) = .quarantined) ∧
    ((notice 2 0 1).h.opcode = opFENCE_NOTICE ∧ up.topo.sizes = some (4, 4, 4) ∧ idCoord (fnSubject (noticeBits 2 0 1)) ≠ idCoord (notice 2 0 1).h.src) ∧
    (idCoord (fnSubject (noticeBits 1 103 1)) = idCoord (notice 1 103 1).h.src ∧ fnAge (noticeBits 1 103 1) = 1 ∧ moduleNum (4, 4, 4) 1 = 1 ∧
      Tab.find ({ up with fence := { applied := [(1, 1)] } } : State).fence.applied 1 = some 1 ∧ Tab.find up.fence.applied 1 = none ∧
      inSizes (4, 4, 4) 1 = true ∧ idPort (fnSubject (noticeBits 1 103 1)) < 104) ∧
    (somePkt.h.opcode ≠ opFENCE_NOTICE ∧ ({ up with topo := {} } : State).topo.sizes = none) ∧
    (104 ≤ idPort (fnSubject (noticeBits 1 104 1)) ∧ inSizes (1, 4, 4) 1 = false) ∧ (4095 < 4096 ∧ 103 < 104) := by decide +kernel

/-- Proof enabled for every kind, and a test in progress of a unit in a phase. -/
def proofOn : State := wr up eProofEnable 31
def proving (u phase : Nat) : State := { up with proof := { active := some u, phase := phase } }

theorem witness_ProofUnitsAreTestedInTurn :
    (live up = true ∧ 892 < 893 ∧ (rd (wr up eProofEnable 0) eProofEnable).testBit (proofKind 892) = false ∧ ∀ u ∈ [0, 9, 77, 93, 349, 892], (rd proofOn eProofEnable).testBit (proofKind u) = true) ∧
    ((proving 0 2).proof.active.isSome = true ∧ proofOn.proof.active = none ∧ proofOn.proof.queue = []) ∧
    (proofHeld { proofOn with fw := { live := some 0 } } 77 = true ∧ proofHeld proofOn 77 = false) ∧
    (proofFenced (setFn proofOn (eClusterState 0) { state := .fenced }) 0 = true ∧ proofFenced proofOn 0 = false) ∧
    (proofKind 349 = 4 ∧ lanePosition (setFn proofOn (eLaneState 0) { state := .on }) 0 = true ∧ lanePosition proofOn 0 = false ∧ testsInPlace proofOn 349 = true) ∧
    (testsInPlace proofOn 0 = false ∧ spareFree proofOn 0 = true ∧ testsInPlace proofOn 8 = true) ∧
    (spareFree { proofOn with knead := { spare := none } } 0 = false ∧ proofKind 0 ≠ 3) ∧
    (addrStatus up .mailbox eProofNow (leBytes 2 892) = stOK ∧ addrStatus up .mailbox eProofPeriod (leBytes 4 1) = stOK ∧ addrStatus stopped .mailbox eProofNow (leBytes 2 0) ≠ stOK ∧
      addrStatus stopped .mailbox eProofPeriod (leBytes 4 1) ≠ stOK ∧ 893 ≤ 893) := by decide +kernel

theorem witness_ProofUnitsAreTestedInTurn_takeovers :
    (up.proof.active = none ∧ (proving 0 2).proof.phase ≠ 1 ∧ (proving 0 1).proof.active = some 0 ∧ (proving 0 1).proof.phase = 1) ∧
    (proofFenced (setFn (proving 0 1) (eClusterState 0) { state := .fenced }) 0 = true ∧ proofFenced (proving 0 1) 0 = false ∧ spareFree (proving 0 1) 0 = true) ∧
    (let s : State := { proving 0 1 with knead := { spare := none } }
     proofFenced s 0 = false ∧ spareFree s 0 = false ∧ s.proof.withheld = false) ∧
    (let s : State := { proving 0 1 with knead := { spare := none }, proof := { active := some 0, phase := 1, cover := some 8 } }
     takenOver s 0 = true ∧ takenOver (proving 0 1) 0 = false) ∧
    (proofKind 0 = 0 ∧ (proving 0 1).proof.withheld = false ∧ proofKind 9 = 1 ∧ spareChurn (proving 9 1) (proofIndex 9 / 17) = some 16) ∧
    (({ up with proof := { withheld := true } } : State).proof.withheld = true ∧ proofKind 77 = 2 ∧ (spareCore (wr up (eControlCoreState 3) 1) (proofIndex 77 / 4)) = some 3) := by decide +kernel

theorem witness_ProofTestsEndAsTheyWent :
    (live up = true ∧ up.proof.active = none ∧ (proving 0 2).proof.active = some 0 ∧ (proving 0 2).proof.phase = 2 ∧ (proving 0 3).proof.phase = 3) ∧
    ((proofFenced (setFn (proving 0 2) (eClusterState 0) { state := .fenced }) 0 && !(proving 0 2).proof.unfencing) = true ∧
      (proofFenced (proving 0 2) 0 && !(proving 0 2).proof.unfencing) = false) ∧
    (let t := proving 0 2
     ((false && anyArrayFenced t 0) = false ∧ repairable t 0 [(0, 1, 0)] false = true ∧ (putRepairs t 0 [(0, 1, 0)] false).proof.active = some 0) ∧ proofKind 0 = 0) ∧
    (proofFenced (setFn (proving 0 3) (eClusterState 0) { state := .fenced }) 0 = true ∧ spareFree (proving 0 3) 0 = true) ∧
    (spareFree { proving 0 3 with knead := { spare := none } } 0 = false ∧ proofKind 0 ≠ 3) ∧
    (let s := wr (wr (wr (wr (proving 77 3) (eControlCoreState 0) 0) (eControlCoreState 1) 2) (eControlCoreState 2) 2) (eControlCoreState 3) 0
     proofKind 77 = 2 ∧ spareFree s 77 = false ∧ proofFenced s 77 = false ∧
     ((groupCores (proofIndex 77 / 4)).filter fun c => c ≠ proofIndex 77 && rd s (eControlCoreState c) = 0).length < 2) ∧
    (proofKind 93 = 3 ∧ spareFree { proving 93 3 with vat := { headroom := [], dead := [(1, 524287)] } } 93 = false) := by decide +kernel

/-- A message of the manager with a type, session, seq and body, and a tag. -/
def fromManager (type session seq : Nat) (body tag : List Byte) : Datagram :=
  { addr := 7, header := mdpHeader type 0 session seq body.length false false false, body := body, tag := tag }
/-- Key slot 0 holds a key and a role; a session stands between CHALLENGE and PROVE. -/
def keyed : State := wr (setBlob up (eManagerKey 0) (List.replicate 133 1)) (eManagerKeyRole 0) 2
def proving_ : Session := { admin with isOpen := false }
def challenged : State := { keyed with mgmt := { sessions := [proving_] } }

theorem witness_SessionsOpenByChallengeAndProof :
    (mgmtUp up = true ∧ mdpFrameOk (fromManager 3 0 0 [] []) = false ∧ mdpFrameOk (fromManager 1 0 0 [] []) = true ∧ mgmtUp (at_ .pll) = false) ∧
    (hdType (fromManager 1 0 0 [] []).header = 1 ∧ mdpFrameOk (fromManager 1 0 0 [5] []) = true) ∧
    (let m := fromManager 2 0 0 (List.replicate 169 0) []
     mdpFrameOk m = true ∧ hdType m.header = 2 ∧ loafUp keyed = true ∧ m.body.length = 169 ∧ keyed.mgmt.sessions.length < 8 ∧
     slotUsable keyed (leNat (m.body.take 1)) = true ∧ slotUsable up (leNat (m.body.take 1)) = false ∧
     8 ≤ ({ up with mgmt := { sessions := List.replicate 8 admin } } : State).mgmt.sessions.length ∧ loafUp (at_ .memory) = true ∧ loafUp (at_ .loaf) = false) ∧
    ((fromManager 2 0 0 [] []).addr ∉ keyed.mgmt.lockouts ∧ (fromManager 2 0 0 [] []).body.length ≠ 169 ∧ (7 : BitVec 128) ∈ ({ up with mgmt := { lockouts := [7] } } : State).mgmt.lockouts) ∧
    (hdType (fromManager 2 0 0 [] []).header = 2) := by decide +kernel

theorem witness_SessionsOpenByChallengeAndProof_proof :
    (let m := fromManager 4 1 0 (List.replicate 132 0) []
     mdpFrameOk m = true ∧ hdType m.header = 4 ∧ hdSession m.header = 1 ∧ sessionOf challenged 1 = some proving_ ∧ proving_.isOpen = false ∧
     m.body.length = 132 ∧ slotUsable challenged proving_.slot = true ∧ slotUsable { up with mgmt := challenged.mgmt } proving_.slot = false) ∧
    ((fromManager 4 1 0 [] []).body.length ≠ 132 ∧ sessionOf up 1 = some admin ∧ admin.isOpen = true ∧ sessionOf up 2 = none) ∧
    (addrStatus up .mailbox eIpv6Address (List.replicate 16 1) = stOK) := by decide +kernel

/-- The address of Ipv6Address is the module's own. -/
theorem witness_SessionsOpenByChallengeAndProof_own : mgmtUp up = true ∧ ownAddress (setBlob up eIpv6Address (List.replicate 16 1)) (BitVec.ofNat 128 (beNat (List.replicate 16 1))) = true := by
  refine ⟨rfl, ?_⟩
  simp only [ownAddress, Bool.or_eq_true]
  exact .inr (by decide +kernel)

/-- A request of the open session, tagged as its manager does. -/
def tagged (type seq : Nat) (body : List Byte) : Datagram :=
  { fromManager type 1 seq body [] with tag := mdpTag admin.managerKey (fromManager type 1 seq body []).header body }

theorem tagged_tag (type seq : Nat) (body : List Byte) :
    (tagged type seq body).tag = mdpTag admin.managerKey (tagged type seq body).header (tagged type seq body).body := rfl

/-- A message of a type that a PING can not be mistaken for, and one with no tag. -/
theorem witness_RequestsAreHandledOnceAndAnswered :
    (∀ q ∈ ([0x05, 0x06, 0x10, 0x11, 0x12, 0x13, 0x14] : List Nat),
      mdpFrameOk (tagged q 1 []) = true ∧ hdType (tagged q 1 []).header = q ∧ hdSession (tagged q 1 []).header = 1 ∧ hdSeq (tagged q 1 []).header = admin.lastSeq + 1) ∧
    (sessionOf up 1 = some admin ∧ admin.isOpen = true ∧ sessionOf challenged 1 = some proving_ ∧ proving_.isOpen = false ∧ sessionOf up 9 = none) ∧
    (let x : Session := { admin with lastSeq := 1, cached := some (0, []) }
     hdSeq (tagged 6 1 []).header = x.lastSeq ∧ x.cached = some (0, []) ∧ hdSeq (tagged 6 3 []).header ≠ x.lastSeq + 1 ∧ hdSeq (tagged 6 3 []).header ≠ x.lastSeq) ∧
    (hdSeq (tagged 6 4294967295 []).header ≠ admin.lastSeq + 1 ∧ admin.cached = none ∧ mdpFrameOk (fromManager 3 1 1 [] []) = false) := by decide +kernel

/-- An empty tag is no tag of any message. -/
theorem mdpTag_ne_long (k : List Byte) (h : BitVec 128) (b : List Byte) : List.replicate 17 (0 : Byte) ≠ mdpTag k h b := by
  intro e
  have := congrArg List.length e
  simp [mdpTag] at this
  omega

/-- An event record in the session's queue, sent a number of times. -/
def withEvent (times lost : Nat) : Session := { admin with queue := [(1, 0, times)], lost := lost }

theorem witness_EventsAreAckedResentAndWatched :
    (mdpFrameOk (tagged 0x16 0 [1, 0, 0, 0]) = true ∧ hdType (tagged 0x16 0 [1, 0, 0, 0]).header = 0x16 ∧ hdSession (tagged 0x16 0 []).header = 1 ∧
      sessionOf up 1 = some admin ∧ admin.isOpen = true ∧ hdSeq (tagged 0x16 0 []).header = 0 ∧ hdSeq (tagged 0x16 1 []).header ≠ 0 ∧ (tagged 0x16 0 [1, 0, 0, 0]).body.length = 4) ∧
    ((withEvent 8 0).lost = 0 ∧ (withEvent 8 1).lost ≠ 0 ∧ ((withEvent 8 1).queue.filter fun r => leNat [(1 : Byte), 0, 0, 0] < r.1).length < 256) ∧
    (((withEvent 7 0).queue.find? fun r => r.1 = 1) = some (1, 0, 7) ∧ ((withEvent 8 0).queue.find? fun r => r.1 = 1) = some (1, 0, 8) ∧
      (admin.queue.find? fun r => r.1 = 1) = none) ∧
    (let x : Session := { admin with watches := [⟨0x1000, 0, 10, none⟩] }
     x.watches[0]? = some ⟨0x1000, 0, 10, none⟩ ∧ (none : Option (List Byte)) ≠ some (entryValue up (.session 1) 0x1000 0)) ∧
    sessionOf up 2 = none := by decide +kernel

theorem witness_WritesApplyOrChangeNothing :
    (itemStatus up .mailbox ⟨ePersistFlush / 256, ePersistFlush % 256, [1]⟩ = stOK ∧ itemStatus up .mailbox ⟨0, 0, []⟩ ≠ stOK) ∧
    (itemStatus up .mailbox ⟨0x1110, 1, List.replicate 133 1⟩ = stOK ∧ itemStatus up .mailbox ⟨0x1110, 8, List.replicate 133 1⟩ = stOK ∧ itemStatus up .mailbox ⟨0x1111, 8, [2]⟩ = stOK) ∧
    (mgmtUp up = true ∧ mgmtUp (at_ .held) = false ∧ addrStatus up .mailbox ePersistFlush [1] = stOK ∧ addrStatus stopped .mailbox ePersistFlush [1] ≠ stOK) ∧
    (itemStatus up .mailbox ⟨ePersistReset / 256, ePersistReset % 256, [2]⟩ = stOK ∧ itemStatus up .mailbox ⟨ePersistReset / 256, ePersistReset % 256, [255]⟩ ≠ stOK) := by
  decide +kernel

/-- A submission entry of an opcode and type: host address 4096, module address, length, and 64 bytes of room for a response. -/
def entry (op type module length : Nat) : BitVec 512 :=
  BitVec.ofNat 512 (op + type * 2 ^ 8 + 4096 * 2 ^ 256 + module * 2 ^ 320 + length * 2 ^ 384 + 64 * 2 ^ 416 + 8192 * 2 ^ 448)
/-- A module whose mailbox runs with one fetched command, over `blocks`, with a station of one field in slabs 0 and 1. -/
def weightField : BitVec 256 := BitVec.ofNat 256 (1 + 2 * 2 ^ 160 + 1 * 2 ^ 224)
def fetched (e : BitVec 512) : State :=
  { blocks with host := { up.host with enable := true, sqSize := 16, cqSize := 16, eqSize := 64, fetched := [e] },
                stations := { installed := [(0, { station1 1 with fields := [weightField], bases := [0] })] } }

theorem witness_MailboxCommandsFinish :
    (∀ op ∈ [0x01, 0x10, 0x11, 0x12, 0x13, 0x20, 0x30], runnable (fetched (entry op 0x10 0 4096)) (entry op 0x10 0 4096) op = true ∧ runnable up (entry op 0x10 0 4096) op = false) ∧
    (let e := entry 0x01 0x10 0 8
     let r := dictRequest (fetched e) e [1, 0, 0, 0, 1, 0x1F, 1, 0]
     sbLength e = 8 ∧ r.1.body ≠ [] ∧ r.1.body.length ≤ sbRespLength e) ∧
    (let e := entry 0x01 0x30 0 0
     (dictRequest (fetched e) e []).1.body = [] ∧ sbLength e = 0) ∧
    (let e := BitVec.ofNat 512 (0x01 + 0x11 * 2 ^ 8 + 11 * 2 ^ 384)
     sbRespLength e < (dictRequest (fetched e) e [1, 0, 0, 0, 1, 0x1F, 1, 0, 1, 0, 0]).1.body.length) ∧ 65536 < sbLength (entry 1 0x10 0 65537) := by decide +kernel

theorem witness_MailboxCommandsFinish_writes :
    (dmaShape (entry 0x10 0 0 4096) = stOK ∧ dmaShape (entry 0x10 0 1 4096) ≠ stOK ∧ dmaShape (entry 0x10 0 0 4095) ≠ stOK ∧ sbLength (entry 0x10 0 0 4096) = 4096) ∧
    (vatWriteStatus (fetched (entry 0x10 0 0 4096)) (dmaSlabs (entry 0x10 0 0 4096)) = stOK ∧ vatWriteStatus up (dmaSlabs (entry 0x10 0 0 4096)) ≠ stOK ∧
      slabPending (fetched 0) 0 = false ∧ slabPending (setTag up 0 { pend := .stage }) 0 = true) ∧
    (cellarWriteStatus up (dmaSlabs (entry 0x12 0 0 4096)) ≠ stOK ∧ cellarWriteStatus (fetched 0) (dmaSlabs (entry 0x12 0 0 4096)) = stOK) := by decide +kernel

theorem witness_MailboxCommandsFinish_reads :
    (let e := entry 0x11 0 0 8192
     let s := setTag (fetched e) 1 { poisoned := true }
     dmaSlabs e = [0, 1] ∧ copyOwner s 0 ≠ none ∧ copyOwner s 1 ≠ none ∧ copyOwner up 0 = none ∧ slabPoisoned s 0 = false ∧ unitGood s 0 0 = true ∧ slabPoisoned s 1 = true ∧
     slabPending s 0 = false ∧ slabPending s 1 = false) ∧
    (let e := entry 0x13 0 0 4096
     let t : State := { up with cellar := { crc := [(0, 1)] } }
     dmaSlabs e = [0] ∧ cellarGood up 0 = true ∧ cellarGood t 0 = false ∧ cellarSlabs ≤ cellarSlabs ∧ dmaShape e = stOK) := by decide +kernel

theorem witness_RingsMoveInOrder :
    (let e := entry 0x30 0 0 0
     let s := fetched e
     mailboxOn s = true ∧ mailboxOn up = false ∧ barReady up = true ∧ barReady (at_ .held) = false ∧ 15 < s.host.sqSize ∧ cqFull s = false ∧
     cqFull { s with host := { s.host with cqHead := 1 } } = true ∧ s.host.fetched = [e] ∧ headResult s e = none ∧
     headResult (finish s e stOK 0 0) e = some (stOK, 0, 0) ∧ s.host.aborted = [] ∧ up.host.fetched = []) ∧
    (¬ sbOpcode (entry 0x31 0 0 0) ∈ sbOpcodes ∧ 15 < (fetched 0).host.cqSize ∧ 63 < (fetched 0).host.eqSize ∧ up.host.enable = false ∧ (fetched 0).host.enable = true) ∧
    ((fetched 0).host.eventLost = 0 ∧ ({ up with host := { linkUp := true, unraised := [3] } } : State).host.linkUp = true ∧
      3 ∈ ({ up with host := { linkUp := true, unraised := [3] } } : State).host.unraised ∧ 3 ∉ up.host.unraised) := by decide +kernel

/-- A module that runs an image with LoafRevision 5 in slot A, the other slot in a state. -/
def img (live : Nat) : List Byte := leBytes 32 (5 * 2 ^ 64 + live * 2 ^ 128)
def slots (a b live : Nat) : State :=
  { up with fw := { slotA := { state := a, image := img 0 }, slotB := { state := b, image := img live } } }

theorem witness_FirmwareCommandsAct :
    (∀ v ∈ [1, 2, 3, 4, 5], addrStatus (slots 4 2 0) .mailbox eFirmwareCommand [BitVec.ofNat 8 v] = stOK ∧ addrStatus stopped .mailbox eFirmwareCommand [BitVec.ofNat 8 v] ≠ stOK) ∧
    (someTrial (slots 3 2 0) = true ∧ someTrial (slots 4 2 0) = false ∧ ({ up with fw := { programming := true } } : State).fw.programming = true ∧
      ((slots 4 2 0).fw.programming || (slots 4 2 0).fw.live.isSome) = false) ∧
    ((fwSlot (slots 4 0 0) (inactiveSlot up)).state = 0 ∧ (fwSlot (slots 4 2 0) 1).state = 2 ∧ imageCheck (slots 4 2 0) (img 0) true ≠ 0 ∧ imageCheck up [] true = 0 ∧
      imageCheck up [] false = 2) ∧
    (liveFrom (img 0xFFFFFFFF) = 0xFFFFFFFF ∧ loafRevision (slots 4 2 6) < liveFrom (img 6) ∧ liveFrom (img 5) ≠ 0xFFFFFFFF ∧ liveFrom (img 5) ≤ loafRevision (slots 4 2 5) ∧
      levelsHeld (slots 4 2 5) (img 5) = true) ∧
    ((fwSlot (slots 4 1 0) 1).state ≠ 2 ∧ (fwSlot (slots 4 2 0) (slots 4 2 0).fw.running).state = 4 ∧ (fwSlot (slots 3 2 0) 0).state = 3 ∧ (fwSlot (slots 4 3 0) 1).state = 3) := by
  decide +kernel

/-- A port in ON at level 1, which `img` (levels 0 to 0) has not. -/
theorem witness_FirmwareCommandsAct_levels : levelsHeld (wr (portUp 0) (ePortNegotiatedLevel 0) 1) (img 5) = false := by decide +kernel

theorem witness_ImagesAreProgrammedUpdatedLiveAndAttested :
    (let i := List.replicate 512 (0 : Byte)
     addrStatus up .mailbox eLoafImage i = stOK ∧ someTrial up = false ∧ (up.fw.programming || up.fw.live.isSome) = false ∧ addrStatus stopped .mailbox eLoafImage i ≠ stOK) ∧
    (loafUp up = true ∧ up.faults.frozen = false ∧ up.fw.programming = false ∧ ({ up with fw := { programming := true } } : State).fw.programming = true) ∧
    (live up = true ∧ up.fw.live = none ∧ ({ up with fw := { live := some 2 } } : State).fw.live = some 2 ∧ ({ up with fw := { live := some 3 } } : State).fw.live = some 3) ∧
    (addrStatus up .mailbox eAttestNonce (List.replicate 32 1) = stOK ∧ addrStatus up .mailbox eAttestNonce [] ≠ stOK) := by decide +kernel

/-- Page 0 of a copper insert, and of an optical one with a rating of 1 h and 10 insertions. -/
def copper : List Byte := leBytes 48 (0x4F45 + 1 * 2 ^ 16 + 1 * 2 ^ 24 + 17 * 2 ^ 288)
def optical : List Byte := leBytes 256 (0x4F45 + 1 * 2 ^ 16 + 2 * 2 ^ 24 + 17 * 2 ^ 288 + 1 * 2 ^ 320 + 10 * 2 ^ 352)
def lit : State := { up with cages := [(0, { insert := some ⟨some optical, [], true⟩, laserOn := true })] }

theorem witness_InsertsAreCheckedCountedAndFenced :
    (loafUp (at_ .held) = false ∧ loafUp up = true ∧ up.faults.frozen = false ∧ stopped.faults.frozen = true) ∧
    (identityResult up ⟨none, [], true⟩ = 3 ∧ identityResult up ⟨some [], [], true⟩ = 4 ∧ identityResult up ⟨some (optical.set 37 4), [], true⟩ = 2 ∧ identityResult up ⟨some copper, [], false⟩ = 1 ∧
      insKind copper ≠ 2 ∧ insKind optical = 2) ∧
    (fnState (fnAt (eEngineState 5) .fenced) (eEngineState 5) = .fenced ∧ fnState up (eEngineState 5) ≠ .fenced ∧ fnState up (eEngineState 5) = .off ∧
      fnState (fnAt (eEngineState 0) .quarantined) (eEngineState 0) = .quarantined ∧ fnState (fnAt (eEngineState 0) .on) (eEngineState 0) = .on ∧
      fnState (fnAt (eEngineState 0) .starting) (eEngineState 0) = .starting ∧ fnState (fnAt (eEngineState 0) .stopping) (eEngineState 0) = .stopping) ∧
    (live up = true ∧ fnState up (eEngineState 0) ≠ .quarantined ∧ (cageOf up 0).laserOn = false ∧ (cageOf lit 0).laserOn = true) ∧
    ((rd (wr lit (eEngineLaserHours 0) 9) (eEngineLaserHours 0) + 1) % 10 = 0 ∧ (rd lit (eEngineLaserHours 0) + 1) % 10 ≠ 0) := by decide +kernel

/-- The hash of an engine's key is in OTP, a value of the factory (log entry 5): where it is that of the key in page 1, the optical insert passes. -/
theorem witness_InsertsAreCheckedCountedAndFenced_signed (h : (beNat (sha512 (sliceZ [] 0 133)) : Nat) = (Config.otpEngineKeyHash (insKeySlot optical)).toNat) :
    identityResult up ⟨some optical, [], true⟩ = 1 := by
  have h1 : (insMagic optical ≠ 0x4F45 || insFormat optical ≠ 1 || insLanes optical ≠ 17 || (insKind optical ≠ 1 && insKind optical ≠ 2) || 180 < insMaxPower optical ||
      (insKind optical = 1 && 20 < insLength optical)) = false := by decide +kernel
  have h2 : insKind optical = 2 ∧ insKeySlot optical < 4 ∧ up.fw.revokedEngine.getLsbD (insKeySlot optical) = false := by decide +kernel
  obtain ⟨h2, h3, -⟩ := h2
  unfold identityResult
  dsimp only
  rw [if_neg (by rw [h1]; decide), if_neg]
  have h5 : up.fw.revokedEngine = 0 := rfl
  simp [h2, h3, h5, h]

theorem witness_StepRunsTheFrontCommand : up.pending = [] ∧ live stopped = false ∧ live up = true ∧ Safe up := ⟨rfl, rfl, by decide +kernel, safe_up⟩

theorem witness_EveryCommandCompletesOrNamesNoUnit :
    (Instr.insertRemoved 5).wellFormed = true ∧ (Instr.insertRemoved 6).wellFormed = false ∧ Safe up := ⟨rfl, rfl, safe_up⟩

theorem witness_EveryStepKeepsSafe_and_OtpOnlyRises : Safe up ∧ ∃ t, step { up with pending := [.supplyUv] } = .next t := ⟨safe_up, _, rfl⟩

theorem witness_FatalFreezeLastsUntilReset :
    Safe stopped ∧ stopped.faults.frozen = true ∧ (∃ t, step stopped = .next t) ∧ stopped.pending = [] ∧ ∃ t, step { stopped with pending := [.persistStore] } = .next t :=
  ⟨safe_stopped, rfl, ⟨_, rfl⟩, rfl, _, rfl⟩

theorem witness_OnlyBootSupplyAndResetMoveTheClock : Safe up ∧ clockCommands .persistStore = false ∧ ∃ t, exec .persistStore up = .next t := ⟨safe_up, rfl, _, rfl⟩

end Sys2Proof.Tests
end

section
/-! SUPPORT. Every command answers a next state where it names units of the part, and `noSuchUnit` where it does not; the next state
keeps what the state before it was held to. -/
namespace Sys2Proof.Machine

/-- The commands that may end a freeze: the start and the loss of a supply, and the module reset (R367). -/
def endsFreeze : Instr → Bool
  | .alwaysOnStart _ | .mainRailsShutdown | .alwaysOnLoss | .modReset => true
  | _ => false

/-- Every command keeps what a state is held to; one that may end a freeze needs no freeze to be held, one that may move the clock no
clock. -/
theorem keeps_exec {κ : Kept} {s : State} (hκ : Keeps κ s) :
    ∀ c : Instr, (endsFreeze c = true → κ.frozen = false) → (clockCommands c = true → κ.clock = none) → KeepsOut κ (exec c s)
  | .alwaysOnStart mv, hz, _ => keeps_execAlwaysOnStart mv s hκ (hz rfl)
  | .mainPowerStart mv, _, hc => keeps_execMainPowerStart mv s hκ (hc rfl)
  | .supplyLow mv, _, _ => keeps_execSupplyLow mv s hκ
  | .supplyHigh mv, _, _ => keeps_execSupplyHigh mv s hκ
  | .supplyUv, _, _ => keeps_execSupplyUv s hκ
  | .supplyOv, _, _ => keeps_execSupplyOv s hκ
  | .mainRailsShutdown, hz, hc => keeps_execMainRailsShutdown s hκ (hz rfl) (hc rfl)
  | .inputLost, _, _ => keeps_execInputLost s hκ
  | .alwaysOnLoss, hz, hc => keeps_execAlwaysOnLoss s hκ (hz rfl) (hc rfl)
  | .mateNChange high, _, _ => keeps_execMateNChange high s hκ
  | .modReset, hz, hc => keeps_execModReset s hκ (hz rfl) (hc rfl)
  | .modResetRelease straps mv, _, hc => keeps_execModResetRelease straps mv s hκ (hc rfl)
  | .perstNAssert, _, _ => keeps_execPerstNAssert s hκ
  | .perstNRelease speed width, _, _ => keeps_execPerstNRelease speed width s hκ
  | .functionLevelReset, _, _ => keeps_execFunctionLevelReset s hκ
  | .refclkLost, _, _ => keeps_execRefclkLost s hκ
  | .fallbackRelock, _, _ => keeps_execFallbackRelock s hκ
  | .refclkRestored, _, _ => keeps_execRefclkRestored s hκ
  | .pllLoss, _, _ => keeps_execPllLoss s hκ
  | .bootPllLock, _, hc => keeps_execBootPllLock s hκ (hc rfl)
  | .starterSelect sigA sigB, _, hc => keeps_execStarterSelect sigA sigB s hκ (hc rfl)
  | .bootLanes refclkGood, _, hc => keeps_execBootLanes refclkGood s hκ (hc rfl)
  | .bootLoaf, _, hc => keeps_execBootLoaf s hκ (hc rfl)
  | .bootMemory trained, _, hc => keeps_execBootMemory trained s hκ (hc rfl)
  | .bootProof failed pes rows, _, hc => keeps_execBootProof failed pes rows s hκ (hc rfl)
  | .bootTopology, _, hc => keeps_execBootTopology s hκ (hc rfl)
  | .bootReady ms, _, hc => keeps_execBootReady ms s hκ (hc rfl)
  | .enableRequest index sub, _, _ => keeps_execEnableRequest index sub s hκ
  | .disableRequest index sub, _, _ => keeps_execDisableRequest index sub s hκ
  | .functionStartDone index sub outcome, _, _ => keeps_execFunctionStartDone index sub outcome s hκ
  | .functionStopDone index sub, _, _ => keeps_execFunctionStopDone index sub s hκ
  | .stopTimeout index sub, _, _ => keeps_execStopTimeout index sub s hκ
  | .thermalLevelChange milliC, _, _ => keeps_execThermalLevelChange milliC s hκ
  | .thermalTrip milliC, _, _ => keeps_execThermalTrip milliC s hκ
  | .powerWindow10us watts, _, _ => keeps_execPowerWindow10us watts s hκ
  | .powerWindow1ms mv ma watts, _, _ => keeps_execPowerWindow1ms mv ma watts s hκ
  | .supplyPeakPowerRead src, _, _ => keeps_execSupplyPeakPowerRead src s hκ
  | .frameSlot port, _, _ => keeps_execFrameSlot port s hκ
  | .markerSlot group, _, _ => keeps_execMarkerSlot group s hκ
  | .signalDetect lane, _, _ => keeps_execSignalDetect lane s hκ
  | .cdrLock lane, _, _ => keeps_execCdrLock lane s hκ
  | .markerReceived lane slot skew block, _, _ => keeps_execMarkerReceived lane slot skew block s hκ
  | .idFrameReceived port onSpare flit trailer, _, _ => keeps_execIdFrameReceived port onSpare flit trailer s hκ
  | .quarantineRelease port, _, _ => keeps_execQuarantineRelease port s hκ
  | .portExpectedEndpointWrite src port ident, _, _ => keeps_execPortExpectedEndpointWrite src port ident s hκ
  | .lossOfSignal lane, _, _ => keeps_execLossOfSignal lane s hκ
  | .cdrLossOfLock lane, _, _ => keeps_execCdrLossOfLock lane s hκ
  | .markerLoss lane, _, _ => keeps_execMarkerLoss lane s hκ
  | .marginWindowEnd lane errors, _, _ => keeps_execMarginWindowEnd lane errors s hκ
  | .lossClassify port, _, _ => keeps_execLossClassify port s hκ
  | .switchReceived group block, _, _ => keeps_execSwitchReceived group block s hκ
  | .laneUserCalWrite src group sub value, _, _ => keeps_execLaneUserCalWrite src group sub value s hκ
  | .pktFrameReceived port flit trailer, _, _ => keeps_execPktFrameReceived port flit trailer s hκ
  | .retryTimerExpiry port, _, _ => keeps_execRetryTimerExpiry port s hκ
  | .roundTripFixed port, _, _ => keeps_execRoundTripFixed port s hκ
  | .torusSizeCommit src, _, _ => keeps_execTorusSizeCommit src s hκ
  | .portBondLeaderWrite src port leader, _, _ => keeps_execPortBondLeaderWrite src port leader s hκ
  | .sliceCommit src slice, _, _ => keeps_execSliceCommit src slice s hκ
  | .sliceDrainTimeout slice, _, _ => keeps_execSliceDrainTimeout slice s hκ
  | .bulkEscapeWait port vc, _, _ => keeps_execBulkEscapeWait port vc s hκ
  | .escapeProceed port vc, _, _ => keeps_execEscapeProceed port vc s hκ
  | .stallTimeout port vc, _, _ => keeps_execStallTimeout port vc s hκ
  | .localFailover port, _, _ => keeps_execLocalFailover port s hκ
  | .egressRequeue port, _, _ => keeps_execEgressRequeue port s hκ
  | .detourInstall entries, _, _ => keeps_execDetourInstall entries s hκ
  | .detourRemove modules, _, _ => keeps_execDetourRemove modules s hκ
  | .fabricAdmit src, _, _ => keeps_execFabricAdmit src s hκ
  | .routeAdmission port, _, _ => keeps_execRouteAdmission port s hκ
  | .windowUpdDelay srcId cls, _, _ => keeps_execWindowUpdDelay srcId cls s hκ
  | .windowLeakTimeout srcId module cls, _, _ => keeps_execWindowLeakTimeout srcId module cls s hκ
  | .reorderHoldTimeout srcId dstId, _, _ => keeps_execReorderHoldTimeout srcId dstId s hκ
  | .reorderContextIdle srcId dstId, _, _ => keeps_execReorderContextIdle srcId dstId s hκ
  | .curdGrant pool, _, _ => keeps_execCurdGrant pool s hκ
  | .wheyGrant, _, _ => keeps_execWheyGrant s hκ
  | .policerRefill, _, _ => keeps_execPolicerRefill s hκ
  | .policerRateWrite src port cls value, _, _ => keeps_execPolicerRateWrite src port cls value s hκ
  | .policerBurstWrite src port cls value, _, _ => keeps_execPolicerBurstWrite src port cls value s hκ
  | .policerEnableWrite src port value, _, _ => keeps_execPolicerEnableWrite src port value s hκ
  | .policerWindowWrite src value, _, _ => keeps_execPolicerWindowWrite src value s hκ
  | .shaperConfigWrite src port sub value, _, _ => keeps_execShaperConfigWrite src port sub value s hκ
  | .ctrlCeilingFill port, _, _ => keeps_execCtrlCeilingFill port s hκ
  | .vatAccess slab unit write flips, _, _ => keeps_execVatAccess slab unit write flips s hκ
  | .vatRefetchDone slab flips, _, _ => keeps_execVatRefetchDone slab flips s hκ
  | .vatReadbackDone slab flips, _, _ => keeps_execVatReadbackDone slab flips s hκ
  | .vatRemapDone slab, _, _ => keeps_execVatRemapDone slab s hκ
  | .vatBankMoveDone bank, _, _ => keeps_execVatBankMoveDone bank s hκ
  | .tbufParityError cluster half, _, _ => keeps_execTbufParityError cluster half s hκ
  | .tbufReload cluster half, _, _ => keeps_execTbufReload cluster half s hκ
  | .cellarSlabReadDone cslab slab flips, _, _ => keeps_execCellarSlabReadDone cslab slab flips s hκ
  | .cellarRefresh waited rate milliC, _, _ => keeps_execCellarRefresh waited rate milliC s hκ
  | .cellarChannel channel, _, _ => keeps_execCellarChannel channel s hκ
  | .fabricState, _, _ => keeps_execFabricState s hκ
  | .plihotuProbeWrite src value, _, _ => keeps_execPlihotuProbeWrite src value s hκ
  | .groupInstall src, _, _ => keeps_execGroupInstall src s hκ
  | .groupRemove src, _, _ => keeps_execGroupRemove src s hκ
  | .groupEntryMsg group origin entry, _, _ => keeps_execGroupEntryMsg group origin entry s hκ
  | .groupEntryAck group module refusal, _, _ => keeps_execGroupEntryAck group module refusal s hκ
  | .joinReceived port pkt, _, _ => keeps_execJoinReceived port pkt s hκ
  | .dataReceived port pkt, _, _ => keeps_execDataReceived port pkt s hκ
  | .contribReceived port pkt, _, _ => keeps_execContribReceived port pkt s hκ
  | .joinUpReceived port pkt, _, _ => keeps_execJoinUpReceived port pkt s hκ
  | .doneUpReceived port pkt, _, _ => keeps_execDoneUpReceived port pkt s hκ
  | .commitReceived port pkt, _, _ => keeps_execCommitReceived port pkt s hκ
  | .collResultReceived port pkt, _, _ => keeps_execCollResultReceived port pkt s hκ
  | .endReceived port pkt, _, _ => keeps_execEndReceived port pkt s hκ
  | .rerunReceived port pkt, _, _ => keeps_execRerunReceived port pkt s hκ
  | .reportReceived port pkt, _, _ => keeps_execReportReceived port pkt s hκ
  | .memberAbortReceived port pkt, _, _ => keeps_execMemberAbortReceived port pkt s hκ
  | .poisonNoticeReceived port pkt, _, _ => keeps_execPoisonNoticeReceived port pkt s hκ
  | .joinTimeout group, _, _ => keeps_execJoinTimeout group s hκ
  | .progressTimeout group, _, _ => keeps_execProgressTimeout group s hκ
  | .treeLossReport group lostModule isMember, _, _ => keeps_execTreeLossReport group lostModule isMember s hκ
  | .treeRecompute group entry, _, _ => keeps_execTreeRecompute group entry s hκ
  | .contextSwap group, _, _ => keeps_execContextSwap group s hκ
  | .maximaReceived port pkt, _, _ => keeps_execMaximaReceived port pkt s hκ
  | .finalReceived port pkt, _, _ => keeps_execFinalReceived port pkt s hκ
  | .churnTake group acc, _, _ => keeps_execChurnTake group acc s hκ
  | .skewWindowEnd group acc, _, _ => keeps_execSkewWindowEnd group acc s hκ
  | .accumulatorComplete group acc lane residueOk convertOk, _, _ => keeps_execAccumulatorComplete group acc lane residueOk convertOk s hκ
  | .churnSpareTakeover lane, _, _ => keeps_execChurnSpareTakeover lane s hκ
  | .kneadTileLoaded unit, _, _ => keeps_execKneadTileLoaded unit s hκ
  | .kneadPassDone unit array verdict, _, _ => keeps_execKneadPassDone unit array verdict s hκ
  | .kneadUnitDone unit verdict, _, _ => keeps_execKneadUnitDone unit verdict s hκ
  | .kneadRepairApply array, _, _ => keeps_execKneadRepairApply array s hκ
  | .clusterTakeover cluster reason, _, _ => keeps_execClusterTakeover cluster reason s hκ
  | .recipeInstall src, _, _ => keeps_execRecipeInstall src s hκ
  | .recipeRemove src, _, _ => keeps_execRecipeRemove src s hκ
  | .invokeReceived port pkt, _, _ => keeps_execInvokeReceived port pkt s hκ
  | .invokePacketReceived port pkt, _, _ => keeps_execInvokePacketReceived port pkt s hκ
  | .recipeInputTimeout inv, _, _ => keeps_execRecipeInputTimeout inv s hκ
  | .invocationStart inv, _, _ => keeps_execInvocationStart inv s hκ
  | .matmulForward inv, _, _ => keeps_execMatmulForward inv s hκ
  | .matmulBackwardPair inv, _, _ => keeps_execMatmulBackwardPair inv s hκ
  | .topk inv, _, _ => keeps_execTopk inv s hκ
  | .softmax inv, _, _ => keeps_execSoftmax inv s hκ
  | .normRms inv, _, _ => keeps_execNormRms inv s hκ
  | .normLayer inv, _, _ => keeps_execNormLayer inv s hκ
  | .scaleMul inv, _, _ => keeps_execScaleMul inv s hκ
  | .scaleRowvec inv, _, _ => keeps_execScaleRowvec inv s hκ
  | .scaleColvec inv, _, _ => keeps_execScaleColvec inv s hκ
  | .scaleRelu inv, _, _ => keeps_execScaleRelu inv s hκ
  | .scaleSilu inv, _, _ => keeps_execScaleSilu inv s hκ
  | .addStep inv, _, _ => keeps_execAddStep inv s hκ
  | .subStep inv, _, _ => keeps_execSubStep inv s hκ
  | .mulStep inv, _, _ => keeps_execMulStep inv s hκ
  | .convert inv, _, _ => keeps_execConvert inv s hκ
  | .stageIn inv, _, _ => keeps_execStageIn inv s hκ
  | .stageOut inv, _, _ => keeps_execStageOut inv s hκ
  | .dispatch inv, _, _ => keeps_execDispatch inv s hκ
  | .returnBufferAllocated inv, _, _ => keeps_execReturnBufferAllocated inv s hκ
  | .combine inv, _, _ => keeps_execCombine inv s hκ
  | .reduceInit inv, _, _ => keeps_execReduceInit inv s hκ
  | .reduceAccumulate inv, _, _ => keeps_execReduceAccumulate inv s hκ
  | .reduceRows inv, _, _ => keeps_execReduceRows inv s hκ
  | .updateSgdM inv, _, _ => keeps_execUpdateSgdM inv s hκ
  | .updateAdamw inv, _, _ => keeps_execUpdateAdamw inv s hκ
  | .updateSlotTaken inv, _, _ => keeps_execUpdateSlotTaken inv s hκ
  | .digestCompute inv, _, _ => keeps_execDigestCompute inv s hκ
  | .digestCompare inv, _, _ => keeps_execDigestCompare inv s hκ
  | .digestAuto inv, _, _ => keeps_execDigestAuto inv s hκ
  | .barrier inv, _, _ => keeps_execBarrier inv s hκ
  | .stepComplete inv, _, _ => keeps_execStepComplete inv s hκ
  | .recipeStepTimeout inv, _, _ => keeps_execRecipeStepTimeout inv s hκ
  | .stationInstall src, _, _ => keeps_execStationInstall src s hκ
  | .stationRemove src, _, _ => keeps_execStationRemove src s hκ
  | .stationReady src, _, _ => keeps_execStationReady src s hκ
  | .stationReload src, _, _ => keeps_execStationReload src s hκ
  | .combineDataReceived port pkt, _, _ => keeps_execCombineDataReceived port pkt s hκ
  | .ownerWindowFree inv token slot, _, _ => keeps_execOwnerWindowFree inv token slot s hκ
  | .expertRetry inv token slot, _, _ => keeps_execExpertRetry inv token slot s hκ
  | .expertReturnTimeout inv token slot, _, _ => keeps_execExpertReturnTimeout inv token slot s hκ
  | .strictWrite src value, _, _ => keeps_execStrictWrite src value s hκ
  | .save src, _, _ => keeps_execSave src s hκ
  | .saveComplete, _, _ => keeps_execSaveComplete s hκ
  | .restore src, _, _ => keeps_execRestore src s hκ
  | .restoreVerifyDone hostImage, _, _ => keeps_execRestoreVerifyDone hostImage s hκ
  | .restoreApplyDone failedStation, _, _ => keeps_execRestoreApplyDone failedStation s hκ
  | .fatalRecordFlash, _, _ => keeps_execFatalRecordFlash s hκ
  | .faultRecordClose record, _, _ => keeps_execFaultRecordClose record s hκ
  | .faultUnfence src value, _, _ => keeps_execFaultUnfence src value s hκ
  | .coreFault core, _, _ => keeps_execCoreFault core s hκ
  | .coreEcc core, _, _ => keeps_execCoreEcc core s hκ
  | .coreRestartDone core, _, _ => keeps_execCoreRestartDone core s hκ
  | .fenceNoticeDelay port, _, _ => keeps_execFenceNoticeDelay port s hκ
  | .fenceRefresh, _, _ => keeps_execFenceRefresh s hκ
  | .fenceNoticeReceived port pkt, _, _ => keeps_execFenceNoticeReceived port pkt s hκ
  | .fenceBitExpiry module port, _, _ => keeps_execFenceBitExpiry module port s hκ
  | .proofDue unit, _, _ => keeps_execProofDue unit s hκ
  | .proofNow src unit, _, _ => keeps_execProofNow src unit s hκ
  | .proofPeriodWrite src hours, _, _ => keeps_execProofPeriodWrite src hours s hκ
  | .proofTakeoverDone, _, _ => keeps_execProofTakeoverDone s hκ
  | .proofTestDone pass failing, _, _ => keeps_execProofTestDone pass failing s hκ
  | .proofDeferralEnd, _, _ => keeps_execProofDeferralEnd s hκ
  | .discover msg, _, _ => keeps_execDiscover msg s hκ
  | .mdpOpen msg, _, _ => keeps_execMdpOpen msg s hκ
  | .prove msg signatureOk, _, _ => keeps_execProve msg signatureOk s hκ
  | .mdpClose msg, _, _ => keeps_execMdpClose msg s hκ
  | .ping msg, _, _ => keeps_execPing msg s hκ
  | .mdpRead msg, _, _ => keeps_execMdpRead msg s hκ
  | .mdpWrite msg, _, _ => keeps_execMdpWrite msg s hκ
  | .readBlock msg, _, _ => keeps_execReadBlock msg s hκ
  | .writeBlock msg, _, _ => keeps_execWriteBlock msg s hκ
  | .subscribe msg, _, _ => keeps_execSubscribe msg s hκ
  | .eventAck msg, _, _ => keeps_execEventAck msg s hκ
  | .eventResend session seq, _, _ => keeps_execEventResend session seq s hκ
  | .watchCheck session watch, _, _ => keeps_execWatchCheck session watch s hκ
  | .proveTimeout session, _, _ => keeps_execProveTimeout session s hκ
  | .openLockoutExpiry addr, _, _ => keeps_execOpenLockoutExpiry addr s hκ
  | .sessionTimeout session, _, _ => keeps_execSessionTimeout session s hκ
  | .blockTransferTimeout src, _, _ => keeps_execBlockTransferTimeout src s hκ
  | .managerKeyWrite src item, _, _ => keeps_execManagerKeyWrite src item s hκ
  | .persistStore, _, _ => keeps_execPersistStore s hκ
  | .persistFlush src, _, _ => keeps_execPersistFlush src s hκ
  | .persistReset src value, _, _ => keeps_execPersistReset src value s hκ
  | .sqDoorbell tail entries, _, _ => keeps_execSqDoorbell tail entries s hκ
  | .dict entry body, _, _ => keeps_execDict entry body s hκ
  | .vatWrite entry data, _, _ => keeps_execVatWrite entry data s hκ
  | .vatRead entry, _, _ => keeps_execVatRead entry s hκ
  | .cellarWrite entry data, _, _ => keeps_execCellarWrite entry data s hκ
  | .cellarRead entry, _, _ => keeps_execCellarRead entry s hκ
  | .setSaveBuffer entry, _, _ => keeps_execSetSaveBuffer entry s hκ
  | .nop entry, _, _ => keeps_execNop entry s hκ
  | .mailboxCommandComplete, _, _ => keeps_execMailboxCommandComplete s hκ
  | .cqHeadWrite value, _, _ => keeps_execCqHeadWrite value s hκ
  | .eqHeadWrite value, _, _ => keeps_execEqHeadWrite value s hκ
  | .mbControlWrite value sqBase cqBase eqBase sqSize cqSize eqSize, _, _ => keeps_execMbControlWrite value sqBase cqBase eqBase sqSize cqSize eqSize s hκ
  | .eventMsixTimer vector, _, _ => keeps_execEventMsixTimer vector s hκ
  | .loafImageWrite src image, _, _ => keeps_execLoafImageWrite src image s hκ
  | .loafProgramDone signatureOk, _, _ => keeps_execLoafProgramDone signatureOk s hκ
  | .verify src signatureOk, _, _ => keeps_execVerify src signatureOk s hκ
  | .activateLive src, _, _ => keeps_execActivateLive src s hκ
  | .liveUpdateGroupDone started, _, _ => keeps_execLiveUpdateGroupDone started s hκ
  | .activateAtReset src, _, _ => keeps_execActivateAtReset src s hκ
  | .confirm src, _, _ => keeps_execConfirm src s hκ
  | .reject src, _, _ => keeps_execReject src s hκ
  | .attestNonceWrite src nonce, _, _ => keeps_execAttestNonceWrite src nonce s hκ
  | .insertSeated cage insert, _, _ => keeps_execInsertSeated cage insert s hκ
  | .insertRemoved cage, _, _ => keeps_execInsertRemoved cage s hκ
  | .engineFault cage cause, _, _ => keeps_execEngineFault cage cause s hκ
  | .laserHoursTick cage, _, _ => keeps_execLaserHoursTick cage s hκ
  | .registerWrite src item, _, _ => keeps_execRegisterWrite src item s hκ
  | .icmpv6Echo dst src payload, _, _ => keeps_execIcmpv6Echo dst src payload s hκ
  | .neighborDiscovery target src, _, _ => keeps_execNeighborDiscovery target src s hκ
  | .mdpFrameError msg, _, _ => keeps_execMdpFrameError msg s hκ

/-- What a state is held to as a command runs: its queue and its OTP, and a freeze and a clock where they must stand. -/
def heldTo (s : State) (frozen : Bool) (clock : Option (Nat × Boot)) : Kept :=
  { pending := s.pending, frozen, rollback := s.fw.rollback, revoked := s.fw.revokedFirmware, clock }

/-- A safe state keeps what it is held to itself. -/
theorem keeps_of_safe {s : State} {frozen : Bool} {clock : Option (Nat × Boot)} (h : Safe s) (hf : frozen = true → s.faults.frozen = true)
    (hc : ∀ c, clock = some c → s.now = c.1 ∧ s.boot = c.2) : Keeps (heldTo s frozen clock) s := by
  obtain ⟨⟨hvat, hcellar⟩, hshows, ⟨hlog, hsessions⟩, hsizes, hcommitted⟩ := h
  exact { queue := rfl, vatWf := hvat, cellarWf := hcellar, lasts := hf, shows := hshows, logSize := hlog, sessionCount := hsessions,
          rises := le_rfl, stays := BitVec.and_self, sizesOk := hsizes, committedOk := hcommitted, stands := hc }

/-- From a safe state, a command's next state has the queue of waiting commands as it was. -/
theorem pending_of_exec {c : Instr} {s t : State} (h : Safe s) (ht : exec c s = .next t) : t.pending = s.pending := by
  have hs : Keeps (heldTo s false none) s := keeps_of_safe h nofun nofun
  exact (keeps_parts (keeps_exec hs c (fun _ => rfl) (fun _ => rfl) t ht)).queue

/-- Every command runs under the one test that its operands name units of the part. -/
theorem exec_eq_onUnit (c : Instr) (s : State) : ∃ t, exec c s = onUnit c.wellFormed t := by
  cases c <;> exact ⟨_, rfl⟩

/-- Settles O55: every command runs under `onUnit`, and each keeps the queue. -/
theorem everyCommandCompletesOrNamesNoUnit : Obligations.EveryCommandCompletesOrNamesNoUnit := by
  unfold Obligations.EveryCommandCompletesOrNamesNoUnit
  intro c s
  obtain ⟨t, ht⟩ := exec_eq_onUnit c s
  constructor
  · intro hwf
    have hnext : exec c s = .next t := by rw [ht, hwf, onUnit_true]
    exact ⟨t, hnext, fun hs => pending_of_exec hs hnext⟩
  · intro hwf
    rw [ht, hwf, onUnit_false]

end Sys2Proof.Machine
end

section
/-! SUPPORT. One step from a safe state: what it is held to it keeps, so the state stays safe, and a freeze lasts through every command
that may not end it. -/
namespace Sys2Proof.Machine

/-- What a state keeps makes it safe. -/
theorem safe_of_keeps {κ : Kept} {s : State} (h : Keeps κ s) : Safe s := by
  have p := keeps_parts h
  exact ⟨⟨p.vatWf, p.cellarWf⟩, p.shows, ⟨p.logSize, p.sessionCount⟩, p.sizesOk, p.committedOk⟩

/-- A step from a safe state keeps what the state was held to, but for the command that left its queue; the freeze may be held where the
command at the front cannot end it. -/
theorem keeps_step {s t : State} {frozen : Bool} (h : Safe s) (hf : frozen = true → s.faults.frozen = true)
    (hz : ∀ c rest, s.pending = c :: rest → endsFreeze c = true → frozen = false) (ht : step s = .next t) :
    ∃ rest, Keeps (heldTo { s with pending := rest } frozen none) t := by
  unfold step at ht
  split at ht
  case h_1 =>
    cases ht
    exact ⟨s.pending, keeps_tick s (keeps_of_safe h hf nofun) rfl⟩
  case h_2 c rest hp =>
    have hs : Keeps (heldTo { s with pending := rest } frozen none) { s with pending := rest } :=
      keeps_of_safe (s := { s with pending := rest }) h hf nofun
    exact ⟨rest, keeps_exec hs c (hz c rest hp) (fun _ => rfl) t ht⟩

/-- Settles O57: every command, and a cycle without one, keeps the parts of a safe state. -/
theorem everyStepKeepsSafe : Obligations.EveryStepKeepsSafe := by
  unfold Obligations.EveryStepKeepsSafe
  intro s t h ht
  obtain ⟨rest, hk⟩ := keeps_step (frozen := false) h nofun (fun _ _ _ _ => rfl) ht
  exact safe_of_keeps hk

/-- The commands that may end a freeze, by name. -/
theorem endsFreeze_iff (c : Instr) :
    endsFreeze c = true ↔ (∃ mv, c = .alwaysOnStart mv) ∨ c = .mainRailsShutdown ∨ c = .alwaysOnLoss ∨ c = .modReset := by
  constructor
  · intro h
    unfold endsFreeze at h
    split at h
    · exact .inl ⟨_, rfl⟩
    · exact .inr (.inl rfl)
    · exact .inr (.inr (.inl rfl))
    · exact .inr (.inr (.inr rfl))
    · cases h
  · rintro (⟨mv, rfl⟩ | rfl | rfl | rfl) <;> rfl

/-- No cycle passes in a frozen module (R367). -/
theorem tick_frozen {s : State} (h : s.faults.frozen = true) : tick s = s := by
  have hl : live s = false := by unfold live; rw [h, Bool.not_true, Bool.and_false]
  unfold tick
  rw [hl]
  rfl

/-- Settles O58: but for the four commands that may end it, a step keeps the freeze, and a frozen module shows it. -/
theorem fatalFreezeLastsUntilReset : Obligations.FatalFreezeLastsUntilReset := by
  unfold Obligations.FatalFreezeLastsUntilReset
  intro s t h hf ht hstart hrails hloss hreset
  have hlasts : ∀ c rest, s.pending = c :: rest → endsFreeze c = true → true = false := by
    intro c rest hp hc
    rcases (endsFreeze_iff c).mp hc with ⟨mv, rfl⟩ | rfl | rfl | rfl
    · exact absurd hp (hstart mv rest)
    · exact absurd hp (hrails rest)
    · exact absurd hp (hloss rest)
    · exact absurd hp (hreset rest)
  obtain ⟨rest, hk⟩ := keeps_step h (fun _ => hf) hlasts ht
  have hfrozen : t.faults.frozen = true := (keeps_parts hk).lasts rfl
  obtain ⟨hready, hp, hn⟩ := (keeps_parts hk).shows hfrozen
  refine ⟨hfrozen, hready, hp, hn, fun hq => ?_⟩
  have hcycle : step s = .next (tick s) := by unfold step; rw [hq]
  rw [hcycle, tick_frozen hf] at ht
  cases ht
  rfl

end Sys2Proof.Machine
end

section
/-! SUPPORT. What the commands of the supply, the monitors and the PCI Express resets do, case by case (R8, R10, R20, R36, R42, R365). -/
namespace Sys2Proof.Machine

/-- The monitors act where the management domain runs and nothing is frozen (R367). -/
theorem whenMgmt_up {s : State} (hm : mgmtUp s = true) (hf : s.faults.frozen = false) (f : State → State) : whenMgmt s f = f s := by
  unfold whenMgmt
  rw [hm, hf]
  rfl

theorem whenMgmt_frozen {s : State} (hf : s.faults.frozen = true) (f : State → State) : whenMgmt s f = s := by
  unfold whenMgmt
  rw [hf, Bool.not_true, Bool.and_false]
  rfl

/-- A monitor that sees nothing to report changes nothing, whether it acts or not. -/
theorem whenMgmt_unchanged {s : State} {f : State → State} (h : f s = s) : whenMgmt s f = s := by
  unfold whenMgmt
  rw [h, ite_self]

/-! Undervoltage and overvoltage (R8, log entry 42). -/

theorem supplyFatal_down {s : State} (h : s.pins.mainUp = false) (code : Nat) : supplyFatal s code = s := by
  simp [supplyFatal, h]

/-- With the rails up the supply is noted out of range, and what else happens depends on who is there to see it. -/
theorem supplyFatal_eq {s : State} (h : s.pins.mainUp = true) (code : Nat) :
    supplyFatal s code =
      if mgmtUp s = false then
        { s with pins := { s.pins with uvOv := true, fltP := false, fltN := true, ready := false }, faults := { s.faults with frozen := true } }
      else if s.faults.frozen = true then { s with pins := { s.pins with uvOv := true } }
      else raiseFault { s with pins := { s.pins with uvOv := true } } code 0 0 0 := by
  unfold supplyFatal
  rw [h]
  have hm : mgmtUp { s with pins := { s.pins with uvOv := true } } = mgmtUp s := rfl
  dsimp only
  rw [hm]
  cases mgmtUp s <;> rfl

theorem supplyFatal_unmanaged {s : State} (h : s.pins.mainUp = true) (hm : mgmtUp s = false) (code : Nat) :
    supplyFatal s code = { s with pins := { s.pins with uvOv := true, fltP := false, fltN := true, ready := false },
                                  faults := { s.faults with frozen := true } } := by
  rw [supplyFatal_eq h, if_pos hm]

theorem supplyFatal_frozen {s : State} (h : s.pins.mainUp = true) (hm : mgmtUp s = true) (hf : s.faults.frozen = true) (code : Nat) :
    supplyFatal s code = { s with pins := { s.pins with uvOv := true } } := by
  rw [supplyFatal_eq h, if_neg (by simp [hm]), if_pos hf]

theorem supplyFatal_raises {s : State} (h : s.pins.mainUp = true) (hm : mgmtUp s = true) (hf : s.faults.frozen = false) {code : Nat}
    (hc : 32 ≤ code) : FatalRaised { s with pins := { s.pins with uvOv := true } } code (supplyFatal s code) := by
  rw [supplyFatal_eq h, if_neg (by simp [hm]), if_neg (by simp [hf])]
  exact raiseFault_fatalRaised _ _ _ _ hc

/-! The thermal trip (R42). -/

theorem thermalTrip_cool {s : State} {milliC : Int} (h : milliC ≤ 110000) : thermalTrip s milliC = s := if_pos h

theorem thermalTrip_hot {s : State} {milliC : Int} (h : 110000 < milliC) :
    thermalTrip s milliC = raiseFault (wr s eDieTempMax (unsigned 32 milliC)) 34 0 0 0 := if_neg (by omega)

/-- Settles O2: each of the six raises its FATAL code, and the record, the freeze and the pins are those of `raiseFault`. -/
theorem fatalFaultsFreezeModule : Obligations.FatalFaultsFreezeModule := by
  unfold Obligations.FatalFaultsFreezeModule
  refine ⟨?uvOv, ?unmanaged, ?frozen, ?down, ?hot, ?cool, ?pll, ?fabric, ?channel⟩
  case uvOv =>
    intro s h hm hf
    exact ⟨⟨_, rfl, supplyFatal_raises h hm hf (by decide)⟩, _, rfl, supplyFatal_raises h hm hf (by decide)⟩
  case unmanaged =>
    intro s h hm
    exact ⟨congrArg Host.Outcome.next (supplyFatal_unmanaged h hm 32),
      congrArg Host.Outcome.next ((supplyFatal_unmanaged h hm 33).trans (supplyFatal_unmanaged h hm 32).symm)⟩
  case frozen =>
    intro s h hm hf
    exact ⟨congrArg Host.Outcome.next (supplyFatal_frozen h hm hf 32),
      congrArg Host.Outcome.next ((supplyFatal_frozen h hm hf 33).trans (supplyFatal_frozen h hm hf 32).symm)⟩
  case down =>
    intro s h
    exact ⟨congrArg Host.Outcome.next (supplyFatal_down h 32), congrArg Host.Outcome.next (supplyFatal_down h 33)⟩
  case hot =>
    intro s c hm hf hc
    exact ⟨_, congrArg Host.Outcome.next ((whenMgmt_up hm hf _).trans (thermalTrip_hot hc)), raiseFault_fatalRaised _ _ _ _ (by decide)⟩
  case cool =>
    intro s c hc
    exact congrArg Host.Outcome.next (whenMgmt_unchanged (thermalTrip_cool hc))
  case pll =>
    intro s hm hf
    exact ⟨_, congrArg Host.Outcome.next (whenMgmt_up hm hf _), raiseFault_fatalRaised _ _ _ _ (by decide)⟩
  case fabric =>
    intro s hl
    exact ⟨_, congrArg Host.Outcome.next (whenLive_live hl _), raiseFault_fatalRaised _ _ _ _ (by decide)⟩
  case channel =>
    intro s channel hl hc
    have hwf : Instr.wellFormed (.cellarChannel channel) = true := decide_eq_true hc
    have hx : exec (.cellarChannel channel) s = .next (raiseFault s 38 4 channel 0) := by
      show onUnit _ (whenLive s _) = _
      rw [hwf, whenLive_live hl, onUnit_true]
    exact ⟨_, hx, raiseFault_fatalRaised _ _ _ _ (by decide)⟩

/-! The bands outside 46 to 60 V (R8, Table 01.3). -/

/-- A counter that events leave alone. -/
theorem cnt_of_eventsOnly {s t : State} (h : EventsOnly s t) {a : Nat} (ha : a ∉ eventCounters) : cnt t a = cnt s a := by
  unfold cnt Tab.getD
  rw [h.2 a ha]

/-- A counter counts, and its event goes out. -/
theorem raiseEvent_counted (s : State) {a : Nat} (ha : a ∉ eventCounters) (code : Nat) (data : List Byte) :
    let t := raiseEvent (bump s a) code data
    EventsOnly (bump s a) t ∧ t.mgmt.eventSeq = s.mgmt.eventSeq + 1 ∧ cnt t a = min (2 ^ 32 - 1) (cnt s a + 1) := by
  have he := raiseEvent_eventsOnly (bump s a) code data
  exact ⟨he, raiseEvent_seq _ _ _, (cnt_of_eventsOnly he ha).trans (cnt_bumpBy_same 4 s a 1)⟩

theorem supplyLow_inBand (s : State) {mv : Nat} (h : 44000 ≤ mv) (h' : mv < 46000) :
    supplyLow s mv = raiseEvent (bump s eSupplyLowCount) 2 (leBytes 4 (rd s eSupplyVoltage)) := by simp [supplyLow, h, h']

theorem supplyLow_outside (s : State) {mv : Nat} (h : mv < 44000 ∨ 46000 ≤ mv) : supplyLow s mv = s := if_neg (by simp; omega)

theorem supplyHigh_inBand (s : State) {mv : Nat} (h : 60000 < mv) (h' : mv ≤ 62000) :
    supplyHigh s mv = raiseEvent (bump s eSupplyHighCount) 3 (leBytes 4 (rd s eSupplyVoltage)) := by simp [supplyHigh, h, h']

theorem supplyHigh_outside (s : State) {mv : Nat} (h : mv ≤ 60000 ∨ 62000 < mv) : supplyHigh s mv = s := if_neg (by simp; omega)

/-! The domains' starts (R8, R10). -/

theorem alwaysOnStart_starts {s : State} {mv : Nat} (h : s.pins.alwaysOn = false) (hv : 40000 ≤ mv) :
    alwaysOnStart s mv = { s with pins := { s.pins with alwaysOn := true, resetLow := true, fltP := true, fltN := false },
                                  faults := { s.faults with frozen := false } } := by
  simp [alwaysOnStart, h, Nat.not_lt.mpr hv]

theorem alwaysOnStart_unchanged {s : State} {mv : Nat} (h : s.pins.alwaysOn = true ∧ s.pins.inputLost = false ∨ mv < 40000) :
    alwaysOnStart s mv = s := by
  rcases h with ⟨hon, hin⟩ | hv
  · simp [alwaysOnStart, hon, hin]
  · simp [alwaysOnStart, hv]

theorem alwaysOnStart_returns {s : State} {mv : Nat} (h : s.pins.alwaysOn = true) (hl : s.pins.inputLost = true) (hv : 40000 ≤ mv) :
    alwaysOnStart s mv = driveFault { s with pins := { s.pins with inputLost := false } }
      (s.faults.frozen || (s.pins.shutdown && !s.pins.asserted)) := by
  simp [alwaysOnStart, h, hl, Nat.not_lt.mpr hv]

theorem mainPowerStart_starts {s : State} {mv : Nat} (hon : s.pins.alwaysOn = true) (hup : s.pins.mainUp = false)
    (hmate : s.pins.mateHigh = false) (hsd : s.pins.shutdown = false) (hv : 45000 ≤ mv) :
    mainPowerStart s mv = { s with pins := { s.pins with mainUp := true }, boot := if s.pins.resetLow then .held else .pll } := by
  simp [mainPowerStart, hon, hup, hmate, hsd, Nat.not_lt.mpr hv]

theorem mainPowerStart_unchanged {s : State} {mv : Nat}
    (h : s.pins.alwaysOn = false ∨ s.pins.mainUp = true ∨ s.pins.mateHigh = true ∨ s.pins.shutdown = true ∨ mv < 45000) :
    mainPowerStart s mv = s := by
  refine if_pos ?_
  simpa [or_assoc] using h

/-- Settles O1: the starts of the domains in their cases, and the two bands that count and report. -/
theorem supplyStartsDomainsAndRaisesItsEvents : Obligations.SupplyStartsDomainsAndRaisesItsEvents := by
  unfold Obligations.SupplyStartsDomainsAndRaisesItsEvents
  refine ⟨⟨?starts, ?stays, ?returns, ?rails, ?noRails, ?mate, ?lost, ?off⟩, ?low, ?high, ?lowNot, ?highNot⟩
  case starts => exact fun s mv h hv => congrArg Host.Outcome.next (alwaysOnStart_starts h hv)
  case stays => exact fun s mv h => congrArg Host.Outcome.next (alwaysOnStart_unchanged h)
  case returns => exact fun s mv h hl hv => congrArg Host.Outcome.next (alwaysOnStart_returns h hl hv)
  case rails => exact fun s mv hon hup hmate hsd hv => congrArg Host.Outcome.next (mainPowerStart_starts hon hup hmate hsd hv)
  case noRails => exact fun s mv h => congrArg Host.Outcome.next (mainPowerStart_unchanged h)
  case mate => exact fun s high => rfl
  case lost => exact fun s h => congrArg Host.Outcome.next (if_pos h)
  case off => exact fun s h => congrArg Host.Outcome.next (if_neg (by rw [h]; decide))
  case low =>
    intro s mv hm hf h h'
    exact ⟨_, congrArg Host.Outcome.next ((whenMgmt_up hm hf _).trans (supplyLow_inBand s h h')), raiseEvent_counted s (by decide) _ _⟩
  case high =>
    intro s mv hm hf h h'
    exact ⟨_, congrArg Host.Outcome.next ((whenMgmt_up hm hf _).trans (supplyHigh_inBand s h h')), raiseEvent_counted s (by decide) _ _⟩
  case lowNot =>
    intro s mv h
    rcases or_assoc.mpr h with hv | hf
    · exact congrArg Host.Outcome.next (whenMgmt_unchanged (supplyLow_outside s hv))
    · exact congrArg Host.Outcome.next (whenMgmt_frozen hf _)
  case highNot =>
    intro s mv h
    rcases or_assoc.mpr h with hv | hf
    · exact congrArg Host.Outcome.next (whenMgmt_unchanged (supplyHigh_outside s hv))
    · exact congrArg Host.Outcome.next (whenMgmt_frozen hf _)

/-! The PCI Express domain (R20, R36, R415). -/

/-- A reset of the domain leaves its registers at their reset values, and the commands fetched are to be reported as aborted. -/
theorem pcieReset_eq (s : State) :
    pcieReset s = { (if s.faults.frozen then s else bumpBy 4 s eMailboxAbortCount s.host.fetched.length) with
      host := { link := s.host.link, linkUp := s.host.linkUp,
                aborted := s.host.aborted ++ s.host.fetched.map fun e => BitVec.ofNat 16 (bitsAt e.toNat 16 16),
                abortPending := s.host.abortPending || !s.host.fetched.isEmpty },
      mgmt := { s.mgmt with mailboxTransfer := none } } := by
  unfold pcieReset
  cases s.faults.frozen <;> simp [bumpBy]

/-- Settles O5: both resets are `pcieReset`, and the link trains again at the release of PERST_N. -/
theorem pcieResetsTouchOnlyPcie : Obligations.PcieResetsTouchOnlyPcie := by
  unfold Obligations.PcieResetsTouchOnlyPcie
  refine ⟨?perst, ?flr, ?noLink, ?release⟩
  case perst =>
    intro s
    show Host.Outcome.next (perstNAssert s) = _
    unfold perstNAssert
    rw [pcieReset_eq]
    cases s.faults.frozen <;> rfl
  case flr =>
    intro s h
    show Host.Outcome.next (if s.host.linkUp then pcieReset s else s) = _
    rw [if_pos h, pcieReset_eq, h]
  case noLink => exact fun s h => congrArg Host.Outcome.next (if_neg (by rw [h]; decide))
  case release => exact fun s speed width => rfl

end Sys2Proof.Machine
end

section
/-! SUPPORT. What the reset, the losses of the rails and PersistReset leave of the entries and of the rest of the state (R19, R35,
R393). -/
namespace Sys2Proof.Machine

/-- A table's keys that a test takes away hold nothing; the others hold what they held. -/
theorem Tab.find_filter {α : Type} (t : Tab α) (p : Nat → Bool) (k : Nat) :
    Tab.find (t.filter fun x => p x.1) k = if p k then Tab.find t k else none := by
  induction t with
  | nil => simp [Tab.find]
  | cons x t ih =>
    obtain ⟨k', v⟩ := x
    by_cases hk : k' = k
    · subst hk
      cases hp : p k' <;> simp_all [Tab.find]
    · cases hp : p k' <;> simp [hp, Tab.find, hk, ih]

/-! MOD_RESET (R19, R35). -/

/-- Programming cut short changes the slots of the firmware and the draws spent, not the OTP or the boot count (R421). -/
theorem programmingCut_shape (s : State) :
    ∃ fw d, programmingCut s = { s with fw := fw, draws := d } ∧
      fw.rollback = s.fw.rollback ∧ fw.revokedFirmware = s.fw.revokedFirmware ∧ fw.bootCount = s.fw.bootCount := by
  unfold programmingCut setFwSlot
  dsimp only
  split
  · split <;> exact ⟨_, _, rfl, rfl, rfl, rfl⟩
  · exact ⟨_, _, rfl, rfl, rfl, rfl⟩

/-- Of the entries, a reset leaves the persistent ones. -/
theorem resetKeep_find (s : State) (a : Nat) : Tab.find (resetKeep s).regs a = if isPersist a then Tab.find s.regs a else none :=
  Tab.find_filter s.regs isPersist a

theorem resetKeep_onlyStored (s : State) : OnlyStored s (resetKeep s) := by
  refine ⟨rfl, rfl, rfl, rfl, rfl, rfl, rfl, rfl, rfl, rfl, ⟨rfl, rfl⟩, fun a ha => ?_, fun _ => rfl, rfl, rfl, rfl, rfl, rfl, rfl, rfl, rfl⟩
  rw [resetKeep_find, ha]
  rfl

/-- Two states with the same stored parts have the same claim on what a reset leaves. -/
theorem onlyStored_of_stored {s u t : State} (h : OnlyStored u t) (htopo : u.topo = s.topo) (hrec : u.recipes = s.recipes)
    (hst : u.stations = s.stations) (hq : u.pending = s.pending) (hroll : u.fw.rollback = s.fw.rollback)
    (hrev : u.fw.revokedFirmware = s.fw.revokedFirmware) (hboot : u.fw.bootCount = s.fw.bootCount) : OnlyStored s t := by
  unfold OnlyStored at h ⊢
  rw [htopo, hrec, hst, hq, hroll, hrev, hboot] at h
  exact h

theorem resetCore_onlyStored (s : State) : OnlyStored s (resetCore s) := by
  unfold resetCore
  obtain ⟨fw, d, hcut, hroll, hrev, hboot⟩ := programmingCut_shape s
  rw [hcut]
  exact onlyStored_of_stored (resetKeep_onlyStored _) rfl rfl rfl rfl hroll hrev hboot

theorem resetCore_pins (s : State) : (resetCore s).pins = { s.pins with ready := false } := by
  unfold resetCore
  obtain ⟨fw, d, hcut, -⟩ := programmingCut_shape s
  rw [hcut]
  rfl

theorem resetCore_find (s : State) (a : Nat) : Tab.find (resetCore s).regs a = if isPersist a then Tab.find s.regs a else none := by
  unfold resetCore
  obtain ⟨fw, d, hcut, -⟩ := programmingCut_shape s
  rw [hcut]
  exact resetKeep_find _ a

/-! The losses of the rails (R8, R393). -/

/-- A waiting value that is lost changes its own entry only. -/
theorem revertOne_shape (s : State) (b : Nat) :
    ∃ r l, revertOne s b = { s with regs := r, blobs := l } ∧ ∀ a, a ≠ b → Tab.find r a = Tab.find s.regs a := by
  unfold revertOne
  split
  · split
    · exact ⟨_, _, rfl, fun a h => Tab.find_set_other _ _ h⟩
    · exact ⟨_, _, rfl, fun _ _ => rfl⟩
  · exact ⟨_, _, rfl, fun a h => Tab.find_erase_other _ h⟩

theorem foldl_revertOne_shape (w : List Nat) (s : State) :
    ∃ r l, w.foldl revertOne s = { s with regs := r, blobs := l } ∧ ∀ a, a ∉ w → Tab.find r a = Tab.find s.regs a := by
  induction w generalizing s with
  | nil => exact ⟨_, _, rfl, fun _ _ => rfl⟩
  | cons b w ih =>
    obtain ⟨r, l, hone, hother⟩ := revertOne_shape s b
    obtain ⟨r', l', hrest, hothers⟩ := ih (revertOne s b)
    rw [hone] at hrest hothers
    refine ⟨r', l', by rw [List.foldl_cons, hone, hrest], fun a ha => ?_⟩
    rw [List.mem_cons, not_or] at ha
    exact (hothers a ha.2).trans (hother a ha.1)

/-- The entries that waited for flash are lost, and nothing else is (R393). -/
theorem revertWaiting_shape (s : State) :
    ∃ r l, revertWaiting s = { s with regs := r, blobs := l, mgmt := { s.mgmt with waiting := [] } } ∧
      ∀ a, a ∉ s.mgmt.waiting → Tab.find r a = Tab.find s.regs a := by
  obtain ⟨r, l, hw, hother⟩ := foldl_revertOne_shape s.mgmt.waiting s
  refine ⟨r, l, ?_, hother⟩
  unfold revertWaiting
  rw [hw]

theorem railsDown_onlyStored (s : State) : OnlyStored s (railsDown s) := by
  obtain ⟨r, l, hw, -⟩ := revertWaiting_shape s
  have h : OnlyStored (revertWaiting s) (resetCore (revertWaiting s)) := resetCore_onlyStored _
  refine onlyStored_of_stored (u := revertWaiting s) h ?_ ?_ ?_ ?_ ?_ ?_ ?_ <;> rw [hw]

theorem railsDown_pins (s : State) : (railsDown s).pins = { s.pins with ready := false, mainUp := false } := by
  obtain ⟨r, l, hw, -⟩ := revertWaiting_shape s
  unfold railsDown
  dsimp only
  rw [resetCore_pins, hw]

theorem railsDown_find (s : State) (a : Nat) :
    Tab.find (railsDown s).regs a = if isPersist a then Tab.find (revertWaiting s).regs a else none :=
  resetCore_find _ a

/-- A persistent entry that flash holds outlives the rails (R393). -/
theorem railsDown_find_stored {s : State} {a : Nat} (hp : isPersist a = true) (ha : a ∉ s.mgmt.waiting) :
    Tab.find (railsDown s).regs a = Tab.find s.regs a := by
  obtain ⟨r, l, hw, hother⟩ := revertWaiting_shape s
  rw [railsDown_find, if_pos hp, hw]
  exact hother a ha

/-- The strap latch is not persistent (Table 17.12): it samples at every release (R21). -/
theorem isPersist_strapSample : isPersist eStrapSample = false := by decide +kernel

/-- The strap latch's sample, put back after the entries were cleared (R21). -/
def strapsKept (s : State) (r : Tab Nat) : Tab Nat :=
  match Tab.find s.regs eStrapSample with
  | some v => Tab.set r eStrapSample v
  | none => r

theorem strapsKept_find_other (s : State) (r : Tab Nat) {a : Nat} (h : a ≠ eStrapSample) : Tab.find (strapsKept s r) a = Tab.find r a := by
  unfold strapsKept
  split
  · exact Tab.find_set_other _ _ h
  · rfl

theorem strapsKept_find_strap (s : State) {r : Tab Nat} (h : Tab.find r eStrapSample = none) :
    Tab.find (strapsKept s r) eStrapSample = Tab.find s.regs eStrapSample := by
  unfold strapsKept
  split
  case h_1 v hv => rw [Tab.find_set_same, hv]
  case h_2 hv => rw [h, hv]

theorem mainRailsShutdown_eq {s : State} (hup : s.pins.mainUp = true) (hov : s.pins.uvOv = true) :
    mainRailsShutdown s = { railsDown s with
      regs := strapsKept s (railsDown s).regs,
      pins := { s.pins with mainUp := false, uvOv := false, shutdown := true, asserted := false, ready := false } } := by
  unfold mainRailsShutdown
  rw [hup, hov, if_neg (by decide)]
  dsimp only
  rw [railsDown_pins]
  rfl

theorem mainRailsShutdown_unchanged {s : State} (h : s.pins.mainUp = false ∨ s.pins.uvOv = false) : mainRailsShutdown s = s :=
  if_pos (by simpa using h)

theorem alwaysOnLoss_eq {s : State} (h : s.pins.alwaysOn = true) :
    alwaysOnLoss s = { railsDown s with
      pins := { s.pins with alwaysOn := false, mainUp := false, uvOv := false, shutdown := false, asserted := false, inputLost := false,
                            resetLow := true, fltP := false, fltN := false, ready := false } } := by
  unfold alwaysOnLoss
  rw [h, if_neg (by decide)]
  dsimp only
  rw [railsDown_pins]

theorem modReset_eq {s : State} (h : s.pins.alwaysOn = true) :
    modReset s = { resetCore s with
      pins := { s.pins with resetLow := true, asserted := s.pins.asserted || !s.pins.resetLow, fltP := !s.pins.inputLost,
                            fltN := s.pins.inputLost, ready := false } } := by
  unfold modReset driveFault
  rw [h, if_neg (by decide)]
  dsimp only
  rw [resetCore_pins]

/-- Settles O3: each of the three is a reset of the volatile state with its own pins; the losses of the rails lose what waited for flash. -/
theorem resetKeepsOnlyWhatIsStored : Obligations.ResetKeepsOnlyWhatIsStored := by
  unfold Obligations.ResetKeepsOnlyWhatIsStored
  refine ⟨?reset, ?rails, ?loss, ?off, ?none⟩
  case reset =>
    intro s h
    refine ⟨_, congrArg Host.Outcome.next (modReset_eq h), resetCore_onlyStored s, rfl, fun a ha => ?_⟩
    exact (resetCore_find s a).trans (if_pos ha)
  case rails =>
    intro s hup hov
    have hcleared : Tab.find (railsDown s).regs eStrapSample = none := by rw [railsDown_find, isPersist_strapSample]; rfl
    refine ⟨_, railsDown s, congrArg Host.Outcome.next (mainRailsShutdown_eq hup hov), railsDown_onlyStored s, rfl,
      strapsKept_find_strap s hcleared, fun a ha => strapsKept_find_other s _ ha, fun a hp ha => ?_⟩
    have hne : a ≠ eStrapSample := by
      rintro rfl
      rw [isPersist_strapSample] at hp
      exact Bool.false_ne_true hp
    exact (strapsKept_find_other s _ hne).trans (railsDown_find_stored hp ha)
  case loss =>
    intro s h
    exact ⟨_, congrArg Host.Outcome.next (alwaysOnLoss_eq h), railsDown_onlyStored s, rfl, fun a hp ha => railsDown_find_stored hp ha⟩
  case off =>
    intro s h
    exact ⟨congrArg Host.Outcome.next (if_pos (by rw [h]; rfl)), congrArg Host.Outcome.next (if_pos (by rw [h]; rfl))⟩
  case none => exact fun s h => congrArg Host.Outcome.next (mainRailsShutdown_unchanged h)

/-! MOD_RESET_RELEASE (R8, R19, R21, R393). -/

theorem applyPersistReset_none {s : State} (h : s.mgmt.resetAtBoot = 0) : applyPersistReset s = s := if_pos h

/-- PersistReset returns to their defaults the persistent entries that its value does not spare. -/
theorem applyPersistReset_find {s : State} (h : s.mgmt.resetAtBoot ≠ 0) (a : Nat) :
    Tab.find (applyPersistReset s).regs a = if isPersist a && !survivesPersistReset s.mgmt.resetAtBoot a then none else Tab.find s.regs a := by
  unfold applyPersistReset
  dsimp only
  rw [if_neg h]
  refine (Tab.find_filter s.regs (fun b => !isPersist b || survivesPersistReset s.mgmt.resetAtBoot b) a).trans ?_
  cases isPersist a <;> cases survivesPersistReset s.mgmt.resetAtBoot a <;> rfl

theorem applyPersistReset_spent {s : State} (h : s.mgmt.resetAtBoot ≠ 0) : (applyPersistReset s).mgmt.resetAtBoot = 0 := by
  unfold applyPersistReset
  dsimp only
  rw [if_neg h]

theorem applyPersistReset_pins (s : State) : (applyPersistReset s).pins = s.pins := by
  unfold applyPersistReset
  dsimp only
  split <;> rfl

/-- The release, once PersistReset is applied: the straps, the end of a shutdown, and the start of boot. -/
theorem modResetRelease_eq {s : State} (hon : s.pins.alwaysOn = true) (hlow : s.pins.resetLow = true) (straps : BitVec 16) (mv : Nat) :
    modResetRelease s straps mv = { wr (applyPersistReset s) eStrapSample straps.toNat with
      pins := { s.pins with resetLow := false,
                            shutdown := s.pins.shutdown && !(s.pins.asserted && decide (46000 ≤ mv) && decide (mv ≤ 60000)) },
      boot := if s.pins.mainUp then .pll else .held } := by
  unfold modResetRelease
  rw [hon, hlow, if_neg (by decide)]
  dsimp only
  rw [wr_pins, applyPersistReset_pins]

theorem modResetRelease_unchanged {s : State} (h : s.pins.alwaysOn = false ∨ s.pins.resetLow = false) (straps : BitVec 16) (mv : Nat) :
    modResetRelease s straps mv = s :=
  if_pos (by simpa using h)

/-- Settles O4: the release in one equation, with PersistReset applied where it was asked for. -/
theorem releaseSamplesStrapsAndBoots : Obligations.ReleaseSamplesStrapsAndBoots := by
  unfold Obligations.ReleaseSamplesStrapsAndBoots
  refine ⟨?plain, ?defaults, ?unchanged⟩
  case plain =>
    intro s straps mv hon hlow h0
    refine congrArg Host.Outcome.next ((modResetRelease_eq hon hlow straps mv).trans ?_)
    rw [applyPersistReset_none h0]
  case defaults =>
    intro s straps mv hon hlow h0
    refine ⟨_, congrArg Host.Outcome.next (modResetRelease_eq hon hlow straps mv), applyPersistReset_spent h0,
      rd_wr_same (applyPersistReset s) _ _, rfl, rfl, fun a ha => ?_⟩
    exact (Tab.find_set_other _ _ ha).trans (applyPersistReset_find h0 a)
  case unchanged => exact fun s straps mv h => congrArg Host.Outcome.next (modResetRelease_unchanged h straps mv)

end Sys2Proof.Machine
end

section
/-! SUPPORT. The numbering of lanes (R12): each own lane of a port has the port and the lane within it, and a group's last lane is its
spare. -/
namespace Sys2Proof.Machine

/-- A port's own lanes lie in the group of four ports that holds it. -/
theorem laneGroup_ownLane (p : Nat) {j : Nat} (hj : j < 4) : laneGroup (ownLane p j) = p / 4 := by
  unfold laneGroup ownLane posIdx
  omega

/-- Their numbers in the group run on by port and position, from 0 to 15. -/
theorem laneIdx_ownLane (p : Nat) {j : Nat} (hj : j < 4) : laneIdx (ownLane p j) = posIdx p j := by
  unfold laneIdx ownLane posIdx
  omega

theorem lanePort_ownLane (p : Nat) {j : Nat} (hj : j < 4) : lanePort (ownLane p j) = some p := by
  unfold lanePort
  rw [laneIdx_ownLane p hj, laneGroup_ownLane p hj]
  unfold posIdx
  rw [if_neg (by omega)]
  congr 1
  omega

/-- No own lane of a port is a spare. -/
theorem laneIdx_ownLane_ne (p : Nat) {j : Nat} (hj : j < 4) : laneIdx (ownLane p j) ≠ 16 := by
  rw [laneIdx_ownLane p hj]
  unfold posIdx
  omega

/-- Settles O13: `ownLane` and the pair of `lanePort` and the position are inverse on lanes 0 to 15 of a group, and lane 16 is the spare. -/
theorem laneNumberingFollowsMap : Obligations.LaneNumberingFollowsMap := by
  unfold Obligations.LaneNumberingFollowsMap
  intro L hL
  refine ⟨rfl, rfl, by omega, ?own, ?spare, ?inverse, ?entry⟩
  case own =>
    intro hi
    have hlane : ownLane (4 * (L / 17) + L % 17 / 4) (L % 17 % 4) = L := by
      unfold ownLane posIdx
      omega
    have hport := lanePort_ownLane (4 * (L / 17) + L % 17 / 4) (Nat.mod_lt (L % 17) (by decide : 0 < 4))
    rw [hlane] at hport
    exact ⟨hport, by omega, hlane⟩
  case spare =>
    intro hi
    refine ⟨if_pos hi, ?_, fun p j _ hj e => laneIdx_ownLane_ne p hj (e ▸ hi)⟩
    unfold spareOf
    omega
  case inverse =>
    rintro p j _ hj rfl
    refine ⟨lanePort_ownLane p hj, ?_⟩
    have hidx : ownLane p j % 17 = posIdx p j := laneIdx_ownLane p hj
    rw [hidx]
    unfold posIdx
    omega
  case entry =>
    unfold eLaneStatus
    omega

end Sys2Proof.Machine
end

section
/-! SUPPORT. The fabric cycle counter and the boot step through a command and through a cycle without one (R31), and the state that reset
leaves (R35). -/
namespace Sys2Proof.Machine

/-- What a state is held to where its own cycle and boot step must stand. -/
def heldClock (s : State) : Kept := heldTo s false (some (s.now, s.boot))

theorem keeps_heldClock {s : State} (h : Safe s) : Keeps (heldClock s) s :=
  keeps_of_safe h nofun fun c e => by cases e; exact ⟨rfl, rfl⟩

/-- What keeps it has the cycle and the boot step as they were. -/
theorem clock_of_keeps {s t : State} (h : Keeps (heldClock s) t) : t.now = s.now ∧ t.boot = s.boot := (keeps_parts h).stands _ rfl

/-- Settles O60: every other command keeps a held clock. -/
theorem onlyBootSupplyAndResetMoveTheClock : Obligations.OnlyBootSupplyAndResetMoveTheClock := by
  unfold Obligations.OnlyBootSupplyAndResetMoveTheClock
  intro c s t h hc ht
  have hclock : clockCommands c = true → (heldClock s).clock = none := fun e => absurd (hc.symm.trans e) (by decide)
  exact clock_of_keeps (keeps_exec (keeps_heldClock h) c (fun _ => rfl) hclock t ht)

/-- A cycle in which no command waits adds one to the counter where the data path works (R31). -/
theorem tick_now {s : State} (hl : live s = true) (h : Safe s) : (tick s).now = s.now + 1 := by
  have hports := keeps_tickPorts (keeps_tickAclk s (keeps_heldClock h)) (List.range 128)
  obtain ⟨hnow, -⟩ := clock_of_keeps (keeps_tickSteps _ (keeps_tickPools _ hports))
  unfold tick
  rw [if_pos hl]
  exact congrArg (· + 1) hnow

theorem tick_not {s : State} (hl : live s = false) : tick s = s := if_neg (by rw [hl]; decide)

/-- Settles O54: the two branches of `step`, and the cycle that passes where no command waits. -/
theorem stepRunsTheFrontCommand : Obligations.StepRunsTheFrontCommand := by
  unfold Obligations.StepRunsTheFrontCommand
  refine ⟨fun c rest s => rfl, fun s hq => ⟨?_, tick_not, tick_now⟩⟩
  unfold step
  rw [hq]

/-- The state after reset is safe: empty memories, no freeze, no record, no session, no sizes. -/
theorem safe_reset : Safe State.reset := ⟨⟨rfl, rfl⟩, nofun, ⟨Nat.zero_le _, Nat.zero_le _⟩, nofun, nofun⟩

/-- After reset a function is ON where it is a control group's, and OFF where it is not (Table 02.8). -/
theorem fnState_reset (a : Nat) : fnState State.reset a = if isControlGroup a then .on else .off :=
  apply_ite Fn.state (isControlGroup a = true) { state := .on } {}

/-- Settles O56: every table of the state after reset is empty, so each entry, function and byte reads its default. -/
theorem resetLeavesTheStatedValues : Obligations.ResetLeavesTheStatedValues := by
  unfold Obligations.ResetLeavesTheStatedValues
  exact ⟨rfl, rfl, rfl, safe_reset, fun _ => rfl, fun _ => rfl, fun _ => ⟨rfl, rfl⟩, fnState_reset, rfl, rfl, rfl, rfl, rfl, rfl, rfl, rfl, rfl,
    rfl, rfl, rfl, rfl, rfl, rfl, rfl, rfl⟩

end Sys2Proof.Machine
end

section
/-! SUPPORT. The reference clock and the throttle levels (R27, R28, R41, R42). -/
namespace Sys2Proof.Machine

/-- An entry that faults leave alone. -/
theorem rd_of_faultsOnly {s t : State} (h : FaultsOnly s t) {a : Nat} (ha : a ∉ faultCounters) : rd t a = rd s a := by
  unfold rd
  rw [h.2 a ha]

/-- An entry that events leave alone. -/
theorem rd_of_eventsOnly {s t : State} (h : EventsOnly s t) {a : Nat} (ha : a ∉ eventCounters) : rd t a = rd s a := by
  unfold rd
  rw [h.2 a ha]

/-! The reference clock (R27, R28). -/

/-- The loss or the return of the reference is noted in every state (R27). -/
def refNoted (s : State) (good : Bool) : State := { s with clk := { s.clk with refGood := good } }

theorem exec_refclkLost (s : State) : exec .refclkLost s = .next (whenMgmt (refNoted s false) refclkLost) := rfl
theorem exec_refclkRestored (s : State) : exec .refclkRestored s = .next (whenMgmt (refNoted s true) refclkRestored) := rfl

theorem refclkLost_elsewhere {s : State} (h : rd s eRefClkSource ≠ 0) : refclkLost s = s := if_pos h

theorem refclkLost_fromRefclk {s : State} (h : rd s eRefClkSource = 0) :
    refclkLost s = raiseFault (bump (wr s eRefClkSource 1) eRefClkLostCount) 1 0 0 0 := if_neg (not_not.mpr h)

theorem refclkRestored_fromRefclk {s : State} (h : rd s eRefClkSource = 0) : refclkRestored s = s := if_pos h

theorem refclkRestored_elsewhere {s : State} (h : rd s eRefClkSource ≠ 0) : refclkRestored s = raiseEvent (wr s eRefClkSource 0) 4 [] :=
  if_neg h

/-- Settles O6: each of the three in the source it acts on, and elsewhere. -/
theorem referenceClockSourceFollows : Obligations.ReferenceClockSourceFollows := by
  unfold Obligations.ReferenceClockSourceFollows
  refine ⟨?lost, ?lostNot, ?relock, ?relockNot, ?restored, ?restoredNot⟩
  case lost =>
    intro s hm hf hs
    have hx := (whenMgmt_up (s := refNoted s false) hm hf refclkLost).trans (refclkLost_fromRefclk hs)
    have hr := raiseFault_raised (bump (wr (refNoted s false) eRefClkSource 1) eRefClkLostCount) 0 0 0 (by decide : 1 < 32)
    refine ⟨_, congrArg Host.Outcome.next hx, ?_, hr⟩
    rw [rd_of_faultsOnly hr.1 (by decide)]
    exact (rd_bumpBy_other 4 _ 1 (by decide)).trans (rd_wr_same _ _ _)
  case lostNot =>
    rintro s (hs | hf)
    · exact congrArg Host.Outcome.next (whenMgmt_unchanged (refclkLost_elsewhere hs))
    · exact congrArg Host.Outcome.next (whenMgmt_frozen (s := refNoted s false) hf _)
  case relock =>
    exact fun s hm hf hs => congrArg Host.Outcome.next ((whenMgmt_up hm hf _).trans (if_pos hs))
  case relockNot =>
    rintro s (hs | hf)
    · exact congrArg Host.Outcome.next (whenMgmt_unchanged (if_neg hs))
    · exact congrArg Host.Outcome.next (whenMgmt_frozen hf _)
  case restored =>
    intro s hm hf hs
    have hx := (whenMgmt_up (s := refNoted s true) hm hf refclkRestored).trans (refclkRestored_elsewhere hs)
    have he := raiseEvent_eventsOnly (wr (refNoted s true) eRefClkSource 0) 4 []
    exact ⟨_, congrArg Host.Outcome.next hx, (rd_of_eventsOnly he (by decide)).trans (rd_wr_same _ _ _), raiseEvent_seq _ _ _, he⟩
  case restoredNot =>
    rintro s (hs | hf)
    · exact congrArg Host.Outcome.next (whenMgmt_unchanged (refclkRestored_fromRefclk hs))
    · exact congrArg Host.Outcome.next (whenMgmt_frozen (s := refNoted s true) hf _)

/-! Throttling (R41, R42). -/

theorem rd_showThrottle_same (s : State) : rd (showThrottle s) eThrottleLevel = max (rd s eThermalLevel) (rd s ePowerLevel) :=
  rd_wr_same _ _ _

theorem rd_showThrottle_other (s : State) {a : Nat} (h : a ≠ eThrottleLevel) : rd (showThrottle s) a = rd s a := rd_wr_other _ _ h

/-- The level that is shown is the larger of the two that are shown with it. -/
theorem rd_showThrottle_levels (s : State) :
    rd (showThrottle s) eThrottleLevel = max (rd (showThrottle s) eThermalLevel) (rd (showThrottle s) ePowerLevel) := by
  rw [rd_showThrottle_same, rd_showThrottle_other s (by decide), rd_showThrottle_other s (by decide)]

theorem entriesOnly_showThrottle {l : List Nat} {s t : State} (h : EntriesOnly l s t) (ha : eThrottleLevel ∈ l) :
    EntriesOnly l s (showThrottle t) := entriesOnly_wr h _ ha

theorem thermalNext_eq (level : Nat) (c : Int) :
    thermalNext level c = if level < 12 ∧ 95000 + 1000 * ((level : Int) + 1) ≤ c then level + 1
      else if 0 < level ∧ c ≤ 93000 + 1000 * (level : Int) then level - 1 else level := by
  have hstep : 95000 + 1000 * (level : Int) - 2000 = 93000 + 1000 * (level : Int) := by omega
  simp only [thermalNext, hstep, Bool.and_eq_true, decide_eq_true_eq]

/-- The note of a 10 us window above 1,662 W (R42). -/
def peakNoted (s : State) (w : Nat) : State := { s with clk := { s.clk with msPeakHigh := s.clk.msPeakHigh || decide (1662 < w) } }

/-- A 10 us window above 1,750 W raises the power level; every window shows its peak and is noted (R42). -/
theorem powerWindow10us_eq (s : State) (w : Nat) :
    powerWindow10us s w =
      if 1750 < w then
        showThrottle (wr (wr (peakNoted s w) eSupplyPeakPower (max (rd s eSupplyPeakPower) w)) ePowerLevel (min 12 (rd s ePowerLevel + 1)))
      else wr (peakNoted s w) eSupplyPeakPower (max (rd s eSupplyPeakPower) w) := by
  have hnoted : (if 1662 < w then { wr s eSupplyPeakPower (max (rd s eSupplyPeakPower) w) with clk := { s.clk with msPeakHigh := true } }
      else wr s eSupplyPeakPower (max (rd s eSupplyPeakPower) w)) = wr (peakNoted s w) eSupplyPeakPower (max (rd s eSupplyPeakPower) w) := by
    unfold peakNoted
    split
    next h => rw [decide_eq_true h, Bool.or_true]; rfl
    next h => rw [decide_eq_false h, Bool.or_false]
  have hlevel : rd (wr (peakNoted s w) eSupplyPeakPower (max (rd s eSupplyPeakPower) w)) ePowerLevel = rd s ePowerLevel :=
    rd_wr_other (peakNoted s w) _ (by decide)
  unfold powerWindow10us
  dsimp only
  rw [wr_clk, hnoted, hlevel]

/-- The end of a 1 ms window: what the next one is held to (R42). -/
def windowEnded (s : State) (w : Nat) : State := { s with clk := { s.clk with prevMsAbove := decide (1450 < w), msPeakHigh := false } }

/-- The power level after a 1 ms window (R42). -/
def powerNext (s : State) (w : Nat) : Nat :=
  if 1450 < w ∧ s.clk.prevMsAbove = true then min 12 (rd s ePowerLevel + 1)
  else if w ≤ 1377 ∧ s.clk.msPeakHigh = false then rd s ePowerLevel - 1 else rd s ePowerLevel

theorem powerWindow1ms_eq (s : State) (mv ma w : Nat) :
    powerWindow1ms s mv ma w =
      showThrottle (wr (wr (wr (wr (windowEnded s w) eSupplyVoltage mv) eSupplyCurrent ma) eSupplyPower w) ePowerLevel (powerNext s w)) := by
  have hlevel : rd (wr (wr (wr s eSupplyVoltage mv) eSupplyCurrent ma) eSupplyPower w) ePowerLevel = rd s ePowerLevel := by
    rw [rd_wr_other _ _ (by decide), rd_wr_other _ _ (by decide), rd_wr_other _ _ (by decide)]
  unfold powerWindow1ms powerNext
  dsimp only
  rw [hlevel]
  simp only [wr_clk, Bool.and_eq_true, decide_eq_true_eq, Bool.not_eq_true']
  rfl

/-- A read of SupplyPeakPower that the dictionary serves clears it. -/
theorem supplyPeakPowerRead_clears {s : State} {src : Source} (hr : readerOk s src = true) (hf : s.faults.frozen = false) :
    exec (.supplyPeakPowerRead src) s = .next (wr s eSupplyPeakPower 0) := by
  refine congrArg Host.Outcome.next ((if_pos hr).trans (if_pos ?_))
  rw [hf]
  decide

/-- What a temperature leaves: its own entry, and the two levels (R42). -/
theorem thermalLevelChange_shows (s : State) (c : Int) :
    let t := thermalLevelChange s c
    EntriesOnly [eDieTempMax, eThermalLevel, eThrottleLevel] s t ∧ rd t eDieTempMax = unsigned 32 c ∧
      rd t eThermalLevel = thermalNext (rd s eThermalLevel) c ∧ rd t eThrottleLevel = max (rd t eThermalLevel) (rd s ePowerLevel) := by
  refine ⟨?_, ?_, ?_, ?_⟩ <;> unfold thermalLevelChange
  · exact entriesOnly_showThrottle (entriesOnly_wr (entriesOnly_wr (entriesOnly_refl _ s) _ (by decide)) _ (by decide)) (by decide)
  · rw [rd_showThrottle_other _ (by decide), rd_wr_other _ _ (by decide), rd_wr_same]
  · rw [rd_showThrottle_other _ (by decide), rd_wr_same]
  · rw [rd_showThrottle_levels, rd_showThrottle_other _ (by decide : ePowerLevel ≠ eThrottleLevel),
      rd_wr_other _ _ (by decide : ePowerLevel ≠ eThermalLevel), rd_wr_other _ _ (by decide : ePowerLevel ≠ eDieTempMax)]

/-- What a 10 us window leaves: the peak, and above 1,750 W the two levels (R42). -/
theorem powerWindow10us_shows (s : State) (w : Nat) :
    let t := powerWindow10us s w
    EntriesOnly [eSupplyPeakPower, ePowerLevel, eThrottleLevel] (peakNoted s w) t ∧ rd t eSupplyPeakPower = max (rd s eSupplyPeakPower) w ∧
      rd t ePowerLevel = (if 1750 < w then min 12 (rd s ePowerLevel + 1) else rd s ePowerLevel) ∧
      (1750 < w → rd t eThrottleLevel = max (rd s eThermalLevel) (rd t ePowerLevel)) := by
  have hpeak : EntriesOnly [eSupplyPeakPower, ePowerLevel, eThrottleLevel] (peakNoted s w)
      (wr (peakNoted s w) eSupplyPeakPower (max (rd s eSupplyPeakPower) w)) := entriesOnly_wr (entriesOnly_refl _ _) _ (by decide)
  dsimp only
  rw [powerWindow10us_eq]
  split
  · refine ⟨entriesOnly_showThrottle (entriesOnly_wr hpeak _ (by decide)) (by decide), ?_, ?_, fun _ => ?_⟩
    · rw [rd_showThrottle_other _ (by decide), rd_wr_other _ _ (by decide), rd_wr_same]
    · rw [rd_showThrottle_other _ (by decide), rd_wr_same]
    · rw [rd_showThrottle_levels, rd_showThrottle_other _ (by decide : eThermalLevel ≠ eThrottleLevel),
        rd_wr_other _ _ (by decide : eThermalLevel ≠ ePowerLevel), rd_wr_other _ _ (by decide : eThermalLevel ≠ eSupplyPeakPower)]
      rfl
  next hw => exact ⟨hpeak, rd_wr_same _ _ _, rd_wr_other (peakNoted s w) _ (by decide), fun h => absurd h hw⟩

/-- What a 1 ms window leaves: the three averages and the two levels (R42). -/
theorem powerWindow1ms_shows (s : State) (mv ma w : Nat) :
    let t := powerWindow1ms s mv ma w
    EntriesOnly [eSupplyVoltage, eSupplyCurrent, eSupplyPower, ePowerLevel, eThrottleLevel] (windowEnded s w) t ∧
      rd t eSupplyVoltage = mv ∧ rd t eSupplyCurrent = ma ∧ rd t eSupplyPower = w ∧ rd t ePowerLevel = powerNext s w ∧
      rd t eThrottleLevel = max (rd s eThermalLevel) (rd t ePowerLevel) := by
  dsimp only
  rw [powerWindow1ms_eq]
  refine ⟨?_, ?_, ?_, ?_, ?_, ?_⟩
  · refine entriesOnly_showThrottle (entriesOnly_wr ?_ _ (by decide)) (by decide)
    exact entriesOnly_wr (entriesOnly_wr (entriesOnly_wr (entriesOnly_refl _ _) _ (by decide)) _ (by decide)) _ (by decide)
  · rw [rd_showThrottle_other _ (by decide), rd_wr_other _ _ (by decide), rd_wr_other _ _ (by decide), rd_wr_other _ _ (by decide),
      rd_wr_same]
  · rw [rd_showThrottle_other _ (by decide), rd_wr_other _ _ (by decide), rd_wr_other _ _ (by decide), rd_wr_same]
  · rw [rd_showThrottle_other _ (by decide), rd_wr_other _ _ (by decide), rd_wr_same]
  · rw [rd_showThrottle_other _ (by decide), rd_wr_same]
  · rw [rd_showThrottle_levels, rd_showThrottle_other _ (by decide : eThermalLevel ≠ eThrottleLevel),
      rd_wr_other _ _ (by decide : eThermalLevel ≠ ePowerLevel), rd_wr_other _ _ (by decide : eThermalLevel ≠ eSupplyPower),
      rd_wr_other _ _ (by decide : eThermalLevel ≠ eSupplyCurrent), rd_wr_other _ _ (by decide : eThermalLevel ≠ eSupplyVoltage)]
    rfl

/-- Settles O7: what each of the three monitors shows, and the read that clears. -/
theorem throttleFollowsHeatAndPower : Obligations.ThrottleFollowsHeatAndPower := by
  unfold Obligations.ThrottleFollowsHeatAndPower
  refine ⟨?thermal, ?us, ?ms, ?mailbox, ?session⟩
  case thermal =>
    intro s c hm hf
    rw [← thermalNext_eq]
    exact ⟨_, congrArg Host.Outcome.next (whenMgmt_up hm hf _), thermalLevelChange_shows s c⟩
  case us => exact fun s w hm hf => ⟨_, congrArg Host.Outcome.next (whenMgmt_up hm hf _), powerWindow10us_shows s w⟩
  case ms => exact fun s mv ma w hm hf => ⟨_, congrArg Host.Outcome.next (whenMgmt_up hm hf _), powerWindow1ms_shows s mv ma w⟩
  case mailbox => exact fun s hl hf => supplyPeakPowerRead_clears ((Bool.and_true _).trans hl) hf
  case session =>
    intro s i hl hf hi
    refine supplyPeakPowerRead_clears ?_ hf
    unfold readerOk
    rw [hl, Bool.true_and]
    exact hi

end Sys2Proof.Machine
end

section
/-! SUPPORT. The function state machine: its table, the function that an entry names, and what requests and completions do there
(R39, R40, Tables 02.6 to 02.8). -/
namespace Sys2Proof.Machine

/-- Settles O10: the columns of Table 02.6, state by state. -/
theorem functionStatesFollowTable : Obligations.FunctionStatesFollowTable := by
  unfold Obligations.FunctionStatesFollowTable
  intro f
  refine ⟨?off, ?runs, ?holds, ?fenced, ?restOn, ?restOff, ?fault, ?kept⟩
  case off => intro h; simp [fnEnable, fnDisable, h]
  case runs => rintro (h | h) <;> simp [fnEnable, fnDisable, h]
  case holds => rintro (h | h) <;> simp [fnEnable, fnDisable, h]
  case fenced => intro h; simp [fnEnable, fnDisable, h]
  case restOn => exact fun h => if_pos h
  case restOff => exact fun h => if_neg (by rw [h]; decide)
  case fault => exact fun h => if_neg h
  case kept => exact fun h => if_pos h

/-! The function that an entry names (Table 16.3). -/

theorem fnSite_port {p : Nat} (h : p < 128) : fnSite (ePortState p) = (1, p) := by
  have hi : ePortState p / 256 = 0x1F01 := by unfold ePortState; omega
  unfold fnSite
  dsimp only
  rw [if_pos hi]
  exact congrArg (Prod.mk 1) (by unfold ePortState; omega)

theorem fnSite_lane {l : Nat} (h : l < 544) : fnSite (eLaneState l) = (2, l) := by
  have hi : eLaneState l / 256 ≠ 0x1F01 ∧ eLaneState l / 256 < 0x1F20 := by unfold eLaneState; omega
  unfold fnSite
  dsimp only
  rw [if_neg hi.1, if_pos hi.2]
  exact congrArg (Prod.mk 2) (by unfold eLaneState; omega)

theorem fnSite_cluster {c : Nat} (h : c < 9) : fnSite (eClusterState c) = (7, c) := by
  have hi : eClusterState c / 256 = 0x1F20 := by unfold eClusterState; omega
  unfold fnSite
  rw [hi]
  exact congrArg (Prod.mk 7) (by unfold eClusterState; omega)

theorem fnSite_controlGroup {g : Nat} (h : g < 4) : fnSite (eControlGroupState g) = (9, g) := by
  have hi : eControlGroupState g / 256 = 0x1F21 := by unfold eControlGroupState; omega
  unfold fnSite
  rw [hi]
  exact congrArg (Prod.mk 9) (by unfold eControlGroupState; omega)

theorem fnSite_slice {k : Nat} (h : k < 1024) : fnSite (eSliceState k) = (13, k) := by
  have hi : 0x1F30 ≤ eSliceState k / 256 ∧ eSliceState k / 256 < 0x1F40 := by unfold eSliceState; omega
  unfold fnSite
  dsimp only
  rw [if_neg (by omega), if_neg (by omega), if_neg (by omega), if_neg (by omega), if_pos hi.2]
  exact congrArg (Prod.mk 13) (by unfold eSliceState; omega)

theorem fnSite_engine {n : Nat} (h : n < 6) : fnSite (eEngineState n) = (14, n) := by
  have hi : eEngineState n / 256 = 0x1F40 := by unfold eEngineState; omega
  unfold fnSite
  rw [hi]
  exact congrArg (Prod.mk 14) (by unfold eEngineState; omega)

/-! Requests (Table 02.6). -/

/-- A request that names no slice leaves the wanted slices as they are. -/
theorem noteWanted_of_site {s : State} {a : Nat} (h : (fnSite a).1 ≠ 13) (on : Bool) : noteWanted s a on = s := by
  unfold noteWanted
  split
  next k hk => rw [hk] at h; exact absurd rfl h
  next => rfl

theorem requestable_iff (a : Nat) : requestable a = true ↔ a ≠ eSliceState 0 := decide_eq_true_iff

/-- A command whose operands name units of the part has its effect; any other is the fault. -/
theorem onUnit_of {ok : Bool} (h : ok = true) (s : State) : onUnit ok s = .next s := by rw [h, onUnit_true]
theorem onUnit_not {ok : Bool} (h : ok = false) (s : State) : onUnit ok s = .fault .noSuchUnit := by rw [h, onUnit_false]

section
variable {s : State} {index sub : Nat}

/-- A request that the checks pass has its function's effect. -/
theorem enableRequest_accepted (hwf : isStateEntry index sub = true) (ha : Accepted s .mailbox (entryAddr index sub) [2])
    (h0 : entryAddr index sub ≠ eSliceState 0) (hf : fnState s (entryAddr index sub) ≠ .fenced) :
    exec (.enableRequest index sub) s = .next (enableWritten s (entryAddr index sub)) := by
  have howner : (requestable (entryAddr index sub) && decide (fnState s (entryAddr index sub) ≠ .fenced)) = true := by
    rw [(requestable_iff _).mpr h0, decide_eq_true hf]; rfl
  exact (onUnit_of hwf _).trans (congrArg _ (whenWritten_accepted ha howner _))

/-- A FENCED function, slice 0 and a write that the checks refuse: an enable request changes nothing. -/
theorem enableRequest_refused (hwf : isStateEntry index sub = true) (h : fnState s (entryAddr index sub) = .fenced ∨
      entryAddr index sub = eSliceState 0 ∨ ¬ Accepted s .mailbox (entryAddr index sub) [2]) :
    exec (.enableRequest index sub) s = .next s := by
  refine (onUnit_of hwf _).trans (congrArg _ ?_)
  rcases h with hf | h0 | ha
  · exact whenWritten_owner (by rw [hf]; exact Bool.and_false _) _
  · exact whenWritten_owner (by rw [h0]; rfl) _
  · exact whenWritten_refused ha _

theorem disableRequest_accepted (hwf : isStateEntry index sub = true) (ha : Accepted s .mailbox (entryAddr index sub) [0])
    (h0 : entryAddr index sub ≠ eSliceState 0) :
    exec (.disableRequest index sub) s = .next (disableWritten s (entryAddr index sub)) :=
  (onUnit_of hwf _).trans (congrArg _ (whenWritten_accepted ha ((requestable_iff _).mpr h0) _))

theorem disableRequest_refused (hwf : isStateEntry index sub = true)
    (h : entryAddr index sub = eSliceState 0 ∨ ¬ Accepted s .mailbox (entryAddr index sub) [0]) :
    exec (.disableRequest index sub) s = .next s := by
  refine (onUnit_of hwf _).trans (congrArg _ ?_)
  rcases h with h0 | ha
  · exact whenWritten_owner (by rw [h0]; rfl) _
  · exact whenWritten_refused ha _

end

/-- The entry of a control group's state. -/
theorem controlGroup_entry {g : Nat} (h : g < 4) : isStateEntry 0x1F21 g = true ∧ entryAddr 0x1F21 g = eControlGroupState g ∧
    eControlGroupState g ≠ eSliceState 0 :=
  ⟨by simp [isStateEntry, h], rfl, by unfold eControlGroupState eSliceState; omega⟩

/-- A request to a control group moves its function and nothing else. -/
theorem enableWritten_controlGroup (s : State) {g : Nat} (h : g < 4) :
    enableWritten s (eControlGroupState g) = setFn s (eControlGroupState g) (fnEnable (fnOf s (eControlGroupState g))) := by
  have hw : noteWanted s (eControlGroupState g) true = s := noteWanted_of_site (by simp [fnSite_controlGroup h]) true
  unfold enableWritten requestEnable
  rw [hw, fnSite_controlGroup h]
  rfl

theorem disableWritten_controlGroup (s : State) {g : Nat} (h : g < 4) :
    disableWritten s (eControlGroupState g) = setFn s (eControlGroupState g) (fnDisable (fnOf s (eControlGroupState g))) := by
  have hw : noteWanted s (eControlGroupState g) false = s := noteWanted_of_site (by simp [fnSite_controlGroup h]) false
  unfold disableWritten requestDisable
  rw [hw, fnSite_controlGroup h]
  rfl

/-- Settles O11: the checks decide whether the request has its effect, and `fnSite` which function it reaches. -/
theorem requestsReachEveryKindOfFunction : Obligations.RequestsReachEveryKindOfFunction := by
  unfold Obligations.RequestsReachEveryKindOfFunction
  refine ⟨?enable, ?disable, ?group, ?port, ?lane, ?cluster, ?slice, ?engine, ?enableNot, ?disableNot, ?noEntry⟩
  case enable => exact fun s index sub hwf ha h0 hf => enableRequest_accepted hwf ha h0 hf
  case disable => exact fun s index sub hwf ha h0 => disableRequest_accepted hwf ha h0
  case group =>
    intro s g hg h2 hz
    obtain ⟨hwf, haddr, h0⟩ := controlGroup_entry hg
    constructor
    · split
      next hf => exact enableRequest_refused hwf (.inl hf)
      next hf => rw [enableRequest_accepted hwf h2 h0 hf, haddr, enableWritten_controlGroup s hg]
    · rw [disableRequest_accepted hwf hz h0, haddr, disableWritten_controlGroup s hg]
  case port => intro s p hp; unfold requestEnable requestDisable; rw [fnSite_port hp]; exact ⟨rfl, rfl⟩
  case lane => intro s l hl; unfold requestEnable requestDisable; rw [fnSite_lane hl]; exact ⟨rfl, rfl⟩
  case cluster => intro s c hc; unfold requestEnable requestDisable; rw [fnSite_cluster hc]; exact ⟨rfl, rfl⟩
  case slice => intro s k hk; unfold requestEnable requestDisable; rw [fnSite_slice hk]; exact ⟨rfl, rfl⟩
  case engine => intro s n hn; unfold requestEnable requestDisable; rw [fnSite_engine hn]; exact ⟨rfl, rfl⟩
  case enableNot => exact fun s index sub hwf h => enableRequest_refused hwf h
  case disableNot => exact fun s index sub hwf h => disableRequest_refused hwf h
  case noEntry => exact fun s index sub hwf => ⟨onUnit_not hwf _, onUnit_not hwf _⟩

/-! Completions (Table 02.6). -/

/-- An effect that finds nothing to do changes nothing, whether the data path works or not. -/
theorem whenLive_unchanged {s : State} {f : State → State} (h : live s = false ∨ f s = s) : whenLive s f = s := by
  rcases h with hl | hf
  · exact whenLive_not hl f
  · unfold whenLive
    rw [hf, ite_self]

section
variable {s : State} {index sub : Nat}

/-- A completion has its effect in the state that it ends, and in no other. -/
theorem functionStartDone_starting (hwf : isStateEntry index sub = true) (hl : live s = true)
    (hs : fnState s (entryAddr index sub) = .starting) (o : StartOutcome) :
    exec (.functionStartDone index sub o) s = .next (match o with
      | .success => proofPoll (startSucceeds s (entryAddr index sub))
      | .unitFault => unitFault s (entryAddr index sub)
      | .otherFailure => startFails s (entryAddr index sub)) :=
  (onUnit_of hwf _).trans (congrArg _ ((whenLive_live hl _).trans (if_neg (not_not.mpr hs))))

theorem functionStartDone_elsewhere (hwf : isStateEntry index sub = true)
    (h : live s = false ∨ fnState s (entryAddr index sub) ≠ .starting) (o : StartOutcome) :
    exec (.functionStartDone index sub o) s = .next s :=
  (onUnit_of hwf _).trans (congrArg _ (whenLive_unchanged (h.imp_right fun hs => if_pos hs)))

theorem functionStopDone_stopping (hwf : isStateEntry index sub = true) (hl : live s = true)
    (hs : fnState s (entryAddr index sub) = .stopping) :
    exec (.functionStopDone index sub) s = .next (stopDone s (entryAddr index sub)) :=
  (onUnit_of hwf _).trans (congrArg _ ((whenLive_live hl _).trans (if_pos hs)))

theorem functionStopDone_elsewhere (hwf : isStateEntry index sub = true)
    (h : live s = false ∨ fnState s (entryAddr index sub) ≠ .stopping) : exec (.functionStopDone index sub) s = .next s :=
  (onUnit_of hwf _).trans (congrArg _ (whenLive_unchanged (h.imp_right fun hs => if_neg hs)))

/-- A STOPPING function other than a slice is fenced where STOPPING lasts past its bound (R40, R111). -/
theorem stopTimeout_stopping (hwf : isStateEntry index sub = true) (hl : live s = true)
    (hs : fnState s (entryAddr index sub) = .stopping) (h13 : (fnSite (entryAddr index sub)).1 ≠ 13) :
    exec (.stopTimeout index sub) s = .next (raiseFault (unitFault s (entryAddr index sub)) 8 (fnSite (entryAddr index sub)).1
      (fnSite (entryAddr index sub)).2 0) :=
  (onUnit_of hwf _).trans (congrArg _ ((whenLive_live hl _).trans (if_neg (by simp [hs, h13]))))

theorem stopTimeout_elsewhere (hwf : isStateEntry index sub = true)
    (h : live s = false ∨ fnState s (entryAddr index sub) ≠ .stopping) : exec (.stopTimeout index sub) s = .next s :=
  (onUnit_of hwf _).trans (congrArg _ (whenLive_unchanged (h.imp_right fun hs => if_pos (by rw [decide_eq_true hs, Bool.true_or]))))

end

/-- A failed start ends OFF, with the event and nothing else. -/
theorem startFail_eventsOnly (s : State) (a : Nat) : EventsOnly (setFn s a {}) (startFail s a) := raiseEvent_eventsOnly _ _ _

/-- Settles O12: each completion in the state it ends, and in every other. -/
theorem functionCompletionsTaken : Obligations.FunctionCompletionsTaken := by
  unfold Obligations.FunctionCompletionsTaken
  refine ⟨?start, ?stop, ?startNot, ?stopNot, ?group⟩
  case start =>
    exact fun s index sub hwf hl hs => ⟨functionStartDone_starting hwf hl hs _, functionStartDone_starting hwf hl hs _,
      functionStartDone_starting hwf hl hs _⟩
  case stop =>
    exact fun s index sub hwf hl hs => ⟨functionStopDone_stopping hwf hl hs, fun h13 =>
      ⟨_, stopTimeout_stopping hwf hl hs h13, raiseFault_raised _ _ _ _ (by decide)⟩⟩
  case startNot => exact fun s index sub o hwf h => functionStartDone_elsewhere hwf h o
  case stopNot => exact fun s index sub hwf h => ⟨functionStopDone_elsewhere hwf h, stopTimeout_elsewhere hwf h⟩
  case group =>
    intro s g hg
    unfold stopDone startSucceeds unitFault startFails
    rw [fnSite_controlGroup hg]
    exact ⟨rfl, rfl, rfl, startFail_eventsOnly _ _⟩

end Sys2Proof.Machine
end

section
/-! SUPPORT. Cold boot, step by step (R29, R37, R38, R385, R420, R428, Table 02.5). -/
namespace Sys2Proof.Machine

/-! A step at its own stage, and at any other. -/

theorem bootAt_inTurn {s : State} {b : Boot} (hb : s.boot = b) (hf : s.faults.frozen = false) (f : State → State) : bootAt s b f = f s :=
  if_pos (by rw [decide_eq_true hb, hf]; rfl)

theorem bootAt_outOfTurn {s : State} {b : Boot} (h : s.boot ≠ b ∨ s.faults.frozen = true) (f : State → State) : bootAt s b f = s := by
  refine if_neg ?_
  rw [Bool.and_eq_true, decide_eq_true_eq, Bool.not_eq_true']
  rintro ⟨hb, hf⟩
  rcases h with h | h
  · exact h hb
  · rw [h] at hf; cases hf

theorem bootLanes_inTurn {s : State} (hb : s.boot = .lanes ∨ s.boot = .refWait) (hf : s.faults.frozen = false) (good : Bool) :
    bootLanes s good = if good then lanesStart { s with clk := { s.clk with refGood := good } }
      else { s with clk := { s.clk with refGood := good }, boot := .refWait } := by
  refine if_neg ?_
  rw [hf]
  rcases hb with hb | hb <;> rw [hb] <;> decide

section
variable {s : State}

theorem bootPllLock_outOfTurn (h : s.boot ≠ .pll ∨ s.faults.frozen = true) : exec .bootPllLock s = .next s :=
  congrArg Host.Outcome.next (bootAt_outOfTurn h _)

theorem starterSelect_outOfTurn (h : s.boot ≠ .starter ∨ s.faults.frozen = true) (a b : Bool) : exec (.starterSelect a b) s = .next s :=
  congrArg Host.Outcome.next (bootAt_outOfTurn h _)

theorem bootLanes_outOfTurn (h : s.boot ≠ .lanes ∧ s.boot ≠ .refWait ∨ s.faults.frozen = true) (good : Bool) :
    exec (.bootLanes good) s = .next s := by
  refine congrArg Host.Outcome.next (if_pos ?_)
  rcases h with ⟨hl, hw⟩ | hf
  · rw [decide_eq_true hl, decide_eq_true hw, Bool.true_and, Bool.or_true]
  · rw [hf, Bool.true_or]

theorem bootLoaf_outOfTurn (h : s.boot ≠ .loaf ∨ s.faults.frozen = true) : exec .bootLoaf s = .next s :=
  congrArg Host.Outcome.next (bootAt_outOfTurn h _)

theorem bootMemory_outOfTurn (h : s.boot ≠ .memory ∨ s.faults.frozen = true) (a : Bool) : exec (.bootMemory a) s = .next s :=
  congrArg Host.Outcome.next (bootAt_outOfTurn h _)

theorem bootProof_outOfTurn (h : s.boot ≠ .proof ∨ s.faults.frozen = true) (failed : List Nat) (pes : List (Nat × Nat × Nat))
    (rows : List (Nat × Nat)) : exec (.bootProof failed pes rows) s = .next s :=
  congrArg Host.Outcome.next (bootAt_outOfTurn h _)

theorem bootTopology_outOfTurn (h : s.boot ≠ .topology ∨ s.faults.frozen = true) : exec .bootTopology s = .next s :=
  congrArg Host.Outcome.next (bootAt_outOfTurn h _)

theorem bootReady_outOfTurn (h : s.boot ≠ .readyStep ∨ s.faults.frozen = true) (ms : Nat) : exec (.bootReady ms) s = .next s :=
  congrArg Host.Outcome.next (bootAt_outOfTurn h _)

end

/-! Steps 2 and 4 (R29, R31). -/

/-- The host link trains where PERST_N is high and a link was trained. -/
theorem bootPllLock_eq {s : State} (hb : s.boot = .pll) (hf : s.faults.frozen = false) :
    exec .bootPllLock s = .next { s with boot := .starter, clk := { s.clk with rootLocked := true },
                                         host := { s.host with linkUp := !s.pins.perstLow && decide (s.host.link ≠ 0) } } := by
  refine congrArg Host.Outcome.next ((bootAt_inTurn hb hf _).trans ?_)
  have hup : mgmtUp { s with boot := .starter, clk := { s.clk with rootLocked := true } } = true := rfl
  unfold linkTrain
  rw [hup, Bool.and_true]

/-- The data domain out of reset: the counter at 0 and every lane PLL in lock (R31). -/
def dataReleased (s : State) : State :=
  { s with boot := .loaf, now := 0, clk := { s.clk with refGood := true, lanePll := BitVec.allOnes 32 } }

/-- With a good reference every lane and every port gets an enable request (R52). -/
theorem bootLanes_good {s : State} (hb : s.boot = .lanes ∨ s.boot = .refWait) (hf : s.faults.frozen = false) :
    bootLanes s true = (List.range 128).foldl (fun u p => requestEnable u (ePortState p))
      ((List.range 544).foldl (fun u l => requestEnable u (eLaneState l)) (dataReleased s)) := by
  have hones : BitVec.ofNat 32 (2 ^ 32 - 1) = BitVec.allOnes 32 := by decide
  rw [bootLanes_inTurn hb hf, if_pos rfl]
  unfold lanesStart dataReleased
  rw [hones]

/-! Steps 5, 6 and 8: the effect takes the next stage first, and what follows leaves it and the counter. -/

/-- A safe state stays one at another step of boot. -/
theorem keeps_atStep {s : State} (h : Safe s) (b : Boot) : Keeps (heldClock { s with boot := b }) { s with boot := b } :=
  keeps_heldClock (s := { s with boot := b }) h

theorem bootLoaf_clock {s : State} (h : Safe s) : (bootLoaf s).boot = .memory ∧ (bootLoaf s).now = s.now := by
  have hlevels := keeps_showLevels _ (keeps_extendMeasure _ 2 (sha512 (persistBytes s)) (keeps_atStep h .memory))
  have hstored := keeps_storeOne _ eFenceNoticeGeneration (keeps_wr _ eFenceNoticeGeneration
    ((rd (showLevels (extendMeasure { s with boot := .memory } 2 (sha512 (persistBytes s)))) eFenceNoticeGeneration + 1) % 2 ^ 16) hlevels)
  have hk := keeps_foldl (fun s h n => keeps_checkInsert s n true h) (keeps_showCages _ hstored) (List.range 6)
  exact (clock_of_keeps hk).symm

theorem bootMemory_clock {s : State} (h : Safe s) : (bootMemory s true).boot = .proof ∧ (bootMemory s true).now = s.now := by
  have hk := keeps_reinstall _ (keeps_shareEvent _ (keeps_layMemory _ (keeps_atStep h .proof)))
  exact (clock_of_keeps hk).symm

/-- Boot step 8 with the committed sizes in force (R95). -/
def sizesInForce (s : State) : State := { s with boot := .readyStep, topo := { s.topo with sizes := s.topo.committed } }

theorem safe_sizesInForce {s : State} (h : Safe s) : Safe (sizesInForce s) := by
  obtain ⟨hmem, hshows, hbounded, hsizes, hcommitted⟩ := h
  exact ⟨hmem, hshows, hbounded, hcommitted, hcommitted⟩

theorem bootTopology_clock {s : State} (h : Safe s) : (bootTopology s).boot = .readyStep ∧ (bootTopology s).now = s.now := by
  have hslice0 := keeps_installSlice0 _ (keeps_topoEval _ (keeps_heldClock (safe_sizesInForce h)))
  have hheld := keeps_ite (c := coordInvalid (installSlice0 (topoEval (sizesInForce s))) = true)
    (keeps_holdPorts _ (keeps_coordInvalidEvent _ hslice0)) hslice0
  have hports := keeps_foldl (fun s h p => keeps_portTryOn s p h)
    (keeps_foldl (fun s h p => keeps_portRecheck s p h) hheld ((List.range 24).map (· + 104))) (List.range 104)
  have hk : Keeps (heldClock (sizesInForce s)) (bootTopology s) := keeps_foldl (fun s h k => keeps_sliceEnable s k h) hports _
  exact (clock_of_keeps hk).symm

/-! Step 7 (R375, R382, R383, R385). -/

/-- Every unit tested, and what failed fenced: clusters, Churn lanes, cores, banks. -/
def bootTested (failed : List Nat) (pes : List (Nat × Nat × Nat)) (rows : List (Nat × Nat)) (s : State) : State :=
  let u := (List.range 68).foldl (bootChurn failed) (dealClusters ((List.range 9).foldl (bootCluster failed pes) s))
  (List.range 256).foldl (bootBank failed rows) ((List.range 4).foldl dealCores ((List.range 16).foldl (bootCore failed) u))

theorem bootProof_eq (s : State) (failed : List Nat) (pes : List (Nat × Nat × Nat)) (rows : List (Nat × Nat)) :
    bootProof s failed pes rows = if bootProofFails (bootTested failed pes rows s) = true then bootFail (bootTested failed pes rows s)
      else { bootTested failed pes rows s with boot := .topology } := rfl

theorem keeps_bootTested {κ : Kept} (failed : List Nat) (pes : List (Nat × Nat × Nat)) (rows : List (Nat × Nat)) (s : State) (h : Keeps κ s) :
    Keeps κ (bootTested failed pes rows s) := by
  have hclusters := keeps_foldl (fun s h c => keeps_bootCluster failed pes s c h) h (List.range 9)
  have hlanes := keeps_foldl (fun s h l => keeps_bootChurn failed s l h) (keeps_dealClusters _ hclusters) (List.range 68)
  have hcores := keeps_foldl (fun s h g => keeps_dealCores s g h)
    (keeps_foldl (fun s h c => keeps_bootCore failed s c h) hlanes (List.range 16)) (List.range 4)
  exact keeps_foldl (fun s h b => keeps_bootBank failed rows s b h) hcores (List.range 256)

/-- The conditions of R385: a group without a core, fewer than 32 Churn lanes, or 16 banks fenced. -/
theorem bootProofFails_iff (v : State) :
    bootProofFails v = true ↔ (∃ g, g < 4 ∧ ∀ c ∈ groupCores g, rd v (eControlCoreState c) = 2) ∨
      ((List.range 68).filter fun l => rd v (eChurnLaneStatus l) ≠ 3).length < 32 ∨ 16 ≤ rd v eVatBanksFenced := by
  unfold bootProofFails
  simp only [Bool.or_eq_true, List.any_eq_true, List.all_eq_true, decide_eq_true_eq, List.mem_range, or_assoc]

theorem bootProof_clock {s : State} (hb : s.boot = .proof) (h : Safe s) (failed : List Nat) (pes : List (Nat × Nat × Nat))
    (rows : List (Nat × Nat)) :
    (bootProof s failed pes rows).now = s.now ∧ ((bootProof s failed pes rows).boot = .topology ∨
      (bootProof s failed pes rows).boot = .proof ∧ (bootProof s failed pes rows).faults.frozen = true) := by
  have hk := keeps_bootTested failed pes rows s (keeps_heldClock h)
  rw [bootProof_eq]
  split
  · obtain ⟨hnow, hboot⟩ := clock_of_keeps (keeps_bootFail _ hk)
    exact ⟨hnow, .inr ⟨hboot.trans hb, (raiseFault_fatal _ _ _ _ (by decide)).1⟩⟩
  · exact ⟨(clock_of_keeps hk).1, .inl rfl⟩

/-! Slots of Loaf (R420, Table 18.2). -/

@[simp] theorem fwSlot_setFwSlot_same (s : State) (k : Nat) (x : LoafSlot) : fwSlot (setFwSlot s k x) k = x := by
  unfold fwSlot setFwSlot
  split <;> rfl

/-- The two slots are apart. -/
theorem fwSlot_setFwSlot_other (s : State) {j k : Nat} (x : LoafSlot) (h : ¬ (j = 0 ↔ k = 0)) : fwSlot (setFwSlot s k x) j = fwSlot s j := by
  unfold fwSlot setFwSlot
  by_cases hk : k = 0
  · have hj : j ≠ 0 := fun hj => h (iff_of_true hj hk)
    rw [if_pos hk, if_neg hj, if_neg hj]
  · have hj : j = 0 := by_contra fun hj => h (iff_of_false hj hk)
    rw [if_neg hk, if_pos hj, if_pos hj]

/-- A slot's change leaves everything but the slots. -/
theorem setFwSlot_shape (s : State) (k : Nat) (x : LoafSlot) :
    ∃ a b, setFwSlot s k x = { s with fw := { s.fw with slotA := a, slotB := b } } := by
  unfold setFwSlot
  split
  · exact ⟨_, _, rfl⟩
  · exact ⟨_, _, rfl⟩

/-! Step 9. -/

/-- MOD_READY is high, and BootTime and the Proof origin are shown. -/
def readyShown (s : State) (ms : Nat) : State :=
  wr (wr { s with boot := .done, pins := { s.pins with ready := true } } eBootTime ms) eProofOrigin (fcNow s)

theorem bootReady_eq (s : State) (ms : Nat) :
    bootReady s ms = setFwSlot (readyShown s ms) (readyShown s ms).fw.running
      { fwSlot (readyShown s ms) (readyShown s ms).fw.running with trialBoots := 0 } := rfl

theorem bootReady_shows (s : State) (ms : Nat) :
    let t := bootReady s ms
    t.boot = .done ∧ t.pins = { s.pins with ready := true } ∧ rd t eBootTime = ms ∧ rd t eProofOrigin = fcNow s ∧
      (fwSlot t t.fw.running).trialBoots = 0 := by
  have htrial := fwSlot_setFwSlot_same (readyShown s ms) (readyShown s ms).fw.running
    { fwSlot (readyShown s ms) (readyShown s ms).fw.running with trialBoots := 0 }
  obtain ⟨a, b, hshape⟩ := setFwSlot_shape (readyShown s ms) (readyShown s ms).fw.running
    { fwSlot (readyShown s ms) (readyShown s ms).fw.running with trialBoots := 0 }
  dsimp only
  rw [bootReady_eq]
  rw [hshape] at htrial ⊢
  refine ⟨rfl, rfl, ?_, rd_wr_same _ _ _, congrArg LoafSlot.trialBoots htrial⟩
  exact (rd_wr_other _ _ (by decide : eBootTime ≠ eProofOrigin)).trans (rd_wr_same _ _ _)

/-- Settles O8: each step in its turn by its own equation, and out of turn or frozen by `bootAt_outOfTurn`. -/
theorem bootStepsRunInOrder : Obligations.BootStepsRunInOrder := by
  unfold Obligations.BootStepsRunInOrder
  refine ⟨?pll, ?lanes, ?loaf, ?memory, ?proof, ?topology, ?ready, ?none, ?outOfTurn⟩
  case pll => exact fun s hb hf => bootPllLock_eq hb hf
  case lanes =>
    intro s hb hf
    exact ⟨congrArg Host.Outcome.next (bootLanes_inTurn hb hf false),
      congrArg Host.Outcome.next (bootLanes_good hb hf)⟩
  case loaf =>
    intro s hb hf
    have hx : exec .bootLoaf s = .next (bootLoaf s) := congrArg Host.Outcome.next (bootAt_inTurn hb hf _)
    exact ⟨hx, fun h => ⟨_, hx, bootLoaf_clock h⟩⟩
  case memory =>
    intro s hb hf
    have hx : ∀ trained, exec (.bootMemory trained) s = .next (bootMemory s trained) := fun trained =>
      congrArg Host.Outcome.next (bootAt_inTurn hb hf _)
    exact ⟨hx true, fun h => ⟨_, hx true, bootMemory_clock h⟩, _, hx false, raiseFault_fatalRaised _ _ _ _ (by decide)⟩
  case proof =>
    intro s failed pes rows hb hf
    have hx : exec (.bootProof failed pes rows) s = .next (bootProof s failed pes rows) := congrArg Host.Outcome.next (bootAt_inTurn hb hf _)
    have hstays : ¬ bootProofFails (bootTested failed pes rows s) = true → exec (.bootProof failed pes rows) s =
        .next { bootTested failed pes rows s with boot := .topology } := fun h => hx.trans (congrArg _ (if_neg h))
    have hfails : bootProofFails (bootTested failed pes rows s) = true → exec (.bootProof failed pes rows) s =
        .next (raiseFault (bootTested failed pes rows s) 35 0 0 0) := fun h => hx.trans (congrArg _ (if_pos h))
    refine ⟨fun ⟨hcores, hchurn, hbanks⟩ => hstays fun h => ?_, fun h => hfails ((bootProofFails_iff _).mpr h),
      fun h => ⟨_, hx, bootProof_clock hb h failed pes rows⟩⟩
    rcases (bootProofFails_iff _).mp h with ⟨g, hg, hnone⟩ | hfew | hmany
    · obtain ⟨c, hc, hcore⟩ := hcores g hg
      exact hcore (hnone c hc)
    · exact absurd hchurn (not_le.mpr hfew)
    · exact absurd hbanks (not_lt.mpr hmany)
  case topology =>
    intro s hb hf
    have hx : exec .bootTopology s = .next (bootTopology s) := congrArg Host.Outcome.next (bootAt_inTurn hb hf _)
    exact ⟨hx, fun h => ⟨_, hx, bootTopology_clock h⟩⟩
  case ready =>
    intro s ms hb hf
    have hx : exec (.bootReady ms) s = .next (bootReady s ms) := congrArg Host.Outcome.next (bootAt_inTurn hb hf _)
    exact ⟨hx, _, hx, bootReady_shows s ms⟩
  case none =>
    intro s ms failed pes rows a b h
    simp only [List.forall_mem_cons]
    rcases h with ⟨hpll, hstarter, hlanes, hwait, hloaf, hmemory, hproof, htopology, hready⟩ | hf
    · exact ⟨bootPllLock_outOfTurn (.inl hpll), starterSelect_outOfTurn (.inl hstarter) a b, bootLanes_outOfTurn (.inl ⟨hlanes, hwait⟩) a,
        bootLoaf_outOfTurn (.inl hloaf), bootMemory_outOfTurn (.inl hmemory) a, bootProof_outOfTurn (.inl hproof) failed pes rows,
        bootTopology_outOfTurn (.inl htopology), bootReady_outOfTurn (.inl hready) ms, List.forall_mem_nil _⟩
    · exact ⟨bootPllLock_outOfTurn (.inr hf), starterSelect_outOfTurn (.inr hf) a b, bootLanes_outOfTurn (.inr hf) a,
        bootLoaf_outOfTurn (.inr hf), bootMemory_outOfTurn (.inr hf) a, bootProof_outOfTurn (.inr hf) failed pes rows,
        bootTopology_outOfTurn (.inr hf), bootReady_outOfTurn (.inr hf) ms, List.forall_mem_nil _⟩
  case outOfTurn =>
    exact fun s ms failed pes rows a b => ⟨fun h => bootPllLock_outOfTurn (.inl h), fun h => starterSelect_outOfTurn (.inl h) a b,
      fun hl hw => bootLanes_outOfTurn (.inl ⟨hl, hw⟩) a, fun h => bootLoaf_outOfTurn (.inl h), fun h => bootMemory_outOfTurn (.inl h) a,
      fun h => bootProof_outOfTurn (.inl h) failed pes rows, fun h => bootTopology_outOfTurn (.inl h),
      fun h => bootReady_outOfTurn (.inl h) ms⟩

end Sys2Proof.Machine
end

section
/-! SUPPORT. Starter's choice of a slot and the start of the image in it (R418, R420, R428). -/
namespace Sys2Proof.Machine

/-! One slot's turn (R420). -/

/-- A slot's turn succeeds: it holds an image that is neither EMPTY nor INVALID, has boots left where it is on TRIAL, and passes R418. -/
def slotPasses (s : State) (k : Nat) (signatureOk : Bool) : Bool :=
  decide (2 ≤ (fwSlot s k).state) && !(decide ((fwSlot s k).state = 3) && decide (3 ≤ (fwSlot s k).trialBoots)) &&
    decide (imageCheck s (fwSlot s k).image signatureOk = 0)

/-- A TRIAL slot that is selected counts one more boot. -/
def bootCounted (x : LoafSlot) : LoafSlot := if x.state = 3 then { x with trialBoots := x.trialBoots + 1 } else x

section
variable {s : State} {k : Nat} {signatureOk : Bool}

theorem starterTry_fails (h : slotPasses s k signatureOk = false) :
    starterTry s k signatureOk = (false, setFwSlot s k { fwSlot s k with state := 1 }) := by
  unfold starterTry
  unfold slotPasses at h
  dsimp only
  cases hspent : decide ((fwSlot s k).state = 3) && decide (3 ≤ (fwSlot s k).trialBoots)
  case true => exact if_pos rfl
  case false =>
    rw [hspent, Bool.not_false, Bool.and_true] at h
    rw [h]
    rfl

/-- A slot that passes is not spent, and its image is good. -/
theorem starterTry_passes (h : slotPasses s k signatureOk = true) :
    starterTry s k signatureOk = if k = s.fw.active then (true, setFwSlot s k (bootCounted (fwSlot s k)))
      else (true, { setFwSlot s k { bootCounted (fwSlot s k) with state := 4 } with
                    fw := { (setFwSlot s k { bootCounted (fwSlot s k) with state := 4 }).fw with active := k } }) := by
  unfold starterTry
  unfold slotPasses at h
  dsimp only
  cases hspent : decide ((fwSlot s k).state = 3) && decide (3 ≤ (fwSlot s k).trialBoots)
  case true =>
    rw [hspent, Bool.not_true, Bool.and_false] at h
    cases h
  case false =>
    rw [hspent, Bool.not_false, Bool.and_true] at h
    rw [h]
    rfl

end

/-- What a slot's turn looks at, another slot's change leaves. -/
theorem slotPasses_setFwSlot (s : State) {j k : Nat} (x : LoafSlot) (h : ¬ (j = 0 ↔ k = 0)) (signatureOk : Bool) :
    slotPasses (setFwSlot s k x) j signatureOk = slotPasses s j signatureOk := by
  have himage : ∀ img, imageCheck (setFwSlot s k x) img signatureOk = imageCheck s img signatureOk := by
    intro img
    obtain ⟨a, b, hshape⟩ := setFwSlot_shape s k x
    rw [hshape]
    rfl
  unfold slotPasses
  rw [fwSlot_setFwSlot_other s x h, himage]

theorem setFwSlot_active (s : State) (k : Nat) (x : LoafSlot) : (setFwSlot s k x).fw.active = s.fw.active := by
  obtain ⟨a, b, hshape⟩ := setFwSlot_shape s k x
  rw [hshape]

/-! The choice: the active slot's turn, then the other's (R420). -/

/-- The verdict on the signature of a slot's image. -/
def slotSignature (sigA sigB : Bool) (k : Nat) : Bool := if k = 0 then sigA else sigB

/-- The active slot rejected: it is INVALID. -/
def activeRejected (s : State) : State := setFwSlot s s.fw.active { fwSlot s s.fw.active with state := 1 }

section
variable {s : State} {sigA sigB : Bool}

theorem starterChoice_active (h : slotPasses s s.fw.active (slotSignature sigA sigB s.fw.active) = true) :
    starterChoice s sigA sigB = (some s.fw.active, setFwSlot s s.fw.active (bootCounted (fwSlot s s.fw.active))) := by
  have ht := (starterTry_passes h).trans (if_pos rfl)
  unfold slotSignature at ht
  unfold starterChoice
  dsimp only
  rw [ht]
  rfl

theorem starterChoice_second (h : slotPasses s s.fw.active (slotSignature sigA sigB s.fw.active) = false) :
    starterChoice s sigA sigB =
      let q := starterTry (activeRejected s) (1 - s.fw.active) (slotSignature sigA sigB (1 - s.fw.active))
      if q.1 then (some (1 - s.fw.active), q.2) else (none, q.2) := by
  have ht := starterTry_fails h
  unfold slotSignature at ht
  unfold starterChoice
  dsimp only
  rw [ht]
  rfl

/-- The slot selected that was not the active one: CONFIRMED, and active from now on. -/
def secondSelected (s : State) (k : Nat) : State :=
  let u := setFwSlot (activeRejected s) k { bootCounted (fwSlot s k) with state := 4 }
  { u with fw := { u.fw with active := k } }

/-- Neither slot passed: both are INVALID. -/
def bothRejected (s : State) (k : Nat) : State := setFwSlot (activeRejected s) k { fwSlot s k with state := 1 }

section
variable (ha : s.fw.active < 2)
include ha

/-- The slot that is not active is the other one. -/
theorem otherSlot_apart : ¬ (1 - s.fw.active = 0 ↔ s.fw.active = 0) := by omega

theorem otherSlot_activeRejected : fwSlot (activeRejected s) (1 - s.fw.active) = fwSlot s (1 - s.fw.active) :=
  fwSlot_setFwSlot_other s _ (otherSlot_apart ha)

theorem starterChoice_other (h : slotPasses s s.fw.active (slotSignature sigA sigB s.fw.active) = false)
    (h1 : slotPasses s (1 - s.fw.active) (slotSignature sigA sigB (1 - s.fw.active)) = true) :
    starterChoice s sigA sigB = (some (1 - s.fw.active), secondSelected s (1 - s.fw.active)) := by
  have hp := (slotPasses_setFwSlot s { fwSlot s s.fw.active with state := 1 } (otherSlot_apart ha) _).trans h1
  have hne : 1 - s.fw.active ≠ (activeRejected s).fw.active := by
    rw [activeRejected, setFwSlot_active]
    omega
  rw [starterChoice_second h, activeRejected, starterTry_passes hp, ← activeRejected, if_neg hne, otherSlot_activeRejected ha]
  rfl

theorem starterChoice_none (h : slotPasses s s.fw.active (slotSignature sigA sigB s.fw.active) = false)
    (h1 : slotPasses s (1 - s.fw.active) (slotSignature sigA sigB (1 - s.fw.active)) = false) :
    starterChoice s sigA sigB = (none, bothRejected s (1 - s.fw.active)) := by
  have hp := (slotPasses_setFwSlot s { fwSlot s s.fw.active with state := 1 } (otherSlot_apart ha) _).trans h1
  rw [starterChoice_second h, activeRejected, starterTry_fails hp, ← activeRejected, otherSlot_activeRejected ha]
  rfl

/-- The active slot that failed is INVALID, whatever the other slot's turn gave. -/
theorem starterChoice_rejected (h : slotPasses s s.fw.active (slotSignature sigA sigB s.fw.active) = false) :
    (fwSlot (starterChoice s sigA sigB).2 s.fw.active).state = 1 := by
  have hapart : ¬ (s.fw.active = 0 ↔ 1 - s.fw.active = 0) := fun e => otherSlot_apart ha e.symm
  have hkept : ∀ x, (fwSlot (setFwSlot (activeRejected s) (1 - s.fw.active) x) s.fw.active).state = 1 := fun x => by
    rw [fwSlot_setFwSlot_other _ x hapart, activeRejected, fwSlot_setFwSlot_same]
  cases h1 : slotPasses s (1 - s.fw.active) (slotSignature sigA sigB (1 - s.fw.active))
  case false => rw [starterChoice_none ha h h1]; exact hkept _
  case true => rw [starterChoice_other ha h h1]; exact hkept _

/-- The slot that Starter selects, where there is one. -/
theorem starterChoice_slot :
    (starterChoice s sigA sigB).1 = if slotPasses s s.fw.active (slotSignature sigA sigB s.fw.active) then some s.fw.active
      else if slotPasses s (1 - s.fw.active) (slotSignature sigA sigB (1 - s.fw.active)) then some (1 - s.fw.active) else none := by
  split
  next h => rw [starterChoice_active h]
  next h =>
    have h0 := Bool.eq_false_of_not_eq_true h
    split
    next h1 => rw [starterChoice_other ha h0 h1]
    next h1 => rw [starterChoice_none ha h0 (Bool.eq_false_of_not_eq_true h1)]

end

end

/-! The start of the image selected (R428, log entry 51). -/

/-- Only measurements were extended between two states, and free values drawn. -/
def MeasuredOnly (s t : State) : Prop := t = { s with draws := t.draws, fw := { s.fw with measures := t.fw.measures } }

theorem measuredOnly_trans {s t u : State} (h : MeasuredOnly s t) (k : MeasuredOnly t u) : MeasuredOnly s u := by
  unfold MeasuredOnly at *
  rw [k, h]

theorem extendMeasure_measuredOnly (s : State) (k : Nat) (d : List Byte) : MeasuredOnly s (extendMeasure s k d) := rfl
theorem drawBytes_measuredOnly (s : State) (n : Nat) : MeasuredOnly s (drawBytes s n).2 := rfl

theorem loafDigest_measuredOnly (s : State) (img : List Byte) : MeasuredOnly s (loafDigest s img).2 := by
  unfold loafDigest
  split
  · exact drawBytes_measuredOnly s 64
  · rfl

/-- The slot selected runs, and the boot is counted. -/
def slotStarted (s : State) (k : Nat) : State :=
  { s with boot := .lanes, fw := { s.fw with running := k, bootCount := s.fw.bootCount + 1 } }

theorem starterBoots_measuredOnly (s : State) (k : Nat) : MeasuredOnly (slotStarted s k) (starterBoots s k) := by
  have hotp := measuredOnly_trans (drawBytes_measuredOnly (slotStarted s k) 64)
    (extendMeasure_measuredOnly _ 0 (drawBytes (slotStarted s k) 64).1)
  exact measuredOnly_trans (measuredOnly_trans hotp (loafDigest_measuredOnly _ _)) (extendMeasure_measuredOnly _ 1 _)

/-- Settles O9: the choice case by case, and what the slot chosen does. -/
theorem starterTakesTheFirstGoodSlot : Obligations.StarterTakesTheFirstGoodSlot := by
  unfold Obligations.StarterTakesTheFirstGoodSlot
  refine ⟨?selects, ?chooses⟩
  case selects =>
    intro s sigA sigB hb hf
    have hx : exec (.starterSelect sigA sigB) s = .next (starterSelect s sigA sigB) := congrArg Host.Outcome.next (bootAt_inTurn hb hf _)
    constructor
    · intro k u hc
      have hsel : starterSelect s sigA sigB = starterBoots u k := by unfold starterSelect; rw [hc]
      have hboots := starterBoots_measuredOnly u k
      refine ⟨_, hx.trans (congrArg _ hsel), ?_, ?_, ?_, hboots⟩ <;> rw [hboots] <;> rfl
    · intro u hc
      have hsel : starterSelect s sigA sigB = bootFail u := by unfold starterSelect; rw [hc]
      exact ⟨_, hx.trans (congrArg _ hsel), raiseFault_fatalRaised _ _ _ _ (by decide)⟩
  case chooses =>
    intro s sigA sigB ha
    refine ⟨starterChoice_slot ha, starterChoice_rejected ha, fun h h1 => ?_, fun h => ?_⟩
    · rw [starterChoice_other ha h h1]
      exact ⟨rfl, congrArg LoafSlot.state (fwSlot_setFwSlot_same _ _ _)⟩
    · rw [starterChoice_active h]
      exact ⟨setFwSlot_active _ _ _, fwSlot_setFwSlot_same _ _ _⟩

end Sys2Proof.Machine
end

section
/-! SUPPORT. Cage inserts: what seating, removal, a fault of the engine and its laser's hours do (R430 to R435). -/
namespace Sys2Proof.Machine

@[simp] theorem cageOf_setCage_same (s : State) (n : Nat) (c : Cage) : cageOf (setCage s n c) n = c := by simp [cageOf, setCage]

/-- An insert that stands in the cage, or none, before anything is read of it. -/
def cageChanged (s : State) (n : Nat) (i : Option Insert) : State := setCage s n { cageOf s n with insert := i, writeDue := false }

/-- The identity read from an insert and its result, as the entries show them (R430). -/
def identified (s : State) (n : Nat) (i : Insert) : State :=
  wr (setBlob s (eEngineIdentity n) (sliceZ (i.page0.getD []) 0 (if i.page0.isSome then 256 else 0))) (eEngineIdentityResult n)
    (identityResult s i)

/-- An insertion counted in service: the serial noted, the larger of the two records and one more, its wear and its events (R432, R433). -/
def insertionCounted (s : State) (n : Nat) (b : List Byte) : State :=
  let hours := max (insLaserHours b) (engineRecord s (insSerial b)).1
  let before := max (insInsertions b) (engineRecord s (insSerial b)).2
  let u := setCage s n { cageOf s n with lastSerial := insSerial b, writeDue := true }
  wearEvents (showCounts u n hours (before + 1) (wearState b hours (before + 1))) n (wearState b hours before) (wearState b hours (before + 1))

/-! Seating (R430, R432). -/

/-- Loaf, which checks an insert, runs in a module that is not frozen. -/
theorem serves_false {s : State} (h : loafUp s = false ∨ s.faults.frozen = true) : (loafUp s && !s.faults.frozen) = false := by
  rcases h with hl | hf
  · rw [hl, Bool.false_and]
  · rw [hf, Bool.not_true, Bool.and_false]

theorem serves_true {s : State} (hl : loafUp s = true) (hf : s.faults.frozen = false) : (loafUp s && !s.faults.frozen) = true := by
  rw [hl, hf]
  rfl

/-- The check in service: an insertion is counted where the insert passes and is optical, and the engine is then enabled or quarantined. -/
theorem checkInsert_eq {s : State} {n : Nat} {i : Insert} (hc : (cageOf s n).insert = some i) :
    checkInsert s n false =
      let v := if identityResult s i = 1 ∧ insKind (i.page0.getD []) = 2 then insertionCounted (identified s n i) n (i.page0.getD [])
        else identified s n i
      if identityResult s i = 1 then engineTo v n (fnEnable (fnOf v (eEngineState n)))
      else if fnState v (eEngineState n) = .fenced then v else engineTo v n { state := .quarantined, pendingOn := false } := by
  unfold checkInsert
  rw [hc]
  simp only [Bool.and_eq_true, decide_eq_true_eq]
  rfl

theorem insertSeated_unchecked {s : State} (h : loafUp s = false ∨ s.faults.frozen = true) (n : Nat) (i : Insert) :
    insertSeated s n i = cageChanged s n (some i) := by
  have hs : (loafUp (cageChanged s n (some i)) && !(cageChanged s n (some i)).faults.frozen) = false := serves_false h
  exact if_neg (ne_true_of_eq_false hs)

section
variable {s : State} {n : Nat} {i : Insert} (hl : loafUp s = true) (hf : s.faults.frozen = false)
include hl hf

theorem insertSeated_checked : insertSeated s n i = checkInsert (showCages (cageChanged s n (some i))) n false := by
  have hs : (loafUp (cageChanged s n (some i)) && !(cageChanged s n (some i)).faults.frozen) = true := serves_true hl hf
  exact if_pos hs

/-- An insert that fails the check quarantines its engine, unless it is FENCED (R430). -/
theorem insertSeated_failed (hr : identityResult s i ≠ 1) :
    insertSeated s n i =
      let v := identified (showCages (cageChanged s n (some i))) n i
      if fnState s (eEngineState n) = .fenced then v else engineTo v n { state := .quarantined, pendingOn := false } := by
  have hc : (cageOf (showCages (cageChanged s n (some i))) n).insert = some i := congrArg Cage.insert (cageOf_setCage_same s n _)
  have hr' : identityResult (showCages (cageChanged s n (some i))) i ≠ 1 := hr
  rw [insertSeated_checked hl hf, checkInsert_eq hc]
  have huncounted : ¬ (identityResult (showCages (cageChanged s n (some i))) i = 1 ∧ insKind (i.page0.getD []) = 2) := fun h => hr' h.1
  dsimp only
  rw [if_neg hr', if_neg huncounted]
  rfl

/-- An insert without lasers that passes the check is enabled, and nothing is counted. -/
theorem insertSeated_electrical (hr : identityResult s i = 1) (hk : insKind (i.page0.getD []) ≠ 2) :
    insertSeated s n i =
      engineTo (identified (showCages (cageChanged s n (some i))) n i) n (fnEnable (fnOf s (eEngineState n))) := by
  have hc : (cageOf (showCages (cageChanged s n (some i))) n).insert = some i := congrArg Cage.insert (cageOf_setCage_same s n _)
  have hr' : identityResult (showCages (cageChanged s n (some i))) i = 1 := hr
  rw [insertSeated_checked hl hf, checkInsert_eq hc, if_pos hr', if_neg (fun h => hk h.2)]
  rfl

/-- An optical engine that passes the check is counted, then enabled. -/
theorem insertSeated_optical (hr : identityResult s i = 1) (hk : insKind (i.page0.getD []) = 2) :
    insertSeated s n i =
      let x := insertionCounted (identified (showCages (cageChanged s n (some i))) n i) n (i.page0.getD [])
      engineTo x n (fnEnable (fnOf x (eEngineState n))) := by
  have hc : (cageOf (showCages (cageChanged s n (some i))) n).insert = some i := congrArg Cage.insert (cageOf_setCage_same s n _)
  have hr' : identityResult (showCages (cageChanged s n (some i))) i = 1 := hr
  rw [insertSeated_checked hl hf, checkInsert_eq hc, if_pos hr', if_pos ⟨hr', hk⟩]

end

/-! Removal (R430, R431, R435, log entry 46). -/

/-- The empty cage as the entries show it. -/
def emptied (s : State) (n : Nat) : State :=
  showCounts (wr (setBlob (showCages (cageChanged s n none)) (eEngineIdentity n) []) (eEngineIdentityResult n) 0) n 0 0 0

theorem emptied_fnOf (s : State) (n a : Nat) : fnOf (emptied s n) a = fnOf s a := by
  simp [fnOf, emptied, showCounts, showCages, cageChanged]

theorem insertRemoved_unchecked {s : State} (h : loafUp s = false ∨ s.faults.frozen = true) (n : Nat) :
    insertRemoved s n = setCage (cageChanged s n none) n { cageOf (cageChanged s n none) n with laserOn := false } := by
  have hs : (loafUp (cageChanged s n none) && !(cageChanged s n none).faults.frozen) = false := serves_false h
  exact if_pos (by rw [← cageChanged, hs]; rfl)

/-- Where its engine goes when an insert is taken out (log entry 46). -/
def fnRemoved (f : Fn) : Fn :=
  match f.state with
  | .starting => {}
  | .quarantined => fnRest f
  | .on => fnDisable f
  | .off | .stopping | .fenced => f

theorem fnRemoved_starting {f : Fn} (h : f.state = .starting) : fnRemoved f = {} := by unfold fnRemoved; rw [h]
theorem fnRemoved_quarantined {f : Fn} (h : f.state = .quarantined) : fnRemoved f = fnRest f := by unfold fnRemoved; rw [h]
theorem fnRemoved_on {f : Fn} (h : f.state = .on) : fnRemoved f = fnDisable f := by unfold fnRemoved; rw [h]
theorem fnRemoved_stays {f : Fn} (h : f.state = .off ∨ f.state = .fenced ∨ f.state = .stopping) : fnRemoved f = f := by
  unfold fnRemoved
  rcases h with h | h | h <;> rw [h]

theorem insertRemoved_checked {s : State} (hl : loafUp s = true) (hf : s.faults.frozen = false) (n : Nat) :
    insertRemoved s n = engineTo (emptied s n) n (fnRemoved (fnOf (emptied s n) (eEngineState n))) := by
  have hs : (loafUp (cageChanged s n none) && !(cageChanged s n none).faults.frozen) = true := serves_true hl hf
  unfold insertRemoved fnRemoved
  dsimp only
  rw [← cageChanged, hs, if_neg (by decide), ← emptied, fnState]
  cases (fnOf (emptied s n) (eEngineState n)).state <;> rfl

/-! A fault of an engine, and its laser's hours (R431 to R433). -/

theorem engineFault_eq {s : State} {n c : Nat} (hl : live s = true) (hn : n < 6) :
    exec (.engineFault n c) s = .next (engineFault s n c) :=
  (onUnit_of (decide_eq_true hn) _).trans (congrArg _ (whenLive_live hl _))

theorem laserHoursTick_eq {s : State} {n : Nat} (hl : live s = true) (hn : n < 6) :
    exec (.laserHoursTick n) s = .next (laserHoursTick s n) :=
  (onUnit_of (decide_eq_true hn) _).trans (congrArg _ (whenLive_live hl _))

theorem laserHoursTick_dark {s : State} {n : Nat} (h : (cageOf s n).laserOn = false) : laserHoursTick s n = s :=
  if_pos (by rw [h]; rfl)

/-- A lit laser counts 0.1 h, and writes each full hour (R432, R433). -/
theorem laserHoursTick_lit {s : State} {n : Nat} (h : (cageOf s n).laserOn = true) :
    laserHoursTick s n =
      let hours := rd s (eEngineLaserHours n) + 1
      let wear := wearState (cageBytes (cageOf s n)) hours (rd s (eEngineInsertions n))
      let u := showCounts s n hours (rd s (eEngineInsertions n)) wear
      wearEvents (if hours % 10 = 0 then writeCounts u n
        else setEngineRecord u (insSerial (cageBytes (cageOf s n))) hours (engineRecord u (insSerial (cageBytes (cageOf s n)))).2)
        n (cageOf s n).wear wear :=
  if_neg (by rw [h]; decide)

/-- Settles O53: each of the four commands in its cases. -/
theorem insertsAreCheckedCountedAndFenced : Obligations.InsertsAreCheckedCountedAndFenced := by
  unfold Obligations.InsertsAreCheckedCountedAndFenced
  refine ⟨?seated, ?removed, ?fault, ?hours⟩
  case seated =>
    intro s n i hn
    have hx : exec (.insertSeated n i) s = .next (insertSeated s n i) := onUnit_of (decide_eq_true hn) _
    rw [hx]
    refine ⟨fun h => congrArg _ (insertSeated_unchecked h n i), fun hl hf => ⟨rd_wr_same _ _ _, ?failed, ?electrical, ?optical⟩⟩
    case failed =>
      intro hr
      rw [insertSeated_failed hl hf hr]
      exact ⟨fun h => congrArg _ (if_pos h), fun h => congrArg _ (if_neg h)⟩
    case electrical => exact fun hr hk => congrArg _ (insertSeated_electrical hl hf hr hk)
    case optical => exact fun hr hk => congrArg _ (insertSeated_optical hl hf hr hk)
  case removed =>
    intro s n hn
    have hx : exec (.insertRemoved n) s = .next (insertRemoved s n) := onUnit_of (decide_eq_true hn) _
    rw [hx]
    refine ⟨fun h => congrArg _ (insertRemoved_unchecked h n), fun hl hf => ?_⟩
    have hgoes : ∀ f, fnRemoved (fnOf (emptied s n) (eEngineState n)) = f → insertRemoved s n = engineTo (emptied s n) n f := by
      rintro f rfl
      exact insertRemoved_checked hl hf n
    rw [← emptied_fnOf s n]
    exact ⟨fun h => congrArg _ (hgoes _ (fnRemoved_starting h)), fun h => congrArg _ (hgoes _ (fnRemoved_on h)),
      fun h => congrArg _ (hgoes _ (fnRemoved_quarantined h)), fun h => congrArg _ (hgoes _ (fnRemoved_stays h))⟩
  case fault =>
    intro s n c hl hn
    rw [engineFault_eq hl hn]
    exact ⟨fun h => congrArg _ (if_pos h), fun h => congrArg _ (if_neg h)⟩
  case hours =>
    intro s n hl hn
    rw [laserHoursTick_eq hl hn]
    refine ⟨fun h => congrArg _ (laserHoursTick_dark h), fun h => ?_⟩
    rw [laserHoursTick_lit h]
    dsimp only
    exact ⟨fun h10 => by rw [if_pos h10], fun h10 => by rw [if_neg h10]⟩

end Sys2Proof.Machine
end

section
/-! SUPPORT. How a command of the serial layer runs where the data path works and where it does not (R366, R367), and what an update of
lanes, lane groups, entries or functions shows to the readers of the others (03). -/
namespace Sys2Proof.Machine

/-- The state that a command answers, rewritten. -/
theorem next_congr {o : Out1} {t u : State} (h : o = .next t) (e : t = u) : o = .next u := h.trans (congrArg Host.Outcome.next e)

/-- A command of the data path has its effect where the data path works. -/
theorem next_of_live {o : Out1} {s : State} {f : State → State} (h : o = .next (whenLive s f)) (hl : live s = true) : o = .next (f s) := by
  rw [h, whenLive_live hl]

/-- A command of the data path has none where it does not. -/
theorem next_of_notLive {o : Out1} {s : State} {f : State → State} (h : o = .next (whenLive s f)) (hl : live s = false) : o = .next s := by
  rw [h, whenLive_not hl]

section
variable {s : State} {l p g : Nat}

theorem exec_signalDetect (h : l < 544) :
    exec (.signalDetect l) s = .next (whenLive s fun s => setLane s l { laneOf s l with signal := true, los := false }) :=
  onUnit_of (decide_eq_true h) _

theorem exec_cdrLock (h : l < 544) :
    exec (.cdrLock l) s =
      .next (whenLive s fun s => if (laneOf s l).signal then setLane s l { laneOf s l with cdrLocked := true } else s) :=
  onUnit_of (decide_eq_true h) _

theorem exec_lossOfSignal (h : l < 544) : exec (.lossOfSignal l) s = .next (whenLive s fun s => lossOfSignal s l) :=
  onUnit_of (decide_eq_true h) _

theorem exec_cdrLossOfLock (h : l < 544) : exec (.cdrLossOfLock l) s = .next (whenLive s fun s => cdrLossOfLock s l) :=
  onUnit_of (decide_eq_true h) _

theorem exec_markerLoss (h : l < 544) : exec (.markerLoss l) s = .next (whenLive s fun s => markerLoss s l) :=
  onUnit_of (decide_eq_true h) _

theorem exec_marginWindowEnd (h : l < 544) (n : Nat) : exec (.marginWindowEnd l n) s = .next (whenLive s fun s => marginWindowEnd s l n) :=
  onUnit_of (decide_eq_true h) _

theorem exec_markerReceived (h : l < 544) (slot skew : Nat) (raw : BitVec 136) :
    exec (.markerReceived l slot skew raw) s = .next (whenLive s fun s => markerReceived s l slot skew raw) := onUnit_of (decide_eq_true h) _

theorem exec_switchReceived (h : g < 32) (raw : BitVec 136) :
    exec (.switchReceived g raw) s = .next (whenLive s fun s => switchReceived s g raw) := onUnit_of (decide_eq_true h) _

theorem exec_markerSlot (h : g < 32) : exec (.markerSlot g) s = .next (if dataUp s then markerSlot s g else s) :=
  onUnit_of (decide_eq_true h) _

theorem exec_lossClassify (h : p < 128) : exec (.lossClassify p) s = .next (whenLive s fun s => lossClassify s p) :=
  onUnit_of (decide_eq_true h) _

theorem exec_quarantineRelease (h : p < 128) :
    exec (.quarantineRelease p) s = .next (whenLive s fun s =>
      if fnState s (ePortState p) = .quarantined && allServingLost s p then portRelease s p else s) :=
  onUnit_of (decide_eq_true h) _

end

variable (s : State)

@[simp] theorem fnState_setLane (l : Nat) (x : Lane) (b : Nat) : fnState (setLane s l x) b = fnState s b := rfl

@[simp] theorem laneOf_setLg (g : Nat) (x : LaneGroup) (l : Nat) : laneOf (setLg s g x) l = laneOf s l := rfl

@[simp] theorem lgOf_bump (a g : Nat) : lgOf (bump s a) g = lgOf s g := rfl
@[simp] theorem lgOf_setLane (l : Nat) (x : Lane) (g : Nat) : lgOf (setLane s l x) g = lgOf s g := rfl

/-- Of two writes of one lane the later stands. -/
@[simp] theorem setLane_setLane_same (l : Nat) (x y : Lane) : setLane (setLane s l x) l y = setLane s l y := by
  unfold setLane
  rw [Tab.set_set_same]

/-- Of two writes of one lane group the later stands. -/
@[simp] theorem setLg_setLg_same (g : Nat) (x y : LaneGroup) : setLg (setLg s g x) g y = setLg s g y := by
  unfold setLg
  rw [Tab.set_set_same]

end Sys2Proof.Machine
end

section
/-! SUPPORT. The events of a lane's signal, clock and markers (R49, R52, R62), the margin window (R67), and the MARKERs that a group
sends (R46, R82). -/
namespace Sys2Proof.Machine

/-! Signal and clock (R49, R52, R62). -/

theorem cdrLock_signal {s : State} {l : Nat} (hl : live s = true) (hn : l < 544) (h : (laneOf s l).signal = true) :
    exec (.cdrLock l) s = .next (setLane s l { laneOf s l with cdrLocked := true }) :=
  next_congr (next_of_live (exec_cdrLock hn) hl) (if_pos h)

theorem cdrLock_noSignal {s : State} {l : Nat} (hl : live s = true) (hn : l < 544) (h : (laneOf s l).signal = false) :
    exec (.cdrLock l) s = .next s :=
  next_congr (next_of_live (exec_cdrLock hn) hl) (if_neg (by rw [h]; decide))

theorem cdrLossOfLock_signal {s : State} {l : Nat} (h : (laneOf s l).signal = true) :
    cdrLossOfLock s l = laneLost (setLane (bump s (eLaneCdrUnlockCount l)) l
      { laneOf s l with cdrLocked := false, aligned := false, deskewed := false }) l := if_neg (by rw [h]; decide)

theorem cdrLossOfLock_noSignal {s : State} {l : Nat} (h : (laneOf s l).signal = false) : cdrLossOfLock s l = s :=
  if_pos (by rw [h]; rfl)

/-! The margin window (R62, R67). -/

/-- The limit is not among a lane's error counts. -/
theorem rd_marginLimit_bump64 (s : State) (l n : Nat) : rd (bump64 s (eLaneMarginErrorCount l) n) eLaneMarginLimit = rd s eLaneMarginLimit :=
  rd_bumpBy_other 8 s n (by simp only [eLaneMarginLimit, eLaneMarginErrorCount]; omega)

theorem marginWindowEnd_within {s : State} {l n : Nat} (h : n ≤ rd s eLaneMarginLimit ∨ fnState s (eLaneState l) = .fenced) :
    marginWindowEnd s l n = bump64 s (eLaneMarginErrorCount l) n := by
  refine if_neg ?_
  rw [rd_marginLimit_bump64, Bool.and_eq_true, decide_eq_true_iff, decide_eq_true_iff, not_and_or, not_lt, not_not]
  exact h

theorem marginWindowEnd_above {s : State} {l n : Nat} (h : rd s eLaneMarginLimit < n) (hs : fnState s (eLaneState l) ≠ .fenced) :
    marginWindowEnd s l n = raiseFault (laneFence (bump64 s (eLaneMarginErrorCount l) n) l) 2 2 l 0 := by
  refine if_pos ?_
  rw [rd_marginLimit_bump64, Bool.and_eq_true, decide_eq_true_iff, decide_eq_true_iff]
  exact ⟨h, hs⟩

/-! A group's MARKERs (R46). -/

theorem laneOf_sendBlock_active {s : State} {l : Nat} (h : (laneOf s l).txActive = true) (b : BitVec 136) :
    laneOf (sendBlock s l b) l = { laneOf s l with line := levels (blockBits b) } := by
  simp [sendBlock, h]

theorem laneOf_sendBlock_other (s : State) {l m : Nat} (h : m ≠ l) (b : BitVec 136) : laneOf (sendBlock s l b) m = laneOf s m := by
  unfold sendBlock
  dsimp only
  split
  · exact laneOf_setLane_other _ _ h
  · rfl

/-- Blocks on other lanes of a group leave a lane alone. -/
theorem laneOf_foldl_sendBlock_other (g i : Nat) (b : Nat → BitVec 136) {l : List Nat} (h : i ∉ l) (s : State) :
    laneOf (l.foldl (fun s j => sendBlock s (17 * g + j) (b j)) s) (17 * g + i) = laneOf s (17 * g + i) := by
  induction l generalizing s with
  | nil => rfl
  | cons j t ih =>
    obtain ⟨hj, ht⟩ := List.ne_and_not_mem_of_not_mem_cons h
    rw [List.foldl_cons, ih ht, laneOf_sendBlock_other s (by omega)]

/-- Of one block for each lane of a list, a lane of the list shows its own. -/
theorem laneOf_foldl_sendBlock (g i : Nat) (b : Nat → BitVec 136) {l : List Nat} (hd : l.Nodup) (hi : i ∈ l) {s : State}
    (h : (laneOf s (17 * g + i)).txActive = true) :
    laneOf (l.foldl (fun s j => sendBlock s (17 * g + j) (b j)) s) (17 * g + i) =
      { laneOf s (17 * g + i) with line := levels (blockBits (b i)) } := by
  induction l generalizing s with
  | nil => nomatch hi
  | cons j t ih =>
    obtain ⟨hj, ht⟩ := List.nodup_cons.mp hd
    rw [List.foldl_cons]
    rcases List.mem_cons.mp hi with rfl | hi
    · rw [laneOf_foldl_sendBlock_other g i b hj, laneOf_sendBlock_active h]
    · have hne : 17 * g + i ≠ 17 * g + j := fun e => hj (Nat.add_left_cancel e ▸ hi)
      have hs := laneOf_sendBlock_other s hne (b j)
      rw [ih ht hi (by rw [hs]; exact h), hs]

/-- On a lane of the group whose transmitter is on goes the MARKER that names it. -/
theorem laneOf_sendMarkers {s : State} {g i : Nat} (hi : i < 17) (h : (laneOf s (17 * g + i)).txActive = true) :
    laneOf (sendMarkers s g) (17 * g + i) =
      { laneOf s (17 * g + i) with line := levels (blockBits (lcbMake i 0 (markerCarries (lgOf s g) i) (lgOf s g).markerSeq)) } := by
  unfold sendMarkers
  exact laneOf_foldl_sendBlock g i (fun i => lcbMake i 0 (markerCarries (lgOf s g) i) (lgOf s g).markerSeq) List.nodup_range
    (List.mem_range.mpr hi) h

/-- The echo tags stand in the ports (R82). -/
theorem laneOf_echoAdvance (s : State) (p m : Nat) : laneOf (echoAdvance s p) m = laneOf s m := by
  unfold echoAdvance
  dsimp only
  split <;> rfl

theorem laneOf_foldl_echoAdvance (l : List Nat) (s : State) (m : Nat) : laneOf (l.foldl echoAdvance s) m = laneOf s m := by
  induction l generalizing s with
  | nil => rfl
  | cons p t ih => rw [List.foldl_cons, ih, laneOf_echoAdvance]

/-- The group with its next marker number, at the start of a slot. -/
def markerNext (s : State) (g : Nat) : State :=
  setLg s g { lgOf s g with markerSeq := ((lgOf s g).markerSeq + 1) % 2 ^ 16, slotPorts := [], switching := false }

theorem markerSlot_eq (s : State) (g : Nat) : markerSlot s g = (groupPorts g).foldl echoAdvance (sendMarkers (markerNext s g) g) := rfl

theorem laneOf_markerSlot {s : State} {g i : Nat} (hi : i < 17) (h : (laneOf s (17 * g + i)).txActive = true) :
    laneOf (markerSlot s g) (17 * g + i) =
      { laneOf s (17 * g + i) with line := levels (blockBits (lcbMake i 0 (if i = 16 then (lgOf s g).carries.getD 31 else 31)
        (((lgOf s g).markerSeq + 1) % 2 ^ 16))) } := by
  have hl : laneOf (markerNext s g) (17 * g + i) = laneOf s (17 * g + i) := laneOf_setLg _ _ _ _
  rw [markerSlot_eq, laneOf_foldl_echoAdvance, laneOf_sendMarkers hi (by rw [hl]; exact h), hl, markerNext, lgOf_setLg_same]
  rfl

/-- Settles O14: each event by its own case, the MARKERs by the lane that a block goes to. -/
theorem laneSignalsAndLossesTaken : Obligations.LaneSignalsAndLossesTaken := by
  unfold Obligations.LaneSignalsAndLossesTaken
  refine ⟨?events, ?within, ?above, ?markers, ?unpowered, ?cal, ?down⟩
  case events =>
    intro s l hl hn
    refine ⟨next_of_live (exec_signalDetect hn) hl, cdrLock_signal hl hn, fun h => ⟨cdrLock_noSignal hl hn h, ?_⟩,
      next_of_live (exec_lossOfSignal hn) hl, fun h => ?_, next_of_live (exec_markerLoss hn) hl⟩
    · exact next_congr (next_of_live (exec_cdrLossOfLock hn) hl) (cdrLossOfLock_noSignal h)
    · exact next_congr (next_of_live (exec_cdrLossOfLock hn) hl) (cdrLossOfLock_signal h)
  case within =>
    intro s l n hl hn h
    exact next_congr (next_of_live (exec_marginWindowEnd hn n) hl) (marginWindowEnd_within h)
  case above =>
    intro s l n hl hn h hs
    exact ⟨_, next_congr (next_of_live (exec_marginWindowEnd hn n) hl) (marginWindowEnd_above h hs),
      raiseFault_raised _ _ _ _ (by decide)⟩
  case markers =>
    intro s g hd hg u
    have hu : u = markerNext s g := rfl
    rw [hu, ← markerSlot_eq]
    exact ⟨next_congr (exec_markerSlot hg) (if_pos hd), fun i hi h => laneOf_markerSlot hi h⟩
  case unpowered =>
    intro s g hd hg
    exact next_congr (exec_markerSlot hg) (if_neg (by rw [hd]; decide))
  case cal =>
    intro s src g sub v hg h1 h2 ha
    have howner : (decide (1 ≤ sub) && decide (sub ≤ 0x44)) = true := by rw [decide_eq_true h1, decide_eq_true h2]; rfl
    exact next_congr (onUnit_of (decide_eq_true hg) _) (whenWritten_accepted ha howner _)
  case down =>
    intro s l g n b p hd hn hg hp
    simp only [List.forall_mem_cons]
    exact ⟨next_of_notLive (exec_signalDetect hn) hd, next_of_notLive (exec_cdrLock hn) hd, next_of_notLive (exec_lossOfSignal hn) hd,
      next_of_notLive (exec_cdrLossOfLock hn) hd, next_of_notLive (exec_markerLoss hn) hd, next_of_notLive (exec_marginWindowEnd hn n) hd,
      next_of_notLive (exec_markerReceived hn n n b) hd, next_of_notLive (exec_switchReceived hg b) hd,
      next_of_notLive (exec_lossClassify hp) hd, next_of_notLive (exec_quarantineRelease hp) hd, fun _ h => absurd h List.not_mem_nil⟩

end Sys2Proof.Machine
end

section
/-! SUPPORT. What a control block does on its lane (R48, R52, R53): it is turned upright, counted where it is bad, and a MARKER is
stored; and what a SWITCH does to its group (R65 to R67). -/
namespace Sys2Proof.Machine

/-! MARKERs. -/

theorem laneHears_iff (s : State) (l : Nat) : laneHears s l = true ↔ fnState s (eLaneState l) = .starting ∨ fnState s (eLaneState l) = .on := by
  unfold laneHears
  cases fnState s (eLaneState l) <;> decide

section
variable {s : State} {l slot skew : Nat} {raw : BitVec 136}

theorem markerReceived_deaf (h1 : fnState s (eLaneState l) ≠ .starting) (h2 : fnState s (eLaneState l) ≠ .on) :
    markerReceived s l slot skew raw = s := by
  have hh : laneHears s l = false := by
    rw [Bool.eq_false_iff, Ne, laneHears_iff]
    exact fun h => h.elim h1 h2
  exact if_pos (by rw [hh]; rfl)

/-- On a lane that receives, the block decides. -/
theorem markerReceived_heard (h : laneHears s l = true) :
    markerReceived s l slot skew raw =
      if !(lcbSynced (lcbUpright raw) && lcbGood (lcbUpright raw)) then badBlock s l slot
      else if lcbType (lcbUpright raw) = 0 then goodMarker s l slot skew (lcbInverted raw) (lcbUpright raw)
      else if laneIdx l = 16 then switchReceived s (laneGroup l) raw
      else s := if_neg (by rw [h]; decide)

theorem markerReceived_bad (h : laneHears s l = true) (hb : lcbSynced (lcbUpright raw) = false ∨ lcbGood (lcbUpright raw) = false) :
    markerReceived s l slot skew raw = badBlock s l slot := by
  rw [markerReceived_heard h]
  refine if_pos ?_
  rw [Bool.not_eq_true', Bool.and_eq_false_iff]
  exact hb

theorem markerReceived_good (h : laneHears s l = true) (hy : lcbSynced (lcbUpright raw) = true) (hg : lcbGood (lcbUpright raw) = true) :
    markerReceived s l slot skew raw =
      if lcbType (lcbUpright raw) = 0 then goodMarker s l slot skew (lcbInverted raw) (lcbUpright raw)
      else if laneIdx l = 16 then switchReceived s (laneGroup l) raw
      else s := by
  rw [markerReceived_heard h]
  exact if_neg (by rw [hy, hg]; decide)

/-- What a lane notes of a valid MARKER (R48). -/
def markedLane (x : Lane) (slot skew : Nat) (inverted : Bool) (b : BitVec 136) : Lane :=
  { x with inverted := inverted, markerLane := lcbLane b, markerSeq := lcbSeq b, skew := skew, lastMarker := some slot, badBlocks := 0 }

/-- A lane in STARTING enters ON, aligned (R52). -/
def laneAligned (s : State) (l : Nat) (x : Lane) : State := setFnState (setLane s l { x with aligned := true, lost := false }) (eLaneState l) .on

/-- The second MARKER of a lane in STARTING, exactly 1,025 slots after the first. -/
theorem goodMarker_second {inverted : Bool} {b : BitVec 136} (hs : fnState s (eLaneState l) = .starting) (hc : (laneOf s l).cdrLocked = true)
    (hm : (laneOf s l).lastMarker = some slot) :
    goodMarker s l (slot + 1025) skew inverted b =
      deskewGroup (laneAligned s l (markedLane (laneOf s l) (slot + 1025) skew inverted b)) (l / 17) (some (laneOf s l).markerSeq) := by
  have hnone : markersMissed (laneOf s l) (slot + 1025) = 0 := by simp [markersMissed, hm]
  unfold goodMarker
  simp [hnone, hm, hs, hc, laneAligned, markedLane, laneGroup]

/-- A MARKER of an aligned lane in ON: the slots of the grid missed before it are counted (R48). -/
theorem goodMarker_aligned {t : Nat} {inverted : Bool} {b : BitVec 136} (hs : fnState s (eLaneState l) = .on)
    (ha : (laneOf s l).aligned = true) (hm : (laneOf s l).lastMarker = some t) :
    goodMarker s l slot skew inverted b =
      let missed := (slot - t - 1) / 1025 - (laneOf s l).badBlocks
      deskewGroup (setLane (if missed = 0 then s else bumpBy 4 s (eLaneMarkerErrorCount l) missed) l
        (markedLane (laneOf s l) slot skew inverted b)) (l / 17) (some (laneOf s l).markerSeq) := by
  have hmissed : markersMissed (laneOf s l) slot = (slot - t - 1) / 1025 - (laneOf s l).badBlocks := by simp [markersMissed, hm, ha]
  have hon : ∀ x, fnState (setLane (if (slot - t - 1) / 1025 - (laneOf s l).badBlocks = 0 then s
      else bumpBy 4 s (eLaneMarkerErrorCount l) ((slot - t - 1) / 1025 - (laneOf s l).badBlocks)) l x) (eLaneState l) = .on := by
    intro x
    rw [fnState_setLane]
    split
    · exact hs
    · exact hs
  unfold goodMarker
  simp [hmissed, hm, hon, ha, markedLane, laneGroup]

end

/-! SWITCHes. -/

section
variable {s : State} {g : Nat} {raw : BitVec 136}

/-- The block is a good SWITCH. -/
def goodSwitch (raw : BitVec 136) : Bool := lcbSynced (lcbUpright raw) && lcbGood (lcbUpright raw) && decide (lcbType (lcbUpright raw) = 1)

/-- A good SWITCH is counted on the spare, whose polarity is known and whose deskew is over. -/
def switchNoted (s : State) (g : Nat) (raw : BitVec 136) : State :=
  bump (setLane s (spareOf g) { laneOf s (spareOf g) with inverted := lcbInverted raw, deskewed := false }) (eLaneSwitchCount (spareOf g))

/-- A lane that a SWITCH names is idled FENCED for it, unless FENCED already (R67). -/
def fencedForSwitch (s u : State) (l : Nat) : State :=
  if fnState s (eLaneState l) = .fenced then u
  else setLane (laneIdle u l (fnFence (fnOf s (eLaneState l)))) l
    { laneOf (laneIdle u l (fnFence (fnOf s (eLaneState l)))) l with fencedBySwitch := true }

/-- The lane is FENCED only because a SWITCH named it. -/
def fencedOnlyBySwitch (s : State) (l : Nat) : Bool := (laneOf s l).fencedBySwitch && fnState s (eLaneState l) = .fenced

/-- A lane that the switch fenced starts again (R67). -/
def restartedLane (s u : State) (l : Nat) : State := laneStarting (setLane u l { laneOf s l with fencedBySwitch := false }) l {}

theorem switchReceived_bad (h : goodSwitch raw = false) : switchReceived s g raw = bump s (eLaneMarkerErrorCount (spareOf g)) :=
  if_pos (by unfold goodSwitch at h; rw [h]; rfl)

/-- 31 with nothing read, and the numbers between, do nothing more. -/
theorem switchReceived_noted (h : goodSwitch raw = true)
    (hn : lcbCarried (lcbUpright raw) = 31 ∧ (lgOf s g).reads = none ∨ 16 ≤ lcbCarried (lcbUpright raw) ∧ lcbCarried (lcbUpright raw) < 31) :
    switchReceived s g raw = switchNoted s g raw := by
  unfold goodSwitch at h
  unfold switchReceived
  rcases hn with ⟨hn, hr⟩ | ⟨h1, h2⟩
  · simp [h, hn, hr, switchNoted]
  · simp [h, switchNoted, show lcbCarried (lcbUpright raw) ≠ 31 by omega, show ¬ lcbCarried (lcbUpright raw) < 16 by omega]

/-- Naming n below 16: what the spare carries decides (R65, R66). -/
theorem switchReceived_names (h : goodSwitch raw = true) {n : Nat} (hn : lcbCarried (lcbUpright raw) = n) (hlt : n < 16) :
    switchReceived s g raw =
      match (lgOf s g).carries with
      | none => fencedForSwitch s
          (setLg (switchNoted s g raw) g { lgOf s g with reads := some n, carries := some n, switchDue := some n }) (17 * g + n)
      | some j =>
        if j = n then fencedForSwitch s (setLg (switchNoted s g raw) g { lgOf s g with reads := some n }) (17 * g + n)
        else if n < j then
          portFail (fencedForSwitch s (setLg (switchNoted s g raw) g { lgOf s g with reads := some n, carries := some n, switchDue := some n })
            (17 * g + n)) (4 * g + j / 4)
        else switchNoted s g raw := by
  unfold goodSwitch at h
  unfold switchReceived
  rw [if_neg (by rw [h]; decide), hn, if_neg (by omega), if_pos hlt]
  rfl

section
variable {n : Nat} (h : goodSwitch raw = true) (hn : lcbCarried (lcbUpright raw) = n) (hlt : n < 16)
include h hn hlt

theorem switchReceived_takes (hc : (lgOf s g).carries = none) :
    switchReceived s g raw = fencedForSwitch s
      (setLg (switchNoted s g raw) g { lgOf s g with reads := some n, carries := some n, switchDue := some n }) (17 * g + n) := by
  rw [switchReceived_names h hn hlt, hc]

theorem switchReceived_carried (hc : (lgOf s g).carries = some n) :
    switchReceived s g raw = fencedForSwitch s (setLg (switchNoted s g raw) g { lgOf s g with reads := some n }) (17 * g + n) := by
  rw [switchReceived_names h hn hlt]
  simp only [hc, if_true]

theorem switchReceived_displaces {j : Nat} (hc : (lgOf s g).carries = some j) (hj : n < j) :
    switchReceived s g raw = portFail (fencedForSwitch s
      (setLg (switchNoted s g raw) g { lgOf s g with reads := some n, carries := some n, switchDue := some n }) (17 * g + n)) (4 * g + j / 4) := by
  rw [switchReceived_names h hn hlt]
  simp only [hc, if_neg (Nat.ne_of_gt hj), if_pos hj]

theorem switchReceived_yields {j : Nat} (hc : (lgOf s g).carries = some j) (hj : j < n) : switchReceived s g raw = switchNoted s g raw := by
  rw [switchReceived_names h hn hlt]
  simp only [hc, if_neg (Nat.ne_of_lt hj), if_neg (Nat.not_lt.mpr hj.le)]

end

/-- What naming 31 does where the spare reads i: the reading ends, and the position returns or is named again (R67). -/
def switchReturned (v : State) (g i : Nat) : State :=
  let x := lgOf v g
  let back := decide (x.carries = some i) && (fencedOnlyBySwitch v (17 * g + i) || laneOn v (17 * g + i))
  let u := setLg v g { x with
    reads := none, carries := if back then none else x.carries,
    switchDue := if back then some 31 else if x.carries = some i then some i else x.switchDue }
  if fencedOnlyBySwitch v (17 * g + i) then restartedLane v u (17 * g + i) else u

theorem switchReceived_returns (h : goodSwitch raw = true) (hn : lcbCarried (lcbUpright raw) = 31) {i : Nat} (hr : (lgOf s g).reads = some i) :
    switchReceived s g raw = switchReturned (switchNoted s g raw) g i := by
  have hr' : (lgOf (switchNoted s g raw) g).reads = some i := hr
  unfold goodSwitch at h
  unfold switchReceived
  rw [if_neg (by rw [h]; decide), hn, if_pos rfl]
  split
  next hnone => exact nomatch hnone.symm.trans hr'
  next j hj =>
    obtain rfl := Option.some.inj (hj.symm.trans hr')
    rfl

/-- The note of a SWITCH on the spare leaves the own lanes of the group as they were. -/
theorem laneOf_switchNoted {i : Nat} (hi : i < 16) : laneOf (switchNoted s g raw) (17 * g + i) = laneOf s (17 * g + i) :=
  laneOf_setLane_other _ _ (by unfold spareOf; omega)

section
variable {i : Nat} (hi : i < 16)
include hi

theorem fencedOnlyBySwitch_switchNoted : fencedOnlyBySwitch (switchNoted s g raw) (17 * g + i) = fencedOnlyBySwitch s (17 * g + i) := by
  unfold fencedOnlyBySwitch
  rw [laneOf_switchNoted hi]
  rfl

theorem restartedLane_switchNoted (u : State) :
    restartedLane (switchNoted s g raw) u (17 * g + i) = restartedLane s u (17 * g + i) := by
  unfold restartedLane
  rw [laneOf_switchNoted hi]

/-- The carried position returns at once where its lane was fenced by the switch, which starts it again. -/
theorem switchReturned_fenced (hc : (lgOf s g).carries = some i) (hf : fencedOnlyBySwitch s (17 * g + i) = true) :
    switchReturned (switchNoted s g raw) g i = restartedLane s
      (setLg (switchNoted s g raw) g { lgOf s g with reads := none, carries := none, switchDue := some 31 }) (17 * g + i) := by
  have hx : lgOf (switchNoted s g raw) g = lgOf s g := rfl
  simp [switchReturned, fencedOnlyBySwitch_switchNoted hi, restartedLane_switchNoted hi, hx, hc, hf]

/-- The carried position returns at once where its lane is ON. -/
theorem switchReturned_on (hc : (lgOf s g).carries = some i) (ho : laneOn s (17 * g + i) = true) :
    switchReturned (switchNoted s g raw) g i =
      setLg (switchNoted s g raw) g { lgOf s g with reads := none, carries := none, switchDue := some 31 } := by
  have hx : lgOf (switchNoted s g raw) g = lgOf s g := rfl
  have ho' : laneOn (switchNoted s g raw) (17 * g + i) = true := ho
  have hf : fencedOnlyBySwitch s (17 * g + i) = false := by
    have hon := of_decide_eq_true ho
    simp [fencedOnlyBySwitch, hon]
  simp [switchReturned, fencedOnlyBySwitch_switchNoted hi, hx, hc, hf, ho']

/-- Else the carried position is named again. -/
theorem switchReturned_again (hc : (lgOf s g).carries = some i) (hf : fencedOnlyBySwitch s (17 * g + i) = false)
    (ho : laneOn s (17 * g + i) = false) :
    switchReturned (switchNoted s g raw) g i = setLg (switchNoted s g raw) g { lgOf s g with reads := none, switchDue := some i } := by
  have hx : lgOf (switchNoted s g raw) g = lgOf s g := rfl
  have ho' : laneOn (switchNoted s g raw) (17 * g + i) = false := ho
  simp [switchReturned, fencedOnlyBySwitch_switchNoted hi, hx, hc, hf, ho']

/-- Where the spare carries something else, the reading ends. -/
theorem switchReturned_other (hc : (lgOf s g).carries ≠ some i) :
    switchReturned (switchNoted s g raw) g i =
      if fencedOnlyBySwitch s (17 * g + i) then
        restartedLane s (setLg (switchNoted s g raw) g { lgOf s g with reads := none }) (17 * g + i)
      else setLg (switchNoted s g raw) g { lgOf s g with reads := none } := by
  have hx : lgOf (switchNoted s g raw) g = lgOf s g := rfl
  simp [switchReturned, fencedOnlyBySwitch_switchNoted hi, restartedLane_switchNoted hi, hx, hc]

end

theorem fencedOnlyBySwitch_iff (s : State) (l : Nat) :
    fencedOnlyBySwitch s l = true ↔ (laneOf s l).fencedBySwitch = true ∧ fnState s (eLaneState l) = .fenced := by
  unfold fencedOnlyBySwitch
  rw [Bool.and_eq_true, decide_eq_true_iff]

end

/-- Settles O15: each block by what its lane and its bits say, each SWITCH by the number that it names. -/
theorem markersAlignLanes : Obligations.MarkersAlignLanes := by
  unfold Obligations.MarkersAlignLanes
  refine ⟨?deaf, ?bad, fun raw => rfl, ?second, ?aligned, ?switch⟩
  case deaf =>
    intro s l slot skew raw hl hn h1 h2
    exact next_congr (next_of_live (exec_markerReceived hn slot skew raw) hl) (markerReceived_deaf h1 h2)
  case bad =>
    intro s l slot skew raw b hl hn hs hb
    subst hb
    have hx := next_of_live (exec_markerReceived hn slot skew raw) hl
    have hh := (laneHears_iff s l).mpr hs
    refine ⟨fun h => next_congr hx (markerReceived_bad hh h), fun hy hg ht => ?_⟩
    rw [hx, markerReceived_good hh hy hg, if_neg ht]
    by_cases hsp : l % 17 = 16
    · rw [if_pos hsp, next_of_live (exec_switchReceived (show l / 17 < 32 by omega) raw) hl]
      exact congrArg Host.Outcome.next (if_pos hsp)
    · rw [if_neg hsp]
      exact congrArg Host.Outcome.next (if_neg hsp)
  case second =>
    intro s l slot skew raw b hl hn hs hc hm hb hy hg ht
    subst hb
    have hh := (laneHears_iff s l).mpr (.inl hs)
    refine ⟨_, rfl, laneAligned s l (markedLane (laneOf s l) (slot + 1025) skew (lcbInverted raw) (lcbUpright raw)), ?_, ?_, ?_, ?_, rfl, ?_⟩
    · exact laneOf_setLane_same _ _ _
    · exact fnState_setFn_same _ _ _
    · exact fun m hm => laneOf_setLane_other _ _ hm
    · exact fun a ha => fnOf_setFn_other _ _ ha
    · rw [next_of_live (exec_markerReceived hn (slot + 1025) skew raw) hl, markerReceived_good hh hy hg, if_pos ht, goodMarker_second hs hc hm]
  case aligned =>
    intro s l t slot skew raw b hl hn hs ha hm hb hy hg ht missed
    subst hb
    have hh := (laneHears_iff s l).mpr (.inr hs)
    rw [next_of_live (exec_markerReceived hn slot skew raw) hl, markerReceived_good hh hy hg, if_pos ht, goodMarker_aligned hs ha hm]
    rfl
  case switch =>
    intro s g raw b hl hg hb
    subst hb
    have hx := next_of_live (exec_switchReceived hg raw) hl
    refine ⟨fun h => ?bad, fun h hn => ?noted, fun h hn => ?names, fun i h hn hr hi => ?returns⟩
    case bad => exact next_congr hx (switchReceived_bad h)
    case noted => exact next_congr hx (switchReceived_noted h hn)
    case names =>
      exact ⟨fun hc => next_congr hx (switchReceived_takes h rfl hn hc),
        fun hc => next_congr hx (switchReceived_carried h rfl hn hc),
        fun j hc hj => next_congr hx (switchReceived_displaces h rfl hn hc hj),
        fun j hc hj => next_congr hx (switchReceived_yields h rfl hn hc hj)⟩
    case returns =>
      have hreturns := next_congr hx (switchReceived_returns h hn hr)
      have hfenced := fencedOnlyBySwitch_iff s (17 * g + i)
      refine ⟨fun hc hf => ?_, fun hc ho => ?_, fun hc hf ho => ?_, fun hc hf => ?_, fun hc hf => ?_⟩
      · exact next_congr hreturns (switchReturned_fenced hi hc (hfenced.mpr hf))
      · exact next_congr hreturns (switchReturned_on hi hc ho)
      · exact next_congr hreturns (switchReturned_again hi hc (Bool.eq_false_iff.mpr (hf ∘ hfenced.mp)) ho)
      · exact next_congr hreturns ((switchReturned_other hi hc).trans (if_pos (hfenced.mpr hf)))
      · exact next_congr hreturns ((switchReturned_other hi hc).trans (if_neg (hf ∘ hfenced.mp)))

end Sys2Proof.Machine
end

section
/-! SUPPORT. A frame on a port's lanes is heard there and shows nowhere else (R47), and one whose frame_crc fails (R54, R74). -/
namespace Sys2Proof.Machine

section
variable (s : State) (p : Nat) (b : List Byte)

@[simp] theorem fnState_hearLanes (a : Nat) : fnState (hearLanes s p b) a = fnState s a := by rw [hearLanes_parts]; rfl
@[simp] theorem portOn_hearLanes (q : Nat) : portOn (hearLanes s p b) q = portOn s q := by rw [hearLanes_parts]; rfl
@[simp] theorem portOf_hearLanes (q : Nat) : portOf (hearLanes s p b) q = portOf s q := by rw [hearLanes_parts]; rfl
@[simp] theorem portHears_hearLanes (q : Nat) : portHears (hearLanes s p b) q = portHears s q := by rw [hearLanes_parts]; rfl
@[simp] theorem rd_hearLanes (a : Nat) : rd (hearLanes s p b) a = rd s a := by rw [hearLanes_parts]; rfl

end

section
variable {s : State} {p : Nat}

theorem enterNak_eq {l : Link} (hl : (portOf s p).link = l) :
    enterNak s p = if l.nakState then s else bump (setLink s p { l with nakState := true, nakDue := true }) (eLinkNakSentCount p) := by
  rw [← hl]
  rfl

/-- A frame whose frame_crc fails, once the port's lanes have heard it. -/
theorem crcFailed_hearLanes (b : List Byte) :
    crcFailed (hearLanes s p b) p =
      let u := bump (setPort (hearLanes s p b) p { portOf s p with run := none }) (eLinkCrcErrorCount p)
      if portOn s p then enterNak u p else u := by
  rw [← portOf_hearLanes s p b p, ← portOn_hearLanes s p b p]
  rfl

end

end Sys2Proof.Machine
end

section
/-! SUPPORT. What an ID_FRAME does on a port and on a spare (R54, R57 to R61, R84), how a quarantine is released (R60), how a loss is
classified (R63 to R65), and a written PortExpectedEndpoint (R61). -/
namespace Sys2Proof.Machine

/-! Recording an identity (R54, R103). -/

/-- Identities, byte strings and functions stand, and of the entries only the counters of lost events may move. -/
structure KeepsIdentities (s t : State) : Prop where
  blobs : t.blobs = s.blobs
  fns : t.fns = s.fns
  entries : ∀ a, a ∉ eventCounters → Tab.find t.regs a = Tab.find s.regs a
  recorded : ∀ q, (portOf t q).recorded = (portOf s q).recorded

theorem keepsIdentities_refl (s : State) : KeepsIdentities s s := ⟨rfl, rfl, fun _ _ => rfl, fun _ => rfl⟩

theorem keepsIdentities_trans {s t u : State} (h : KeepsIdentities s t) (k : KeepsIdentities t u) : KeepsIdentities s u :=
  ⟨k.blobs.trans h.blobs, k.fns.trans h.fns, fun a ha => (k.entries a ha).trans (h.entries a ha),
    fun q => (k.recorded q).trans (h.recorded q)⟩

theorem keepsIdentities_raiseEvent (s : State) (code : Nat) (data : List Byte) : KeepsIdentities s (raiseEvent s code data) := by
  obtain ⟨hs, hr⟩ := raiseEvent_eventsOnly s code data
  exact ⟨by rw [hs], by rw [hs], hr, fun q => by rw [hs]; rfl⟩

/-- A port's exclusion from its bond is no part of its identity. -/
theorem keepsIdentities_excluded (s : State) (p : Nat) (x : Bool) : KeepsIdentities s (setPort s p { portOf s p with excluded := x }) := by
  refine ⟨rfl, rfl, fun _ _ => rfl, fun q => ?_⟩
  by_cases h : q = p
  · rw [h, portOf_setPort_same]
  · rw [portOf_setPort_other s _ h]

theorem keepsIdentities_excludedEvent (s : State) (p : Nat) (raised x : Bool) (data : List Byte) :
    KeepsIdentities s (if raised then raiseEvent (setPort s p { portOf s p with excluded := x }) 12 data
      else setPort s p { portOf s p with excluded := x }) := by
  cases raised
  · exact keepsIdentities_excluded s p x
  · exact keepsIdentities_trans (keepsIdentities_excluded s p x) (keepsIdentities_raiseEvent _ _ _)

theorem keepsIdentities_foldl {α : Type} {f : State → α → State} (hf : ∀ s x, KeepsIdentities s (f s x)) (l : List α) (s : State) :
    KeepsIdentities s (l.foldl f s) := by
  induction l generalizing s with
  | nil => exact keepsIdentities_refl s
  | cons x t ih => exact keepsIdentities_trans (hf s x) (ih _)

theorem keepsIdentities_bondEval (s : State) (p : Nat) : KeepsIdentities s (bondEval s p) := by
  unfold bondEval
  split
  · exact keepsIdentities_refl s
  · split
    · exact keepsIdentities_excluded s p false
    · refine keepsIdentities_foldl (fun s q => ?_) _ s
      exact keepsIdentities_excludedEvent s q _ _ _

/-- The identity stands in its entries and with its port (R84). -/
def identityStored (s : State) (p : Nat) (f : BitVec 512) : State :=
  let t := wr (setBlob s (ePortFarIdentity p) (leBytes 64 f.toNat)) (ePortFarPort p) (if idRole f = 0 then idPort (idFarId f) else 0xFF)
  setPort t p { portOf t p with recorded := some f, farOn := decide (idState f = 2) }

/-- It is recorded: another Loaf revision is reported, and an edge port's bond is evaluated again (R58, R103). -/
def identityRecorded (s : State) (p : Nat) (f : BitVec 512) : State :=
  let t := if loafMixed s f then raiseEvent (identityStored s p f) 8 (BitVec.ofNat 8 p :: leBytes 4 (idRevision f)) else identityStored s p f
  if isEdge p then bondEval t p else t

theorem keepsIdentities_recorded (s : State) (p : Nat) (f : BitVec 512) : KeepsIdentities (identityStored s p f) (identityRecorded s p f) := by
  have hm : KeepsIdentities (identityStored s p f) (if loafMixed s f then
      raiseEvent (identityStored s p f) 8 (BitVec.ofNat 8 p :: leBytes 4 (idRevision f)) else identityStored s p f) := by
    split
    · exact keepsIdentities_raiseEvent _ _ _
    · exact keepsIdentities_refl _
  unfold identityRecorded
  dsimp only
  split
  · exact keepsIdentities_trans hm (keepsIdentities_bondEval _ _)
  · exact hm

section
variable {s : State} {p : Nat} {f : BitVec 512}

theorem portOf_identityRecorded : (portOf (identityRecorded s p f) p).recorded = some f := by
  rw [(keepsIdentities_recorded s p f).recorded, identityStored, portOf_setPort_same]

theorem blob_identityRecorded : blob (identityRecorded s p f) (ePortFarIdentity p) = leBytes 64 f.toNat := by
  unfold blob
  rw [(keepsIdentities_recorded s p f).blobs]
  exact blob_setBlob_same s (ePortFarIdentity p) (leBytes 64 f.toNat)

theorem farPort_not_eventCounter (h : p < 128) : ePortFarPort p ∉ eventCounters := by
  simp only [eventCounters, List.mem_cons, List.not_mem_nil, or_false, ePortFarPort, eMdpEventLostCount, eHostEventDropCount]
  omega

theorem rd_identityRecorded (h : p < 128) :
    rd (identityRecorded s p f) (ePortFarPort p) = if idRole f = 0 then idPort (idFarId f) else 0xFF := by
  unfold rd
  rw [(keepsIdentities_recorded s p f).entries _ (farPort_not_eventCounter h)]
  exact rd_wr_same _ _ _

theorem fnOf_identityRecorded (a : Nat) : fnOf (identityRecorded s p f) a = fnOf s a := by
  unfold fnOf
  rw [(keepsIdentities_recorded s p f).fns]
  rfl

theorem fnState_identityRecorded (a : Nat) : fnState (identityRecorded s p f) a = fnState s a := congrArg Fn.state (fnOf_identityRecorded a)

/-- What follows the record, by the state of the port (R57, R60, R61). -/
def identityFollowed (u : State) (p : Nat) (f : BitVec 512) (old : Option (BitVec 512)) : State :=
  match fnState u (ePortState p) with
  | .starting => portCheck u p
  | .quarantined => portRecheck u p
  | .on => if idState f ≠ 2 then portFail u p else if old.map idContent = some (idContent f) then u else recheckOn u p f
  | _ => u

theorem recordIdentity_eq (s : State) (p : Nat) (f : BitVec 512) :
    recordIdentity s p f = identityFollowed (identityRecorded s p f) p f (portOf s p).recorded := rfl

theorem recordIdentity_starting (h : fnState s (ePortState p) = .starting) : recordIdentity s p f = portCheck (identityRecorded s p f) p := by
  rw [recordIdentity_eq, identityFollowed, fnState_identityRecorded, h]

theorem recordIdentity_quarantined (h : fnState s (ePortState p) = .quarantined) :
    recordIdentity s p f = portRecheck (identityRecorded s p f) p := by
  rw [recordIdentity_eq, identityFollowed, fnState_identityRecorded, h]

theorem recordIdentity_farOff (h : fnState s (ePortState p) = .on) (hf : idState f ≠ 2) :
    recordIdentity s p f = portFail (identityRecorded s p f) p := by
  rw [recordIdentity_eq, identityFollowed, fnState_identityRecorded, h]
  exact if_pos hf

theorem recordIdentity_same (h : fnState s (ePortState p) = .on) (hf : idState f = 2)
    (hc : (portOf s p).recorded.map idContent = some (idContent f)) : recordIdentity s p f = identityRecorded s p f := by
  rw [recordIdentity_eq, identityFollowed, fnState_identityRecorded, h]
  exact (if_neg (not_not.mpr hf)).trans (if_pos hc)

end

/-! An ID_FRAME on a port's lanes (R54, R84). -/

section
variable {s : State} {p : Nat} {f : BitVec 512} {t : BitVec 32}

theorem exec_idFrameReceived (hl : live s = true) (hp : p < 128) (onSpare : Bool) :
    exec (.idFrameReceived p onSpare f t) s = .next (idFrameReceived (idHeard s p onSpare f t) p onSpare f t) :=
  next_of_live (f := fun s => idFrameReceived (idHeard s p onSpare f t) p onSpare f t) (onUnit_of (decide_eq_true hp) _) hl

theorem idFrameReceived_deaf (h : portHears s p = false) : idFrameReceived s p false f t = s := by simp [idFrameReceived, h]

theorem idFrameReceived_crc (h : portHears s p = true) (hk : frameOk f t = false) : idFrameReceived s p false f t = crcFailed s p := by
  simp [idFrameReceived, h, hk]

theorem idFrameReceived_good (h : portHears s p = true) (hk : frameOk f t = true) :
    idFrameReceived s p false f t = if trLink t then idOnPort s p f else s := by simp [idFrameReceived, h, hk]

section
variable {q : Port} (hq : portOf s p = q)
include hq

theorem idOnPort_unrecordable (hr : idRecordable f = false) :
    idOnPort s p f = bump (setPort s p { q with run := none }) (eLinkUnknownFrameCount p) := by
  subst hq
  exact if_pos (by rw [hr]; rfl)

/-- A frame that can be recorded extends or begins a run, records at the fourth alike, and shows its link state to a port in ON (R54). -/
theorem idOnPort_runs (hr : idRecordable f = true) (hs : fnState s (ePortState p) ≠ .stopping) :
    idOnPort s p f =
      let u := setPort s p { q with run := some (runNext q.run f) }
      let w := if (runNext q.run f).2 = 4 then recordIdentity u p f else u
      if portOn w p && (portOf w p).farOn && decide (idState f = 2) then applyLinkState w p f else w := by
  subst hq
  exact (if_neg (by rw [hr]; decide)).trans (if_neg hs)

theorem idOnPort_fourth (hr : idRecordable f = true) (hs : fnState s (ePortState p) ≠ .stopping) (h4 : (runNext q.run f).2 = 4) :
    idOnPort s p f =
      let w := recordIdentity (setPort s p { q with run := some (runNext q.run f) }) p f
      if portOn w p && (portOf w p).farOn && decide (idState f = 2) then applyLinkState w p f else w := by
  rw [idOnPort_runs hq hr hs]
  simp only [if_pos h4]

theorem idOnPort_run (hr : idRecordable f = true) (hs : fnState s (ePortState p) ≠ .stopping) (h4 : (runNext q.run f).2 ≠ 4) :
    idOnPort s p f =
      let u := setPort s p { q with run := some (runNext q.run f) }
      if portOn s p && q.farOn && decide (idState f = 2) then applyLinkState u p f else u := by
  rw [idOnPort_runs hq hr hs]
  simp only [if_neg h4, portOf_setPort_same]
  rfl

end

theorem idOnPort_stopping (hr : idRecordable f = true) (hs : fnState s (ePortState p) = .stopping) : idOnPort s p f = s :=
  (if_neg (by rw [hr]; decide)).trans (if_pos hs)

/-! An ID_FRAME on a spare (R54, log entry 119). -/

theorem idFrameReceived_spareRead (h : (lgOf s (p / 4)).reads ≠ none) : idFrameReceived s p true f t = s := by
  simp [idFrameReceived, h]

theorem idFrameReceived_spare (h : (lgOf s (p / 4)).reads = none) :
    idFrameReceived s p true f t = idOnSpare s p f (frameOk f t && trLink t) := by simp [idFrameReceived, h]

theorem idOnSpare_bad : idOnSpare s p f false = setLg s (p / 4) { lgOf s (p / 4) with spareRun := none } := rfl

theorem idOnSpare_unrecordable (hr : idRecordable f = false) :
    idOnSpare s p f true = bump (setLg s (p / 4) { lgOf s (p / 4) with spareRun := none }) (eLinkUnknownFrameCount p) :=
  if_pos (by rw [hr]; rfl)

theorem idOnSpare_runs (hr : idRecordable f = true) :
    idOnSpare s p f true = setLg s (p / 4) { lgOf s (p / 4) with
      spareRun := some (runNext (lgOf s (p / 4)).spareRun f),
      spareIdent := if (runNext (lgOf s (p / 4)).spareRun f).2 = 4 then some (runNext (lgOf s (p / 4)).spareRun f).1
        else (lgOf s (p / 4)).spareIdent } := if_neg (by rw [hr]; decide)

end

/-! The end of a quarantine and of a lost position (R60, R63, R65), and the expected endpoint (R61). -/

section
variable {s : State} {p : Nat}

theorem allServingLost_iff (s : State) (p : Nat) : allServingLost s p = true ↔ ∀ j, j < 4 → (laneOf s (servingLane s p j)).los = true := by
  simp [allServingLost]

theorem quarantineRelease_lost (hl : live s = true) (hp : p < 128) (hq : fnState s (ePortState p) = .quarantined)
    (h : ∀ j, j < 4 → (laneOf s (servingLane s p j)).los = true) : exec (.quarantineRelease p) s = .next (portRelease s p) :=
  (next_of_live (exec_quarantineRelease hp) hl).trans
    (congrArg Host.Outcome.next (if_pos (by rw [hq, (allServingLost_iff s p).mpr h]; rfl)))

theorem quarantineRelease_kept (hl : live s = true) (hp : p < 128)
    (h : fnState s (ePortState p) ≠ .quarantined ∨ ∃ j, j < 4 ∧ (laneOf s (servingLane s p j)).los = false) :
    exec (.quarantineRelease p) s = .next s := by
  refine next_congr (next_of_live (exec_quarantineRelease hp) hl) (if_neg ?_)
  rw [Bool.and_eq_true, decide_eq_true_iff, allServingLost_iff]
  rintro ⟨hq, hlos⟩
  rcases h with h | ⟨j, hj, h⟩
  · exact h hq
  · exact Bool.eq_false_iff.mp h (hlos j hj)

/-- The state in which a loss is classified. -/
def lossTaken (s : State) (p : Nat) : State := setPort s p { portOf s p with lossPending := false }

theorem lossClassify_elsewhere (h : portOn s p = false ∨ (portOf s p).lossPending = false) : lossClassify s p = s := by
  refine if_pos ?_
  simpa using h

section
variable (ho : portOn s p = true) (hp : (portOf s p).lossPending = true)
include ho hp

theorem lossClassify_pending :
    lossClassify s p = match lostPositions (lossTaken s p) p with
      | [] => lossTaken s p
      | [j] => if spareAvailable (lossTaken s p) (p / 4) p then substituteSpare (lossTaken s p) (p / 4) (posIdx p j)
        else portFail (lossTaken s p) p
      | _ => portFail (lossTaken s p) p := by
  unfold lossClassify
  exact if_neg (by rw [ho, hp]; decide)

theorem lossClassify_none (h : lostPositions (lossTaken s p) p = []) : lossClassify s p = lossTaken s p := by
  rw [lossClassify_pending ho hp, h]

theorem lossClassify_substituted {j : Nat} (h : lostPositions (lossTaken s p) p = [j]) (ha : spareAvailable (lossTaken s p) (p / 4) p = true) :
    lossClassify s p = substituteSpare (lossTaken s p) (p / 4) (posIdx p j) := by
  rw [lossClassify_pending ho hp, h]
  exact if_pos ha

theorem lossClassify_fails (h : (∃ j, lostPositions (lossTaken s p) p = [j] ∧ spareAvailable (lossTaken s p) (p / 4) p = false) ∨
    2 ≤ (lostPositions (lossTaken s p) p).length) : lossClassify s p = portFail (lossTaken s p) p := by
  rw [lossClassify_pending ho hp]
  rcases h with ⟨j, hj, ha⟩ | h
  · rw [hj]
    exact if_neg (by rw [ha]; decide)
  · match lostPositions (lossTaken s p) p, h with
    | _ :: _ :: _, _ => rfl

end

theorem fnState_writeReg (s : State) (a v b : Nat) : fnState (writeReg s a v) b = fnState s b := by
  obtain ⟨w, hw⟩ := writeReg_shape s a v
  rw [hw]
  rfl

theorem exec_portExpectedEndpointWrite (hp : p < 128) (src : Source) (v : BitVec 64) :
    exec (.portExpectedEndpointWrite src p v) s = .next (whenWritten s src (ePortExpectedEndpoint p) (leBytes 8 v.toNat) (isEdge p)
      fun s => expectedEndpointApply s p v.toNat) := onUnit_of (decide_eq_true hp) _

theorem expectedEndpointApply_starting (h : fnState s (ePortState p) = .starting) (v : Nat) :
    expectedEndpointApply s p v = writeReg s (ePortExpectedEndpoint p) v := if_pos (by rw [fnState_writeReg]; exact h)

theorem expectedEndpointApply_checks (h : fnState s (ePortState p) ≠ .starting) (v : Nat) :
    expectedEndpointApply s p v = portRecheck (writeReg s (ePortExpectedEndpoint p) v) p := if_neg (by rw [fnState_writeReg]; exact h)

end

/-- Settles O16: a frame by what its port or spare may take of it, a loss by the positions that are lost. -/
theorem portIdentityRulesHold : Obligations.PortIdentityRulesHold := by
  unfold Obligations.PortIdentityRulesHold
  refine ⟨?port, ?record, ?spare, ?release, ?classify, ?notPending, ?written, ?refused⟩
  case port =>
    intro s p f t hl hp h r u
    have hx := exec_idFrameReceived (f := f) (t := t) hl hp false
    have hears : portHears h p = portHears s p := portHears_hearLanes _ _ _ _
    have hs : fnState h (ePortState p) = fnState s (ePortState p) := fnState_hearLanes _ _ _ _
    have hq : portOf h p = portOf s p := portOf_hearLanes _ _ _ _
    have hon : portOn h p = portOn s p := portOn_hearLanes _ _ _ _
    rw [← hears, ← hs]
    refine ⟨fun hd => ?_, fun hd hk => ?_, fun hd hk ht hr => ?_, fun hd hk hr => ?_, fun hd hs hk ht hr => ?_⟩
    · exact next_congr hx (idFrameReceived_deaf hd)
    · exact next_congr hx ((idFrameReceived_crc hd hk).trans (crcFailed_hearLanes _))
    · exact next_congr hx ((idFrameReceived_good hd hk).trans ((if_pos ht).trans (idOnPort_unrecordable hq hr)))
    · refine next_congr hx ((idFrameReceived_good hd hk).trans ?_)
      rcases hr with ht | ⟨hr, hs⟩
      · exact if_neg (by rw [ht]; decide)
      · rw [idOnPort_stopping hr hs, ite_self]
    · have hport := next_congr hx ((idFrameReceived_good hd hk).trans (if_pos ht))
      refine ⟨fun ho h4 => ?_, fun h4 => ?_, fun ho h4 => ?_⟩
      · rw [hport, idOnPort_run hq hr hs h4, hon, ho]
        rfl
      · exact next_congr hport (idOnPort_fourth hq hr hs h4)
      · rw [hport, idOnPort_run hq hr hs h4, hon, ho]
        rfl
  case record =>
    intro s p f hp
    exact ⟨identityRecorded s p f, portOf_identityRecorded, blob_identityRecorded, rd_identityRecorded hp, fnOf_identityRecorded,
      recordIdentity_starting, recordIdentity_quarantined, recordIdentity_farOff, recordIdentity_same⟩
  case spare =>
    intro s p f t hl hp h x
    have hx := exec_idFrameReceived (f := f) (t := t) hl hp true
    have hg : lgOf h (p / 4) = x := rfl
    rw [← hg]
    refine ⟨fun hr => ?_, fun hr hk ht hi => ?_, fun hr hk ht hi => ?_, fun hr hk => ?_⟩
    · exact next_congr hx (idFrameReceived_spareRead hr)
    · refine next_congr hx ((idFrameReceived_spare hr).trans ?_)
      rw [hk, ht]
      exact idOnSpare_runs hi
    · refine next_congr hx ((idFrameReceived_spare hr).trans ?_)
      rw [hk, ht]
      exact idOnSpare_unrecordable hi
    · refine next_congr hx ((idFrameReceived_spare hr).trans ?_)
      rw [Bool.and_eq_false_iff.mpr hk]
      exact idOnSpare_bad
  case release => exact fun s p hl hp => ⟨quarantineRelease_lost hl hp, quarantineRelease_kept hl hp⟩
  case classify =>
    intro s p hl hp ho hpend u
    have hx := next_of_live (exec_lossClassify hp) hl
    exact ⟨fun h => next_congr hx (lossClassify_none ho hpend h),
      fun j h ha => next_congr hx (lossClassify_substituted ho hpend h ha),
      fun h => next_congr hx (lossClassify_fails ho hpend h)⟩
  case notPending =>
    intro s p hl hp h
    exact next_congr (next_of_live (exec_lossClassify hp) hl) (lossClassify_elsewhere h)
  case written =>
    intro s src p v hp ha
    have hx := (exec_portExpectedEndpointWrite (show p < 128 by omega) src v).trans
      (congrArg Host.Outcome.next (whenWritten_accepted ha (decide_eq_true hp) _))
    exact ⟨fun h => next_congr hx (expectedEndpointApply_starting h _),
      fun h => next_congr hx (expectedEndpointApply_checks h _)⟩
  case refused =>
    intro s src p v hp h
    refine next_congr (exec_portExpectedEndpointWrite hp src v) ?_
    rcases h with htrunk | ha
    · exact whenWritten_owner (decide_eq_false (by omega)) _
    · exact whenWritten_refused ha _

end Sys2Proof.Machine
end

section
/-! SUPPORT. What a PKT frame does on a port (R59, R71, R72, R74, R79), what the retry timer does (R76, R77), and how the round trip is
fixed (R82). -/
namespace Sys2Proof.Machine

/-! A PKT frame by the state of its port (R59, Table 04.9). -/

section
variable {s : State} {p : Nat} {f : BitVec 512} {t : BitVec 32}

theorem exec_pktFrameReceived (hl : live s = true) (hp : p < 128) :
    exec (.pktFrameReceived p f t) s = .next (pktFrameReceived (hearLanes s p (frameBytes f t)) p f t) :=
  next_of_live (f := fun s => pktFrameReceived (hearLanes s p (frameBytes f t)) p f t) (onUnit_of (decide_eq_true hp) _) hl

theorem pktFrameReceived_closed (h : fnState s (ePortState p) = .off ∨ fnState s (ePortState p) = .fenced) : pktFrameReceived s p f t = s := by
  unfold pktFrameReceived
  rcases h with h | h <;> rw [h]

theorem pktFrameReceived_crc (h1 : fnState s (ePortState p) ≠ .off) (h2 : fnState s (ePortState p) ≠ .fenced) (hk : frameOk f t = false) :
    pktFrameReceived s p f t = crcFailed s p := by
  unfold pktFrameReceived
  split
  · contradiction
  · contradiction
  · exact if_pos (by rw [hk]; rfl)

theorem pktFrameReceived_link (h1 : fnState s (ePortState p) ≠ .off) (h2 : fnState s (ePortState p) ≠ .fenced) (hk : frameOk f t = true)
    (ht : trLink t = true) : pktFrameReceived s p f t = s := by
  unfold pktFrameReceived
  split
  · contradiction
  · contradiction
  · exact (if_neg (by rw [hk]; decide)).trans (if_pos ht)

theorem pktFrameReceived_quarantined (h : fnState s (ePortState p) = .quarantined) (hk : frameOk f t = true) (ht : trLink t = false) :
    pktFrameReceived s p f t = bump s (ePortQuarantineDropCount p) := by simp [pktFrameReceived, h, hk, ht]

theorem pktFrameReceived_framing (h : fnState s (ePortState p) = .starting ∨ fnState s (ePortState p) = .stopping) (hk : frameOk f t = true)
    (ht : trLink t = false) : pktFrameReceived s p f t = bump s (eLinkFramingErrorCount p) := by
  rcases h with h | h <;> simp [pktFrameReceived, h, hk, ht]

theorem pktFrameReceived_on (h : fnState s (ePortState p) = .on) (hk : frameOk f t = true) (ht : trLink t = false) :
    pktFrameReceived s p f t = pktOn s p f t := by simp [pktFrameReceived, h, hk, ht]

/-! A PKT frame on a port in ON, by its number (R74, R79). -/

variable {l : Link} (hl : (portOf s p).link = l)
include hl

/-- The number expected has no distance from itself. -/
theorem pktOn_expected (hd : trSeq t = l.expected) :
    pktOn s p f t =
      if rd s (ePortCreditGrant p (trVc t)) ≤ Tab.getD l.farUsed (trVc t) 0 then linkError s p
      else feedPacket (setLink s p { l with
        expected := (l.expected + 1) % 1024, nakState := false, lastAccepted := some (trSeq t), stateDue := true,
        sinceState := if l.stateDue then l.sinceState else 0,
        farUsed := Tab.set l.farUsed (trVc t) (Tab.getD l.farUsed (trVc t) 0 + 1) }) p (trVc t) (trSop t) f := by
  subst hl
  exact if_pos (by rw [hd]; omega)

theorem pktOn_ahead (h1 : 1 ≤ (trSeq t + 1024 - l.expected) % 1024) (h2 : (trSeq t + 1024 - l.expected) % 1024 ≤ 511) :
    pktOn s p f t = enterNak s p := by
  subst hl
  exact (if_neg (by omega)).trans (if_pos h2)

theorem pktOn_duplicate (h : 512 ≤ (trSeq t + 1024 - l.expected) % 1024) : pktOn s p f t = bump s (eLinkDuplicateCount p) := by
  subst hl
  exact (if_neg (by omega)).trans (if_neg (by omega))

end

/-! The retry timer and the round trip (R76, R77, R82). -/

section
variable {s : State} {p : Nat}

theorem exec_retryTimerExpiry (hl : live s = true) (hp : p < 128) : exec (.retryTimerExpiry p) s = .next (retryTimerExpiry s p) :=
  next_of_live (f := fun s => retryTimerExpiry s p) (onUnit_of (decide_eq_true hp) _) hl

theorem exec_roundTripFixed (hl : live s = true) (hp : p < 128) : exec (.roundTripFixed p) s = .next (roundTripFixed s p) :=
  next_of_live (f := fun s => roundTripFixed s p) (onUnit_of (decide_eq_true hp) _) hl

theorem retryTimerExpiry_due (ho : portOn s p = true) (hr : (portOf s p).link.retry ≠ [])
    (ht : (portOf s p).link.t0 + 560 * ((portOf s p).link.k + 1) ≤ fcNow s) :
    retryTimerExpiry s p =
      let u := bump (setLink s p { (portOf s p).link with k := (portOf s p).link.k + 1 }) (eLinkTimerExpiryCount p)
      if 7 ≤ (portOf s p).link.k then portFail (bump u (ePortRetryExhaustCount p)) p else startReplay u p := by
  refine (if_neg ?_).trans (if_congr Nat.succ_le_succ_iff rfl rfl)
  simp [ho, hr, ht]

theorem retryTimerExpiry_early (h : portOn s p = false ∨ (portOf s p).link.retry = [] ∨
    fcNow s < (portOf s p).link.t0 + 560 * ((portOf s p).link.k + 1)) : retryTimerExpiry s p = s := by
  refine if_pos ?_
  simpa [or_assoc] using h

/-- A replay that stands at the oldest frame is the same replay. -/
theorem startReplay_eq (hr : (portOf s p).link.retry ≠ []) :
    startReplay s p = if (portOf s p).link.replay = some 0 then s
      else bump (setLink s p { (portOf s p).link with replay := some 0 }) (eLinkReplayCount p) := by
  simp [startReplay, hr]

/-- The round trip that the samples give (R82, log entry 120). -/
def roundTripOf (largest : Option Nat) : Nat := match largest with | some x => min 65528 ((x + 7) / 8 * 8) | none => 1680

theorem roundTripFixed_once (ho : portOn s p = true) (hf : (portOf s p).echo.fixed = false) :
    roundTripFixed s p = wr (setPort s p { portOf s p with echo := { (portOf s p).echo with fixed := true } }) (ePortRoundTrip p)
      (roundTripOf (portOf s p).echo.largest) := by
  unfold roundTripFixed roundTripOf
  rw [if_neg (by rw [ho, hf]; decide)]
  dsimp only
  cases (portOf s p).echo.largest <;> rfl

theorem roundTripFixed_done (h : portOn s p = false ∨ (portOf s p).echo.fixed = true) : roundTripFixed s p = s := by
  refine if_pos ?_
  simpa using h

end

/-- Settles O17: a frame by the state of its port and its distance from the number expected, the timer by its time. -/
theorem pktFramesAcceptedInSequence : Obligations.PktFramesAcceptedInSequence := by
  unfold Obligations.PktFramesAcceptedInSequence
  refine ⟨?frame, ?due, ?early, fun s p hr => startReplay_eq hr, ?fixed, ?done⟩
  case frame =>
    intro s p f t hl hp h
    have hx := exec_pktFrameReceived (f := f) (t := t) hl hp
    have hs : fnState h (ePortState p) = fnState s (ePortState p) := fnState_hearLanes _ _ _ _
    have hlink : (portOf h p).link = (portOf s p).link := congrArg Port.link (portOf_hearLanes _ _ _ _)
    have hgrant : rd h (ePortCreditGrant p (trVc t)) = rd s (ePortCreditGrant p (trVc t)) := rd_hearLanes _ _ _ _
    rw [← hs, ← hgrant]
    refine ⟨fun hc => ?_, fun h1 h2 => ⟨fun hk ht => ?_, fun hk => ?_⟩, fun hq hk ht => ?_, fun hq hk ht => ?_, fun ho hk ht => ?_⟩
    · exact next_congr hx (pktFrameReceived_closed hc)
    · exact next_congr hx (pktFrameReceived_link h1 h2 hk ht)
    · exact next_congr hx ((pktFrameReceived_crc h1 h2 hk).trans (crcFailed_hearLanes _))
    · exact next_congr hx (pktFrameReceived_quarantined hq hk ht)
    · exact next_congr hx (pktFrameReceived_framing hq hk ht)
    · have hon := next_congr hx (pktFrameReceived_on ho hk ht)
      refine ⟨fun hd _ hc => ?_, fun hd _ hc => ?_, fun h1 h2 => ?_, fun hd => ?_⟩
      · exact next_congr hon ((pktOn_expected hlink hd).trans (if_neg (Nat.not_le.mpr hc)))
      · exact next_congr hon ((pktOn_expected hlink hd).trans (if_pos hc))
      · exact next_congr hon ((pktOn_ahead hlink h1 h2).trans (enterNak_eq hlink))
      · exact next_congr hon (pktOn_duplicate hlink hd)
  case due =>
    intro s p hl hp ho hr ht
    exact next_congr (exec_retryTimerExpiry hl hp) (retryTimerExpiry_due ho hr ht)
  case early =>
    intro s p hl hp h
    exact next_congr (exec_retryTimerExpiry hl hp) (retryTimerExpiry_early h)
  case fixed =>
    intro s p hl hp ho hf
    exact next_congr (exec_roundTripFixed hl hp) (roundTripFixed_once ho hf)
  case done =>
    intro s p hl hp h
    exact next_congr (exec_roundTripFixed hl hp) (roundTripFixed_done h)

end Sys2Proof.Machine
end

section
/-! SUPPORT. What a frame slot does (R46, R73, R75, R154): the spare's part of it (R52, R54, R65), whether the port sends, and which
frame it chooses. -/
namespace Sys2Proof.Machine

/-! The spare's part of a slot (R54, R65, log entry 116). -/

section
variable {s : State} {g p : Nat}

theorem slotBegins_iff (x : LaneGroup) (p : Nat) : slotBegins x p = true ↔ x.slotPorts = [] ∨ p ∈ x.slotPorts ∨ x.switchDue ≠ none := by
  simp [slotBegins, or_assoc, Option.isSome_iff_ne_none]

/-- The group of port p at the start of a slot that a frame of p begins. -/
def gridSlotBegun (s : State) (p : Nat) : State := setLg s (p / 4) { lgOf s (p / 4) with slotPorts := [p], switching := false }

@[simp] theorem lgOf_gridSlotBegun (s : State) (p : Nat) :
    lgOf (gridSlotBegun s p) (p / 4) = { lgOf s (p / 4) with slotPorts := [p], switching := false } := lgOf_setLg_same _ _ _

theorem setLg_gridSlotBegun (s : State) (p : Nat) (x : LaneGroup) : setLg (gridSlotBegun s p) (p / 4) x = setLg s (p / 4) x :=
  setLg_setLg_same _ _ _ _

theorem spareSlot_later (h : slotBegins (lgOf s (p / 4)) p = false) :
    spareSlot s p = setLg s (p / 4) { lgOf s (p / 4) with slotPorts := p :: (lgOf s (p / 4)).slotPorts } := if_neg (by rw [h]; decide)

theorem spareSlot_begins (h : slotBegins (lgOf s (p / 4)) p = true) :
    spareSlot s p =
      if (lgOf s (p / 4)).switchDue.isSome && !s.faults.frozen then sendSwitch (gridSlotBegun s p) (p / 4)
      else if (lgOf s (p / 4)).carries.isNone then spareOwnSlot (gridSlotBegun s p) (p / 4) else gridSlotBegun s p := if_pos h

theorem spareSlot_switch (hd : (lgOf s (p / 4)).switchDue ≠ none) (hf : s.faults.frozen = false) :
    spareSlot s p = sendSwitch (gridSlotBegun s p) (p / 4) := by
  rw [spareSlot_begins ((slotBegins_iff _ _).mpr (.inr (.inr hd))), if_pos (by rw [Option.isSome_iff_ne_none.mpr hd, hf]; rfl)]

theorem spareSlot_noSwitch (h : slotBegins (lgOf s (p / 4)) p = true) (hd : (lgOf s (p / 4)).switchDue = none ∨ s.faults.frozen = true) :
    spareSlot s p =
      if (lgOf s (p / 4)).carries.isNone then spareOwnSlot (gridSlotBegun s p) (p / 4) else gridSlotBegun s p := by
  rw [spareSlot_begins h]
  refine if_neg ?_
  rcases hd with hd | hf
  · simp [hd]
  · simp [hf]

/-- A SWITCH does not go out on a spare whose transmitter is off (R52). -/
theorem sendSwitch_idle (ht : (laneOf s (spareOf g)).txActive = false) : sendSwitch s g = s := by
  unfold sendSwitch
  dsimp only
  split
  · rfl
  · exact if_pos (by rw [ht]; rfl)

theorem sendSwitch_active {n : Nat} (hd : (lgOf s g).switchDue = some n) (ht : (laneOf s (spareOf g)).txActive = true) :
    sendSwitch s g = bump (sendBlock (setLg s g { lgOf s g with
      switchDue := none, lastSwitch := some (lcbMake 16 1 n (lgOf s g).markerSeq), carries := if n = 31 then none else some n,
      switching := true, spareFrame := [] }) (spareOf g) (lcbMake 16 1 n (lgOf s g).markerSeq)) (eLaneSwitchCount (spareOf g)) := by
  unfold sendSwitch
  simp only [hd, ht, Bool.not_true, Bool.false_eq_true, if_false]

theorem spareOwnSlot_idle (ht : (laneOf s (spareOf g)).txActive = false) : spareOwnSlot s g = s := if_pos (by rw [ht]; rfl)

theorem spareOwnSlot_active (ht : (laneOf s (spareOf g)).txActive = true) :
    spareOwnSlot s g =
      let fr := if (lgOf s g).spareFrame = [] then spareIdFrame s g else (lgOf s g).spareFrame
      sendOnLane (setLg s g { lgOf s g with spareFrame := fr.drop 17 }) (spareOf g) (fr.take 17) := by
  refine (if_neg (by rw [ht]; decide)).trans ?_
  cases (lgOf s g).spareFrame <;> rfl

/-- A due SWITCH in the slot that a frame of port p begins. -/
theorem spareSlot_sendsSwitch {n : Nat} (hd : (lgOf s (p / 4)).switchDue = some n) (hf : s.faults.frozen = false)
    (ht : (laneOf s (spareOf (p / 4))).txActive = true) :
    spareSlot s p = bump (sendBlock (setLg s (p / 4) { lgOf s (p / 4) with
      slotPorts := [p], switchDue := none, lastSwitch := some (lcbMake 16 1 n (lgOf s (p / 4)).markerSeq),
      carries := if n = 31 then none else some n, switching := true, spareFrame := [] }) (spareOf (p / 4))
      (lcbMake 16 1 n (lgOf s (p / 4)).markerSeq)) (eLaneSwitchCount (spareOf (p / 4))) := by
  have hd' : (lgOf (gridSlotBegun s p) (p / 4)).switchDue = some n := by rw [lgOf_gridSlotBegun]; exact hd
  rw [spareSlot_switch (by rw [hd]; exact Option.some_ne_none n) hf, sendSwitch_active hd' ht, setLg_gridSlotBegun, lgOf_gridSlotBegun]

/-- The spare's own frame goes on in the slot that a frame of port p begins. -/
theorem spareOwnSlot_gridSlotBegun (ht : (laneOf s (spareOf (p / 4))).txActive = true) :
    spareOwnSlot (gridSlotBegun s p) (p / 4) =
      let fr := if (lgOf s (p / 4)).spareFrame = [] then spareIdFrame (gridSlotBegun s p) (p / 4) else (lgOf s (p / 4)).spareFrame
      sendOnLane (setLg s (p / 4) { lgOf s (p / 4) with slotPorts := [p], switching := false, spareFrame := fr.drop 17 })
        (spareOf (p / 4)) (fr.take 17) := by
  rw [spareOwnSlot_active (s := gridSlotBegun s p) ht]
  dsimp only
  rw [setLg_gridSlotBegun, lgOf_gridSlotBegun]

theorem faults_sendOnLane (s : State) (l : Nat) (b : List Byte) : (sendOnLane s l b).faults = s.faults := by
  obtain ⟨t, ht⟩ := sendOnLane_parts s l b
  rw [ht]

theorem faults_sendSwitch (s : State) (g : Nat) : (sendSwitch s g).faults = s.faults := by
  cases ht : (laneOf s (spareOf g)).txActive with
  | false => rw [sendSwitch_idle ht]
  | true =>
    cases hd : (lgOf s g).switchDue with
    | none => unfold sendSwitch; simp only [hd]
    | some n =>
      rw [sendSwitch_active hd ht]
      obtain ⟨t, hb⟩ := sendBlock_parts (setLg s g { lgOf s g with
        switchDue := none, lastSwitch := some (lcbMake 16 1 n (lgOf s g).markerSeq), carries := if n = 31 then none else some n,
        switching := true, spareFrame := [] }) (spareOf g) (lcbMake 16 1 n (lgOf s g).markerSeq)
      rw [hb]
      rfl

theorem faults_spareOwnSlot (s : State) (g : Nat) : (spareOwnSlot s g).faults = s.faults := by
  cases ht : (laneOf s (spareOf g)).txActive with
  | false => rw [spareOwnSlot_idle ht]
  | true => rw [spareOwnSlot_active ht]; exact faults_sendOnLane _ _ _

/-- The spare's part of a slot raises no fault. -/
theorem faults_spareSlot (s : State) (p : Nat) : (spareSlot s p).faults = s.faults := by
  unfold spareSlot
  dsimp only
  split
  · split
    · exact faults_sendSwitch _ _
    · split
      · exact faults_spareOwnSlot _ _
      · rfl
  · rfl

end

/-! Whether the port sends (R52), and its slot (R366). -/

section
variable {s : State} {p : Nat}

theorem portTransmits_iff (s : State) (p : Nat) :
    portTransmits s p = true ↔ ∃ j, j < 4 ∧ (laneOf s (sendingLane s p j)).txActive = true := by
  simp [portTransmits]

theorem portSends_iff (s : State) (p : Nat) :
    portSends s p = true ↔ (fnState s (ePortState p) ≠ .off ∧ fnState s (ePortState p) ≠ .fenced) ∨ portTransmits s p = true := by
  unfold portSends
  cases fnState s (ePortState p) <;> simp

theorem exec_frameSlot (hp : p < 128) : exec (.frameSlot p) s = .next (if dataUp s then recordsLeft (frameSlot s p) else s) :=
  onUnit_of (decide_eq_true hp) _

theorem frameSlot_silent (h : portSends (spareSlot s p) p = false) : frameSlot s p = spareSlot s p := if_pos (by rw [h]; rfl)

theorem frameSlot_frozen (h : portSends (spareSlot s p) p = true) (hf : s.faults.frozen = true) :
    frameSlot s p = sendFrame (spareSlot s p) p (idFlit (spareSlot s p) p) true 0 false 0 :=
  (if_neg (by rw [h]; decide)).trans (if_pos (by rw [faults_spareSlot]; exact hf))

theorem frameSlot_sends (h : portSends (spareSlot s p) p = true) (hf : s.faults.frozen = false) :
    frameSlot s p =
      let v := onActive (serveHeld (settle (spareSlot s p)) p) p
      shapers (slotSend v p (slotKind v p)) p (slotClass v p (slotKind v p))
        fun c => (portOf v p).queue.any fun o => decide (o.pkt.h.cls.toNat = c) :=
  (if_neg (by rw [h]; decide)).trans (if_neg (by rw [faults_spareSlot, hf]; decide))

theorem idStateCode_frozen (hf : s.faults.frozen = true) : idStateCode s p = 4 := if_pos hf

end

/-! The frame that a port in ON sends (R75, R76, R154, R159). -/

section
variable {s : State} {p : Nat}

theorem slotKind_id (h : portOn s p = false ∨ (portOf s p).farOn = false ∨ idDue s p = true) : slotKind s p = .id := by
  refine if_pos ?_
  simpa [or_assoc] using h

section
variable (ho : portOn s p = true) (hf : (portOf s p).farOn = true) (hd : idDue s p = false)
include ho hf hd

/-- Once no ID_FRAME must go, a replay comes first, then an ID_FRAME on a full retry buffer. -/
theorem slotKind_free :
    slotKind s p =
      if (portOf s p).link.replay.isSome then .replay
      else if 330 ≤ (portOf s p).link.retry.length then .id
      else match (if 0 < (portOf s p).sched.ceiling then ctrlPick s p else none), dataPick s p, chooseClass s p with
        | some i, _, _ => .ctrl i
        | none, some i, _ => .more i
        | none, none, some c => .begin c
        | none, none, none => .id := by
  unfold slotKind
  exact if_neg (by rw [ho, hf, hd]; decide)

theorem slotKind_replay (hr : (portOf s p).link.replay ≠ none) : slotKind s p = .replay := by
  rw [slotKind_free ho hf hd, if_pos (Option.isSome_iff_ne_none.mpr hr)]

variable (hr : (portOf s p).link.replay = none)
include hr

theorem slotKind_full (hn : 330 ≤ (portOf s p).link.retry.length) : slotKind s p = .id := by
  rw [slotKind_free ho hf hd, hr, if_neg (by decide), if_pos hn]

variable (hn : (portOf s p).link.retry.length < 330)
include hn

theorem slotKind_ctrl (hc : 0 < (portOf s p).sched.ceiling) {i : Nat} (hi : ctrlPick s p = some i) : slotKind s p = .ctrl i := by
  rw [slotKind_free ho hf hd, hr, if_neg (by decide), if_neg (by omega), if_pos hc, hi]

/-- Where no CTRL packet goes, the data packet in progress does, else a new one of the chosen class. -/
theorem slotKind_data (hc : (portOf s p).sched.ceiling = 0 ∨ ctrlPick s p = none) :
    slotKind s p = match dataPick s p, chooseClass s p with
      | some i, _ => .more i
      | none, some c => .begin c
      | none, none => .id := by
  have hnone : (if 0 < (portOf s p).sched.ceiling then ctrlPick s p else none) = none := by
    rcases hc with hc | hc
    · exact if_neg (by omega)
    · rw [hc, ite_self]
  rw [slotKind_free ho hf hd, hr, if_neg (by decide), if_neg (by omega), hnone]
  cases dataPick s p <;> cases chooseClass s p <;> rfl

end

end

/-- Settles O18: the spare's part of the slot, then whether the port sends, then the order of the frames. -/
theorem frameSlotSendsWhatIsDue : Obligations.FrameSlotSendsWhatIsDue := by
  unfold Obligations.FrameSlotSendsWhatIsDue
  refine ⟨?slot, ?unpowered, ?sends, ?spare, ?kind⟩
  case slot =>
    intro s p hp hd u
    have hx : exec (.frameSlot p) s = .next (recordsLeft (frameSlot s p)) :=
      next_congr (exec_frameSlot hp) (if_pos hd)
    refine ⟨fun h => ?_, fun h hf => ⟨?_, ?_⟩, fun h hf => ?_⟩
    · rw [hx, frameSlot_silent h]
    · rw [hx, frameSlot_frozen h hf]
    · exact idStateCode_frozen (by rw [faults_spareSlot]; exact hf)
    · rw [hx, frameSlot_sends h hf]
  case unpowered =>
    intro s p hp hd
    exact next_congr (exec_frameSlot hp) (if_neg (by rw [hd]; decide))
  case sends =>
    intro s p
    rw [portSends_iff, portTransmits_iff]
    rfl
  case spare =>
    intro s p g x u begins
    have hb : slotBegins x p = true ↔ begins := slotBegins_iff x p
    refine ⟨fun h => ?_, fun n hn hf ht => ?_, fun hn hf ht => ?_, fun h hn hc => ?_, fun h hn hc ht => ?_, fun h hn hc ht => ?_⟩
    · exact spareSlot_later (Bool.eq_false_iff.mpr (h ∘ hb.mp))
    · exact spareSlot_sendsSwitch hn hf ht
    · rw [spareSlot_switch hn hf]
      exact sendSwitch_idle ht
    · rw [spareSlot_noSwitch (hb.mpr h) hn]
      exact if_neg (by rw [Option.isNone_iff_eq_none]; exact hc)
    · rw [spareSlot_noSwitch (hb.mpr h) hn, if_pos (Option.isNone_iff_eq_none.mpr hc)]
      exact spareOwnSlot_idle ht
    · rw [spareSlot_noSwitch (hb.mpr h) hn, if_pos (Option.isNone_iff_eq_none.mpr hc)]
      exact spareOwnSlot_gridSlotBegun ht
  case kind =>
    intro s p
    refine ⟨slotKind_id, fun ho hf hd => ⟨slotKind_replay ho hf hd, fun hr => ⟨slotKind_full ho hf hd hr, fun hn => ⟨?_, fun hc => ?_⟩⟩⟩⟩
    · exact fun i hc hi => slotKind_ctrl ho hf hd hr hn hc hi
    · have hdata := slotKind_data ho hf hd hr hn hc
      refine ⟨fun i hi => ?_, fun hi => ⟨fun c hk => ?_, fun hk => ?_⟩⟩
      · rw [hdata, hi]
      · rw [hdata, hi, hk]
      · rw [hdata, hi, hk]

end Sys2Proof.Machine
end

section
/-! SUPPORT. The packets that wait for the escape channel (R119), the stall timeout of an input VC (R122), the failover count (R123), and
the requeue of an egress port (R125, R158). -/
namespace Sys2Proof.Machine

/-! How the commands run. -/

section
variable {s : State} {p vc : Nat}

theorem exec_bulkEscapeWait (hp : p < 128 ∨ p = 255) (hv : vc < 8) :
    exec (.bulkEscapeWait p vc) s = .next (whenLive s fun s => bulkEscapeWait s p vc) :=
  onUnit_of (by simp [Instr.wellFormed, hp, hv]) _

theorem exec_escapeProceed (hp : p < 128 ∨ p = 255) (hv : vc < 8) :
    exec (.escapeProceed p vc) s = .next (whenLive s fun s => escapeProceed s p vc) :=
  onUnit_of (by simp [Instr.wellFormed, hp, hv]) _

theorem exec_stallTimeout (hp : p < 128) (hv : vc < 8) :
    exec (.stallTimeout p vc) s = .next (whenLive s fun s => recordsLeft (stallTimeout s p vc)) :=
  onUnit_of (by simp [Instr.wellFormed, hp, hv]) _

theorem exec_localFailover (hp : p < 128) : exec (.localFailover p) s = .next (whenLive s fun s => localFailover s p) :=
  onUnit_of (decide_eq_true hp) _

theorem exec_egressRequeue (hp : p < 128) :
    exec (.egressRequeue p) s = .next (whenLive s fun s => recordsLeft (egressRequeue s p)) :=
  onUnit_of (decide_eq_true hp) _

end

/-! The escape channel (R119). -/

section
variable {s : State} {p vc i : Nat} {w : Waiter}

theorem bulkEscapeWait_held (hh : heldAt s 255 p vc = some i) (hw : s.pools.waiting[i]? = some w) :
    bulkEscapeWait s p vc = toEscape (bump64 (dropWaiter s i) eBulkEscapeCount 1) w := by
  simp only [bulkEscapeWait, hh, hw]

theorem bulkEscapeWait_none (hh : heldAt s 255 p vc = none) : bulkEscapeWait s p vc = s := by
  simp only [bulkEscapeWait, hh]

theorem escapeProceed_held (hh : heldAt s 254 p vc = some i) (hw : s.pools.waiting[i]? = some w) :
    escapeProceed s p vc = toEscape (dropWaiter s i) w := by
  simp only [escapeProceed, hh, hw]

theorem escapeProceed_none (hh : heldAt s 254 p vc = none) : escapeProceed s p vc = s := by
  simp only [escapeProceed, hh]

theorem toEscape_noTables (h : w.slice = none) : toEscape s w = loseRoute s w.out := by
  simp only [toEscape, h]

section
variable {a : SliceActive} (ha : w.slice = some a)
include ha

/-! The tables that a held header passed under choose its escape hop (R113). -/

theorem toEscape_out {q v : Nat} (hop : escapeHop s a w.out.pkt.h w.out.arrival = .out q v) :
    toEscape s w = settle (placeOut s q v 1 w.stamp w.loaf w.out) := by
  simp only [toEscape, ha, hop]

theorem toEscape_hold {m v : Nat} (hop : escapeHop s a w.out.pkt.h w.out.arrival = .hold m v) :
    toEscape s w = holdOut s a m v w.stamp w.out := by
  simp only [toEscape, ha, hop]

theorem toEscape_none (hop : escapeHop s a w.out.pkt.h w.out.arrival = .none) : toEscape s w = settle (loseRoute s w.out) := by
  simp only [toEscape, ha, hop]

end

end

/-! The stall timeout (R93, R122). -/

/-- The packet that a stall timeout drops is counted, and ROUTE_STALL is raised at its port. -/
def stallCounted (s : State) (p : Nat) : State := raiseFault (bump s eStallDropCount) 21 1 p 0

theorem stallCounted_raised (s : State) (p : Nat) : FaultRaised (bump s eStallDropCount) 21 (stallCounted s p) :=
  raiseFault_raised _ _ _ _ (by decide)

section
variable {s : State} {p vc n : Nat}

theorem dropWaiting_first {i : Nat} {w : Waiter} (hi : (s.pools.waiting.findIdx? fun w => atInput p vc w.out && decide (w.out.order = n)) = some i)
    (hw : s.pools.waiting[i]? = some w) : dropWaiting s p vc n = settle (releaseOut (dropWaiter s i) w.out) := by
  simp only [dropWaiting, hi, hw]

/-- The oldest packet of the input VC stands in an output queue. -/
theorem stallTimeout_queued {x : Nat × Nat} (hn : ((stalledQueues s p vc).map (·.1) ++ stalledWaiters s p vc).min? = some n)
    (hx : (stalledQueues s p vc).find? (fun x => decide (x.1 = n)) = some x) :
    stallTimeout s p vc = stallCounted (dropStalled s x.2 p vc n) p := by
  simp only [stallTimeout, hn, hx, stallCounted]

/-- The oldest packet of the input VC waits. -/
theorem stallTimeout_waiting (hn : ((stalledQueues s p vc).map (·.1) ++ stalledWaiters s p vc).min? = some n)
    (hx : (stalledQueues s p vc).find? (fun x => decide (x.1 = n)) = none) :
    stallTimeout s p vc = stallCounted (dropWaiting s p vc n) p := by
  simp only [stallTimeout, hn, hx, stallCounted]

section
variable (hq : stalledQueues s p vc = []) (hw : stalledWaiters s p vc = [])
include hq hw

theorem stallTimeout_arriving {r : RxPacket} (hr : Tab.find (portOf s p).rx vc = some r) :
    stallTimeout s p vc =
      stallCounted (setPort s p { portOf s p with rx := Tab.set (portOf s p).rx vc { r with fate := .drop } }) p := by
  simp [stallTimeout, hq, hw, hr, stallCounted]

theorem stallTimeout_nothing (hr : Tab.find (portOf s p).rx vc = none) : stallTimeout s p vc = s := by
  simp [stallTimeout, hq, hw, hr]

end

/-- A stall timeout that drops a packet is counted and raises ROUTE_STALL. -/
theorem stallTimeout_drops {u : State} (hl : live s = true) (hp : p < 128) (hv : vc < 8) (h : stallTimeout s p vc = stallCounted u p) :
    ∃ t, exec (.stallTimeout p vc) s = .next (recordsLeft t) ∧ FaultRaised (bump u eStallDropCount) 21 t :=
  ⟨stallCounted u p, next_congr (next_of_live (exec_stallTimeout hp hv) hl) (congrArg recordsLeft h), stallCounted_raised u p⟩

end

/-! The failover count (R123). -/

section
variable {s : State} {p : Nat}

/-- The bundle of the trunk port p, which is not in ON, has a port in ON. -/
def failsOver (s : State) (p : Nat) : Prop :=
  104 ≤ p ∧ portOn s p = false ∧ ∃ q ∈ bundlePorts (bundleOf p), portOn s q = true

theorem failsOver_iff : (!isEdge p && !portOn s p && (bundlePorts (bundleOf p)).any (portOn s)) = true ↔ failsOver s p := by
  simp [failsOver, isEdge, and_assoc]

theorem localFailover_counts (h : failsOver s p) : localFailover s p = bump s eLocalFailoverCount := if_pos (failsOver_iff.mpr h)

theorem localFailover_nothing (h : ¬ failsOver s p) : localFailover s p = s := if_neg (h ∘ failsOver_iff.mp)

end

/-! The requeue (R125, R158). -/

section
variable {s : State} {p : Nat} {o : OutPacket}

theorem requeueOne_moves {q : Nat} (h : moveTo s p o.pkt.h = some q) : requeueOne s p o = enqueue s q o := by
  simp only [requeueOne, h]

theorem requeueOne_drops (h : moveTo s p o.pkt.h = none) : requeueOne s p o = bump (releaseOut s o) (eEgressFlushDropCount p) := by
  simp only [requeueOne, h]

end

/-- Settles O21: each command by what it finds, and none of them where the data path is down. -/
theorem escapeStallAndFailoverAct : Obligations.EscapeStallAndFailoverAct := by
  unfold Obligations.EscapeStallAndFailoverAct
  refine ⟨?escapeWait, ?escapeProceed, ?channel, ?noneHeld, ?stall, ?arriving, ?failover, ?noFailover, ?requeue, ?move, ?down⟩
  case escapeWait =>
    intro s p vc i w hl hp hv hh hw
    exact next_congr (next_of_live (exec_bulkEscapeWait hp hv) hl) (bulkEscapeWait_held hh hw)
  case escapeProceed =>
    intro s p vc i w hl hp hv hh hw
    exact next_congr (next_of_live (exec_escapeProceed hp hv) hl) (escapeProceed_held hh hw)
  case channel =>
    intro s w
    exact ⟨toEscape_noTables, fun a ha => ⟨fun q v => toEscape_out ha, fun m v => toEscape_hold ha, toEscape_none ha⟩⟩
  case noneHeld =>
    intro s p vc hp hv
    exact ⟨fun hh => next_congr (exec_bulkEscapeWait hp hv) (whenLive_unchanged (.inr (bulkEscapeWait_none hh))),
      fun hh => next_congr (exec_escapeProceed hp hv) (whenLive_unchanged (.inr (escapeProceed_none hh)))⟩
  case stall =>
    intro s p vc n hl hp hv hn
    refine ⟨fun x hx => stallTimeout_drops hl hp hv (stallTimeout_queued hn hx), fun i w hx hi hw => ?_⟩
    have hdrop : dropWaiting s p vc n = settle (releaseOut (dropWaiter s i) w.out) := dropWaiting_first hi hw
    exact stallTimeout_drops hl hp hv ((stallTimeout_waiting hn hx).trans (congrArg (stallCounted · p) hdrop))
  case arriving =>
    intro s p vc hl hp hv hq hw
    exact ⟨fun r hr => stallTimeout_drops hl hp hv (stallTimeout_arriving hq hw hr),
      fun hr => next_congr (next_of_live (exec_stallTimeout hp hv) hl) (congrArg recordsLeft (stallTimeout_nothing hq hw hr))⟩
  case failover =>
    intro s p hl he hp ho hb
    exact next_congr (next_of_live (exec_localFailover hp) hl) (localFailover_counts ⟨he, ho, hb⟩)
  case noFailover =>
    intro s p hp h
    have hnot : ¬ failsOver s p := by
      rintro ⟨he, ho, q, hq, hon⟩
      rcases h with h | h | h
      · omega
      · rw [ho] at h
        contradiction
      · rw [h q hq] at hon
        contradiction
    exact next_congr (exec_localFailover hp) (whenLive_unchanged (.inr (localFailover_nothing hnot)))
  case requeue =>
    intro s p hl hp queued waits
    exact next_congr (next_of_live (exec_egressRequeue hp) hl) rfl
  case move =>
    intro s p o
    exact ⟨fun q h => requeueOne_moves h, requeueOne_drops⟩
  case down =>
    intro s p vc hl hp hv c hc
    simp only [List.mem_cons, List.not_mem_nil, or_false] at hc
    rcases hc with rfl | rfl | rfl | rfl | rfl
    · exact next_of_notLive (exec_bulkEscapeWait (.inl hp) hv) hl
    · exact next_of_notLive (exec_escapeProceed (.inl hp) hv) hl
    · exact next_of_notLive (exec_stallTimeout hp hv) hl
    · exact next_of_notLive (exec_localFailover hp) hl
    · exact next_of_notLive (exec_egressRequeue hp) hl

end Sys2Proof.Machine
end

section
/-! SUPPORT. Which sizes the torus accepts, and what a commit of them does (R95, R96). -/
namespace Sys2Proof.Machine

/-- R95, read off the check of the sizes. -/
theorem sizesValid_iff {x y z : Nat} :
    sizesValid (x, y, z) = true ↔ 2 ≤ x ∧ x ≤ 32 ∧ 2 ≤ y ∧ y ≤ 32 ∧ 2 ≤ z ∧ z ≤ 32 ∧ x * y * z ≤ 4096 := by
  simp only [sizesValid, Bool.and_eq_true, decide_eq_true_eq, and_assoc]

theorem exec_torusSizeCommit (src : Source) (s : State) : exec (.torusSizeCommit src) s = .next
    (whenWritten s src eTorusSizeCommit [1] (sizesValid (stagedSizes s)) torusSizeCommit) := rfl

/-- New sizes within the bounds are committed and in force (R96). -/
theorem torusSizeCommit_new {s : State} (hv : sizesValid (stagedSizes s) = true) (hne : s.topo.sizes ≠ some (stagedSizes s)) :
    torusSizeCommit s =
      sizesTakeEffect { s with topo := { s.topo with committed := some (stagedSizes s), sizes := some (stagedSizes s) } } := by
  unfold torusSizeCommit
  rw [if_neg]
  simp only [hv, hne, decide_false, Bool.not_true, Bool.or_self, Bool.false_eq_true, not_false_eq_true]

/-- A commit of the sizes already in force has no effect (R96). -/
theorem torusSizeCommit_inForce {s : State} (h : s.topo.sizes = some (stagedSizes s)) : torusSizeCommit s = s := by
  unfold torusSizeCommit
  rw [if_pos]
  rw [decide_eq_true h, Bool.true_or]

/-- The command changes nothing where a check refuses it, where the sizes are out of bounds and where they are in force already. -/
theorem exec_torusSizeCommit_unchanged {s : State} {src : Source} (h : ¬ Accepted s src eTorusSizeCommit [1] ∨
      sizesValid (stagedSizes s) = false ∨ s.topo.sizes = some (stagedSizes s)) :
    exec (.torusSizeCommit src) s = .next s := by
  refine next_congr (exec_torusSizeCommit src s) ?_
  rcases h with hrefused | hbad | hequal
  · exact whenWritten_refused hrefused _
  · exact whenWritten_owner hbad _
  · unfold whenWritten
    rw [torusSizeCommit_inForce hequal, ite_self]

end Sys2Proof.Machine
end

section
/-! PROOFS. The sizes of the torus (05). -/
namespace Sys2Proof.Machine

/-- Settles O19: the bounds, the commit of new sizes, and the three ways in which a commit changes nothing. -/
theorem torusSizeCommitChecksBounds : Obligations.TorusSizeCommitChecksBounds := by
  unfold Obligations.TorusSizeCommitChecksBounds
  refine ⟨?bounds, ?newSizes, ?unchanged⟩
  case bounds => exact fun x y z => sizesValid_iff
  case newSizes =>
    intro s src ha hv hne
    exact next_congr (exec_torusSizeCommit src s) ((whenWritten_accepted ha hv _).trans (torusSizeCommit_new hv hne))
  case unchanged => exact fun s src h => exec_torusSizeCommit_unchanged h

end Sys2Proof.Machine
end

section
/-! SUPPORT. Detours (R124, R204), admission (R126, R127), the returned bytes and leaks of admission windows (R131, R132) and the reorder
contexts (R140). -/
namespace Sys2Proof.Machine

/-! How the commands run. -/

section
variable (s : State) (src : Source) (id dst : BitVec 23) (cls : BitVec 2)

theorem exec_detourInstall (es : List (Nat × Nat)) : exec (.detourInstall es) s = .next (whenLive s fun s => detourInstall s es) := rfl

theorem exec_detourRemove (ms : List Nat) : exec (.detourRemove ms) s = .next (whenLive s fun s => detourRemove s ms) := rfl

theorem exec_fabricAdmit :
    exec (.fabricAdmit src) s = .next (whenWritten s src eFabricAdmit [1] (s.topo.state = .ready) fabricAdmit) := rfl

theorem exec_routeAdmission {p : Nat} (hp : p < 128) :
    exec (.routeAdmission p) s = .next (whenLive s fun s => routeAdmission s p) :=
  onUnit_of (decide_eq_true hp) _

theorem exec_windowUpdDelay : exec (.windowUpdDelay id cls) s = .next (whenLive s fun s => windowUpdDelay s id cls) := rfl

theorem exec_windowLeakTimeout {m : Nat} (hm : m < 32768) :
    exec (.windowLeakTimeout id m cls) s = .next (whenLive s fun s => windowLeakTimeout s id m cls) :=
  onUnit_of (decide_eq_true hm) _

theorem exec_reorderHoldTimeout :
    exec (.reorderHoldTimeout id dst) s = .next (whenLive s fun s => reorderHoldTimeout s id dst) := rfl

theorem exec_reorderContextIdle :
    exec (.reorderContextIdle id dst) s = .next (whenLive s fun s => reorderContextIdle s id dst) := rfl

end

/-! Admission (R126, R127). -/

section
variable {s : State}

theorem fabricAdmit_admits (h : rd s eFabricAdmitted ≠ 1) : fabricAdmit s =
    (((List.range 24).map (· + 104)).filter (portOn s)).foldl sendAdmission (wr s eFabricAdmitted 1) := if_neg h

theorem fabricAdmit_admitted (h : rd s eFabricAdmitted = 1) : fabricAdmit s = s := if_pos h

/-- The command changes nothing where a check refuses it, in another topology state and on an admitted module. -/
theorem exec_fabricAdmit_unchanged {src : Source}
    (h : s.topo.state ≠ .ready ∨ rd s eFabricAdmitted = 1 ∨ ¬ Accepted s src eFabricAdmit [1]) :
    exec (.fabricAdmit src) s = .next s := by
  refine next_congr (exec_fabricAdmit s src) ?_
  rcases h with hstate | hadmitted | hrefused
  · exact whenWritten_owner (decide_eq_false hstate) _
  · unfold whenWritten
    rw [fabricAdmit_admitted hadmitted, ite_self]
  · exact whenWritten_refused hrefused _

variable {p : Nat}

/-- The admission message counts on a trunk port in ON alone. -/
theorem hearsAdmission_iff : (isEdge p || !portOn s p) = false ↔ 104 ≤ p ∧ portOn s p = true := by
  simp [isEdge]

/-- The message is noted, and the port is routable where its own message was sent. -/
theorem routeAdmission_heard (ht : 104 ≤ p) (ho : portOn s p = true) : routeAdmission s p =
    if (portOf s p).admSent then wr (setPort s p { portOf s p with admReceived := true }) (ePortRoutable p) 1
    else setPort s p { portOf s p with admReceived := true } := by
  simp only [routeAdmission, hearsAdmission_iff.mpr ⟨ht, ho⟩, Bool.false_eq_true, if_false, portOf_setPort_same]

theorem routeAdmission_unheard (h : p < 104 ∨ portOn s p = false) : routeAdmission s p = s := by
  refine if_pos (Bool.of_not_eq_false fun heard => ?_)
  obtain ⟨ht, ho⟩ := hearsAdmission_iff.mp heard
  rcases h with h | h
  · omega
  · exact absurd (ho.symm.trans h) (by decide)

end

/-! Admission windows (R131, R132). -/

section
variable {s : State} {src : BitVec 23} {c : BitVec 2}

theorem windowUpdDelay_reports {r : Returns} (h : (s.e2e.returns.find? fun r => r.src = src && r.cls = c) = some r) :
    windowUpdDelay s src c = sendWindowUpd { s with e2e := { s.e2e with returns :=
      (s.e2e.returns.filter fun r => !(r.src = src && r.cls = c)) } } src r.bytes (myCoord s) c r.slice := by
  simp only [windowUpdDelay, h]

theorem windowUpdDelay_nothing (h : (s.e2e.returns.find? fun r => r.src = src && r.cls = c) = none) :
    windowUpdDelay s src c = s := by
  simp only [windowUpdDelay, h]

variable {m : Nat}

/-- The endpoint is told in a slice that is a free value. -/
theorem windowLeakTimeout_reports (h : windowBytes s src m c ≠ 0) : ∃ slice d, windowLeakTimeout s src m c =
    sendWindowUpd { bump (setWindow s src m c 0) eWindowLeakResetCount with draws := d } src (windowBytes s src m c) m c slice :=
  ⟨_, _, if_neg h⟩

theorem windowLeakTimeout_nothing (h : windowBytes s src m c = 0) : windowLeakTimeout s src m c = s := if_pos h

end

/-! Reorder contexts (R140). -/

section
variable {s : State} {src dst : BitVec 23}

theorem reorderHoldTimeout_noContext (h : reorderOf s src dst = none) : reorderHoldTimeout s src dst = s := by
  simp only [reorderHoldTimeout, h]

theorem reorderContextIdle_noContext (h : reorderOf s src dst = none) : reorderContextIdle s src dst = s := by
  simp only [reorderContextIdle, h]

variable {r : Reorder} (hr : reorderOf s src dst = some r)
include hr

/-- The held packets are delivered in the order in which they are held, and the context enters the gap state. -/
theorem reorderHoldTimeout_holding (h : r.held ≠ []) : reorderHoldTimeout s src dst =
    bump (setReorder (r.held.foldl (fun u o => deliverEdge false u (fcNow u) o) s) { r with held := [], gap := true })
      eReorderTimeoutCount := by
  simp only [reorderHoldTimeout, hr, List.isEmpty_iff, if_neg h, releaseAll]

theorem reorderHoldTimeout_empty (h : r.held = []) : reorderHoldTimeout s src dst = s := by
  simp only [reorderHoldTimeout, hr, List.isEmpty_iff, if_pos h]

theorem reorderContextIdle_holding (h : r.held ≠ []) : reorderContextIdle s src dst = s := by
  simp only [reorderContextIdle, hr, List.isEmpty_iff, if_neg h]

theorem reorderContextIdle_empty (h : r.held = []) : reorderContextIdle s src dst =
    { s with e2e := { s.e2e with reorder := (s.e2e.reorder.filter fun x => !(x.src = src && x.dst = dst)) } } := by
  simp only [reorderContextIdle, hr, List.isEmpty_iff, if_pos h]

end

end Sys2Proof.Machine
end

section
/-! PROOFS. Detours, admission, admission windows and reorder contexts (06). -/
namespace Sys2Proof.Machine

/-- Settles O22: each command by what it finds, and nothing where it finds nothing to act on. -/
theorem routesWindowsAndReorderingAct : Obligations.RoutesWindowsAndReorderingAct := by
  unfold Obligations.RoutesWindowsAndReorderingAct
  refine ⟨?install, ?remove, ?detoursDown, ?notYetAdmitted, ?admitUnchanged, ?admission, ?admissionUnheard, ?report, ?nothingToReport, ?leak,
    ?noLeak, ?context, ?noContext⟩
  case install => exact fun s es hl => next_of_live (exec_detourInstall s es) hl
  case remove => exact fun s ms hl => next_of_live (exec_detourRemove s ms) hl
  case detoursDown =>
    exact fun s es ms hl => ⟨next_of_notLive (exec_detourInstall s es) hl, next_of_notLive (exec_detourRemove s ms) hl⟩
  case notYetAdmitted =>
    intro s src ha hready hne
    exact next_congr (exec_fabricAdmit s src) ((whenWritten_accepted ha (decide_eq_true hready) _).trans (fabricAdmit_admits hne))
  case admitUnchanged => exact fun s src h => exec_fabricAdmit_unchanged h
  case admission =>
    intro s p hl ht hp ho
    exact next_congr (next_of_live (exec_routeAdmission s hp) hl) (routeAdmission_heard ht ho)
  case admissionUnheard =>
    exact fun s p hp h => next_congr (exec_routeAdmission s hp) (whenLive_unchanged (.inr (routeAdmission_unheard h)))
  case report =>
    exact fun s src c r hl hr => next_congr (next_of_live (exec_windowUpdDelay s src c) hl) (windowUpdDelay_reports hr)
  case nothingToReport =>
    exact fun s src c h => next_congr (exec_windowUpdDelay s src c) (whenLive_unchanged (.inr (windowUpdDelay_nothing h)))
  case leak =>
    intro s src m c hl hm hb
    obtain ⟨slice, d, ht⟩ := windowLeakTimeout_reports hb
    exact ⟨slice, d, next_congr (next_of_live (exec_windowLeakTimeout s src c hm) hl) ht⟩
  case noLeak =>
    exact fun s src m c hm hb =>
      next_congr (exec_windowLeakTimeout s src c hm) (whenLive_unchanged (.inr (windowLeakTimeout_nothing hb)))
  case context =>
    intro s src dst r hl hr
    have hhold := next_of_live (exec_reorderHoldTimeout s src dst) hl
    have hidle := next_of_live (exec_reorderContextIdle s src dst) hl
    exact ⟨fun h => ⟨next_congr hhold (reorderHoldTimeout_holding hr h), next_congr hidle (reorderContextIdle_holding hr h)⟩,
      fun h => ⟨next_congr hhold (reorderHoldTimeout_empty hr h), next_congr hidle (reorderContextIdle_empty hr h)⟩⟩
  case noContext =>
    intro s src dst h
    exact ⟨next_congr (exec_reorderHoldTimeout s src dst) (whenLive_unchanged (.inr (reorderHoldTimeout_noContext h))),
      next_congr (exec_reorderContextIdle s src dst) (whenLive_unchanged (.inr (reorderContextIdle_noContext h)))⟩

end Sys2Proof.Machine
end

section
/-! SUPPORT. Which waiting header is the oldest (R146), what a grant does with it (R145, R147), and Loaf's turn before a grant of whey
(R150). -/
namespace Sys2Proof.Machine

/-! How the commands run. -/

section
variable (s : State)

theorem exec_curdGrant {k : Nat} (hk : k < 3) : exec (.curdGrant k) s = .next (whenLive s fun s => curdGrant s k) :=
  onUnit_of (decide_eq_true hk) _

theorem exec_wheyGrant : exec .wheyGrant s = .next (whenLive s wheyGrant) := rfl

end

/-! The oldest header (R146). -/

section
variable {s : State} {ok : Waiter → Bool}

/-- One position of the search: a header that passes is preferred to the best one so far where it is older. -/
def olderOf (s : State) (ok : Waiter → Bool) (best : Option Nat) (i : Nat) : Option Nat :=
  match s.pools.waiting[i]? with
  | none => best
  | some w =>
    if !ok w then best
    else match best.bind fun j => s.pools.waiting[j]? with
      | none => some i
      | some b => if waitKey s w < waitKey s b then some i else best

theorem oldestWaiter_eq_foldl (s : State) (ok : Waiter → Bool) :
    oldestWaiter s ok = (List.range s.pools.waiting.length).foldl (olderOf s ok) none := rfl

/-- What the search has found in the first `n` positions: a header that passes, with none there that passes and is older, or that none
there passes. -/
def OldestBelow (s : State) (ok : Waiter → Bool) (n : Nat) : Option Nat → Prop
  | some i => ∃ w, s.pools.waiting[i]? = some w ∧ ok w = true ∧
      ∀ j < n, ∀ v, s.pools.waiting[j]? = some v → ok v = true → waitKey s w ≤ waitKey s v
  | none => ∀ j < n, ∀ v, s.pools.waiting[j]? = some v → ok v = false

/-- A position without a header that passes leaves what was found. -/
theorem OldestBelow.skip {n : Nat} {best : Option Nat} (h : OldestBelow s ok n best)
    (hn : ∀ v, s.pools.waiting[n]? = some v → ok v = false) : OldestBelow s ok (n + 1) best := by
  cases best with
  | none => exact Nat.forall_lt_succ_right.mpr ⟨h, hn⟩
  | some i =>
    obtain ⟨w, hw, hok, hold⟩ := h
    exact ⟨w, hw, hok, Nat.forall_lt_succ_right.mpr ⟨hold, fun v hv hv' => absurd (hv'.symm.trans (hn v hv)) (by decide)⟩⟩

/-- A header that passes, and that no earlier one that passes is older than, is found at its position. -/
theorem OldestBelow.take {n : Nat} {w : Waiter} (hw : s.pools.waiting[n]? = some w) (hok : ok w = true)
    (hold : ∀ j < n, ∀ v, s.pools.waiting[j]? = some v → ok v = true → waitKey s w ≤ waitKey s v) :
    OldestBelow s ok (n + 1) (some n) :=
  ⟨w, hw, hok, Nat.forall_lt_succ_right.mpr ⟨hold, fun _ hv _ => (congrArg (waitKey s) (Option.some.inj (hw.symm.trans hv))).le⟩⟩

/-- A header that is not older than the one found leaves it found. -/
theorem OldestBelow.keep {n i : Nat} {b w : Waiter} (h : OldestBelow s ok n (some i)) (hb : s.pools.waiting[i]? = some b)
    (hw : s.pools.waiting[n]? = some w) (hle : waitKey s b ≤ waitKey s w) : OldestBelow s ok (n + 1) (some i) := by
  obtain ⟨b', hb', hok, hold⟩ := h
  obtain rfl := Option.some.inj (hb.symm.trans hb')
  exact ⟨b, hb, hok, Nat.forall_lt_succ_right.mpr ⟨hold, fun v hv _ => by rwa [← Option.some.inj (hw.symm.trans hv)]⟩⟩

theorem OldestBelow.step {n : Nat} {best : Option Nat} (h : OldestBelow s ok n best) :
    OldestBelow s ok (n + 1) (olderOf s ok best n) := by
  unfold olderOf
  split
  next hn => exact h.skip fun v hv => absurd (hn.symm.trans hv) nofun
  next w hw =>
    cases hok : ok w with
    | false => exact h.skip fun v hv => by rw [← Option.some.inj (hw.symm.trans hv), hok]
    | true =>
      cases best with
      | none => exact .take hw hok fun j hj v hv hv' => absurd (hv'.symm.trans (h j hj v hv)) (by decide)
      | some i =>
        have ⟨b, hb, _, hold⟩ := h
        simp only [Bool.not_true, Bool.false_eq_true, if_false, Option.bind_some, hb]
        split
        next hlt => exact .take hw hok fun j hj v hv hv' => hlt.le.trans (hold j hj v hv hv')
        next hge => exact h.keep hb hw (Nat.le_of_not_lt hge)

theorem oldestBelow_search (n : Nat) : OldestBelow s ok n ((List.range n).foldl (olderOf s ok) none) := by
  induction n with
  | zero => exact fun j hj => absurd hj (Nat.not_lt_zero j)
  | succ n ih =>
    rw [List.range_succ, List.foldl_append]
    exact ih.step

theorem oldestBelow_oldestWaiter (s : State) (ok : Waiter → Bool) :
    OldestBelow s ok s.pools.waiting.length (oldestWaiter s ok) := oldestBelow_search _

/-- The header chosen waits and passes, and none that passes has a smaller key. -/
theorem oldestWaiter_least {i : Nat} (h : oldestWaiter s ok = some i) : ∃ w, s.pools.waiting[i]? = some w ∧ ok w = true ∧
    ∀ (j : Nat) v, s.pools.waiting[j]? = some v → ok v = true → waitKey s w ≤ waitKey s v := by
  have hfound := oldestBelow_oldestWaiter s ok
  rw [h] at hfound
  obtain ⟨w, hw, hok, hold⟩ := hfound
  exact ⟨w, hw, hok, fun j v hv => hold j (List.getElem?_eq_some_iff.mp hv).1 v hv⟩

/-- None is chosen exactly where none that waits passes. -/
theorem oldestWaiter_eq_none_iff : oldestWaiter s ok = none ↔ ∀ w ∈ s.pools.waiting, ok w = false := by
  constructor
  · intro h w hw
    have hfound := oldestBelow_oldestWaiter s ok
    rw [h] at hfound
    obtain ⟨j, hj, hget⟩ := List.getElem_of_mem hw
    exact hfound j hj w (List.getElem?_eq_some_iff.mpr ⟨hj, hget⟩)
  · intro h
    refine Option.eq_none_iff_forall_ne_some.mpr fun i hi => ?_
    obtain ⟨w, hw, hok, -⟩ := oldestWaiter_least hi
    exact absurd (hok.symm.trans (h w (List.mem_of_getElem? hw))) (by decide)

end

/-! A pool's grant (R145, R147). -/

/-- The grant that the curd and whey pools share: one of a cycle, to the oldest header that the pool can serve. -/
def grantOldest (s : State) (k : Nat) (ok : Waiter → Bool) (grant : Nat → Waiter → State) : State :=
  if !mayGrant s k then s
  else match oldestWaiter s ok with
    | none => s
    | some i => match s.pools.waiting[i]? with
      | none => s
      | some w => settle (grant i w)

theorem curdGrant_eq (s : State) (k : Nat) : curdGrant s k = grantOldest s k (canServe s k) (grantBlock s k) := rfl

theorem wheyGrant_eq (s : State) :
    wheyGrant s = grantOldest (loafTurn s) 3 (wheyServe (loafTurn s)) (grantWhey (loafTurn s)) := rfl

section
variable {s : State} {k : Nat} {ok : Waiter → Bool}

theorem grantOldest_grants {i : Nat} {w : Waiter} (hmay : mayGrant s k = true) (hi : oldestWaiter s ok = some i)
    (hw : s.pools.waiting[i]? = some w) (grant : Nat → Waiter → State) : grantOldest s k ok grant = settle (grant i w) := by
  simp only [grantOldest, hmay, hi, hw, Bool.not_true, Bool.false_eq_true, if_false]

/-- Nothing is granted where the pool has granted in this cycle, and where it can serve no header that waits. -/
theorem grantOldest_nothing (h : mayGrant s k = false ∨ ∀ w ∈ s.pools.waiting, ok w = false) (grant : Nat → Waiter → State) :
    grantOldest s k ok grant = s := by
  unfold grantOldest
  rcases h with hused | hnone
  · rw [hused]
    rfl
  · rw [oldestWaiter_eq_none_iff.mpr hnone]
    exact ite_self _

end

/-! Loaf's turn (R150). -/

/-- With no send of Loaf to refuse, and none to send again or no room for one, the turn passes. -/
theorem loafTurn_unchanged {s : State} (hnone : ∀ w ∈ s.pools.waiting, loafRefused s w = false)
    (hrest : wheyShort s = true ∨ s.pools.loafQueue = []) : loafTurn s = s := by
  have hback : s.pools.waiting.filter (loafRefused s) = [] :=
    List.filter_eq_nil_iff.mpr fun w hw => by rw [hnone w hw]; decide
  have hstay : (s.pools.waiting.filter fun w => !loafRefused s w) = s.pools.waiting :=
    List.filter_eq_self.mpr fun w hw => by rw [hnone w hw]; rfl
  unfold loafTurn
  simp only [hback, hstay, List.foldl_nil]
  rcases hrest with hshort | hempty
  · exact if_pos hshort
  · rw [hempty, List.foldl_nil, ← hempty]
    exact ite_self _

end Sys2Proof.Machine
end

section
/-! PROOFS. The grants of the curd and whey pools (07). -/
namespace Sys2Proof.Machine

/-- Settles O23: the header that the search chooses, the grant to it in each pool, and the turns in which nothing is granted. -/
theorem grantsGoToTheOldestHeaderServed : Obligations.GrantsGoToTheOldestHeaderServed := by
  unfold Obligations.GrantsGoToTheOldestHeaderServed
  refine ⟨?oldest, ?noneServed, ?curd, ?whey, ?noCurd, ?noWhey, ?loafPasses, ?down⟩
  case oldest => exact fun s ok i h => oldestWaiter_least h
  case noneServed => exact fun s ok => oldestWaiter_eq_none_iff
  case curd =>
    exact fun s k i w hl hk hmay hi hw =>
      next_congr (next_of_live (exec_curdGrant s hk) hl) ((curdGrant_eq s k).trans (grantOldest_grants hmay hi hw _))
  case whey =>
    exact fun s i w hl hmay hi hw =>
      next_congr (next_of_live (exec_wheyGrant s) hl) ((wheyGrant_eq s).trans (grantOldest_grants hmay hi hw _))
  case noCurd =>
    exact fun s k hk h =>
      next_congr (exec_curdGrant s hk) (whenLive_unchanged (.inr ((curdGrant_eq s k).trans (grantOldest_nothing h _))))
  case noWhey =>
    exact fun s hl h => next_congr (next_of_live (exec_wheyGrant s) hl) ((wheyGrant_eq s).trans (grantOldest_nothing h _))
  case loafPasses => exact fun s hnone hrest => loafTurn_unchanged hnone hrest
  case down => exact fun s k hl hk => ⟨next_of_notLive (exec_curdGrant s hk) hl, next_of_notLive (exec_wheyGrant s) hl⟩

end Sys2Proof.Machine
end

section
/-! SUPPORT. The policer's buckets (R151 to R153): entries written one after another, the refill of a window, the policer's and the
shaper's settings, and the CTRL ceiling (R157, R159). -/
namespace Sys2Proof.Machine

/-! How the commands run. -/

section
variable (s : State) (src : Source) (v : Nat) {p k : Nat}

theorem exec_policerRefill : exec .policerRefill s = .next (whenLive s policerRefill) := rfl

theorem exec_policerRateWrite (hp : p < 104) (hk : k < 3) : exec (.policerRateWrite src p k v) s =
    .next (whenWritten s src (ePolicerRate p k) (leBytes 4 v) (v < 2 ^ 32) fun s => policerRateApply s p k v) :=
  onUnit_of (Bool.and_eq_true_iff.mpr ⟨decide_eq_true hp, decide_eq_true hk⟩) _

theorem exec_policerBurstWrite (hp : p < 104) (hk : k < 3) : exec (.policerBurstWrite src p k v) s =
    .next (whenWritten s src (ePolicerBurst p k) (leBytes 4 v) (v < 2 ^ 32) fun s => policerBurstApply s p k v) :=
  onUnit_of (Bool.and_eq_true_iff.mpr ⟨decide_eq_true hp, decide_eq_true hk⟩) _

theorem exec_policerEnableWrite (hp : p < 104) : exec (.policerEnableWrite src p v) s =
    .next (whenWritten s src (ePolicerEnable p) (leBytes 1 v) (v < 256) fun s => policerEnableApply s p v) :=
  onUnit_of (decide_eq_true hp) _

theorem exec_policerWindowWrite : exec (.policerWindowWrite src v) s =
    .next (whenWritten s src ePolicerWindow (leBytes 4 v) (v < 2 ^ 32) fun s => policerWindowApply s v) := rfl

theorem exec_shaperConfigWrite (hp : p < 128) (sub : Nat) (b : List Byte) : exec (.shaperConfigWrite src p sub b) s =
    .next (whenWritten s src ((0x3200 + p) * 256 + sub) b (4 ≤ sub && sub ≤ 12)
      fun s => writeReg s ((0x3200 + p) * 256 + sub) (leNat b)) :=
  onUnit_of (decide_eq_true hp) _

theorem exec_ctrlCeilingFill (hp : p < 128) : exec (.ctrlCeilingFill p) s = .next (whenLive s fun s => ctrlCeilingFill s p) :=
  onUnit_of (decide_eq_true hp) _

end

/-! Entries written one after another, each to a value that the writes of the others do not change. -/

theorem rd_of_find {s : State} {a v : Nat} (h : Tab.find s.regs a = some v) : rd s a = v := by
  unfold rd
  rw [h]

theorem rd_congr {s t : State} {a : Nat} (h : Tab.find t.regs a = Tab.find s.regs a) : rd t a = rd s a := by
  unfold rd
  rw [h]

/-- Write an entry where there is a value for it. -/
def wrSome (s : State) (a : Nat) : Option Nat → State
  | some v => wr s a v
  | none => s

/-- After the writes of a list: each of its entries that had a value has it, and nothing else changed. -/
structure PutAll {ι : Type} (entry : ι → Nat) (value : ι → Option Nat) (l : List ι) (s t : State) : Prop where
  shape : t = { s with regs := t.regs }
  put : ∀ x ∈ l, ∀ v, value x = some v → Tab.find t.regs (entry x) = some v
  other : ∀ a, (∀ x ∈ l, (value x).isSome → a ≠ entry x) → Tab.find t.regs a = Tab.find s.regs a

section
variable {ι : Type} {entry : ι → Nat}

/-- An entry of the list that had no value holds what it held. -/
theorem PutAll.kept {value : ι → Option Nat} {l : List ι} {s t : State} (h : PutAll entry value l s t)
    (hd : ∀ x ∈ l, ∀ y ∈ l, x ≠ y → entry x ≠ entry y) {x : ι} (hx : x ∈ l) (hv : value x = none) :
    Tab.find t.regs (entry x) = Tab.find s.regs (entry x) :=
  h.other _ fun y hy hsome => hd x hx y hy fun e => by rw [← e, hv] at hsome; exact absurd hsome (by decide)

/-- The first write of a list, then those of the rest, which find the same values. -/
theorem PutAll.cons {value value' : ι → Option Nat} {x : ι} {l : List ι} {s t : State}
    (hsame : ∀ y ∈ l, value' y = value y) (hne : ∀ y ∈ l, entry x ≠ entry y)
    (h : PutAll entry value' l (wrSome s (entry x) (value x)) t) : PutAll entry value (x :: l) s t := by
  have hfirst : ∀ v, value x = some v → Tab.find t.regs (entry x) = some v := fun v hv => by
    rw [h.other _ fun y hy _ => hne y hy, hv]
    exact Tab.find_set_same ..
  have hother : ∀ a, ((value x).isSome → a ≠ entry x) → Tab.find (wrSome s (entry x) (value x)).regs a = Tab.find s.regs a := by
    intro a ha
    cases hv : value x with
    | none => rfl
    | some v => exact Tab.find_set_other _ _ (ha (by rw [hv]; rfl))
  refine ⟨?_, List.forall_mem_cons.mpr ⟨hfirst, fun y hy v hv => h.put y hy v ((hsame y hy).trans hv)⟩, fun a ha => ?_⟩
  · refine h.shape.trans ?_
    cases value x <;> rfl
  · obtain ⟨hx, hl⟩ := List.forall_mem_cons.mp ha
    exact (h.other a fun y hy hsome => hl y hy (hsame y hy ▸ hsome)).trans (hother a hx)

/-- Entries written one after another, where no write changes the value of another entry. -/
theorem putAll_foldl (value : State → ι → Option Nat) {l : List ι}
    (hd : l.Pairwise fun x y => entry x ≠ entry y)
    (hv : ∀ (s : State) (v : Nat), ∀ x ∈ l, ∀ y ∈ l, entry x ≠ entry y → value (wr s (entry x) v) y = value s y) (s : State) :
    PutAll entry (value s) l s (l.foldl (fun s x => wrSome s (entry x) (value s x)) s) := by
  induction l generalizing s with
  | nil => exact ⟨rfl, nofun, fun _ _ => rfl⟩
  | cons x l ih =>
    obtain ⟨hx, hl⟩ := List.pairwise_cons.mp hd
    have hsame : ∀ y ∈ l, value (wrSome s (entry x) (value s x)) y = value s y := fun y hy => by
      cases value s x with
      | none => rfl
      | some v => exact hv s v x List.mem_cons_self y (List.mem_cons_of_mem _ hy) (hx y hy)
    exact .cons hsame hx (ih hl (fun s v y hy z hz => hv s v y (List.mem_cons_of_mem _ hy) z (List.mem_cons_of_mem _ hz)) _)

end

/-! The refill (R152). -/

/-- Every bucket of the part: an edge port and one of its three policed classes. -/
def buckets : List (Nat × Nat) := List.range 104 ×ˢ List.range 3

theorem mem_buckets {p k : Nat} : (p, k) ∈ buckets ↔ p < 104 ∧ k < 3 :=
  List.pair_mem_product.trans (and_congr List.mem_range List.mem_range)

/-- The entry that holds a bucket's tokens. -/
def bucketTokens (x : Nat × Nat) : Nat := ePolicerTokens x.1 x.2

theorem bucketTokens_ne {x y : Nat × Nat} (hx : x ∈ buckets) (hy : y ∈ buckets) (h : x ≠ y) : bucketTokens x ≠ bucketTokens y := by
  obtain ⟨p, k⟩ := x
  obtain ⟨q, m⟩ := y
  obtain ⟨-, hk⟩ := mem_buckets.mp hx
  obtain ⟨-, hm⟩ := mem_buckets.mp hy
  intro e
  simp only [bucketTokens, ePolicerTokens] at e
  exact h (Prod.ext (by dsimp only; omega) (by dsimp only; omega))

theorem bucketTokens_pairwise : buckets.Pairwise fun x y => bucketTokens x ≠ bucketTokens y :=
  (List.nodup_range.product List.nodup_range).pairwise_of_forall_ne fun _ hx _ hy => bucketTokens_ne hx hy

/-- What a refill leaves in a bucket, where the bucket is enabled. -/
def refilled (s : State) (x : Nat × Nat) : Option Nat :=
  if (rd s (ePolicerEnable x.1)).testBit x.2 then
    some (min (rd s (ePolicerBurst x.1 x.2)) (rd s (ePolicerTokens x.1 x.2) + rd s (ePolicerRate x.1 x.2)))
  else none

theorem refilled_enabled {s : State} {p k : Nat} (h : (rd s (ePolicerEnable p)).testBit k = true) : refilled s (p, k) =
    some (min (rd s (ePolicerBurst p k)) (rd s (ePolicerTokens p k) + rd s (ePolicerRate p k))) := if_pos h

theorem refilled_isSome {s : State} {p k : Nat} : (refilled s (p, k)).isSome ↔ (rd s (ePolicerEnable p)).testBit k = true := by
  simp [refilled]

/-- The settings of a port stand apart from every bucket's tokens. -/
theorem rd_wr_tokens {p q k m : Nat} (s : State) (v : Nat) (hk : k < 3) (hm : m < 3) :
    rd (wr s (ePolicerTokens p k) v) (ePolicerEnable q) = rd s (ePolicerEnable q) ∧
    rd (wr s (ePolicerTokens p k) v) (ePolicerRate q m) = rd s (ePolicerRate q m) ∧
    rd (wr s (ePolicerTokens p k) v) (ePolicerBurst q m) = rd s (ePolicerBurst q m) := by
  refine ⟨rd_wr_other s v ?_, rd_wr_other s v ?_, rd_wr_other s v ?_⟩
  · simp only [ePolicerTokens, ePolicerEnable]; omega
  · simp only [ePolicerTokens, ePolicerRate]; omega
  · simp only [ePolicerTokens, ePolicerBurst]; omega

/-- A refill of one bucket changes no other bucket's. -/
theorem refilled_wr_tokens (s : State) (v : Nat) {x y : Nat × Nat} (hx : x ∈ buckets) (hy : y ∈ buckets)
    (hne : bucketTokens x ≠ bucketTokens y) : refilled (wr s (bucketTokens x) v) y = refilled s y := by
  obtain ⟨-, hk⟩ := mem_buckets.mp hx
  obtain ⟨-, hm⟩ := mem_buckets.mp hy
  obtain ⟨henable, hrate, hburst⟩ := rd_wr_tokens (p := x.1) (q := y.1) s v hk hm
  have htokens : rd (wr s (ePolicerTokens x.1 x.2) v) (ePolicerTokens y.1 y.2) = rd s (ePolicerTokens y.1 y.2) :=
    rd_wr_other s v (Ne.symm hne)
  unfold refilled bucketTokens
  rw [henable, hrate, hburst, htokens]

/-- The ports in turn, each with its classes in turn, are the buckets in turn. -/
theorem foldl_refillPort (s : State) : (List.range 104).foldl refillPort s =
    buckets.foldl (fun s x => wrSome s (bucketTokens x) (refilled s x)) s := by
  have hone : ∀ p, (fun (s : State) k => wrSome s (bucketTokens (p, k)) (refilled s (p, k))) = fun s k =>
      if (rd s (ePolicerEnable p)).testBit k then
        wr s (ePolicerTokens p k) (min (rd s (ePolicerBurst p k)) (rd s (ePolicerTokens p k) + rd s (ePolicerRate p k)))
      else s := fun p => by
    funext s k
    unfold refilled
    split <;> rfl
  simp only [buckets, SProd.sprod, List.product, List.foldl_flatMap, List.foldl_map, hone]
  rfl

theorem foldl_refillPort_putAll (s : State) :
    PutAll bucketTokens (refilled s) buckets s ((List.range 104).foldl refillPort s) := by
  rw [foldl_refillPort]
  exact putAll_foldl refilled bucketTokens_pairwise (fun s v x hx y hy => refilled_wr_tokens s v hx hy) s

/-- Besides the buckets, the boundary of a window changes the window. -/
theorem policerRefill_shape (s : State) : policerRefill s = { s with
    regs := (policerRefill s).regs, pools := { s.pools with windowStart := fcNow s, pendingWindow := none } } := by
  have hfold := (foldl_refillPort_putAll s).shape
  unfold policerRefill
  rw [hfold]
  rfl

theorem policerRefill_enabled (s : State) {p k : Nat} (hp : p < 104) (hk : k < 3) (h : (rd s (ePolicerEnable p)).testBit k = true) :
    rd (policerRefill s) (ePolicerTokens p k) =
      min (rd s (ePolicerBurst p k)) (rd s (ePolicerTokens p k) + rd s (ePolicerRate p k)) :=
  rd_of_find ((foldl_refillPort_putAll s).put _ (mem_buckets.mpr ⟨hp, hk⟩) _ (refilled_enabled h))

theorem policerRefill_other (s : State) {a : Nat}
    (h : ∀ p k, p < 104 → k < 3 → (rd s (ePolicerEnable p)).testBit k = true → a ≠ ePolicerTokens p k) :
    Tab.find (policerRefill s).regs a = Tab.find s.regs a := by
  refine (foldl_refillPort_putAll s).other a fun x hx hsome => ?_
  obtain ⟨hp, hk⟩ := mem_buckets.mp hx
  exact h x.1 x.2 hp hk (refilled_isSome.mp hsome)

/-! The settings (R152, R153). -/

/-- A lowered burst cuts the bucket, which a stored burst leaves otherwise. -/
theorem policerBurstApply_eq (s : State) (p v k : Nat) : policerBurstApply s p k v =
    if v < rd s (ePolicerTokens p k) then wr (writeReg s (ePolicerBurst p k) v) (ePolicerTokens p k) v
    else writeReg s (ePolicerBurst p k) v := by
  have hne : ePolicerTokens p k ≠ ePolicerBurst p k := by simp only [ePolicerTokens, ePolicerBurst]; omega
  simp only [policerBurstApply, writeReg_rd_other s _ v _ hne]

/-- The burst that a bucket takes, where its class bit goes from 0 to 1. -/
def filledOnEnable (p v old : Nat) (s : State) (k : Nat) : Option Nat :=
  if v.testBit k && !old.testBit k then some (rd s (ePolicerBurst p k)) else none

/-- The buckets of a port that a written enable byte fills, filled. -/
def fillEnabled (s : State) (p v : Nat) : State :=
  (List.range 3).foldl (fun t k => wrSome t (ePolicerTokens p k) (filledOnEnable p v (rd s (ePolicerEnable p)) t k)) s

theorem policerEnableApply_eq (s : State) (p v : Nat) :
    policerEnableApply s p v = writeReg (fillEnabled s p v) (ePolicerEnable p) (v % 8) := by
  have hone : (fun (t : State) k => wrSome t (ePolicerTokens p k) (filledOnEnable p v (rd s (ePolicerEnable p)) t k)) = fun t k =>
      if v.testBit k && !(rd s (ePolicerEnable p)).testBit k then wr t (ePolicerTokens p k) (rd t (ePolicerBurst p k)) else t := by
    funext t k
    unfold filledOnEnable
    split <;> rfl
  unfold fillEnabled
  rw [hone]
  rfl

theorem tokens_ne_tokens (p : Nat) {k m : Nat} (h : k ≠ m) : ePolicerTokens p k ≠ ePolicerTokens p m := by
  simp only [ePolicerTokens]
  omega

theorem fillEnabled_putAll (s : State) (p v : Nat) : PutAll (ePolicerTokens p)
    (filledOnEnable p v (rd s (ePolicerEnable p)) s) (List.range 3) s (fillEnabled s p v) := by
  refine putAll_foldl _ (List.nodup_range.imp fun h => tokens_ne_tokens p h) (fun t w k hk m hm _ => ?_) s
  obtain ⟨-, -, hburst⟩ := rd_wr_tokens (p := p) (q := p) t w (List.mem_range.mp hk) (List.mem_range.mp hm)
  unfold filledOnEnable
  rw [hburst]

theorem rd_fillEnabled_tokens (s : State) (p v : Nat) {k : Nat} (hk : k < 3) : rd (fillEnabled s p v) (ePolicerTokens p k) =
    if v.testBit k && !(rd s (ePolicerEnable p)).testBit k then rd s (ePolicerBurst p k) else rd s (ePolicerTokens p k) := by
  have hput := fillEnabled_putAll s p v
  split
  next h => exact rd_of_find (hput.put k (List.mem_range.mpr hk) _ (if_pos h))
  next h => exact rd_congr (hput.kept (fun _ _ _ _ hne => tokens_ne_tokens p hne) (List.mem_range.mpr hk) (if_neg h))

theorem policerEnableApply_shape (s : State) (p v : Nat) : policerEnableApply s p v = { s with
    regs := (policerEnableApply s p v).regs, mgmt := { s.mgmt with waiting := (policerEnableApply s p v).mgmt.waiting } } := by
  obtain ⟨w, hw⟩ := writeReg_shape (fillEnabled s p v) (ePolicerEnable p) (v % 8)
  have hfill := (fillEnabled_putAll s p v).shape
  rw [policerEnableApply_eq, hw, hfill]

theorem rd_policerEnableApply_tokens (s : State) (p v : Nat) {k : Nat} (hk : k < 3) :
    rd (policerEnableApply s p v) (ePolicerTokens p k) =
      if v.testBit k && !(rd s (ePolicerEnable p)).testBit k then rd s (ePolicerBurst p k) else rd s (ePolicerTokens p k) := by
  have hne : ePolicerTokens p k ≠ ePolicerEnable p := by simp only [ePolicerTokens, ePolicerEnable]; omega
  rw [policerEnableApply_eq, writeReg_rd_other _ _ _ _ hne, rd_fillEnabled_tokens s p v hk]

theorem policerEnableApply_other (s : State) (p v : Nat) {a : Nat} (ha : a ≠ ePolicerEnable p)
    (ht : ∀ k, k < 3 → a ≠ ePolicerTokens p k) : Tab.find (policerEnableApply s p v).regs a = Tab.find s.regs a := by
  rw [policerEnableApply_eq, writeReg_find_other _ _ _ _ ha]
  exact (fillEnabled_putAll s p v).other a fun k hk _ => ht k (List.mem_range.mp hk)

/-- The length is stored, and waits for the end of the current window. -/
theorem policerWindowApply_stores (s : State) (v : Nat) : rd (policerWindowApply s v) ePolicerWindow = v ∧
    (policerWindowApply s v).pools = { s.pools with pendingWindow := some v } ∧
    EntryOnly ePolicerWindow { s with pools := (policerWindowApply s v).pools } (policerWindowApply s v) := by
  refine ⟨writeReg_rd_same s ePolicerWindow v, ?_, ?_, writeReg_find_other s ePolicerWindow v⟩
  all_goals
    obtain ⟨w, hw⟩ := writeReg_shape s ePolicerWindow v
    unfold policerWindowApply
    rw [hw]

end Sys2Proof.Machine
end

section
/-! PROOFS. The policer, the shapers and the CTRL ceiling (07). -/
namespace Sys2Proof.Machine

/-- Settles O24: the refill bucket by bucket, each setting where the checks take it and where they refuse it, and the ceiling. -/
theorem policersRefillAndTakeTheirSettings : Obligations.PolicersRefillAndTakeTheirSettings := by
  unfold Obligations.PolicersRefillAndTakeTheirSettings
  refine ⟨⟨?refill, ?refillDown⟩, ?rate, ?burst, ?enable, ?window, ?shaper, ?refused, ?ceiling⟩
  case refill =>
    exact fun s hl => ⟨_, next_of_live (exec_policerRefill s) hl, policerRefill_shape s,
      fun p k hp hk h => policerRefill_enabled s hp hk h, fun a h => policerRefill_other s h⟩
  case refillDown => exact fun s hl => next_of_notLive (exec_policerRefill s) hl
  case rate =>
    exact fun s src p k v hp hk hv ha =>
      next_congr (exec_policerRateWrite s src v hp hk) (whenWritten_accepted ha (decide_eq_true hv) _)
  case burst =>
    exact fun s src p k v hp hk hv ha => next_congr (exec_policerBurstWrite s src v hp hk)
      ((whenWritten_accepted ha (decide_eq_true hv) _).trans (policerBurstApply_eq s p v k))
  case enable =>
    intro s src p v hp hv ha
    refine ⟨_, next_congr (exec_policerEnableWrite s src v hp) (whenWritten_accepted ha (decide_eq_true hv) _),
      policerEnableApply_shape s p v, ?_, fun k hk => rd_policerEnableApply_tokens s p v hk,
      fun a hne ht => policerEnableApply_other s p v hne ht⟩
    rw [policerEnableApply_eq, writeReg_rd_same]
  case window =>
    exact fun s src v hv ha => ⟨_, next_congr (exec_policerWindowWrite s src v) (whenWritten_accepted ha (decide_eq_true hv) _),
      policerWindowApply_stores s v⟩
  case shaper =>
    exact fun s src p sub v hp hlo hhi ha => next_congr (exec_shaperConfigWrite s src hp sub v)
      (whenWritten_accepted ha (Bool.and_eq_true_iff.mpr ⟨decide_eq_true hlo, decide_eq_true hhi⟩) _)
  case refused =>
    intro s src p k v hp hk
    exact ⟨fun h => next_congr (exec_policerRateWrite s src v hp hk) (whenWritten_refused h _),
      fun h => next_congr (exec_policerBurstWrite s src v hp hk) (whenWritten_refused h _),
      fun h => next_congr (exec_policerEnableWrite s src v hp) (whenWritten_refused h _),
      fun h => next_congr (exec_policerWindowWrite s src v) (whenWritten_refused h _)⟩
  case ceiling => exact fun s p hp hl => next_of_live (exec_ctrlCeilingFill s hp) hl

end Sys2Proof.Machine
end

section
/-! SUPPORT. What an access to a CRC unit of the Vat does (R165 to R167, R170), case by case, and what a write into a unit reaches. -/
namespace Sys2Proof.Machine

theorem exec_vatAccess (s : State) {n u : Nat} (w : Option (Nat × List Byte)) (flips : List (Nat × Byte)) (hn : n < 524288) (hu : u < 16) :
    exec (.vatAccess n u w flips) s = .next (whenLive s fun s => vatAccess s n u w flips) :=
  onUnit_of (Bool.and_eq_true_iff.mpr ⟨decide_eq_true hn, decide_eq_true hu⟩) _

/-! What is written to one slab alone. -/

/-- From one state to the other only bytes of the Vat from `lo` up to `hi`, and the tag of slab `n`, changed. -/
structure SlabWritten (n lo hi : Nat) (s t : State) : Prop where
  bytes : ∀ a, a < lo ∨ hi ≤ a → Memory.get t.vat.mem a = Memory.get s.vat.mem a
  tags : ∀ m, m ≠ n → tagOf t m = tagOf s m
  shape : t = { s with vat := { s.vat with mem := t.vat.mem, tags := t.vat.tags } }

theorem SlabWritten.trans {n lo hi : Nat} {s t v : State} (h : SlabWritten n lo hi s t) (k : SlabWritten n lo hi t v) :
    SlabWritten n lo hi s v where
  bytes a ha := (k.bytes a ha).trans (h.bytes a ha)
  tags m hm := (k.tags m hm).trans (h.tags m hm)
  shape := k.shape.trans (by rw [h.shape])

section
variable (s : State) (n u : Nat)

theorem corruptUnit_nil : corruptUnit s n u [] = s := rfl

theorem crcModeOf_corruptUnit (flips : List (Nat × Byte)) (m : Nat) : crcModeOf (corruptUnit s n u flips) m = crcModeOf s m := by
  obtain ⟨mem, hc, -⟩ := corruptUnit_law s n u flips
  rw [hc]
  exact crcModeOf_congr rfl m

theorem slabWritten_corruptUnit (flips : List (Nat × Byte)) :
    SlabWritten n (4096 * n + u * unitSize (crcModeOf s n)) (4096 * n + (u + 1) * unitSize (crcModeOf s n)) s (corruptUnit s n u flips) := by
  obtain ⟨mem, hc, hbytes⟩ := corruptUnit_law s n u flips
  rw [hc, Nat.succ_mul u, ← Nat.add_assoc]
  exact ⟨hbytes, fun _ _ => rfl, rfl⟩

variable (off : Nat) (b : List Byte)

theorem writeUnit_mem :
    (writeUnit s n u off b).vat.mem = Memory.write s.vat.mem (4096 * n + u * unitSize (crcModeOf s n) + off) b := by
  obtain ⟨⟨tags, hw⟩, -⟩ := writeUnit_law s n u off b
  rw [hw]

theorem crcModeOf_writeUnit (m : Nat) : crcModeOf (writeUnit s n u off b) m = crcModeOf s m := by
  obtain ⟨⟨tags, hw⟩, -⟩ := writeUnit_law s n u off b
  rw [hw]
  exact crcModeOf_congr rfl m

theorem unitGood_writeUnit : unitGood (writeUnit s n u off b) n u = true := by
  obtain ⟨-, hg, -⟩ := writeUnit_law s n u off b
  exact hg

theorem unitPoisoned_writeUnit : unitPoisoned (writeUnit s n u off b) n u =
    if off = 0 ∧ b.length = unitSize (crcModeOf s n) then false else unitPoisoned s n u := by
  obtain ⟨-, -, -, hp, -⟩ := writeUnit_law s n u off b
  exact hp

theorem slabWritten_writeUnit :
    SlabWritten n (4096 * n + u * unitSize (crcModeOf s n) + off) (4096 * n + u * unitSize (crcModeOf s n) + off + b.length)
      s (writeUnit s n u off b) := by
  obtain ⟨⟨tags, hw⟩, -, htags, -⟩ := writeUnit_law s n u off b
  refine ⟨fun a ha => ?_, htags, by rw [hw]⟩
  rw [writeUnit_mem]
  exact Memory.get_write_outside _ _ _ _ ha

/-- The bytes written are read back where they were put. -/
theorem read_writeUnit :
    Memory.read (writeUnit s n u off b).vat.mem (4096 * n + u * unitSize (crcModeOf s n) + off) b.length = b := by
  rw [writeUnit_mem]
  exact Memory.read_write_same _ _ _

variable {b}

/-- A write of the whole unit, after flips in it, reaches that unit alone. -/
theorem slabWritten_writeUnit_corruptUnit (flips : List (Nat × Byte)) (h : b.length = unitSize (crcModeOf s n)) :
    SlabWritten n (4096 * n + u * unitSize (crcModeOf s n)) (4096 * n + (u + 1) * unitSize (crcModeOf s n))
      s (writeUnit (corruptUnit s n u flips) n u 0 b) := by
  have hwritten := slabWritten_writeUnit (corruptUnit s n u flips) n u 0 b
  rw [crcModeOf_corruptUnit, h, Nat.add_zero, Nat.add_assoc, ← Nat.succ_mul u] at hwritten
  exact (slabWritten_corruptUnit s n u flips).trans hwritten

/-- A write of the whole unit is all that the unit then holds. -/
theorem unitBytes_writeUnit (h : b.length = unitSize (crcModeOf s n)) : unitBytes (writeUnit s n u 0 b) n u = b := by
  unfold unitBytes
  rw [crcModeOf_writeUnit, writeUnit_mem, ← h]
  exact Memory.read_write_same _ _ _

end

/-! The cases of an access. -/

section
variable {s : State} {n u off : Nat} {w : Option (Nat × List Byte)} {b : List Byte} {flips : List (Nat × Byte)}

theorem vatAccess_noUnit (hu : unitCount (crcModeOf s n) ≤ u) : vatAccess s n u w flips = s := if_pos hu

theorem vatAccess_pending (hu : u < unitCount (crcModeOf s n)) (hp : slabPending s n = true) :
    vatAccess s n u w flips = queueAccess s ⟨n, u, w, flips⟩ := (if_neg (Nat.not_le.mpr hu)).trans (if_pos hp)

variable (hu : u < unitCount (crcModeOf s n)) (hp : slabPending s n = false)
include hu hp

/-- A read of a unit that is neither poisoned nor good is a failed check. -/
theorem vatAccess_read : vatAccess s n u none flips =
    if unitPoisoned (corruptUnit s n u flips) n u || unitGood (corruptUnit s n u flips) n u then corruptUnit s n u flips
    else failUnit (corruptUnit s n u flips) n u :=
  (if_neg (Nat.not_le.mpr hu)).trans (if_neg (ne_true_of_eq_false hp))

/-- A write that ends within the unit takes its place whole, or is merged with what the unit holds. -/
theorem vatAccess_write (hfit : off + b.length ≤ unitSize (crcModeOf s n)) : vatAccess s n u (some (off, b)) flips =
    let c := corruptUnit s n u flips
    if off = 0 && b.length = unitSize (crcModeOf s n) then writeUnit c n u 0 b
    else if unitPoisoned c n u || unitGood c n u then writeUnit c n u off b
    else if slabPending (failUnit c n u) n then queueAccess (failUnit c n u) ⟨n, u, some (off, b), []⟩
    else writeUnit (failUnit c n u) n u off b :=
  (if_neg (Nat.not_le.mpr hu)).trans ((if_neg (ne_true_of_eq_false hp)).trans (if_neg (Nat.not_lt.mpr hfit)))

theorem vatAccess_past (hlong : unitSize (crcModeOf s n) < off + b.length) :
    vatAccess s n u (some (off, b)) flips = corruptUnit s n u flips :=
  (if_neg (Nat.not_le.mpr hu)).trans ((if_neg (ne_true_of_eq_false hp)).trans (if_pos hlong))

theorem vatAccess_whole (hb : b.length = unitSize (crcModeOf s n)) :
    vatAccess s n u (some (0, b)) flips = writeUnit (corruptUnit s n u flips) n u 0 b :=
  (vatAccess_write hu hp (by omega)).trans (if_pos (by simp [hb]))

variable (hfit : off + b.length ≤ unitSize (crcModeOf s n)) (hpart : b.length < unitSize (crcModeOf s n))
include hfit hpart

theorem vatAccess_part (hok : unitPoisoned s n u = true ∨ unitGood s n u = true) :
    vatAccess s n u (some (off, b)) [] = writeUnit s n u off b :=
  (vatAccess_write hu hp hfit).trans ((if_neg (by simp [hpart.ne])).trans (if_pos (Bool.or_eq_true_iff.mpr hok)))

/-- A merge with a unit whose check fails comes after what Table 08.3 does. -/
theorem vatAccess_part_failed (hpoison : unitPoisoned s n u = false) (hbad : unitGood s n u = false) :
    vatAccess s n u (some (off, b)) [] =
      if slabPending (failUnit s n u) n then queueAccess (failUnit s n u) ⟨n, u, some (off, b), []⟩
      else writeUnit (failUnit s n u) n u off b :=
  (vatAccess_write hu hp hfit).trans ((if_neg (by simp [hpart.ne])).trans (if_neg (by simp [corruptUnit_nil, hpoison, hbad])))

end

end Sys2Proof.Machine
end

section
/-! PROOFS. The units of the Vat (08). -/
namespace Sys2Proof.Machine

/-- Settles O25: writes of a whole unit and of a part of one, reads, the merge with a unit that fails its check, and the accesses that wait
or change nothing. -/
theorem vatUnitsKeepWhatIsWritten : Obligations.VatUnitsKeepWhatIsWritten := by
  unfold Obligations.VatUnitsKeepWhatIsWritten
  refine ⟨?whole, ?part, ?read, ?partFailed, ?waits, ?nothing, ?past⟩
  case whole =>
    intro s n u flips b hl hn hu hp hc hb
    have hb' := hb.trans (congrArg unitSize (crcModeOf_corruptUnit s n u flips n).symm)
    obtain ⟨hbytes, htags, hshape⟩ := slabWritten_writeUnit_corruptUnit s n u flips hb
    refine ⟨_, next_congr (next_of_live (exec_vatAccess s _ flips hn hu) hl) (vatAccess_whole hc hp hb),
      unitBytes_writeUnit _ n u hb', unitGood_writeUnit .., ?_, hbytes, htags, hshape⟩
    exact (unitPoisoned_writeUnit ..).trans (if_pos ⟨rfl, hb'⟩)
  case part =>
    intro s n u off b hl hn hu hp hc hfit hpart hok
    obtain ⟨hbytes, htags, hshape⟩ := slabWritten_writeUnit s n u off b
    exact ⟨_, next_congr (next_of_live (exec_vatAccess s _ [] hn hu) hl) (vatAccess_part hc hp hfit hpart hok), unitGood_writeUnit ..,
      (unitPoisoned_writeUnit ..).trans (if_neg fun h => hpart.ne h.2), read_writeUnit .., hbytes, htags, hshape⟩
  case read =>
    exact fun s n u flips hl hn hu hp hc =>
      ⟨next_congr (next_of_live (exec_vatAccess s none flips hn hu) hl) (vatAccess_read hc hp), corruptUnit_nil s n u⟩
  case partFailed =>
    exact fun s n u off b hl hn hu hp hc hfit hpart hpoison hbad =>
      next_congr (next_of_live (exec_vatAccess s _ [] hn hu) hl) (vatAccess_part_failed hc hp hfit hpart hpoison hbad)
  case waits =>
    exact fun s n u w flips hl hn hu hc hp => next_congr (next_of_live (exec_vatAccess s w flips hn hu) hl) (vatAccess_pending hc hp)
  case nothing =>
    exact fun s n u w flips hn hu h =>
      next_congr (exec_vatAccess s w flips hn hu) (whenLive_unchanged (h.imp_right fun hc => vatAccess_noUnit hc))
  case past =>
    intro s n u off b hn hu hp hlong
    refine next_congr (exec_vatAccess s _ [] hn hu) (whenLive_unchanged (.inr ?_))
    rcases Nat.lt_or_ge u (unitCount (crcModeOf s n)) with hc | hc
    · exact vatAccess_past hc hp hlong
    · exact vatAccess_noUnit hc

end Sys2Proof.Machine
end

section
/-! SUPPORT. What completes at the Vat's slabs and banks, the transposing buffers and the Cellar, case by case (R169, R172 to R177). -/
namespace Sys2Proof.Machine

/-! How the commands run. -/

section
variable (s : State) {n b c h : Nat}

theorem exec_vatRefetchDone (fl : List (Nat × Byte)) (hn : n < 524288) :
    exec (.vatRefetchDone n fl) s = .next (whenLive s fun s => slabRefetched s n fl) :=
  onUnit_of (decide_eq_true hn) _

theorem exec_vatReadbackDone (fl : List (Nat × Byte)) (hn : n < 524288) :
    exec (.vatReadbackDone n fl) s = .next (whenLive s fun s => slabReadBack s n fl) :=
  onUnit_of (decide_eq_true hn) _

theorem exec_vatRemapDone (hn : n < 524288) : exec (.vatRemapDone n) s = .next (whenLive s fun s => slabRemapped s n) :=
  onUnit_of (decide_eq_true hn) _

theorem exec_vatBankMoveDone (hb : b < 256) : exec (.vatBankMoveDone b) s = .next (whenLive s fun s => bankMoved s b) :=
  onUnit_of (decide_eq_true hb) _

theorem exec_tbufParityError (hc : c < 9) (hh : h < 2) :
    exec (.tbufParityError c h) s = .next (whenLive s fun s => tbufParityError s c h) :=
  onUnit_of (Bool.and_eq_true_iff.mpr ⟨decide_eq_true hc, decide_eq_true hh⟩) _

theorem exec_tbufReload (hc : c < 9) (hh : h < 2) : exec (.tbufReload c h) s = .next (whenLive s fun s => tbufReload s c h) :=
  onUnit_of (Bool.and_eq_true_iff.mpr ⟨decide_eq_true hc, decide_eq_true hh⟩) _

theorem exec_cellarSlabReadDone (fl : List (Nat × Byte)) (hc : c < 33554432) (hn : n < 524288) :
    exec (.cellarSlabReadDone c n fl) s = .next (whenLive s fun s => cellarSlabReadDone s c n fl) :=
  onUnit_of (Bool.and_eq_true_iff.mpr ⟨decide_eq_true hc, decide_eq_true hn⟩) _

theorem exec_cellarRefresh (waited rate : Nat) (milliC : Int) :
    exec (.cellarRefresh waited rate milliC) s = .next (whenLive s fun s => cellarRefresh s waited rate milliC) := rfl

theorem exec_plihotuProbeWrite (src : Source) (value : List Byte) : exec (.plihotuProbeWrite src value) s =
    .next (writeItem s src ⟨ePlihotuProbeInput / 256, ePlihotuProbeInput % 256, value⟩) := rfl

end

/-! The read that stands first at the Cellar (R176). -/

section
variable {s : State} {r : CellarReq} {q : List CellarReq} (hq : s.cellar.queue = r :: q)
include hq

theorem cellarServes_first {refetch : Bool} {c n : Nat} (hr : r.refetch = refetch) (hc : r.cslab = c) (hn : r.slab = n) :
    cellarServes s refetch c n = true := by
  simp [cellarServes, hq, hr, hc, hn]

theorem cellarServed_first : cellarServed s = { s with cellar := { s.cellar with queue := q } } := by
  unfold cellarServed
  rw [hq]
  rfl

end

/-! The refetch of a slab (R169). -/

/-- The waiting steps go on while a slab is delivered to them. -/
def deliver (n : Nat) (v : State) : State :=
  let w := resume { v with vat := { v.vat with delivered := some n } }
  { w with vat := { w.vat with delivered := none } }

section
variable {s : State} {n : Nat} {fl : List (Nat × Byte)}

theorem refetching_iff : refetching s n = true ↔
    (tagOf s n).pend = .refetch ∧ cellarServes s true (tagOf s n).sourceSlab n = true := by
  simp [refetching]

theorem slabRefetched_due (h : refetching s n = true) : slabRefetched s n fl = deliver n (vatRefetchDone s n fl) :=
  if_neg (by simp [h])

theorem slabRefetched_nothing (h : (tagOf s n).pend ≠ .refetch ∨ cellarServes s true (tagOf s n).sourceSlab n = false) :
    slabRefetched s n fl = s :=
  if_pos (by simpa [refetching, ← not_and_or, Classical.or_iff_not_imp_left] using h)

variable {u : State} (hu : corruptCellar (cellarServed s) (tagOf s n).sourceSlab fl = u)
include hu

/-- A good copy is written and sealed, the read-back is owed, the waiting readers are served, and the fault is CORRECTED. -/
theorem vatRefetchDone_good (hg : cellarGood u (tagOf s n).sourceSlab = true) :
    let v := sealUnit (rawPut u (4096 * n) (cellarBytes u (tagOf s n).sourceSlab)) n 0
    FaultRaised (bump64 (serveReaders (setTag v n { tagOf v n with pend := .readback }) n) eVatRefetchCount 1) 3
      (vatRefetchDone s n fl) := by
  subst hu
  unfold vatRefetchDone
  rw [if_pos hg]
  exact raiseFault_raised _ _ _ _ (by decide)

/-- A copy that fails its check is no source any more, and the slab is poisoned. -/
theorem vatRefetchDone_bad (hg : cellarGood u (tagOf s n).sourceSlab = false) : vatRefetchDone s n fl =
    serveWaiting (poisonUnit (bump (setTag u n { tagOf u n with sourceValid := false }) eCellarCrcErrorCount) n 0) := by
  subst hu
  exact if_neg (ne_true_of_eq_false hg)

end

/-! The read-back (R169, R172). -/

section
variable {s : State} {n : Nat} {fl : List (Nat × Byte)}

theorem slabReadBack_due (h : (tagOf s n).pend = .readback) : slabReadBack s n fl = resume (vatReadbackDone s n fl) := if_pos h

theorem slabReadBack_nothing (h : (tagOf s n).pend ≠ .readback) : slabReadBack s n fl = s := if_neg h

theorem vatReadbackDone_good (hg : unitGood s n 0 = true) :
    vatReadbackDone s n [] = serveWaiting (setTag s n { tagOf s n with pend := .none }) := if_pos hg

theorem vatReadbackDone_bad (hg : unitGood (corruptUnit s n 0 fl) n 0 = false) : vatReadbackDone s n fl =
    let u := setTag (corruptUnit s n 0 fl) n { tagOf (corruptUnit s n 0 fl) n with pend := .none }
    startRemap (wr (bump (bump64 u eVatCrcErrorCount 1) (eVatBankCrcErrorCount (bankOf u n))) eVatLastErrorSlab n) n :=
  if_neg (ne_true_of_eq_false hg)

end

/-! Spare rows and bank moves (R172, R173). -/

section
variable {s : State} {n b : Nat}

theorem slabRemapped_due {r : Nat × Nat} (h : (s.vat.remaps.find? fun x => decide (x.1 = n)) = some r) :
    slabRemapped s n = resume (vatRemapDone s n) :=
  if_pos (List.any_eq_true.mpr ⟨r, List.mem_of_find?_eq_some h, List.find?_some h⟩)

theorem slabRemapped_nothing (h : ∀ x ∈ s.vat.remaps, x.1 ≠ n) : slabRemapped s n = s := by
  refine if_neg fun hany => ?_
  obtain ⟨x, hx, hslab⟩ := List.any_eq_true.mp hany
  exact h x hx (of_decide_eq_true hslab)

/-- What lies at the failing position moves to the next spare row of its bank. -/
theorem vatRemapDone_spare {r : Nat × Nat} (h : (s.vat.remaps.find? fun x => decide (x.1 = n)) = some r)
    (hleft : rd s (eVatBankSpareRowsUsed (r.2 / 4096)) < 128) : vatRemapDone s n =
    serveWaiting (bump (wr { s with vat := { s.vat with
        remaps := s.vat.remaps.filter fun x => decide (x ≠ r),
        place := (Tab.set s.vat.place ((slabAt s r.2).getD n) (r.2 / 4096 * 4096 + 2048 + rd s (eVatBankSpareRowsUsed (r.2 / 4096)))) } }
      (eVatBankSpareRowsUsed (r.2 / 4096)) (rd s (eVatBankSpareRowsUsed (r.2 / 4096)) + 1)) eVatRowRemapCount) := by
  unfold vatRemapDone
  rw [h]
  exact if_neg (Nat.not_le.mpr hleft)

theorem vatRemapDone_noSpare {r : Nat × Nat} (h : (s.vat.remaps.find? fun x => decide (x.1 = n)) = some r)
    (hnone : 128 ≤ rd s (eVatBankSpareRowsUsed (r.2 / 4096))) : vatRemapDone s n =
    fenceBank { s with vat := { s.vat with remaps := s.vat.remaps.filter fun x => decide (x ≠ r) } } (r.2 / 4096) := by
  unfold vatRemapDone
  rw [h]
  exact if_pos hnone

theorem bankMoved_due (h : b ∈ s.vat.moves) : bankMoved s b = resume (vatBankMoveDone s b) :=
  if_pos (List.contains_iff_mem.mpr h)

theorem bankMoved_nothing (h : b ∉ s.vat.moves) : bankMoved s b = s := if_neg (h ∘ List.contains_iff_mem.mp)

end

/-! The transposing buffers (R174). -/

section
variable {s : State} {c h : Nat}

theorem tbufReload_nothing (hx : (halfOf s c h).reloading = false) : tbufReload s c h = s := if_pos (by rw [hx]; rfl)

variable (hx : (halfOf s c h).reloading = true)
include hx

theorem tbufReload_waits (hr : (readSlabs s (halfOf s c h).slabs).2 = .wait) :
    tbufReload s c h = (readSlabs s (halfOf s c h).slabs).1 :=
  (if_neg (by rw [hx]; decide)).trans (if_pos hr)

/-- A half whose slabs can be read holds its tile again, or none where a slab is poisoned; the fault is CORRECTED. -/
theorem tbufReload_loads (hr : (readSlabs s (halfOf s c h).slabs).2 ≠ .wait) :
    let x := halfOf s c h
    let r := readSlabs s x.slabs
    FaultRaised (bump (setHalf r.1 c h { x with reloading := false, tile := if r.2 = .poison then none else x.tile.bind (tileAgain r.1) })
      (eTbufReloadCount c)) 4 (tbufReload s c h) := by
  unfold tbufReload
  rw [if_neg (by rw [hx]; decide), if_neg hr]
  exact raiseFault_raised _ _ _ _ (by decide)

end

/-! Stages from the Cellar (R168, R175, R177). -/

section
variable {s : State} {c n : Nat} {fl : List (Nat × Byte)}

theorem cellarSlabReadDone_due (h : cellarServes s false c n = true) :
    cellarSlabReadDone s c n fl = resume (stageSlabDone (stageSlab s c n fl) (c, n)) := if_pos h

theorem cellarSlabReadDone_nothing (h : cellarServes s false c n = false) : cellarSlabReadDone s c n fl = s :=
  if_neg (ne_true_of_eq_false h)

variable {u : State} (hu : corruptCellar (cellarServed s) c fl = u)
include hu

theorem stageSlab_good (hg : cellarGood u c = true) :
    let v := writeUnit u n 0 0 (cellarBytes u c)
    stageSlab s c n fl = serveWaiting (setTag v n { tagOf v n with sourceValid := true, sourceSlab := c, pend := .none }) := by
  subst hu
  exact if_pos hg

/-- A slab that fails its check is poisoned, and the fault is CONTAINED. -/
theorem stageSlab_bad (hg : cellarGood u c = false) :
    ∃ t, FaultRaised (bump (bump (setTag u n { tagOf u n with poisoned := true, sourceValid := false, pend := .none })
      eCellarCrcErrorCount) eVatPoisonCount) 17 t ∧ stageSlab s c n fl = serveWaiting t := by
  subst hu
  exact ⟨_, raiseFault_raised _ _ _ _ (by decide), if_neg (ne_true_of_eq_false hg)⟩

end

end Sys2Proof.Machine
end

section
/-! PROOFS. The repairs of the Vat and the reads of the Cellar (08). -/
namespace Sys2Proof.Machine

/-- Settles O26: what each completion does where it is due, and that it does nothing where it is not. -/
theorem vatRepairsComplete : Obligations.VatRepairsComplete := by
  unfold Obligations.VatRepairsComplete
  refine ⟨?refetch, ?readBack, ?readBackFailed, ?remap, ?bankMove, ?notDue, ?noBankMove, ?tbuf, ?stage, ?noStage, ?refresh, ?probe⟩
  case refetch =>
    intro s n fl r q hl hn hpend hq href hcslab hslab
    have hdue := refetching_iff.mpr ⟨hpend, cellarServes_first hq href hcslab hslab⟩
    have hexec := next_congr (next_of_live (exec_vatRefetchDone s fl hn) hl) (slabRefetched_due hdue)
    have hu := congrArg (fun w => corruptCellar w (tagOf s n).sourceSlab fl) (cellarServed_first hq)
    exact ⟨fun hg => ⟨_, vatRefetchDone_good hu hg, hexec⟩,
      fun hg => next_congr hexec (congrArg (deliver n) (vatRefetchDone_bad hu hg))⟩
  case readBack =>
    exact fun s n hl hn hpend hg => next_congr (next_of_live (exec_vatReadbackDone s [] hn) hl)
      ((slabReadBack_due hpend).trans (congrArg resume (vatReadbackDone_good hg)))
  case readBackFailed =>
    exact fun s n fl hl hn hpend hg => next_congr (next_of_live (exec_vatReadbackDone s fl hn) hl)
      ((slabReadBack_due hpend).trans (congrArg resume (vatReadbackDone_bad hg)))
  case remap =>
    intro s n r hl hn hr
    have hexec := next_congr (next_of_live (exec_vatRemapDone s hn) hl) (slabRemapped_due hr)
    exact ⟨fun hleft => next_congr hexec (congrArg resume (vatRemapDone_spare hr hleft)),
      fun hnone => next_congr hexec (congrArg resume (vatRemapDone_noSpare hr hnone))⟩
  case bankMove =>
    exact fun s b hl hb hm => next_congr (next_of_live (exec_vatBankMoveDone s hb) hl) (bankMoved_due hm)
  case notDue =>
    exact fun s n fl hn =>
      ⟨fun h => next_congr (exec_vatRefetchDone s fl hn) (whenLive_unchanged (.inr (slabRefetched_nothing h))),
        fun h => next_congr (exec_vatReadbackDone s fl hn) (whenLive_unchanged (.inr (slabReadBack_nothing h))),
        fun h => next_congr (exec_vatRemapDone s hn) (whenLive_unchanged (.inr (slabRemapped_nothing h)))⟩
  case noBankMove =>
    exact fun s b hb h => next_congr (exec_vatBankMoveDone s hb) (whenLive_unchanged (.inr (bankMoved_nothing h)))
  case tbuf =>
    intro s c h hl hc hh
    have hexec := next_of_live (exec_tbufReload s hc hh) hl
    exact ⟨next_of_live (exec_tbufParityError s hc hh) hl, fun hx => next_congr hexec (tbufReload_nothing hx),
      fun hx hr => next_congr hexec (tbufReload_waits hx hr), fun hx hr => ⟨_, hexec, tbufReload_loads hx hr⟩⟩
  case stage =>
    intro s c n fl r q hl hc hn hq href hcslab hslab
    have hdue := cellarServes_first hq href hcslab hslab
    have hexec := next_congr (next_of_live (exec_cellarSlabReadDone s fl hc hn) hl) (cellarSlabReadDone_due hdue)
    have hu := congrArg (fun w => corruptCellar w c fl) (cellarServed_first hq)
    refine ⟨fun hg => next_congr hexec (congrArg (fun w => resume (stageSlabDone w (c, n))) (stageSlab_good hu hg)), fun hg => ?_⟩
    obtain ⟨t, hraised, hstage⟩ := stageSlab_bad hu hg
    exact ⟨t, hraised, next_congr hexec (by rw [hstage])⟩
  case noStage =>
    exact fun s c n fl hc hn h =>
      next_congr (exec_cellarSlabReadDone s fl hc hn) (whenLive_unchanged (.inr (cellarSlabReadDone_nothing h)))
  case refresh => exact fun s w r m hl => next_of_live (exec_cellarRefresh s w r m) hl
  case probe => exact fun s src v => exec_plihotuProbeWrite s src v

end Sys2Proof.Machine
end

section
/-! SUPPORT. How the commands of collectives run (10, 11), which packets of members, parents and children are taken (R203, R206, R216, R219,
R446, R447), and what a JOIN does (R205, R206, R209). -/
namespace Sys2Proof.Machine

/-! How the commands run. -/

/-- A collective command whose operands name units has its effect where the data path works. -/
theorem next_served {ok : Bool} {s : State} (hok : ok = true) (hl : live s = true) (f : State → State) :
    onUnit ok (collCommand s f) = .next (served (f s)) :=
  (onUnit_of hok _).trans (congrArg Host.Outcome.next (whenLive_live hl _))

theorem packetPort_wellFormed {p : Nat} (hp : p < 128 ∨ p = 255) : (decide (p < 128) || decide (p = 255)) = true := by simpa using hp

section
variable {s : State} {p : Nat} (hl : live s = true) (hp : p < 128 ∨ p = 255) (pkt : Packet)
include hl hp

theorem exec_joinReceived : exec (.joinReceived p pkt) s = .next (served (joinReceived s p pkt)) :=
  next_served (packetPort_wellFormed hp) hl _

theorem exec_dataReceived : exec (.dataReceived p pkt) s = .next (served (dataReceived s p pkt)) :=
  next_served (packetPort_wellFormed hp) hl _

theorem exec_contribReceived : exec (.contribReceived p pkt) s = .next (served (contribReceived s p pkt)) :=
  next_served (packetPort_wellFormed hp) hl _

theorem exec_joinUpReceived : exec (.joinUpReceived p pkt) s = .next (served (joinUpReceived s p pkt)) :=
  next_served (packetPort_wellFormed hp) hl _

theorem exec_doneUpReceived : exec (.doneUpReceived p pkt) s = .next (served (doneUpReceived s p pkt)) :=
  next_served (packetPort_wellFormed hp) hl _

theorem exec_commitReceived : exec (.commitReceived p pkt) s = .next (served (commitReceived s p pkt)) :=
  next_served (packetPort_wellFormed hp) hl _

theorem exec_collResultReceived : exec (.collResultReceived p pkt) s = .next (served (collResultReceived s p pkt)) :=
  next_served (packetPort_wellFormed hp) hl _

theorem exec_endReceived : exec (.endReceived p pkt) s = .next (served (endReceived s p pkt)) :=
  next_served (packetPort_wellFormed hp) hl _

theorem exec_rerunReceived : exec (.rerunReceived p pkt) s = .next (served (rerunReceived s p pkt)) :=
  next_served (packetPort_wellFormed hp) hl _

theorem exec_reportReceived : exec (.reportReceived p pkt) s = .next (served (reportReceived s p pkt)) :=
  next_served (packetPort_wellFormed hp) hl _

theorem exec_memberAbortReceived : exec (.memberAbortReceived p pkt) s = .next (served (memberAbortReceived s p pkt)) :=
  next_served (packetPort_wellFormed hp) hl _

theorem exec_poisonNoticeReceived : exec (.poisonNoticeReceived p pkt) s = .next (served (poisonNoticeReceived s p pkt)) :=
  next_served (packetPort_wellFormed hp) hl _

theorem exec_maximaReceived : exec (.maximaReceived p pkt) s = .next (served (maximaReceived s p pkt)) :=
  next_served (packetPort_wellFormed hp) hl _

theorem exec_finalReceived : exec (.finalReceived p pkt) s = .next (served (finalReceived s p pkt)) :=
  next_served (packetPort_wellFormed hp) hl _

end

/-- MAXIMA come from a member or a child, and only those of a module open a collective (R205, R250). -/
theorem maximaReceived_eq (s : State) (p : Nat) (pkt : Packet) : maximaReceived s p pkt = placed (takeInbox s p pkt) p pkt
    (fun g => pkt.h.opcode = opANCHOR && bitsAt pkt.h.aux.toNat 0 8 = 0 && (fromMember s pkt.h g || (fromChild s pkt.h g).isSome))
    (103 < idPort pkt.h.src) fun s gid g =>
      afterPacket (match fromChild s pkt.h g with
        | some b => childMaxima s b p pkt gid g
        | none => memberMaxima s p pkt gid g) gid := rfl

/-- The commands that place a group packet other than a JOIN. -/
def placingCommands (p : Nat) (pkt : Packet) : List Instr :=
  [.dataReceived p pkt, .contribReceived p pkt, .joinUpReceived p pkt, .doneUpReceived p pkt, .commitReceived p pkt, .collResultReceived p pkt,
   .endReceived p pkt, .rerunReceived p pkt, .reportReceived p pkt, .memberAbortReceived p pkt, .poisonNoticeReceived p pkt,
   .maximaReceived p pkt, .finalReceived p pkt]

/-- Each of them has its effect by way of `placed`. -/
theorem exec_placing {s : State} {p : Nat} {pkt : Packet} {c : Instr} (hl : live s = true) (hp : p < 128 ∨ p = 255)
    (hc : c ∈ placingCommands p pkt) :
    ∃ ok opens f, exec c s = .next (served (placed (takeInbox s p pkt) p pkt ok opens f)) := by
  simp only [placingCommands, List.mem_cons, List.not_mem_nil, or_false] at hc
  rcases hc with rfl | rfl | rfl | rfl | rfl | rfl | rfl | rfl | rfl | rfl | rfl | rfl | rfl
  · exact ⟨_, _, _, exec_dataReceived hl hp pkt⟩
  · exact ⟨_, _, _, exec_contribReceived hl hp pkt⟩
  · exact ⟨_, _, _, exec_joinUpReceived hl hp pkt⟩
  · exact ⟨_, _, _, exec_doneUpReceived hl hp pkt⟩
  · exact ⟨_, _, _, exec_commitReceived hl hp pkt⟩
  · exact ⟨_, _, _, exec_collResultReceived hl hp pkt⟩
  · exact ⟨_, _, _, exec_endReceived hl hp pkt⟩
  · exact ⟨_, _, _, exec_rerunReceived hl hp pkt⟩
  · exact ⟨_, _, _, exec_reportReceived hl hp pkt⟩
  · exact ⟨_, _, _, exec_memberAbortReceived hl hp pkt⟩
  · exact ⟨_, _, _, exec_poisonNoticeReceived hl hp pkt⟩
  · exact ⟨_, _, _, next_congr (exec_maximaReceived hl hp pkt) (congrArg served (maximaReceived_eq s p pkt))⟩
  · exact ⟨_, _, _, exec_finalReceived hl hp pkt⟩

/-! Packets of a collective that is open here (R206, R447). -/

/-- A packet that is taken leaves every module's place in the tree as it was. -/
@[simp] theorem fromChild_packetTaken (s : State) (p : Nat) (pkt : Packet) (g : Group) (i : Inst) (h : Header) :
    fromChild (packetTaken s p pkt g i) h (takenGroup s g i) = fromChild s h g := by
  unfold packetTaken
  rw [takeInbox_parts]
  rfl

/-- A member is no child: its ID names an edge port. -/
theorem fromChild_of_fromMember {s : State} {h : Header} {g : Group} (hm : fromMember s h g = true) : fromChild s h g = none := by
  have hport : idPort h.src ≤ 103 := of_decide_eq_true (Bool.and_eq_true_iff.mp hm).1
  exact if_pos (by omega)

section
variable {s : State} {p : Nat} {pkt : Packet} {g : Group} {i : Inst} (h : GroupPacket s p pkt g i)
include h

section
variable (hm : fromMember s pkt.h g = true)
include hm

theorem dataReceived_taken (hop : pkt.h.opcode = opDATA) (hk : auxKind pkt.h = kCONTRIB) : dataReceived s p pkt =
    afterPacket (memberData (packetTaken s p pkt g i) p pkt (hGroup pkt.h) (takenGroup s g i)) (hGroup pkt.h) :=
  placed_taken h (by simp [hm, hop, hk]) _ _

theorem maximaReceived_ofMember (hop : pkt.h.opcode = opANCHOR) (hk : bitsAt pkt.h.aux.toNat 0 8 = 0) : maximaReceived s p pkt =
    afterPacket (memberMaxima (packetTaken s p pkt g i) p pkt (hGroup pkt.h) (takenGroup s g i)) (hGroup pkt.h) := by
  rw [maximaReceived_eq, placed_taken h (by simp [hm, hop, hk])]
  simp only [fromChild_packetTaken, fromChild_of_fromMember hm]

theorem memberAbortReceived_taken {r : Nat} (hop : pkt.h.opcode = opABORT) (hc : abCause pkt.payload = caMEMBER_ABORT)
    (hr : rankOf g.gdef pkt.h.src = some r) : memberAbortReceived s p pkt =
    afterColl (report (packetTaken s p pkt g i) (hGroup pkt.h) csMEMBER_ABORT r (rankIdNum g.gdef r)) :=
  (placed_taken h (by simp [hm, hop, hc]) _ _).trans (by simp only [takenGroup, hr])

end

section
variable (hm : fromParent s pkt.h g = true)
include hm

theorem commitReceived_taken (hop : pkt.h.opcode = opCOLL_RESULT) (hk : auxKind pkt.h = kCOMMIT) : commitReceived s p pkt =
    afterColl (commitLocal (packetTaken s p pkt g i) (hGroup pkt.h) (recOf (leNat pkt.payload))) :=
  placed_taken h (by simp [hm, hop, hk]) _ _

theorem collResultReceived_taken (hop : pkt.h.opcode = opCOLL_RESULT) (hk : auxKind pkt.h = kRESULT) : collResultReceived s p pkt =
    afterColl (takeResult (packetTaken s p pkt g i) pkt (hGroup pkt.h) (takenGroup s g i)) :=
  placed_taken h (by simp [hm, hop, hk]) _ _

theorem endReceived_taken (hop : pkt.h.opcode = opABORT) (hc : abCause pkt.payload = caEND) : endReceived s p pkt =
    afterColl (endInst (packetTaken s p pkt g i) (hGroup pkt.h) (abStatus pkt.payload) (abRank pkt.payload) (abId pkt.payload)) :=
  placed_taken h (by simp [hm, hop, hc]) _ _

theorem rerunReceived_taken (hop : pkt.h.opcode = opABORT) (hc : abCause pkt.payload = caRERUN) : rerunReceived s p pkt =
    afterColl (rerunLocal (packetTaken s p pkt g i) (hGroup pkt.h)) :=
  placed_taken h (by simp [hm, hop, hc]) _ _

theorem poisonNoticeReceived_taken (hop : pkt.h.opcode = opPOISON) : poisonNoticeReceived s p pkt =
    passPoison (packetTaken s p pkt g i) pkt (hGroup pkt.h) (takenGroup s g i) :=
  placed_taken h (by simp [hm, hop]) _ _

theorem finalReceived_taken (hop : pkt.h.opcode = opANCHOR) (hk : bitsAt pkt.h.aux.toNat 0 8 = 1) : finalReceived s p pkt =
    afterPacket (noteFinal (packetTaken s p pkt g i) p pkt (hGroup pkt.h) (takenGroup s g i)) (hGroup pkt.h) :=
  placed_taken h (by simp [hm, hop, hk]) _ _

end

/-- A CONTRIB whose sender the operation allows is taken (R216, R219). -/
theorem contribReceived_taken (hok : contribOk s pkt.h g = true) : contribReceived s p pkt =
    afterPacket (takeContrib (packetTaken s p pkt g i) p pkt (hGroup pkt.h) (takenGroup s g i)) (hGroup pkt.h) :=
  placed_taken h hok _ _

section
variable {b : Nat} (hb : fromChild s pkt.h g = some b)
include hb

theorem maximaReceived_ofChild (hop : pkt.h.opcode = opANCHOR) (hk : bitsAt pkt.h.aux.toNat 0 8 = 0) : maximaReceived s p pkt =
    afterPacket (childMaxima (packetTaken s p pkt g i) b p pkt (hGroup pkt.h) (takenGroup s g i)) (hGroup pkt.h) := by
  rw [maximaReceived_eq, placed_taken h (by simp [hb, hop, hk])]
  simp only [fromChild_packetTaken, hb]

theorem joinUpReceived_taken (hop : pkt.h.opcode = opDATA) (hk : auxKind pkt.h = kJOIN_UP) : joinUpReceived s p pkt =
    afterPacket (takeJoinUp (packetTaken s p pkt g i) pkt (hGroup pkt.h) (takenGroup s g i)) (hGroup pkt.h) :=
  placed_taken h (by simp [hb, hop, hk]) _ _

theorem doneUpReceived_taken (hop : pkt.h.opcode = opDATA) (hk : auxKind pkt.h = kDONE_UP) : doneUpReceived s p pkt =
    afterColl (settleGroup (setInst (packetTaken s p pkt g i) (hGroup pkt.h)
      { i with lastPacket := fcNow s, doneUps := Tab.set i.doneUps b (doneOf pkt.payload) }) (hGroup pkt.h)) :=
  (placed_taken h (by simp [hb, hop, hk]) _ _).trans (by rw [fromChild_packetTaken, hb]; rfl)

theorem reportReceived_taken (hop : pkt.h.opcode = opABORT) (hc : abCause pkt.payload = caREPORT) : reportReceived s p pkt =
    afterColl (report (packetTaken s p pkt g i) (hGroup pkt.h) (abStatus pkt.payload) (abRank pkt.payload) (abId pkt.payload)) :=
  placed_taken h (by simp [hb, hop, hc]) _ _

end

end

section
variable {s : State} {h : Header} {g : Group} {i : Inst} (hi : g.inst = some i) (hop : h.opcode = opDATA) (hk : auxKind h = kCONTRIB)
include hi hop hk

/-- For SHIFT and PERMUTE a CONTRIB comes from the edge module of its rank (R219). -/
theorem contribOk_fromEdge {d : BitVec 512} (hd : i.desc = some d) (hshift : dOp d = 6 ∨ dOp d = 7) (hlocal : localRanks s g.gdef ≠ [])
    (hedge : fromEdgeOf h g = true) : contribOk s h g = true := by
  simp [contribOk, hi, hop, hk, hd, hshift, hlocal, hedge]

/-- For any other operation, and before it is known, it comes from a child (R216). -/
theorem contribOk_fromChild {b : Nat} (hb : fromChild s h g = some b) (hother : ∀ d, i.desc = some d → dOp d ≠ 6 ∧ dOp d ≠ 7) :
    contribOk s h g = true := by
  cases hd : i.desc with
  | none => simp [contribOk, hi, hop, hk, hb, hd]
  | some d => simp [contribOk, hi, hop, hk, hb, hd, hother d hd]

end

/-! JOINs (R205, R206, R209). -/

/-- The collective that a JOIN of the current epoch is of: the one that is open, or one that it opens. -/
def joinedInst (s : State) (g : Group) : Inst :=
  match g.inst with
  | some i => { i with lastPacket := fcNow s }
  | none => { runs := g.runs + 1, resident := decide (residentCount s < 4096), lastPacket := fcNow s, waiting := g.early }

/-- The group with that collective. -/
def joinedGroup (s : State) (g : Group) : Group :=
  { g with inst := some (joinedInst s g), early := if g.inst = none then [] else g.early }

@[simp] theorem joinedInst_takeInbox (s : State) (p : Nat) (pkt : Packet) (g : Group) :
    joinedInst (takeInbox s p pkt) g = joinedInst s g := by
  rw [takeInbox_parts]
  rfl

@[simp] theorem joinedGroup_takeInbox (s : State) (p : Nat) (pkt : Packet) (g : Group) :
    joinedGroup (takeInbox s p pkt) g = joinedGroup s g := by
  simp only [joinedGroup, joinedInst_takeInbox]

@[simp] theorem fcNow_setGroup (s : State) (k : Nat) (g : Group) : fcNow (setGroup s k g) = fcNow s := rfl

theorem touchInst_openInst {s : State} {n : Nat} {g : Group} (hg : groupOf s n = some g) :
    touchInst (openInst s n) n = setGroup s n (joinedGroup s g) := by
  cases hi : g.inst with
  | some i => simp [openInst, touchInst, instOf, setInst, joinedGroup, joinedInst, hg, hi]
  | none => simp [openInst, touchInst, instOf, setInst, joinedGroup, joinedInst, hg, hi]

theorem nextEpoch_ne (e : Nat) : nextEpoch e ≠ e := by
  unfold nextEpoch
  split <;> omega

theorem joinReceived_join {s : State} {p : Nat} {pkt : Packet} (hop : pkt.h.opcode = opJOIN) :
    joinReceived s p pkt = afterPacket (takeJoin (takeInbox s p pkt) p pkt) (hGroup pkt.h) := if_neg (not_not.mpr hop)

theorem joinReceived_other {s : State} {p : Nat} {pkt : Packet} (hop : pkt.h.opcode ≠ opJOIN) :
    joinReceived s p pkt = bump (takeInbox s p pkt) eCollStaleDiscardCount := if_pos hop

section
variable {s : State} {p : Nat} {pkt : Packet}

/-- A JOIN for no group here, for one still being installed, of a stranger or not by its port is counted and answered NOT_MEMBER. -/
theorem takeJoin_notMember (h : groupOf s (hGroup pkt.h) = none ∨ installing s (hGroup pkt.h) = true ∨
      (isEdge p && sourceOk s p pkt.h.src) = false ∨ ∃ g, groupOf s (hGroup pkt.h) = some g ∧ rankOf g.gdef pkt.h.src = none) :
    takeJoin s p pkt = sendAbort (bump s eCollNotMemberCount) (hGroup pkt.h) (hEpoch pkt.h) pkt.h.slice.toNat pkt.h.src
      (abortBytes caNOT_MEMBER 0 0 0xFFFFFFFF 0xFFFFFFFF) := by
  unfold takeJoin
  dsimp only
  cases hg : groupOf s (hGroup pkt.h) with
  | none => rfl
  | some g =>
    by_cases hin : installing s (hGroup pkt.h) = true
    · exact if_pos hin
    · refine (if_neg hin).trans ?_
      cases hr : rankOf g.gdef pkt.h.src with
      | none => rfl
      | some r =>
        have hsrc : (isEdge p && sourceOk s p pkt.h.src) = false := by simpa [hg, hin, hr] using h
        exact if_pos (by rw [hsrc]; rfl)

variable {g : Group} {r : Nat} (hg : groupOf s (hGroup pkt.h) = some g) (hin : installing s (hGroup pkt.h) = false)
  (hr : rankOf g.gdef pkt.h.src = some r) (hsrc : (isEdge p && sourceOk s p pkt.h.src) = true)
include hg hin hr hsrc

/-- A member's JOIN by its epoch: for the collective of now, held for the next one, or stale. -/
theorem takeJoin_member : takeJoin s p pkt =
    if hEpoch pkt.h = g.epoch then
      if (joinedInst s g).resident then
        checkedJoin (setGroup s (hGroup pkt.h) (joinedGroup s g)) (hGroup pkt.h) (joinedGroup s g) r (BitVec.ofNat 512 (leNat pkt.payload))
      else setGroup s (hGroup pkt.h)
        { joinedGroup s g with inst := some { joinedInst s g with parked := (joinedInst s g).parked ++ [(p, pkt)] } }
    else if hEpoch pkt.h = nextEpoch g.epoch && g.inst.isSome then
      if g.heldJoins.any fun x => x.2.h.src = pkt.h.src then bump64 s eCollDuplicateCount 1
      else setGroup s (hGroup pkt.h) { g with heldJoins := g.heldJoins ++ [(p, pkt)] }
    else sendAbort (bump s eCollStaleDiscardCount) (hGroup pkt.h) g.epoch g.gdef.slice pkt.h.src
      (abortBytes caSTALE_EPOCH 0 g.epoch 0xFFFFFFFF 0xFFFFFFFF) := by
  unfold takeJoin
  simp only [hg, hr, hsrc, touchInst_openInst hg, groupOf_setGroup_same]
  refine (if_neg (ne_true_of_eq_false hin)).trans ((if_neg (by decide)).trans ?_)
  simp only [joinedGroup, setInst, groupOf_setGroup_same, setGroup_setGroup_same]

theorem takeJoin_resident (hep : hEpoch pkt.h = g.epoch) (hres : (joinedInst s g).resident = true) : takeJoin s p pkt =
    checkedJoin (setGroup s (hGroup pkt.h) (joinedGroup s g)) (hGroup pkt.h) (joinedGroup s g) r (BitVec.ofNat 512 (leNat pkt.payload)) := by
  rw [takeJoin_member hg hin hr hsrc, if_pos hep, if_pos hres]

theorem takeJoin_notResident (hep : hEpoch pkt.h = g.epoch) (hres : (joinedInst s g).resident = false) : takeJoin s p pkt =
    setGroup s (hGroup pkt.h)
      { joinedGroup s g with inst := some { joinedInst s g with parked := (joinedInst s g).parked ++ [(p, pkt)] } } := by
  rw [takeJoin_member hg hin hr hsrc, if_pos hep, if_neg (ne_true_of_eq_false hres)]

theorem takeJoin_stale (hep : hEpoch pkt.h ≠ g.epoch) (hnext : hEpoch pkt.h ≠ nextEpoch g.epoch ∨ g.inst = none) : takeJoin s p pkt =
    sendAbort (bump s eCollStaleDiscardCount) (hGroup pkt.h) g.epoch g.gdef.slice pkt.h.src
      (abortBytes caSTALE_EPOCH 0 g.epoch 0xFFFFFFFF 0xFFFFFFFF) := by
  rw [takeJoin_member hg hin hr hsrc, if_neg hep, if_neg]
  rcases hnext with hnext | hnext <;> simp [hnext]

variable (hep : hEpoch pkt.h = nextEpoch g.epoch) (hopen : g.inst ≠ none)
include hep hopen

theorem takeJoin_next : takeJoin s p pkt =
    if g.heldJoins.any fun x => x.2.h.src = pkt.h.src then bump64 s eCollDuplicateCount 1
    else setGroup s (hGroup pkt.h) { g with heldJoins := g.heldJoins ++ [(p, pkt)] } := by
  rw [takeJoin_member hg hin hr hsrc, if_neg (by rw [hep]; exact nextEpoch_ne _), if_pos]
  simp [hep, Option.isSome_iff_ne_none, hopen]

theorem takeJoin_duplicate (hheld : ∃ x ∈ g.heldJoins, x.2.h.src = pkt.h.src) :
    takeJoin s p pkt = bump64 s eCollDuplicateCount 1 :=
  (takeJoin_next hg hin hr hsrc hep hopen).trans (if_pos (by simpa using hheld))

theorem takeJoin_held (hnew : ∀ x ∈ g.heldJoins, x.2.h.src ≠ pkt.h.src) :
    takeJoin s p pkt = setGroup s (hGroup pkt.h) { g with heldJoins := g.heldJoins ++ [(p, pkt)] } :=
  (takeJoin_next hg hin hr hsrc hep hopen).trans (if_neg (by simpa using hnew))

end

end Sys2Proof.Machine
end

section
/-! PROOFS. Packets of members, of the parent and of children (10). -/
namespace Sys2Proof.Machine

/-- Settles O28: each packet by its sender, its group and its epoch, the JOINs by the collective that they meet. -/
theorem memberPacketsReachTheirInstance : Obligations.MemberPacketsReachTheirInstance := by
  unfold Obligations.MemberPacketsReachTheirInstance
  refine ⟨?ofMember, ?join, ?notMember, ?noJoin, ?dropped⟩
  case ofMember =>
    intro s p pkt g i h hm
    obtain ⟨hl, hp, -⟩ := id h
    exact ⟨fun hop hk => next_congr (exec_dataReceived hl hp pkt) (congrArg served (dataReceived_taken h hm hop hk)),
      fun hop hk => next_congr (exec_maximaReceived hl hp pkt) (congrArg served (maximaReceived_ofMember h hm hop hk)),
      fun r hop hc hr =>
        next_congr (exec_memberAbortReceived hl hp pkt) (congrArg served (memberAbortReceived_taken h hm hop hc hr))⟩
  case join =>
    intro s p pkt g r hl hedge hsource hop hin hg hr
    have hgroup : groupOf (takeInbox s p pkt) (hGroup pkt.h) = some g := (groupOf_takeInbox _ _ _ _).trans hg
    have hinst : installing (takeInbox s p pkt) (hGroup pkt.h) = false := (installing_takeInbox _ _ _ _).trans hin
    have hsrc : (isEdge p && sourceOk (takeInbox s p pkt) p pkt.h.src) = true := by simp [isEdge, hedge, hsource]
    have hexec {t : State} (ht : takeJoin (takeInbox s p pkt) p pkt = t) :
        exec (.joinReceived p pkt) s = .next (served (afterPacket t (hGroup pkt.h))) :=
      next_congr (exec_joinReceived hl (.inl (by omega)) pkt) (congrArg served ((joinReceived_join hop).trans (by rw [ht])))
    refine ⟨fun hep hres => hexec ?_, fun hep hres => hexec ?_, fun hep hopen hheld => hexec ?_, fun hep hopen hnew => hexec ?_,
      fun hep hnext => hexec ?_⟩
    · exact (takeJoin_resident hgroup hinst hr hsrc hep (by rw [joinedInst_takeInbox]; exact hres)).trans
        (by rw [joinedGroup_takeInbox]; rfl)
    · exact (takeJoin_notResident hgroup hinst hr hsrc hep (by rw [joinedInst_takeInbox]; exact hres)).trans
        (by rw [joinedGroup_takeInbox, joinedInst_takeInbox]; rfl)
    · exact takeJoin_duplicate hgroup hinst hr hsrc hep hopen hheld
    · exact takeJoin_held hgroup hinst hr hsrc hep hopen hnew
    · exact takeJoin_stale hgroup hinst hr hsrc hep hnext
  case notMember =>
    intro s p pkt hl hp hop h
    exact next_congr (exec_joinReceived hl hp pkt) (congrArg served ((joinReceived_join hop).trans
      (congrArg (fun t => afterPacket t (hGroup pkt.h)) (takeJoin_notMember (by simpa using h)))))
  case noJoin =>
    exact fun s p pkt hl hp hop => next_congr (exec_joinReceived hl hp pkt) (congrArg served (joinReceived_other hop))
  case dropped =>
    intro s p pkt c hl hp hc
    obtain ⟨ok, opens, f, hexec⟩ := exec_placing hl hp hc
    exact ⟨fun h => next_congr hexec (congrArg served (placed_stranger h.1 h.2 ok opens f)),
      fun hport h => next_congr hexec (congrArg served (placed_stale hport h ok opens f))⟩

/-- Settles O29: each kind of packet of the parent and of a child, and the CONTRIBs of another edge module. -/
theorem treePacketsReachTheirInstance : Obligations.TreePacketsReachTheirInstance := by
  unfold Obligations.TreePacketsReachTheirInstance
  refine ⟨?ofParent, ?ofEdge, ?ofChild⟩
  case ofParent =>
    intro s p pkt g i h hm
    obtain ⟨hl, hp, -⟩ := id h
    exact ⟨fun hop hk => next_congr (exec_commitReceived hl hp pkt) (congrArg served (commitReceived_taken h hm hop hk)),
      fun hop hk => next_congr (exec_collResultReceived hl hp pkt) (congrArg served (collResultReceived_taken h hm hop hk)),
      fun hop hc => next_congr (exec_endReceived hl hp pkt) (congrArg served (endReceived_taken h hm hop hc)),
      fun hop hc => next_congr (exec_rerunReceived hl hp pkt) (congrArg served (rerunReceived_taken h hm hop hc)),
      fun hop => next_congr (exec_poisonNoticeReceived hl hp pkt) (congrArg served (poisonNoticeReceived_taken h hm hop)),
      fun hop hk => next_congr (exec_finalReceived hl hp pkt) (congrArg served (finalReceived_taken h hm hop hk))⟩
  case ofEdge =>
    intro s p pkt g i d h _ hedge hlocal hd hshift hop hk
    obtain ⟨hl, hp, -, -, -, hi, -⟩ := id h
    exact next_congr (exec_contribReceived hl hp pkt)
      (congrArg served (contribReceived_taken h (contribOk_fromEdge hi hop hk hd hshift hlocal hedge)))
  case ofChild =>
    intro s p pkt g i b h hb
    obtain ⟨hl, hp, -, -, -, hi, -⟩ := id h
    exact ⟨fun hop hk hother => next_congr (exec_contribReceived hl hp pkt)
        (congrArg served (contribReceived_taken h (contribOk_fromChild hi hop hk hb hother))),
      fun hop hk => next_congr (exec_maximaReceived hl hp pkt) (congrArg served (maximaReceived_ofChild h hb hop hk)),
      fun hop hk => next_congr (exec_joinUpReceived hl hp pkt) (congrArg served (joinUpReceived_taken h hb hop hk)),
      fun hop hk => next_congr (exec_doneUpReceived hl hp pkt) (congrArg served (doneUpReceived_taken h hb hop hk)),
      fun hop hc => next_congr (exec_reportReceived hl hp pkt) (congrArg served (reportReceived_taken h hb hop hc))⟩

end Sys2Proof.Machine
end

section
/-! SUPPORT. The commits of groups, the entries and answers of other modules (R200, R201), and recomputed trees (R204). -/
namespace Sys2Proof.Machine

/-! How the commands run. -/

section
variable (s : State) (src : Source)

theorem exec_groupInstall : exec (.groupInstall src) s =
    .next (whenWritten s src eGroupStageCommit [1] s.groupCommit.isNone fun s => resume (beginInstall s src)) := rfl

theorem exec_groupRemove : exec (.groupRemove src) s =
    .next (whenWritten s src eGroupStageCommit [2] s.groupCommit.isNone fun s => resume (beginRemove s src)) := rfl

end

section
variable {s : State} {k m : Nat} (hl : live s = true) (hk : k < 65536)
include hl hk

theorem exec_groupEntryMsg (o : Nat) (e : Option GroupDef) :
    exec (.groupEntryMsg k o e) s = .next (served (groupEntryMsg s k o e)) := next_served (decide_eq_true hk) hl _

theorem exec_groupEntryAck (r : Nat) (hm : m < 4096) :
    exec (.groupEntryAck k m r) s = .next (served (groupEntryAck s k m r)) :=
  next_served (Bool.and_eq_true_iff.mpr ⟨decide_eq_true hk, decide_eq_true hm⟩) hl _

theorem exec_treeRecompute (e : Option GroupDef) :
    exec (.treeRecompute k e) s = .next (served (treeRecompute s k e)) := next_served (decide_eq_true hk) hl _

end

/-! Commits (R200, R201). -/

section
variable (s : State) (src : Source)

/-- A definition that is refused at once only leaves its reason. -/
theorem beginInstall_eq : beginInstall s src =
    if stageRefusal s src ≠ 0 then wr s eGroupInstallResult (stageRefusal s src) else beginInstall s src := by
  split
  next h => exact if_pos h
  next => rfl

/-- A removal of a group that is not here only leaves its reason. -/
theorem beginRemove_eq : beginRemove s src =
    if groupOf s (scopedNum s src eGroupStageId) = none then wr s eGroupInstallResult 8 else beginRemove s src := by
  split
  next h => simp only [beginRemove, h]
  next => rfl

/-- A write to GroupStageCommit changes nothing while a commit runs, or where the checks refuse it. -/
theorem stageCommit_unchanged {v : List Byte} (h : s.groupCommit ≠ none ∨ ¬ Accepted s src eGroupStageCommit v) (f : State → State) :
    whenWritten s src eGroupStageCommit v s.groupCommit.isNone f = s := by
  rcases h with hruns | hrefused
  · exact whenWritten_owner (by simpa [Option.isSome_iff_ne_none] using hruns) _
  · exact whenWritten_refused hrefused _

end

/-! Entries (R200, R201). -/

/-- A module is told, where the sizes say which it is. -/
def tellModule (z : Option (Nat × Nat × Nat)) (m : Nat) (t : State) : State :=
  match z with
  | some z => sendMgmt t (coordOfNum z m)
  | none => t

section
variable {s : State} {k o : Nat} {d : GroupDef}

theorem groupEntryMsg_installs (h : entryRefusal s k d.slice = 0) :
    groupEntryMsg s k o (some d) = tellModule s.topo.sizes o (setGroup s k { gdef := d }) := by
  simp only [groupEntryMsg, if_pos h]
  rfl

theorem groupEntryMsg_refused (h : entryRefusal s k d.slice ≠ 0) : groupEntryMsg s k o (some d) = tellModule s.topo.sizes o s := by
  simp only [groupEntryMsg, if_neg h]
  rfl

/-- A deletion ends the collective that is open, and answers as the state then stands. -/
theorem groupEntryMsg_deletes : groupEntryMsg s k o none =
    let t := endInst s k csREMOVED 0xFFFFFFFF 0xFFFFFFFF
    tellModule t.topo.sizes o { t with groups := Tab.erase t.groups k } := rfl

theorem endInst_noGroup (h : groupOf s k = none) (status rank id : Nat) : endInst s k status rank id = s := by
  simp only [endInst, h]

end

/-! Answers (R200). -/

section
variable {s : State} {k m r : Nat}

/-- No answer counts where no commit runs or the torus has no sizes. -/
theorem groupEntryAck_noCommit (h : s.groupCommit = none ∨ s.topo.sizes = none) : groupEntryAck s k m r = s := by
  unfold groupEntryAck
  split
  next c z hc hz =>
    rcases h with h | h
    · exact absurd (hc.symm.trans h) nofun
    · exact absurd (hz.symm.trans h) nofun
  next => rfl

variable {c : GroupCommit} {z : Nat × Nat × Nat} (hc : s.groupCommit = some c) (hz : s.topo.sizes = some z)
include hc hz

theorem groupEntryAck_notAwaited (h : c.group ≠ k ∨ coordOfNum z m ∉ c.awaiting) : groupEntryAck s k m r = s := by
  simp only [groupEntryAck, hc, hz]
  exact if_pos (by simpa using h)

theorem groupEntryAck_awaited (hk : c.group = k) (hm : coordOfNum z m ∈ c.awaiting) : groupEntryAck s k m r =
    let c' := { c with awaiting := (c.awaiting.filter fun x => x ≠ coordOfNum z m),
                       accepted := if r = 0 then c.accepted ++ [coordOfNum z m] else c.accepted, refusal := worseOf c.refusal r }
    if c'.awaiting = [] then commitOutcome s c' else { s with groupCommit := some c' } := by
  simp only [groupEntryAck, hc, hz]
  rw [if_neg (by simp [hk, hm])]
  simp only [List.isEmpty_iff]

end

/-! Recomputed trees (R204). -/

section
variable {s : State} {k : Nat} {d : GroupDef}

theorem treeRecompute_other (h : recomputed s k d = false) : treeRecompute s k (some d) = s := by
  cases hg : groupOf s k with
  | none => simp only [treeRecompute, hg, h, Bool.false_eq_true, if_false]
  | some g => simp only [treeRecompute, hg, h, Bool.not_false, if_true]

theorem treeRecompute_none_gone (hg : groupOf s k = none) : treeRecompute s k none = s := by
  simp only [treeRecompute, hg]

theorem treeRecompute_new (hg : groupOf s k = none) (h : recomputed s k d = true) :
    treeRecompute s k (some d) = setGroup s k { gdef := d, epoch := 0 } := by
  simp only [treeRecompute, hg, h, if_true]

variable {g : Group} (hg : groupOf s k = some g)
include hg

theorem treeRecompute_some (h : recomputed s k d = true) : treeRecompute s k (some d) =
    if g.inst.isSome then setGroup s k { g with nextDef := some d, leaving := false, lost := [] }
    else setGroup s k { g with gdef := d, lost := [] } := by
  simp only [treeRecompute, hg, h, Bool.not_true, Bool.false_eq_true, if_false]

theorem treeRecompute_none : treeRecompute s k none =
    if g.inst.isSome then setGroup s k { g with leaving := true } else { s with groups := Tab.erase s.groups k } := by
  simp only [treeRecompute, hg]

end

end Sys2Proof.Machine
end

section
/-! PROOFS. Commits of groups, entries, answers and recomputed trees (10). -/
namespace Sys2Proof.Machine

/-- Settles O27: each commit where it is accepted and where it is not, each entry, answer and tree by what it meets here. -/
theorem groupCommitsAndEntriesApply : Obligations.GroupCommitsAndEntriesApply := by
  unfold Obligations.GroupCommitsAndEntriesApply
  refine ⟨?install, ?remove, ?noInstall, ?noRemove, ?entry, ?answer, ?noAnswer, ?newTree, ?tree⟩
  case install =>
    exact fun s src ha hc => next_congr (exec_groupInstall s src)
      ((whenWritten_accepted ha (by rw [hc]; rfl) _).trans (congrArg resume (beginInstall_eq s src)))
  case remove =>
    exact fun s src ha hc => next_congr (exec_groupRemove s src)
      ((whenWritten_accepted ha (by rw [hc]; rfl) _).trans (congrArg resume (beginRemove_eq s src)))
  case noInstall => exact fun s src h => next_congr (exec_groupInstall s src) (stageCommit_unchanged s src h _)
  case noRemove => exact fun s src h => next_congr (exec_groupRemove s src) (stageCommit_unchanged s src h _)
  case entry =>
    intro s k o d hl hk
    refine ⟨fun h => next_congr (exec_groupEntryMsg hl hk o (some d)) (congrArg served (groupEntryMsg_installs h)),
      fun h => next_congr (exec_groupEntryMsg hl hk o (some d)) (congrArg served (groupEntryMsg_refused h)), fun h => ?_, fun _ => ?_⟩
    · refine next_congr (exec_groupEntryMsg hl hk o none) (congrArg served (groupEntryMsg_deletes.trans ?_))
      rw [endInst_noGroup h]
      rfl
    · exact next_congr (exec_groupEntryMsg hl hk o none) (congrArg served groupEntryMsg_deletes)
  case answer =>
    exact fun s k m r c z hl hk hm hc hz =>
      ⟨fun hgroup hawait => next_congr (exec_groupEntryAck hl hk r hm) (congrArg served (groupEntryAck_awaited hc hz hgroup hawait)),
        fun h => next_congr (exec_groupEntryAck hl hk r hm) (congrArg served (groupEntryAck_notAwaited hc hz h))⟩
  case noAnswer =>
    exact fun s k m r hl hk hm h => next_congr (exec_groupEntryAck hl hk r hm) (congrArg served (groupEntryAck_noCommit h))
  case newTree =>
    exact fun s k d hl hk =>
      ⟨fun h => next_congr (exec_treeRecompute hl hk (some d)) (congrArg served (treeRecompute_other h)), fun hg =>
        ⟨next_congr (exec_treeRecompute hl hk none) (congrArg served (treeRecompute_none_gone hg)),
          fun h => next_congr (exec_treeRecompute hl hk (some d)) (congrArg served (treeRecompute_new hg h))⟩⟩
  case tree =>
    intro s k g d hl hk hg
    have hnone {t : State} (h : treeRecompute s k none = t) : exec (.treeRecompute k none) s = .next (served t) :=
      next_congr (exec_treeRecompute hl hk none) (congrArg served h)
    have hsome {t : State} (h : treeRecompute s k (some d) = t) : exec (.treeRecompute k (some d)) s = .next (served t) :=
      next_congr (exec_treeRecompute hl hk (some d)) (congrArg served h)
    refine ⟨fun hi => ⟨fun h => hsome ((treeRecompute_some hg h).trans (if_neg ?_)), hnone ((treeRecompute_none hg).trans (if_neg ?_))⟩,
      fun hi => ⟨fun h => hsome ((treeRecompute_some hg h).trans (if_pos ?_)), hnone ((treeRecompute_none hg).trans (if_pos ?_))⟩⟩
    · simp [hi]
    · simp [hi]
    · exact Option.isSome_iff_ne_none.mpr hi
    · exact Option.isSome_iff_ne_none.mpr hi

end Sys2Proof.Machine
end

section
/-! SUPPORT. The timers of a collective (R223, R224), the loss of a tree module (R225, R232, R233) and the swap of contexts (R236). -/
namespace Sys2Proof.Machine

/-! How the commands run. -/

section
variable {s : State} {k m : Nat} (hl : live s = true) (hk : k < 65536)
include hl hk

theorem exec_joinTimeout : exec (.joinTimeout k) s = .next (served (joinTimeout s k)) := next_served (decide_eq_true hk) hl _

theorem exec_progressTimeout : exec (.progressTimeout k) s = .next (served (progressTimeout s k)) :=
  next_served (decide_eq_true hk) hl _

theorem exec_contextSwap : exec (.contextSwap k) s = .next (served (contextSwap s k)) := next_served (decide_eq_true hk) hl _

theorem exec_treeLossReport (b : Bool) (hm : m < 4096) :
    exec (.treeLossReport k m b) s = .next (served (treeLossReport s k m b)) :=
  next_served (Bool.and_eq_true_iff.mpr ⟨decide_eq_true hk, decide_eq_true hm⟩) hl _

end

/-- The open collective of a group that has one. -/
theorem instOf_eq {s : State} {k : Nat} {g : Group} {i : Inst} (hg : groupOf s k = some g) (hi : g.inst = some i) :
    instOf s k = some i := by
  simp only [instOf, hg, Option.bind_some, hi]

section
variable {s : State} {k : Nat} {g : Group} {i : Inst} (hg : groupOf s k = some g) (hi : g.inst = some i)
include hg hi

/-! Timers (R223, R224). -/

theorem joinTimeout_joining (hroot : isRoot g.gdef = true) (hdone : i.joinDone = false) : joinTimeout s k =
    afterColl (endInst s k csJOIN_TIMEOUT (firstAbsent s g i) (rankIdNum g.gdef (firstAbsent s g i))) := by
  simp only [joinTimeout, hg, hi]
  exact if_neg (by simp [hroot, hdone])

theorem joinTimeout_nothing (h : isRoot g.gdef = false ∨ i.joinDone = true) : joinTimeout s k = s := by
  simp only [joinTimeout, hg, hi]
  exact if_pos (by simpa using h)

theorem progressTimeout_open : progressTimeout s k =
    if owedData s g i then afterColl (report s k csSTALL 0xFFFFFFFF 0xFFFFFFFF) else s := by
  simp only [progressTimeout, hg, hi]

/-! Contexts (R236). -/

theorem contextSwap_resident (h : i.resident = true) : contextSwap s k = s := by
  simp only [contextSwap, instOf_eq hg hi, h, if_true]

theorem contextSwap_swaps (h : i.resident = false) : contextSwap s k =
    let u := if residentCount s < 4096 then s else match longestIdle s with | some o => setResident s o false | none => s
    i.parked.foldl replayPacket (bump64 (setInst u k { i with resident := true, parked := [] }) eCollContextSwapCount 1) := by
  unfold contextSwap
  rw [instOf_eq hg hi]
  exact if_neg (ne_true_of_eq_false h)

end

/-! Losses (R225, R232, R233). -/

/-- A relay that is lost is noted once; a member module that is lost is not. -/
def lossNoted (s : State) (k : Nat) (g : Group) (c : Nat) (isMember : Bool) : State :=
  if isMember = true ∨ c ∈ g.lost then s else setGroup s k { g with lost := g.lost ++ [c] }

section
variable {s : State} {k m : Nat} {b : Bool} {g : Group} {z : Nat × Nat × Nat} (hg : groupOf s k = some g) (hz : s.topo.sizes = some z)
include hg hz

theorem treeLossReport_eq : treeLossReport s k m b =
    let v := lossNoted s k g (coordOfNum z m) b
    let id := (idOf (coordOfNum z m) 0xFF).toNat
    if isRoot g.gdef then afterColl (if b then endInst v k csMEMBER_LOST 0xFFFFFFFF id else rerunRoot v k csRERUN_LIMIT)
    else if b && coordOfNum z m = g.gdef.root then afterColl (endInst v k csMEMBER_LOST 0xFFFFFFFF id)
    else sendMgmt v g.gdef.root := by
  unfold treeLossReport lossNoted
  simp only [hg, hz, Bool.or_eq_true, List.contains_iff_mem]

theorem treeLossReport_root (hroot : isRoot g.gdef = true) : treeLossReport s k m b =
    let v := lossNoted s k g (coordOfNum z m) b
    afterColl (if b then endInst v k csMEMBER_LOST 0xFFFFFFFF (idOf (coordOfNum z m) 0xFF).toNat
      else rerunRoot v k csRERUN_LIMIT) :=
  (treeLossReport_eq hg hz).trans (if_pos hroot)

variable (hroot : isRoot g.gdef = false)
include hroot

/-- A module that has lost its root, a member, ends its own part. -/
theorem treeLossReport_rootLost (hb : b = true) (hlost : coordOfNum z m = g.gdef.root) : treeLossReport s k m b =
    afterColl (endInst s k csMEMBER_LOST 0xFFFFFFFF (idOf (coordOfNum z m) 0xFF).toNat) := by
  rw [treeLossReport_eq hg hz]
  dsimp only
  rw [if_neg (ne_true_of_eq_false hroot), if_pos (by simp [hb, hlost]), lossNoted, if_pos (.inl hb)]

theorem treeLossReport_tells (h : b = false ∨ coordOfNum z m ≠ g.gdef.root) : treeLossReport s k m b =
    sendMgmt (lossNoted s k g (coordOfNum z m) b) g.gdef.root := by
  rw [treeLossReport_eq hg hz]
  dsimp only
  rw [if_neg (ne_true_of_eq_false hroot), if_neg]
  rcases h with h | h <;> simp [h]

end

section
variable {s : State} {k : Nat} (hg : groupOf s k = none)
include hg

theorem joinTimeout_noGroup : joinTimeout s k = s := by simp only [joinTimeout, hg]

theorem progressTimeout_noGroup : progressTimeout s k = s := by simp only [progressTimeout, hg]

theorem contextSwap_noGroup : contextSwap s k = s := by simp only [contextSwap, instOf, hg, Option.bind_none]

theorem treeLossReport_noGroup (m : Nat) (b : Bool) : treeLossReport s k m b = s := by simp only [treeLossReport, hg]

end

end Sys2Proof.Machine
end

section
/-! PROOFS. Timers, losses and contexts of collectives (10). -/
namespace Sys2Proof.Machine

/-- Settles O30: each event where something is due, where nothing is, and where the group is not here. -/
theorem collectiveTimersAct : Obligations.CollectiveTimersAct := by
  unfold Obligations.CollectiveTimersAct
  refine ⟨?timers, ?losses, ?noGroup⟩
  case timers =>
    intro s k g i hl hk hg hi
    have hprogress := next_congr (exec_progressTimeout hl hk) (congrArg served (progressTimeout_open hg hi))
    exact ⟨fun hroot hdone => next_congr (exec_joinTimeout hl hk) (congrArg served (joinTimeout_joining hg hi hroot hdone)),
      fun h => next_congr (exec_joinTimeout hl hk) (congrArg served (joinTimeout_nothing hg hi h)),
      fun h => next_congr hprogress (congrArg served (if_pos h)),
      fun h => next_congr hprogress (congrArg served (if_neg (ne_true_of_eq_false h))),
      fun h => next_congr (exec_contextSwap hl hk) (congrArg served (contextSwap_resident hg hi h)),
      fun h => next_congr (exec_contextSwap hl hk) (congrArg served (contextSwap_swaps hg hi h))⟩
  case losses =>
    intro s k g z m b hl hk hm hg hz
    have hexec := exec_treeLossReport hl hk b hm
    exact ⟨fun hroot => next_congr hexec (congrArg served (treeLossReport_root hg hz hroot)),
      fun hroot hb hlost => next_congr hexec (congrArg served (treeLossReport_rootLost hg hz hroot hb hlost)),
      fun hroot h => next_congr hexec (congrArg served (treeLossReport_tells hg hz hroot h))⟩
  case noGroup =>
    intro s k m b hl hk hm hg c hc
    simp only [List.mem_cons, List.not_mem_nil, or_false] at hc
    rcases hc with rfl | rfl | rfl | rfl
    · exact next_congr (exec_joinTimeout hl hk) (congrArg served (joinTimeout_noGroup hg))
    · exact next_congr (exec_progressTimeout hl hk) (congrArg served (progressTimeout_noGroup hg))
    · exact next_congr (exec_contextSwap hl hk) (congrArg served (contextSwap_noGroup hg))
    · exact next_congr (exec_treeLossReport hl hk b hm) (congrArg served (treeLossReport_noGroup hg m b))

end Sys2Proof.Machine
end

section
/-! SUPPORT. What the Churn does with a contribution that waits (R244), at the end of a skew window (R245), with a full accumulator
(R245, R258 to R260) and with a spare lane (R261). -/
namespace Sys2Proof.Machine

/-! How the commands run. -/

section
variable {s : State} {k l : Nat} (hl : live s = true) (hk : k < 65536) (a : Nat)
include hl hk

theorem exec_churnTake : exec (.churnTake k a) s = .next (served (churnTake s k a)) := next_served (decide_eq_true hk) hl _

theorem exec_skewWindowEnd : exec (.skewWindowEnd k a) s = .next (served (skewWindowEnd s k a)) := next_served (decide_eq_true hk) hl _

theorem exec_accumulatorComplete (r c : Bool) (hlane : l < 68) :
    exec (.accumulatorComplete k a l r c) s = .next (served (accumulatorComplete s k a l r c)) :=
  next_served (Bool.and_eq_true_iff.mpr ⟨decide_eq_true hk, decide_eq_true hlane⟩) hl _

end

theorem exec_churnSpareTakeover (s : State) {l : Nat} (hlane : l < 68) :
    exec (.churnSpareTakeover l) s = .next (whenLive s fun s => churnSpareTakeover s l) := onUnit_of (decide_eq_true hlane) _

/-! A contribution that waits (R244). -/

section
variable {s : State} {k a : Nat} {i : Inst} {d : BitVec 512} (hi : instOf s k = some i) (hd : i.desc = some d) (hred : isReduction d = true)
include hi hd hred

theorem churnTake_takes {n : Nat} {t : Contribution}
    (hn : (i.waiting.findIdx? fun t => (accsOf d t).contains a && takeable s d i t) = some n) (ht : i.waiting[n]? = some t) :
    churnTake s k a = takeTerms (setInst s k { i with waiting := i.waiting.eraseIdx n }) k d t := by
  simp only [churnTake, hi, hd, hred, hn, ht, Bool.not_true, Bool.false_eq_true, if_false]

theorem churnTake_nothing (h : ∀ t ∈ i.waiting, ((accsOf d t).contains a && takeable s d i t) = false) : churnTake s k a = s := by
  simp only [churnTake, hi, hd, hred, List.findIdx?_eq_none_iff.mpr h, Bool.not_true, Bool.false_eq_true, if_false]

end

/-! The end of a skew window (R245). -/

section
variable {s : State} {k a : Nat} {g : Group} {i : Inst} {d : BitVec 512} {x : Acc} (hg : groupOf s k = some g) (hi : g.inst = some i)
  (hd : i.desc = some d) (hx : Tab.find i.accs a = some x)
include hg hi hd hx

theorem skewWindowEnd_over (h : x.emitted = true ∨ x.closed = true) : skewWindowEnd s k a = s := by
  simp only [skewWindowEnd, hg, hi, hd, hx]
  exact if_pos (by simpa using h)

variable (hemitted : x.emitted = false) (hclosed : x.closed = false)
include hemitted hclosed

/-- An open accumulator closes, and spills now, later or not at all. -/
theorem skewWindowEnd_closes : skewWindowEnd s k a =
    let y : Acc := { x with closed := true, closedAt := fcNow s }
    let missing := termsMissing s g d i a
    if x.slab.isSome || missing.all (inFlight s k g) then setInst s k { i with accs := Tab.set i.accs a y }
    else if missing.any (inFlight s k g) then setInst s k { i with accs := Tab.set i.accs a { y with spillDue := true } }
    else spillAcc s k d a y := by
  simp only [skewWindowEnd, hg, hi, hd, hx]
  exact if_neg (by simp [hemitted, hclosed])

theorem skewWindowEnd_stays (h : x.slab ≠ none ∨ ∀ t ∈ termsMissing s g d i a, inFlight s k g t = true) : skewWindowEnd s k a =
    setInst s k { i with accs := Tab.set i.accs a { x with closed := true, closedAt := fcNow s } } :=
  (skewWindowEnd_closes hg hi hd hx hemitted hclosed).trans (if_pos (by
    simpa only [Bool.or_eq_true, Option.isSome_iff_ne_none, List.all_eq_true] using h))

variable (hslab : x.slab = none)
include hslab

theorem skewWindowEnd_spillDue (hmissing : ∃ t ∈ termsMissing s g d i a, inFlight s k g t = false)
    (hbegun : ∃ t ∈ termsMissing s g d i a, inFlight s k g t = true) : skewWindowEnd s k a =
    setInst s k { i with accs := Tab.set i.accs a { x with closed := true, closedAt := fcNow s, spillDue := true } } :=
  (skewWindowEnd_closes hg hi hd hx hemitted hclosed).trans
    ((if_neg (by simpa [hslab] using hmissing)).trans (if_pos (List.any_eq_true.mpr hbegun)))

theorem skewWindowEnd_spills (hmissing : termsMissing s g d i a ≠ [])
    (hnone : ∀ t ∈ termsMissing s g d i a, inFlight s k g t = false) :
    skewWindowEnd s k a = spillAcc s k d a { x with closed := true, closedAt := fcNow s } := by
  obtain ⟨t, ht⟩ := List.exists_mem_of_ne_nil _ hmissing
  exact (skewWindowEnd_closes hg hi hd hx hemitted hclosed).trans
    ((if_neg (by simpa [hslab] using ⟨t.1, t.2, ht, hnone t ht⟩)).trans (if_neg (by simpa using hnone)))

end

section
variable {s : State} {k a : Nat} {i : Inst} {d : BitVec 512} {x : Acc} (hi : instOf s k = some i)
include hi

theorem spillAcc_noSlab (hn : freeChurnSlab s = none) : spillAcc s k d a x =
    setInst s k { i with accs := Tab.set i.accs a { x with spillDue := false } } := by
  simp only [spillAcc, hi, hn]

theorem spillAcc_slab {n : Nat} (hn : freeChurnSlab s = some n) : spillAcc s k d a x =
    let w : Acc := { x with spillDue := false, slab := some n }
    storeAcc (bump64 (setInst { s with vat := { s.vat with churnUsed := n :: s.vat.churnUsed } } k
      { i with accs := Tab.set i.accs a w }) eChurnSpillCount 1) d w := by
  simp only [spillAcc, hi, hn]

end

/-! A full accumulator (R245, R258 to R260). -/

/-- The accumulator of a collective can be emitted. -/
def AccReady (s : State) (g : Group) (i : Inst) (d : BitVec 512) (a : Nat) : Prop :=
  isReduction d = true ∧ a < accCount d ∧ accFull s g.gdef d i a = true ∧ (accOf i a).emitted = false ∧
    (isRoot g.gdef = false ∨ i.joinDone = true) ∧ plainRelay s g.gdef = false ∧ ∀ n, (accOf i a).slab = some n → slabPending s n = false

/-- The accumulator of a collective is held back, as the command tests it. -/
def accHeld (s : State) (g : Group) (i : Inst) (d : BitVec 512) (a : Nat) : Bool :=
  !(isReduction d && a < accCount d && accFull s g.gdef d i a) || (accOf i a).emitted || (isRoot g.gdef && !i.joinDone) ||
    plainRelay s g.gdef || ((accOf i a).slab.any (slabPending s))

theorem accHeld_eq_false_iff {s : State} {g : Group} {i : Inst} {d : BitVec 512} {a : Nat} :
    accHeld s g i d a = false ↔ AccReady s g i d a := by
  have hslab : (accOf i a).slab.any (slabPending s) = false ↔ ∀ n, (accOf i a).slab = some n → slabPending s n = false := by
    cases (accOf i a).slab <;> simp
  simp only [accHeld, AccReady, Bool.or_eq_false_iff, hslab, Bool.not_eq_false', Bool.and_eq_true, decide_eq_true_eq, Bool.and_eq_false_iff,
    and_assoc]

section
variable {s : State} {k a l : Nat} {r c : Bool} {g : Group} {i : Inst} {d : BitVec 512} (hg : groupOf s k = some g) (hi : g.inst = some i)
  (hd : i.desc = some d)
include hg hi hd

theorem accumulatorComplete_nothing (h : ¬ AccReady s g i d a) : accumulatorComplete s k a l r c = s := by
  simp only [accumulatorComplete, hg, hi, hd]
  exact if_pos (Bool.of_not_eq_false (h ∘ accHeld_eq_false_iff.mp))

theorem accumulatorComplete_emits (h : AccReady s g i d a) : accumulatorComplete s k a l r c =
    let q := checkAcc s (accOf i a)
    let ctx := w64 (k * 65536 + g.epoch)
    let s1 := if r = true then q.1 else laneFault (bump q.1 eChurnResidueErrorCount) l 18 ctx
    let bad := isRoot g.gdef && !c
    let s2 := if bad = true then laneFault (bump s1 eChurnConvertMismatchCount) l 19 ctx else s1
    let y := poisonAcc q.2 (if r = true then 0 else prCHECK)
    let s3 := if y.slab = none then bump64 s2 eChurnOnDieCount 1 else s2
    let s4 := { s3 with vat := { s3.vat with churnUsed := (s3.vat.churnUsed.filter fun n => decide (y.slab ≠ some n)) } }
    let fast := isRoot g.gdef && decide (dReduce d = 6) && decide (3 ≤ memberCount g.gdef)
    let s5 := if fast = true then timingChoice (bump64 s4 eChurnFastFloatCount 1) else s4
    let w : Acc := { y with emitted := true, slab := none, convertBad := bad }
    let s6 := setInst s5 k { i with accs := (Tab.set i.accs a w), timing := i.timing || fast }
    let s7 := if isRoot g.gdef = true then
        (piecesOf (chunkElems (outCode d)) (chunkLo (accElems d) a) (chunkHi d (accElems d) a)).foldl (fun u n => emitChunk u k d n) s6
      else emitPartial s6 k g d a w
    afterColl (settleGroup (flushWaiting (releaseFinals (flushAnchors (releaseSpans s7 k) k) k) k) k) := by
  have hgo := accHeld_eq_false_iff.mpr h
  unfold accHeld at hgo
  unfold accumulatorComplete
  simp -zeta only [hg, hi, hd, hgo, Bool.false_eq_true, if_false, Option.isNone_iff_eq_none]

end

/-! A spare lane (R261). -/

theorem churnSpareTakeover_brings {s : State} {l j : Nat} (hj : spareChurn s (l / 17) = some j)
    (hfew : lanesServing s (l / 17) < 16) : churnSpareTakeover s l =
    wr (wr (wr s (eChurnLaneStatus j) 2) eChurnSparesFree (rd s eChurnSparesFree - 1)) eChurnLanesActive (rd s eChurnLanesActive + 1) := by
  have hlane : eChurnLanesActive ≠ eChurnLaneStatus j := by
    unfold eChurnLanesActive eChurnLaneStatus
    omega
  simp only [churnSpareTakeover, hj]
  rw [if_neg (Nat.not_le.mpr hfew), rd_wr_other _ _ (by decide), rd_wr_other _ _ hlane]

theorem churnSpareTakeover_nothing {s : State} {l : Nat} (h : spareChurn s (l / 17) = none ∨ 16 ≤ lanesServing s (l / 17)) :
    churnSpareTakeover s l = s := by
  unfold churnSpareTakeover
  split
  next => rfl
  next j hj => exact if_pos (h.resolve_left (by simp [hj]))

end Sys2Proof.Machine
end

section
/-! PROOFS. The Churn: contributions taken, windows that end, accumulators emitted, spare lanes (11). -/
namespace Sys2Proof.Machine

/-- Settles O31: each command where it has something to act on, by its cases, and where it has not. -/
theorem churnTakesSpillsAndEmits : Obligations.ChurnTakesSpillsAndEmits := by
  unfold Obligations.ChurnTakesSpillsAndEmits
  refine ⟨?take, ?window, ?complete, ?spare⟩
  case take =>
    exact fun s k a i d hl hk hi hd hred =>
      ⟨fun n t hn ht => next_congr (exec_churnTake hl hk a) (congrArg served (churnTake_takes hi hd hred hn ht)),
        fun h => next_congr (exec_churnTake hl hk a) (congrArg served (churnTake_nothing hi hd hred h))⟩
  case window =>
    intro s k a g i d x hl hk hg hi hd hx
    have hexec {t : State} (ht : skewWindowEnd s k a = t) : exec (.skewWindowEnd k a) s = .next (served t) :=
      next_congr (exec_skewWindowEnd hl hk a) (congrArg served ht)
    refine ⟨fun h => hexec (skewWindowEnd_over hg hi hd hx h), fun hemitted hclosed => ⟨fun h => ?_, fun hslab hmissing hbegun => ?_,
      fun hslab hmissing hnone => ⟨fun hfull => ?_, fun n hfree => ?_⟩⟩⟩
    · exact hexec (skewWindowEnd_stays hg hi hd hx hemitted hclosed h)
    · exact hexec (skewWindowEnd_spillDue (x := x) hg hi hd hx hemitted hclosed hslab hmissing hbegun)
    · exact hexec ((skewWindowEnd_spills hg hi hd hx hemitted hclosed hslab hmissing hnone).trans
        (spillAcc_noSlab (instOf_eq hg hi) hfull))
    · exact hexec ((skewWindowEnd_spills hg hi hd hx hemitted hclosed hslab hmissing hnone).trans
        (spillAcc_slab (instOf_eq hg hi) hfree))
  case complete =>
    exact fun s k a l r c g i d hl hk hlane hg hi hd =>
      ⟨fun h => next_congr (exec_accumulatorComplete hl hk a r c hlane) (congrArg served (accumulatorComplete_nothing hg hi hd h)),
        fun h => next_congr (exec_accumulatorComplete hl hk a r c hlane) (congrArg served (accumulatorComplete_emits hg hi hd h))⟩
  case spare =>
    exact fun s l hl hlane =>
      ⟨fun j hj hfew => next_congr (next_of_live (exec_churnSpareTakeover s hlane) hl) (churnSpareTakeover_brings hj hfew),
        fun h => next_congr (exec_churnSpareTakeover s hlane) (whenLive_unchanged (.inr (churnSpareTakeover_nothing h)))⟩

end Sys2Proof.Machine
end

section
/-! SUPPORT. What the Knead does with a tile loaded, a pass run and a unit at its end (R270, R281 to R283), with a repair (R284, R285) and
with a cluster that leaves the dealing order (R287 to R290). -/
namespace Sys2Proof.Machine

/-! How the commands run. -/

section
variable {s : State} (hl : live s = true) (u : Nat) (v : KneadVerdict)
include hl

theorem exec_kneadTileLoaded : exec (.kneadTileLoaded u) s = .next (kneadTileLoaded s u) := next_of_live rfl hl

theorem exec_kneadPassDone {a : Nat} (ha : a < 27) : exec (.kneadPassDone u a v) s = .next (kneadPassDone s u a v) :=
  next_of_live (onUnit_of (decide_eq_true ha) _) hl

theorem exec_kneadUnitDone : exec (.kneadUnitDone u v) s = .next (kneadUnitDone s u v) := next_of_live rfl hl

theorem exec_kneadRepairApply {a : Nat} (ha : a < 27) : exec (.kneadRepairApply a) s = .next (kneadRepairApply s a) :=
  next_of_live (onUnit_of (decide_eq_true ha) _) hl

theorem exec_clusterTakeover {c : Nat} (hc : c < 9) (w : DepartReason) : exec (.clusterTakeover c w) s = .next (clusterTakeover s c w) :=
  next_of_live (f := fun s => clusterTakeover s c w) (onUnit_of (decide_eq_true hc) _) hl

end

/-! A unit that is not there. -/

section
variable {s : State} {u : Nat} (hx : unitOf s u = none)
include hx

theorem kneadTileLoaded_noUnit : kneadTileLoaded s u = s := by simp only [kneadTileLoaded, hx]

theorem kneadPassDone_noUnit (a : Nat) (v : KneadVerdict) : kneadPassDone s u a v = s := by simp only [kneadPassDone, hx]

theorem kneadUnitDone_noUnit (v : KneadVerdict) : kneadUnitDone s u v = s := by simp only [kneadUnitDone, hx]

end

/-! The tile of a unit's next pass (R270, R283). -/

/-- A pass opens only on an array of its unit's cluster. -/
theorem cluster_of_passOpen {s : State} {p : Product} {j : MatJob} {x : KUnit} {a : Nat} (h : passOpen s p j x a = true) :
    a / 3 = x.cluster := by
  have hallowed : arrayAllowed s p x a = true := by
    simp only [passOpen, Bool.and_eq_true] at h
    tauto
  exact of_decide_eq_true (Bool.and_eq_true_iff.mp hallowed).1

theorem loadArray_open {s : State} {p : Product} {j : MatJob} {x : KUnit} {a : Nat} (ha : loadArray s p j x = some a) :
    passOpen s p j x a = true ∧ shadowHeld s a = false ∧ a / 3 = x.cluster := by
  obtain ⟨hopen, hspare⟩ : passOpen s p j x a = true ∧ shadowHeld s a = false := by simpa using List.find?_some ha
  exact ⟨hopen, hspare, cluster_of_passOpen hopen⟩

/-- The unit's own tile is not loaded yet, and there is a half of the buffer to fill. -/
def TileFree (s : State) (u : Nat) (j : MatJob) (x : KUnit) : Prop :=
  ownTile s u j x = false ∧ (halfOf s x.cluster (fillOf s x.cluster)).reloading = false

/-- The test by which KNEAD_TILE_LOADED changes nothing. -/
theorem tileFree_iff {s : State} {u : Nat} {j : MatJob} {x : KUnit} :
    (ownTile s u j x || (halfOf s x.cluster (fillOf s x.cluster)).reloading) = false ↔ TileFree s u j x := Bool.or_eq_false_iff

section
variable {s : State} {u : Nat} {x : KUnit} {p : Product} {j : MatJob} (hx : unitOf s u = some x) (hp : unitProduct s x = some (p, j))
include hx hp

theorem kneadTileLoaded_nothing (h : loadArray s p j x = none ∨ ¬ TileFree s u j x) : kneadTileLoaded s u = s := by
  simp only [kneadTileLoaded, hx, hp]
  cases ha : loadArray s p j x with
  | none => rfl
  | some a => exact if_pos (Bool.of_not_eq_false (h.resolve_left (by simp [ha]) ∘ tileFree_iff.mp))

section
variable {a : Nat} (ha : loadArray s p j x = some a) (hfree : TileFree s u j x)
include ha hfree

theorem kneadTileLoaded_waits (hr : (readSlabs s (p.bSlabs x.nChunk x.chunk)).2 = .wait) : kneadTileLoaded s u =
    setUnit (readSlabs s (p.bSlabs x.nChunk x.chunk)).1 u { x with bank := true } := by
  simp only [kneadTileLoaded, hx, hp, ha, tileFree_iff.mpr hfree, hr, Bool.false_eq_true, if_false]

theorem kneadTileLoaded_poisons (hr : (readSlabs s (p.bSlabs x.nChunk x.chunk)).2 = .poison) : kneadTileLoaded s u =
    setUnit (readSlabs s (p.bSlabs x.nChunk x.chunk)).1 u { x with bank := true, poisoned := true } := by
  simp only [kneadTileLoaded, hx, hp, ha, tileFree_iff.mpr hfree, hr, Bool.false_eq_true, if_false]

theorem kneadTileLoaded_loads (hr : (readSlabs s (p.bSlabs x.nChunk x.chunk)).2 = .go) : kneadTileLoaded s u =
    let y : KUnit := { x with bank := true }
    let t := loadTile (readSlabs s (p.bSlabs x.nChunk x.chunk)).1 p j u y
    let v := fillHalf (readSlabs s (p.bSlabs x.nChunk x.chunk)).1 x.cluster t (p.bSlabs x.nChunk x.chunk)
    setUnit (setKarray v a { karrayOf v a with shadow := some t }) u y := by
  simp only [kneadTileLoaded, hx, hp, ha, tileFree_iff.mpr hfree, hr, Bool.false_eq_true, if_false]

end

end

/-! A pass (R270, R283). -/

/-- The array is open to the unit, its tile stands there or in shadow registers, and a streamed operand has a half of the buffer. -/
def PassReady (s : State) (p : Product) (j : MatJob) (x : KUnit) (a : Nat) : Prop :=
  passOpen s p j x a = true ∧ tileReady s j x a = true ∧ (p.transA = false ∨ (halfOf s x.cluster (fillOf s x.cluster)).reloading = false)

/-- The test by which KNEAD_PASS_DONE changes nothing. -/
theorem passReady_iff {s : State} {p : Product} {j : MatJob} {x : KUnit} {a : Nat} :
    (!passOpen s p j x a || !tileReady s j x a || (p.transA && (halfOf s x.cluster (fillOf s x.cluster)).reloading)) = false ↔
      PassReady s p j x a := by
  simp only [PassReady, Bool.or_eq_false_iff, Bool.and_eq_false_iff, Bool.not_eq_false', and_assoc]

/-- What a pass reads does not depend on the bank. -/
@[simp] theorem passReads_bank (p : Product) (x : KUnit) (b : Bool) : passReads p { x with bank := b } = passReads p x := rfl

section
variable {s : State} {u a : Nat} {x : KUnit} {p : Product} {j : MatJob} (hx : unitOf s u = some x) (hp : unitProduct s x = some (p, j))
  (v : KneadVerdict)
include hx hp

theorem kneadPassDone_nothing (h : ¬ PassReady s p j x a) : kneadPassDone s u a v = s := by
  simp only [kneadPassDone, hx, hp]
  exact if_pos (Bool.of_not_eq_false (h ∘ passReady_iff.mp))

variable (h : PassReady s p j x a)
include h

theorem kneadPassDone_waits (hr : (readSlabs s (passReads p x)).2 = .wait) : kneadPassDone s u a v = (readSlabs s (passReads p x)).1 := by
  simp only [kneadPassDone, hx, hp, passReady_iff.mpr h, passReads_bank, hr, Bool.false_eq_true, if_false]

theorem kneadPassDone_poisons (hr : (readSlabs s (passReads p x)).2 = .poison) : kneadPassDone s u a v =
    setUnit (readSlabs s (passReads p x)).1 u { x with bank := true, poisoned := true } := by
  simp only [kneadPassDone, hx, hp, passReady_iff.mpr h, passReads_bank, hr, Bool.false_eq_true, if_false]

theorem kneadPassDone_runs (hr : (readSlabs s (passReads p x)).2 = .go) : kneadPassDone s u a v =
    runPass (bringTile (readSlabs s (passReads p x)).1 j { x with bank := true } a) u { x with bank := true } p j a v := by
  simp only [kneadPassDone, hx, hp, passReady_iff.mpr h, passReads_bank, hr, Bool.false_eq_true, if_false]

end

/-! A unit's end (R281, R283). -/

/-- A unit at its last chunk, or poisoned, in a cluster that serves it and has a bank for it. -/
def UnitEnds (s : State) (p : Product) (j : MatJob) (x : KUnit) : Prop :=
  x.finished = false ∧ (x.poisoned = true ∨ unitEnd p j x ≤ x.chunk) ∧ clusterServes s x.cluster = true ∧
    (x.bank = true ∨ banksHeld s x.cluster < 6)

/-- The test by which KNEAD_UNIT_DONE changes nothing. -/
theorem unitEnds_iff {s : State} {p : Product} {j : MatJob} {x : KUnit} :
    (x.finished || !(x.poisoned || unitEnd p j x ≤ x.chunk) || !clusterServes s x.cluster || (!x.bank && 6 ≤ banksHeld s x.cluster)) =
      false ↔ UnitEnds s p j x := by
  simp only [UnitEnds, Bool.or_eq_false_iff, Bool.and_eq_false_iff, Bool.not_eq_false', Bool.or_eq_true, decide_eq_true_eq,
    decide_eq_false_iff_not, Nat.not_le, and_assoc]

section
variable {s : State} {u : Nat} {x : KUnit} {p : Product} {j : MatJob} {r : Run} (hx : unitOf s u = some x)
  (hp : unitProduct s x = some (p, j)) (hr : runningOf s x.inv = some r) (v : KneadVerdict)
include hx hp hr

theorem kneadUnitDone_nothing (h : ¬ UnitEnds s p j x) : kneadUnitDone s u v = s := by
  simp only [kneadUnitDone, hx, hp, hr]
  exact if_pos (Bool.of_not_eq_false (h ∘ unitEnds_iff.mp))

theorem kneadUnitDone_ends (h : UnitEnds s p j x) : kneadUnitDone s u v =
    let e := readSlabs s (endReads p x)
    let w := writeSlabs e.1 (p.dWhole x.mTile) (p.dSlabs x.mTile x.nChunk)
    if e.2 = .wait ∨ w.2 = .wait then w.1
    else judgeUnit w.1 u { x with bank := true, poisoned := x.poisoned || decide (e.2 = .poison) } r p j v := by
  simp only [kneadUnitDone, hx, hp, hr, unitEnds_iff.mpr h, Bool.false_eq_true, if_false, Bool.or_eq_true, decide_eq_true_eq]

end

section
variable (s : State) (u : Nat) (x : KUnit) (r : Run) (p : Product) (j : MatJob) (v : KneadVerdict)

theorem judgeUnit_ends (h : x.poisoned = true ∨ (x.failing.getD (lastVerdict x v)).1 = .pass) : judgeUnit s u x r p j v =
    outputStage (setUnit s u { x with finished := true }) r { x with finished := true } p :=
  if_pos (by simpa only [Bool.or_eq_true, decide_eq_true_eq] using h)

theorem judgeUnit_fails (hclean : x.poisoned = false) (hfail : (x.failing.getD (lastVerdict x v)).1 ≠ .pass) :
    judgeUnit s u x r p j v = checkFailed s u x r p j (x.failing.getD (lastVerdict x v)) :=
  if_neg (by simp [hclean, hfail])

end

/-! What a pass counts, and where it leaves its unit. -/

/-- The counters that a pass may count in besides its own two. -/
def passNotes : List Nat :=
  [eKneadCheckSkipCount, eKneadZeroTileSkipCount, eKneadSparsePassCount, eKneadBackwardArrayForwardPassCount, eKneadUncheckedPassCount,
    eKneadAnchorSatCount]

theorem kneadPassCount_notMem_passNotes : eKneadPassCount ∉ passNotes := by decide

/-- The Knead's own counters lie below those of its arrays (Table 12.8). -/
theorem lt_arrayPassCount {e : Nat} (h : e < 0x601000) (a : Nat) : e < eArrayPassCount a := by
  unfold eArrayPassCount
  omega

theorem arrayPassCount_notMem_passNotes (a : Nat) : eArrayPassCount a ∉ passNotes := fun h =>
  lt_irrefl _ (lt_arrayPassCount ((by decide : ∀ e ∈ passNotes, e < 0x601000) _ h) a)

theorem arrayPassCount_ne_kneadPassCount (a : Nat) : eArrayPassCount a ≠ eKneadPassCount := (lt_arrayPassCount (by decide) a).ne'

/-- Absent tiles take a unit onward only. -/
theorem chunk_le_skipZeros (p : Product) (last n : Nat) (s : State) (x : KUnit) : x.chunk ≤ (skipZeros p last n s x).2.chunk := by
  induction n generalizing s x with
  | zero => exact le_rfl
  | succ n ih =>
    unfold skipZeros
    split
    · exact (Nat.le_succ _).trans (ih (bump64 s eKneadZeroTileSkipCount 1) { x with chunk := x.chunk + 1 })
    · exact le_rfl

/-- A unit stands where the absent tiles ahead of it end. -/
theorem unitOf_skipZeros {n : Nat} (p : Product) (last k u : Nat) (s : State) {y : KUnit} (h : n < y.chunk) :
    ∃ z, unitOf (setUnit (skipZeros p last k s y).1 u (skipZeros p last k s y).2) u = some z ∧ n < z.chunk :=
  ⟨_, Tab.find_set_same _ _ _, h.trans_le (chunk_le_skipZeros p last k s y)⟩

theorem runPass_moves (s : State) (u : Nat) (x : KUnit) (p : Product) (j : MatJob) (a : Nat) (v : KneadVerdict) :
    ∃ y, unitOf (runPass s u x p j a v) u = some y ∧ x.chunk < y.chunk :=
  unitOf_skipZeros p _ p.nK u _ (Nat.lt_succ_self x.chunk)

section
variable {b : Nat}

theorem cnt_ite_bump64 (s : State) {e n : Nat} (h : b ≠ e) (c : Prop) [Decidable c] : cnt (if c then bump64 s e n else s) b = cnt s b := by
  split
  · exact cnt_bumpBy_other 8 s n h
  · rfl

theorem cnt_skipZeros (hb : b ≠ eKneadZeroTileSkipCount) (p : Product) (last n : Nat) (s : State) (x : KUnit) :
    cnt (skipZeros p last n s x).1 b = cnt s b := by
  induction n generalizing s x with
  | zero => rfl
  | succ n ih =>
    unfold skipZeros
    split
    · exact (ih _ _).trans (cnt_bumpBy_other 8 s 1 hb)
    · rfl

variable (hb : b ∉ passNotes)
include hb

theorem cnt_countPass (s : State) (p : Product) (a : Nat) :
    cnt (countPass s p a) b = cnt (bump64 (bump64 s eKneadPassCount 1) (eArrayPassCount a) 1) b := by
  simp only [passNotes, List.mem_cons, List.not_mem_nil, or_false, not_or] at hb
  obtain ⟨-, -, hsparse, hbackward, hunchecked, -⟩ := hb
  unfold countPass
  rw [cnt_ite_bump64 _ hbackward, cnt_ite_bump64 _ hunchecked, cnt_ite_bump64 _ hsparse]

omit hb in
/-- What a pass counts rests on the entries alone. -/
theorem cnt_passBumps_congr {s t : State} (h : t.regs = s.regs) (a b : Nat) :
    cnt (bump64 (bump64 t eKneadPassCount 1) (eArrayPassCount a) 1) b = cnt (bump64 (bump64 s eKneadPassCount 1) (eArrayPassCount a) 1) b := by
  simp only [bump64, bumpBy, wr, cnt, h]

/-- Of the other counters a pass changes those of `countPass` alone. -/
theorem cnt_runPass (s : State) (u : Nat) (x : KUnit) (p : Product) (j : MatJob) (a : Nat) (v : KneadVerdict) :
    cnt (runPass s u x p j a v) b = cnt (bump64 (bump64 s eKneadPassCount 1) (eArrayPassCount a) 1) b := by
  have hcount := fun t => cnt_countPass hb t p a
  simp only [passNotes, List.mem_cons, List.not_mem_nil, or_false, not_or] at hb
  obtain ⟨hskip, hzero, -, -, -, hsat⟩ := hb
  refine (cnt_skipZeros hzero ..).trans ((cnt_ite_bump64 _ hsat _).trans ((cnt_bumpBy_other 8 _ _ hskip).trans ((hcount _).trans
    (cnt_passBumps_congr ?_ a b))))
  split <;> rfl

end

theorem runPass_counts (s : State) (u : Nat) (x : KUnit) (p : Product) (j : MatJob) (a : Nat) (v : KneadVerdict) :
    cnt (runPass s u x p j a v) eKneadPassCount = min (2 ^ 64 - 1) (cnt s eKneadPassCount + 1) := by
  rw [cnt_runPass kneadPassCount_notMem_passNotes]
  exact (cnt_bumpBy_other 8 _ 1 (arrayPassCount_ne_kneadPassCount a).symm).trans (cnt_bumpBy_same 8 s _ 1)

theorem runPass_countsArray (s : State) (u : Nat) (x : KUnit) (p : Product) (j : MatJob) (a : Nat) (v : KneadVerdict) :
    cnt (runPass s u x p j a v) (eArrayPassCount a) = min (2 ^ 64 - 1) (cnt s (eArrayPassCount a) + 1) := by
  rw [cnt_runPass (arrayPassCount_notMem_passNotes a)]
  refine (cnt_bumpBy_same 8 _ _ 1).trans (congrArg (fun n => min (2 ^ 64 - 1) (n + 1)) (cnt_bumpBy_other 8 s 1 ?_))
  exact arrayPassCount_ne_kneadPassCount a

/-! A takeover (R287 to R290). -/

section
variable {s : State} {c : Nat} {w : DepartReason}

theorem clusterTakeover_nothing (h : c ∉ s.knead.order ∨ departs s c w = false) : clusterTakeover s c w = s :=
  if_pos (by simpa using h)

/-- Where the cluster covers for none under test, none comes back. -/
theorem returning_none (hstays : s.proof.cover ≠ some c ∨ s.proof.active = none) (a n : Nat) :
    (if (wr s a n).proof.cover = some c then (wr s a n).proof.active else none) = none := by
  split
  next hcover => exact hstays.resolve_left (not_not_intro hcover)
  next => rfl

variable (hin : c ∈ s.knead.order) (hdeparts : departs s c w = true)
include hin hdeparts

/-- A cluster of the dealing order whose reason stands passes the command's test. -/
theorem takeover_due : (!s.knead.order.contains c || !departs s c w) = false := by simp [hin, hdeparts]

section
variable (hstays : s.proof.cover ≠ some c ∨ s.proof.active = none)
include hstays

theorem clusterTakeover_spare {sp : Nat} (hsp : s.knead.spare = some sp) : clusterTakeover s c w =
    let v := wr s (eClusterSubstituteFor c) 0xFF
    moveUnits (coverFor (wr (bump { v with knead := { s.knead with order := (s.knead.order.map fun k => if k = c then sp else k), spare := none } }
      eKneadSubstitutionCount) (eClusterSubstituteFor sp) c) w sp) c [sp] (decide (w = .fault)) := by
  simp only [clusterTakeover, takeover_due hin hdeparts, Bool.false_eq_true, if_false, returning_none hstays,
    Option.orElse_eq_orElse, Option.orElse_none, wr_knead, hsp, Option.isSome_none]

theorem clusterTakeover_noSpare (hsp : s.knead.spare = none) : clusterTakeover s c w =
    moveUnits { wr s (eClusterSubstituteFor c) 0xFF with knead := { s.knead with order := (s.knead.order.filter fun k => decide (k ≠ c)) } } c
      (s.knead.order.filter fun k => decide (k ≠ c)) (decide (w = .fault)) := by
  simp only [clusterTakeover, takeover_due hin hdeparts, Bool.false_eq_true, if_false, returning_none hstays,
    Option.orElse_eq_orElse, Option.orElse_none, wr_knead, hsp]

end

theorem clusterTakeover_returns {q : Nat} (hcover : s.proof.cover = some c) (hactive : s.proof.active = some q) : clusterTakeover s c w =
    let t := proofNext (proofDrop (wr s (eClusterSubstituteFor c) 0xFF))
    moveUnits (coverFor (wr (bump { t with knead := { t.knead with order := (t.knead.order.map fun k => if k = c then q else k) } }
      eKneadSubstitutionCount) (eClusterSubstituteFor q) 0xFF) w q) c [q] (decide (w = .fault)) := by
  simp only [clusterTakeover, takeover_due hin hdeparts, Bool.false_eq_true, if_false, wr_proof, hcover, hactive, if_true,
    Option.orElse_eq_orElse, Option.orElse_some, Option.isSome_some]

end

end Sys2Proof.Machine
end

section
/-! PROOFS. The Knead: tiles, passes, unit ends, repairs and takeovers (12). -/
namespace Sys2Proof.Machine

/-- Settles O32: each command where its unit, array or cluster is ready for it, by its cases, and where it is not. -/
theorem kneadPassesUnitsAndTakeovers : Obligations.KneadPassesUnitsAndTakeovers := by
  unfold Obligations.KneadPassesUnitsAndTakeovers
  refine ⟨?tile, ?pass, ?counts, ?ends, ?judged, ?noUnit, ?repair, ?takeover⟩
  case tile =>
    intro s u x p j hl hx hp
    have hexec {t : State} (ht : kneadTileLoaded s u = t) : exec (.kneadTileLoaded u) s = .next t :=
      next_congr (exec_kneadTileLoaded hl u) ht
    exact ⟨fun a ha => loadArray_open ha,
      fun a ha hfree => ⟨fun hr => hexec (kneadTileLoaded_waits hx hp ha hfree hr),
        fun hr => hexec (kneadTileLoaded_poisons hx hp ha hfree hr), fun hr => hexec (kneadTileLoaded_loads hx hp ha hfree hr)⟩,
      fun h => hexec (kneadTileLoaded_nothing hx hp h)⟩
  case pass =>
    intro s u a v x p j hl ha hx hp
    have hexec {t : State} (ht : kneadPassDone s u a v = t) : exec (.kneadPassDone u a v) s = .next t :=
      next_congr (exec_kneadPassDone hl u v ha) ht
    exact ⟨fun h => ⟨fun hr => hexec (kneadPassDone_waits hx hp v h hr), fun hr => hexec (kneadPassDone_poisons hx hp v h hr),
      fun hr => hexec (kneadPassDone_runs hx hp v h hr)⟩, fun h => hexec (kneadPassDone_nothing hx hp v h)⟩
  case counts =>
    exact fun s u a v x p j _ => ⟨runPass_counts s u x p j a v, runPass_countsArray s u x p j a v, runPass_moves s u x p j a v⟩
  case ends =>
    intro s u v x p j r hl hx hp hr
    have hexec {t : State} (ht : kneadUnitDone s u v = t) : exec (.kneadUnitDone u v) s = .next t :=
      next_congr (exec_kneadUnitDone hl u v) ht
    exact ⟨fun h hwait => hexec ((kneadUnitDone_ends hx hp hr v h).trans (if_pos hwait)),
      fun h hread hwrite => hexec ((kneadUnitDone_ends hx hp hr v h).trans (if_neg (not_or.mpr ⟨hread, hwrite⟩))),
      fun h => hexec (kneadUnitDone_nothing hx hp hr v h)⟩
  case judged =>
    exact fun s u x r p j v => ⟨judgeUnit_ends s u x r p j v, judgeUnit_fails s u x r p j v⟩
  case noUnit =>
    exact fun s u v a hl ha hx => ⟨next_congr (exec_kneadTileLoaded hl u) (kneadTileLoaded_noUnit hx),
      next_congr (exec_kneadPassDone hl u v ha) (kneadPassDone_noUnit hx a v),
      next_congr (exec_kneadUnitDone hl u v) (kneadUnitDone_noUnit hx v)⟩
  case repair =>
    exact fun s a hl ha => exec_kneadRepairApply hl ha
  case takeover =>
    intro s c w hl hc
    have hexec {t : State} (ht : clusterTakeover s c w = t) : exec (.clusterTakeover c w) s = .next t :=
      next_congr (exec_clusterTakeover hl hc w) ht
    exact ⟨fun hin hdeparts hstays => ⟨fun sp hsp => hexec (clusterTakeover_spare hin hdeparts hstays hsp),
        fun hsp => hexec (clusterTakeover_noSpare hin hdeparts hstays hsp)⟩,
      fun q hin hdeparts hcover hactive => hexec (clusterTakeover_returns hin hdeparts hcover hactive),
      fun h => hexec (clusterTakeover_nothing h)⟩

end Sys2Proof.Machine
end

section
/-! SUPPORT. INVOKE messages (R296 to R299), the start of an invocation (R301) and its input timeout: how the commands run, and what each
does by what it finds. -/
namespace Sys2Proof.Machine

/-! How the commands run. -/

section
variable {s : State} (hl : live s = true)
include hl

theorem exec_invokeReceived {p : Nat} (hp : p < 128) (pkt : Packet) :
    exec (.invokeReceived p pkt) s = .next (clearTaken (invokeReceived s p pkt)) :=
  (onUnit_of (packetPort_wellFormed (.inl hp)) _).trans (congrArg Host.Outcome.next (whenLive_live hl _))

theorem exec_invokePacketReceived {p : Nat} (hp : p < 128) (pkt : Packet) :
    exec (.invokePacketReceived p pkt) s = .next (clearTaken (invokePacketReceived s p pkt)) :=
  (onUnit_of (packetPort_wellFormed (.inl hp)) _).trans (congrArg Host.Outcome.next (whenLive_live hl _))

theorem exec_invocationStart (i : Nat) : exec (.invocationStart i) s = .next (invocationStart s i) := next_of_live rfl hl

theorem exec_recipeInputTimeout (i : Nat) : exec (.recipeInputTimeout i) s = .next (recipeInputTimeout s i) := next_of_live rfl hl

end

/-! An open invocation changed. -/

theorem modInv_some {s : State} {i : Nat} {v : Inv} (h : invOf s i = some v) (f : Inv → Inv) : modInv s i f = setInv s i (f v) := by
  simp only [modInv, h]

@[simp] theorem invOf_setInv_same (s : State) (i : Nat) (v : Inv) : invOf (setInv s i v) i = some v := Tab.find_set_same _ _ _

theorem invOf_setInv_other (s : State) {i j : Nat} (v : Inv) (h : j ≠ i) : invOf (setInv s i v) j = invOf s j := Tab.find_set_other _ _ h

/-! Taking a packet changes nothing that an invocation is found or admitted by. -/

section
variable (s : State) (p : Nat) (pkt : Packet)

@[simp] theorem invOf_takeInbox (i : Nat) : invOf (takeInbox s p pkt) i = invOf s i := by simp only [invOf, takeInbox_recipes]

@[simp] theorem openOf_takeInbox (q : Nat) (h : Header) : openOf (takeInbox s p pkt) q h = openOf s q h := by
  simp only [openOf, takeInbox_recipes]

@[simp] theorem keptOf_takeInbox (q : Nat) (h : Header) : keptOf (takeInbox s p pkt) q h = keptOf s q h := by
  simp only [keptOf, takeInbox_recipes]

@[simp] theorem recipeOf_takeInbox (k : Nat) : recipeOf (takeInbox s p pkt) k = recipeOf s k := by simp only [recipeOf, takeInbox_recipes]

@[simp] theorem freeIndex_takeInbox : freeIndex (takeInbox s p pkt) = freeIndex s := by simp only [freeIndex, invOf_takeInbox]

@[simp] theorem rd_takeInbox (a : Nat) : rd (takeInbox s p pkt) a = rd s a := rd_congr (by rw [takeInbox_regs])

end

/-! Packet 0 (R296, R299). -/

section
variable {s : State} {p : Nat} {pkt : Packet}

theorem invokeReceived_other (h : pkt.h.opcode ≠ opINVOKE ∨ hChunk pkt.h ≠ 0) : invokeReceived s p pkt = s := if_pos (by simpa using h)

theorem invokePacketReceived_other (h : pkt.h.opcode ≠ opINVOKE ∨ hChunk pkt.h = 0) : invokePacketReceived s p pkt = s :=
  if_pos (by simpa using h)

section
variable (ho : pkt.h.opcode = opINVOKE) (hc : hChunk pkt.h = 0)
include ho hc

theorem invokeReceived_open {i : Nat} {v : Inv} (hi : openOf s p pkt.h = some i) (hv : invOf s i = some v) :
    invokeReceived s p pkt = setInv (bump (takeInbox s p pkt) eRecipeDuplicateCount) i { v with dup := true } := by
  have hb : invOf (bump (takeInbox s p pkt) eRecipeDuplicateCount) i = some v := (invOf_takeInbox s p pkt i).trans hv
  simp [invokeReceived, ho, hc, hi, modInv_some hb]

theorem invokeReceived_kept {r : BitVec 512} (hi : openOf s p pkt.h = none) (hr : keptOf s p pkt.h = some r) :
    invokeReceived s p pkt = sendRecord (takeInbox s p pkt) pkt.h (r ||| BitVec.ofNat 512 (2 ^ 27)) := by
  simp [invokeReceived, ho, hc, hi, hr]

theorem invokeReceived_new (hi : openOf s p pkt.h = none) (hr : keptOf s p pkt.h = none) :
    invokeReceived s p pkt = newInvoke (takeInbox s p pkt) p pkt := by
  simp [invokeReceived, ho, hc, hi, hr]

end

theorem newInvoke_notEdge (h : isEdge p = false) : newInvoke s p pkt = refuseInvoke s pkt.h isNOT_LOCAL := by simp [newInvoke, h]

theorem newInvoke_noRecipe (h : isEdge p = true) (hr : recipeOf s (hGroup pkt.h) = none) :
    newInvoke s p pkt = refuseInvoke s pkt.h isNOT_INSTALLED := by simp [newInvoke, h, hr]

section
variable {r : Recipe} (h : isEdge p = true) (hr : recipeOf s (hGroup pkt.h) = some r)
include h hr

theorem newInvoke_notInstalled (hx : r.removing = true ∨ rhSlice r.header ≠ pkt.h.slice.toNat) :
    newInvoke s p pkt = refuseInvoke s pkt.h isNOT_INSTALLED := by
  simp only [newInvoke, h, hr, Bool.not_true, Bool.false_eq_true, if_false]
  exact if_pos (by simpa using hx)

variable (hx : r.removing = false) (hs : rhSlice r.header = pkt.h.slice.toNat)
include hx hs

theorem newInvoke_badInput (hb : invokeHeaderOk r (leNat (sliceZ pkt.payload 0 16)) = false) :
    newInvoke s p pkt = refuseInvoke s pkt.h isBAD_INPUT := by simp [newInvoke, h, hr, hx, hs, hb]

theorem newInvoke_busy (hb : invokeHeaderOk r (leNat (sliceZ pkt.payload 0 16)) = true)
    (hfull : rd s eRecipeOpenLimit ≤ s.recipes.invs.length ∨ freeIndex s = none ∨ workArea s r = none) :
    newInvoke s p pkt = refuseInvoke s pkt.h isBUSY := by
  simp only [newInvoke, h, hr, hx, hs, hb, Bool.not_true, Bool.false_eq_true, if_false, Bool.or_self, ne_eq, not_true, decide_false]
  by_cases hlim : rd s eRecipeOpenLimit ≤ s.recipes.invs.length
  · rw [if_pos hlim]
  · rw [if_neg hlim]
    rcases hfull.resolve_left hlim with hf | hw
    · simp only [hf]
    · cases hi : freeIndex s <;> simp only [hw]

theorem newInvoke_admits (hb : invokeHeaderOk r (leNat (sliceZ pkt.payload 0 16)) = true) {i a b c : Nat} {t : State}
    (hlim : s.recipes.invs.length < rd s eRecipeOpenLimit) (hi : freeIndex s = some i) (hw : workArea s r = some (a, b, c, t)) :
    newInvoke s p pkt = admitInvoke t p pkt r i a b c := by
  simp [newInvoke, h, hr, hx, hs, hb, hi, hw, not_le.mpr hlim]

end

/-! A later packet (R296 to R299). -/

section
variable (ho : pkt.h.opcode = opINVOKE) (hc : hChunk pkt.h ≠ 0)
include ho hc

theorem invokePacketReceived_noneOpen (hi : openOf s p pkt.h = none) :
    invokePacketReceived s p pkt = bump (takeInbox s p pkt) eRecipeDiscardCount := by
  simp [invokePacketReceived, ho, hc, hi]

variable {i : Nat} {v : Inv} (hi : openOf s p pkt.h = some i) (hv : invOf s i = some v)
include hi hv

theorem invokePacketReceived_open : invokePacketReceived s p pkt =
    if v.dup then bump (takeInbox s p pkt) eRecipeDuplicateCount
    else if v.readyAt.isSome || v.closing.isSome then bump (takeInbox s p pkt) eRecipeDiscardCount
    else if hChunk pkt.h ≠ v.nextChunk then badInput (takeInbox s p pkt) i
    else takeInput (takeInbox s p pkt) i pkt.h pkt.payload.length pkt.payload := by
  simp [invokePacketReceived, ho, hc, hi, hv]

theorem invokePacketReceived_duplicate (hd : v.dup = true) :
    invokePacketReceived s p pkt = bump (takeInbox s p pkt) eRecipeDuplicateCount := by
  rw [invokePacketReceived_open ho hc hi hv, if_pos hd]

variable (hd : v.dup = false)
include hd

theorem invokePacketReceived_discarded (hx : v.readyAt ≠ none ∨ v.closing ≠ none) :
    invokePacketReceived s p pkt = bump (takeInbox s p pkt) eRecipeDiscardCount := by
  rw [invokePacketReceived_open ho hc hi hv, if_neg (by simp [hd]), if_pos (by simpa [Option.isSome_iff_ne_none] using hx)]

variable (hr : v.readyAt = none) (hx : v.closing = none)
include hr hx

theorem invokePacketReceived_outOfOrder (hn : hChunk pkt.h ≠ v.nextChunk) :
    invokePacketReceived s p pkt = endInv (takeInbox s p pkt) i isBAD_INPUT 0 0 := by
  rw [invokePacketReceived_open ho hc hi hv, if_neg (by simp [hd]), if_neg (by simp [hr, hx]), if_pos hn]
  rfl

theorem invokePacketReceived_taken (hn : hChunk pkt.h = v.nextChunk) :
    invokePacketReceived s p pkt = takeInput (takeInbox s p pkt) i pkt.h pkt.payload.length pkt.payload := by
  rw [invokePacketReceived_open ho hc hi hv, if_neg (by simp [hd]), if_neg (by simp [hr, hx]), if_neg (not_not.mpr hn)]

end
end

/-! The start and the input timeout. -/

section
variable {s : State} {i : Nat}

theorem invocationStart_starts {v : Inv} (hv : invOf s i = some v) (hi : s.recipes.ready.head? = some i)
    (hfree : (s.recipes.invs.filter fun x => x.2.context).length < rd s eRecipeContextCount) : invocationStart s i =
      let t := setInv s i { v with context := true, started := true, step := 0, phase := .idle }
      { t with recipes := { t.recipes with ready := t.recipes.ready.drop 1 } } := by
  simp [invocationStart, hi, hfree, modInv_some hv]

theorem invocationStart_nothing (h : s.recipes.ready.head? ≠ some i ∨
    rd s eRecipeContextCount ≤ (s.recipes.invs.filter fun x => x.2.context).length) : invocationStart s i = s := by
  refine if_neg ?_
  rw [Bool.and_eq_true, decide_eq_true_iff, decide_eq_true_iff, not_and_or, not_lt]
  exact h

theorem recipeInputTimeout_ends {v : Inv} (hv : invOf s i = some v) (hr : v.readyAt = none) :
    recipeInputTimeout s i = endInv s i isBAD_INPUT 0 0 := by
  simp only [recipeInputTimeout, hv, hr]
  rfl

theorem recipeInputTimeout_nothing (h : ∀ v, invOf s i = some v → v.readyAt ≠ none) : recipeInputTimeout s i = s := by
  cases hv : invOf s i with
  | none => simp only [recipeInputTimeout, hv]
  | some v => simp [recipeInputTimeout, hv, h v hv]

end

end Sys2Proof.Machine
end

section
/-! PROOFS. INVOKE messages, the start of invocations and their input timeout (13). -/
namespace Sys2Proof.Machine

/-- Settles O34: a first packet in R296's order, a later one by its invocation, and the two commands that start or end one. -/
theorem invocationsOpenStartAndEnd : Obligations.InvocationsOpenStartAndEnd := by
  unfold Obligations.InvocationsOpenStartAndEnd
  refine ⟨?first, ?later, ?other, ?start⟩
  case first =>
    intro s p pkt hl hp ho hc u
    have hexec {t : State} (h : invokeReceived s p pkt = t) : exec (.invokeReceived p pkt) s = .next (clearTaken t) :=
      next_congr (exec_invokeReceived hl hp pkt) (congrArg clearTaken h)
    refine ⟨fun i v hi hv => hexec (invokeReceived_open ho hc hi hv), fun r hi hr => hexec (invokeReceived_kept ho hc hi hr), fun hi hk => ?_⟩
    have hnew {t : State} (h : newInvoke u p pkt = t) : exec (.invokeReceived p pkt) s = .next (clearTaken t) :=
      hexec ((invokeReceived_new ho hc hi hk).trans h)
    have hrecipe {x : Option Recipe} (h : recipeOf s (hGroup pkt.h) = x) : recipeOf u (hGroup pkt.h) = x := (recipeOf_takeInbox ..).trans h
    refine ⟨fun he => hnew (newInvoke_notEdge he), fun he hr => hnew (newInvoke_noRecipe he (hrecipe hr)), fun r he hr =>
      ⟨fun h => hnew (newInvoke_notInstalled he (hrecipe hr) h), fun hx hs =>
        ⟨fun hb => hnew (newInvoke_badInput he (hrecipe hr) hx hs hb), fun hb => ⟨fun h => ?_, fun i a b c t hlim hi hw => ?_⟩⟩⟩⟩
    · exact hnew (newInvoke_busy he (hrecipe hr) hx hs hb (by simpa only [u, rd_takeInbox, takeInbox_recipes, freeIndex_takeInbox] using h))
    · exact hnew (newInvoke_admits he (hrecipe hr) hx hs hb (by simpa only [u, rd_takeInbox, takeInbox_recipes] using hlim)
        (by simpa only [u, freeIndex_takeInbox] using hi) hw)
  case later =>
    intro s p pkt hl hp ho hc u
    have hexec {t : State} (h : invokePacketReceived s p pkt = t) : exec (.invokePacketReceived p pkt) s = .next (clearTaken t) :=
      next_congr (exec_invokePacketReceived hl hp pkt) (congrArg clearTaken h)
    exact ⟨fun hi => hexec (invokePacketReceived_noneOpen ho hc hi), fun i v hi hv =>
      ⟨fun hd => hexec (invokePacketReceived_duplicate ho hc hi hv hd), fun hd h => hexec (invokePacketReceived_discarded ho hc hi hv hd h),
        fun hd hr hx hn => hexec (invokePacketReceived_outOfOrder ho hc hi hv hd hr hx hn),
        fun hd hr hx hn => hexec (invokePacketReceived_taken ho hc hi hv hd hr hx hn)⟩⟩
  case other =>
    exact fun s p pkt hl hp =>
      ⟨fun h => next_congr (exec_invokeReceived hl hp pkt) (congrArg clearTaken (invokeReceived_other h)),
        fun h => next_congr (exec_invokePacketReceived hl hp pkt) (congrArg clearTaken (invokePacketReceived_other h))⟩
  case start =>
    intro s i hl
    refine ⟨fun v hv hi hfree => ⟨_, next_congr (exec_invocationStart hl i) (invocationStart_starts hv hi hfree),
        invOf_setInv_same _ _ _, rfl, rfl, fun j hj => invOf_setInv_other _ _ hj⟩,
      fun h => next_congr (exec_invocationStart hl i) (invocationStart_nothing h),
      fun v hv hr => next_congr (exec_recipeInputTimeout hl i) (recipeInputTimeout_ends hv hr),
      fun h => next_congr (exec_recipeInputTimeout hl i) (recipeInputTimeout_nothing h)⟩

end Sys2Proof.Machine
end

section
/-! SUPPORT. How the commands of recipe steps run (R301, R302, R324): where the invocation stands at the command's step, the step has its
effect and waiting steps are tried again; elsewhere nothing changes. And how a step completes or times out (R322). -/
namespace Sys2Proof.Machine

/-! Starting a step. -/

section
variable {s u : State} {i : Nat} {x y : Run} {mayTake : Bool}

/-- A step whose versions are held and that nothing ends: an UPDATE has its effect, any other has it with its locks. -/
theorem runStep_ready (h : StepReady s i x u y) : runStep mayTake s i =
    if swOp x.w = soUPDATE then stepBody mayTake u y
    else if (takeLocks u y).2 then stepBody mayTake (takeLocks u y).1 y else waitStep (takeLocks u y).1 i := by
  obtain ⟨-, hrun, hstation, hmat, hversions, hheld, hword⟩ := h
  simp only [runStep, startStep, hrun, hstation, hmat, hversions, hheld, hword]

theorem runStep_update (h : StepReady s i x u y) (ho : swOp x.w = soUPDATE) : runStep mayTake s i = stepBody mayTake u y := by
  rw [runStep_ready h, if_pos ho]

theorem runStep_starts {t : State} (h : StepStarts s i x t y) (ho : swOp x.w ≠ soUPDATE) : runStep mayTake s i = stepBody mayTake t y := by
  obtain ⟨u, hready, hlocks⟩ := h
  rw [runStep_ready hready, if_neg ho, hlocks, if_pos rfl]

/-- A station state that ends the step ends it at that station. -/
theorem runStep_problem {st k : Nat} (hx : runOf s i = some x) (hp : x.problem s = some (st, k)) : runStep mayTake s i = endStep s i st k := by
  simp only [runStep, startStep, hx, hp]

end

/-! The command of a step. -/

section
variable {s : State} {i : Nat} {ok : BitVec 128 → Bool}

theorem stepCommand_at {x : Run} (hx : runOf s i = some x) (hok : ok x.w = true) : stepCommand ok s i = resume (runStep false s i) := by
  simp only [stepCommand, hx]
  exact if_pos hok

theorem stepCommand_elsewhere (h : ∀ x, runOf s i = some x → ok x.w = false) : stepCommand ok s i = s := by
  cases hx : runOf s i with
  | none => simp only [stepCommand, hx]
  | some x => simp [stepCommand, hx, h x hx]

theorem isStep_iff {op sub : Nat} {w : BitVec 128} : isStep op sub w = true ↔ swOp w = op ∧ swSub w = sub := by simp [isStep]

theorem isStep_eq_false_iff {op sub : Nat} {w : BitVec 128} : isStep op sub w = false ↔ swOp w ≠ op ∨ swSub w ≠ sub := by
  rw [← Bool.not_eq_true, isStep_iff, not_and_or]

theorem stepReady_live {x y : Run} {u : State} (h : StepReady s i x u y) : live s = true := h.1

theorem stepReady_run {x y : Run} {u : State} (h : StepReady s i x u y) : runOf s i = some x := h.2.1

theorem stepReady_word {x y : Run} {u : State} (h : StepReady s i x u y) : y.w = x.w := by
  obtain ⟨-, -, -, -, -, -, hword⟩ := h
  exact hword

end

/-- A command that runs one operation and sub-operation of Table 13.5, not UPDATE, with the operation's effect. -/
def RunsStep (i : Nat) (e : Instr × Nat × Nat × (State → Run → State)) : Prop :=
  (∀ s, exec e.1 s = .next (whenLive s fun s => stepCommand (isStep e.2.1 e.2.2.1) s i)) ∧ e.2.1 ≠ soUPDATE ∧
  ∀ t y, swOp y.w = e.2.1 → swSub y.w = e.2.2.1 → stepBody false t y = e.2.2.2 t y

theorem runsStep_of {i op sub : Nat} {c : Instr} {run : State → Run → State}
    (hexec : ∀ s, exec c s = .next (whenLive s fun s => stepCommand (isStep op sub) s i)) (hop : op ≠ soUPDATE)
    (hbody : ∀ t y, swOp y.w = op → swSub y.w = sub → stepBody false t y = run t y) : RunsStep i (c, op, sub, run) := ⟨hexec, hop, hbody⟩

section
variable {s t : State} {i : Nat} {x y : Run} {e : Instr × Nat × Nat × (State → Run → State)} (he : RunsStep i e)
include he

theorem RunsStep.starts (h : StepStarts s i x t y) (ho : swOp x.w = e.2.1) (hs : swSub x.w = e.2.2.1) :
    exec e.1 s = .next (resume (e.2.2.2 t y)) := by
  obtain ⟨hexec, hop, hbody⟩ := he
  obtain ⟨u, hready, hlocks⟩ := h
  refine next_congr (next_of_live (hexec s) (stepReady_live hready)) ?_
  rw [stepCommand_at (stepReady_run hready) (isStep_iff.mpr ⟨ho, hs⟩), runStep_starts ⟨u, hready, hlocks⟩ (ho ▸ hop)]
  have hword := stepReady_word hready
  rw [hbody t y (hword ▸ ho) (hword ▸ hs)]

theorem RunsStep.elsewhere (hl : live s = true) (h : ∀ x, runOf s i = some x → swOp x.w ≠ e.2.1 ∨ swSub x.w ≠ e.2.2.1) :
    exec e.1 s = .next s :=
  next_congr (next_of_live (he.1 s) hl) (stepCommand_elsewhere fun x hx => isStep_eq_false_iff.mpr (h x hx))

theorem RunsStep.problem (hl : live s = true) {st k : Nat} (hx : runOf s i = some x) (ho : swOp x.w = e.2.1) (hs : swSub x.w = e.2.2.1)
    (hp : x.problem s = some (st, k)) : exec e.1 s = .next (resume (endStep s i st k)) := by
  refine next_congr (next_of_live (he.1 s) hl) ?_
  rw [stepCommand_at hx (isStep_iff.mpr ⟨ho, hs⟩), runStep_problem hx hp]

end

/-- The numeric steps but MATMUL: command, operation, sub-operation, effect. -/
def numericSteps (i : Nat) : List (Instr × Nat × Nat × (State → Run → State)) :=
  [(.topk i, soTOPK, 0, topkRun), (.softmax i, soSOFTMAX, 0, softmaxRun), (.normRms i, soNORM, 0, normRmsRun),
   (.normLayer i, soNORM, 1, normLayerRun), (.scaleMul i, soSCALE, 0, scaleMulRun), (.scaleRowvec i, soSCALE, 1, scaleRowvecRun),
   (.scaleColvec i, soSCALE, 2, scaleColvecRun), (.scaleRelu i, soSCALE, 3, scaleReluRun), (.scaleSilu i, soSCALE, 4, scaleSiluRun),
   (.addStep i, soADD, 0, addStepRun), (.subStep i, soADD, 1, subStepRun), (.mulStep i, soADD, 2, mulStepRun),
   (.convert i, soCONVERT, 0, convertRun), (.reduceAccumulate i, soREDUCE, 0, reduceAccumulateRun),
   (.reduceRows i, soREDUCE, 1, reduceRowsRun), (.reduceInit i, soREDUCE, 2, reduceInitRun)]

/-- The steps that move data or digest it. -/
def dataSteps (i : Nat) : List (Instr × Nat × Nat × (State → Run → State)) :=
  [(.stageIn i, soSTAGE, 0, stageInRun), (.stageOut i, soSTAGE, 1, stageOutRun), (.dispatch i, soDISPATCH, 0, dispatchRun),
   (.combine i, soCOMBINE, 0, combineRun), (.digestCompute i, soDIGEST, 0, digestComputeRun),
   (.digestCompare i, soDIGEST, 1, digestCompareRun), (.digestAuto i, soDIGEST, 2, digestAutoRun)]

theorem runsStep_numeric (i : Nat) : ∀ e ∈ numericSteps i, RunsStep i e := by
  simp only [numericSteps, List.forall_mem_cons]
  refine ⟨?_, ?_, ?_, ?_, ?_, ?_, ?_, ?_, ?_, ?_, ?_, ?_, ?_, ?_, ?_, ?_, List.forall_mem_nil _⟩ <;>
    exact runsStep_of (fun _ => rfl) (by decide) fun t y ho hs => by simp [stepBody, ho, hs]

theorem runsStep_data (i : Nat) : ∀ e ∈ dataSteps i, RunsStep i e := by
  simp only [dataSteps, List.forall_mem_cons]
  refine ⟨?_, ?_, ?_, ?_, ?_, ?_, ?_, List.forall_mem_nil _⟩ <;>
    exact runsStep_of (fun _ => rfl) (by decide) fun t y ho hs => by simp [stepBody, ho, hs]

theorem runsStep_barrier (i : Nat) : RunsStep i (.barrier i, soBARRIER, 0, barrierRun) :=
  runsStep_of (fun _ => rfl) (by decide) fun t y ho _ => by simp [stepBody, ho]

/-! MATMUL: one command for each kind. -/

section
variable {s t : State} {i : Nat} {x y : Run}

theorem matmul_starts {ok : BitVec 128 → Bool} (h : StepStarts s i x t y) (ho : swOp x.w = soMATMUL) (hok : ok x.w = true) :
    Host.Outcome.next (whenLive s fun s => stepCommand ok s i) = (.next (resume (matmulIssue t y)) : Out1) := by
  obtain ⟨u, hready, hlocks⟩ := h
  rw [whenLive_live (stepReady_live hready), stepCommand_at (stepReady_run hready) hok,
    runStep_starts ⟨u, hready, hlocks⟩ (by rw [ho]; decide)]
  have hop : swOp y.w = 1 := (stepReady_word hready) ▸ ho
  simp [stepBody, hop]

end

/-! UPDATE (R324). -/

section
variable {s u : State} {i : Nat} {x y : Run}

theorem stepBody_update {mayTake : Bool} (ho : swOp y.w = soUPDATE) :
    stepBody mayTake u y = updateRun u y (decide (swSub y.w = 1)) mayTake := by simp [stepBody, ho]

theorem stepCommand_update {sub : Nat} (h : StepReady s i x u y) (ho : swOp x.w = soUPDATE) (hs : swSub x.w = sub) :
    stepCommand (isStep soUPDATE sub) s i = resume (updateRun u y (decide (sub = 1)) false) := by
  have hword := stepReady_word h
  rw [stepCommand_at (stepReady_run h) (isStep_iff.mpr ⟨ho, hs⟩), runStep_update h ho, stepBody_update (hword ▸ ho), hword, hs]

theorem updateSlotTaken_takes (h : StepReady s i x u y) (ho : swOp x.w = soUPDATE) (hp : x.v.phase = .waiting) (hs : x.v.slotTaken = none) :
    updateSlotTaken s i = resume (updateRun u y (decide (swSub x.w = 1)) true) := by
  have hword := stepReady_word h
  simp only [updateSlotTaken, stepReady_run h]
  rw [if_pos (by simp [ho, hp, hs]), runStep_update h ho, stepBody_update (hword ▸ ho), hword]

theorem updateSlotTaken_noRun (h : runOf s i = none) : updateSlotTaken s i = s := by simp only [updateSlotTaken, h]

/-! The return buffer of a DISPATCH (R336). -/

theorem returnBufferAllocated_retries {t : State} (h : StepStarts s i x t y) (hw : waitsBuffer s x = true) :
    returnBufferAllocated s i = resume (dispatchRun t y) := by
  have ho : swOp x.w = soDISPATCH := by
    simp only [waitsBuffer, Bool.and_eq_true, decide_eq_true_iff] at hw
    exact hw.1.1
  obtain ⟨u, hready, hlocks⟩ := h
  have hop : swOp y.w = 9 := (stepReady_word hready) ▸ ho
  simp only [returnBufferAllocated, stepReady_run hready]
  rw [if_pos hw, runStep_starts ⟨u, hready, hlocks⟩ (by rw [ho]; decide)]
  simp [stepBody, hop]

theorem returnBufferAllocated_noRun (h : runOf s i = none) : returnBufferAllocated s i = s := by simp only [returnBufferAllocated, h]

end

/-! A step's end (R322). -/

section
variable {s : State} {i : Nat}

theorem stepComplete_nothing (h : ∀ v, invOf s i = some v → v.phase ≠ .done) : stepComplete s i = s := by
  cases hv : invOf s i with
  | none => simp only [stepComplete, hv]
  | some v => simp [stepComplete, hv, h v hv]

theorem recipeStepTimeout_nothing (h : ∀ v, invOf s i = some v → v.phase ≠ .waiting) : recipeStepTimeout s i = s := by
  cases hv : invOf s i with
  | none => simp only [recipeStepTimeout, hv]
  | some v => simp [recipeStepTimeout, hv, h v hv]

variable {v : Inv} (hv : invOf s i = some v) (hs : v.started = true)
include hv hs

theorem stepComplete_done (hp : v.phase = .done) : stepComplete s i =
    let c := throughCopies s
    let a := if v.asyncs.any fun a => a.step = v.step then c else releaseStep c i v.step
    let b := modInv a i fun v => { joinReport v with phase := .idle, step := if (joinReport v).status.isSome then (joinReport v).step else (joinReport v).step + 1 }
    resume (finishIfDue (if v.status.isSome then dropUpdate b i else b) i) := by
  simp [stepComplete, hv, hs, hp]

theorem recipeStepTimeout_waiting (hp : v.phase = .waiting) (hn : v.status = none) : ∃ u, recipeStepTimeout s i =
    resume (finishIfDue (modInv u i fun v => { v with status := some isTIMEOUT, phase := .idle }) i) ∧
    FaultRaised (releaseStep (dropUpdate s i) i v.step) 24 u := by
  refine ⟨_, ?_, raiseFault_raised _ 11 v.recipe (w64 (v.srcId.toNat * 2 ^ 16 + v.tag % 2 ^ 16)) (by decide)⟩
  simp [recipeStepTimeout, hv, hs, hp, hn]

end

end Sys2Proof.Machine
end

section
/-! PROOFS. Steps of a recipe: numeric steps, BARRIER, data steps, UPDATE, and how steps end (13). -/
namespace Sys2Proof.Machine

/-- Settles O35: each command of the table by `RunsStep`, MATMUL's two by its kind. -/
theorem numericStepsCompute : Obligations.NumericStepsCompute := by
  unfold Obligations.NumericStepsCompute
  refine ⟨fun s i x t y h => ⟨fun e he => (runsStep_numeric i e he).starts h, fun ho hk => ?_, fun ho hk => ?_⟩, fun s i hl e he =>
    ⟨(runsStep_numeric i e he).elsewhere hl, fun x st k hx ho hs hp => (runsStep_numeric i e he).problem hl hx ho hs hp⟩, fun s i hl h => ?_⟩
  · exact matmul_starts h ho (by simp [ho, hk])
  · exact matmul_starts h ho (by simp [ho, hk])
  · exact ⟨next_congr (next_of_live rfl hl) (stepCommand_elsewhere fun x hx => by simp [h x hx]),
      next_congr (next_of_live rfl hl) (stepCommand_elsewhere fun x hx => by simp [h x hx])⟩

/-- Settles O36: the step is done where none of the invocation's asynchronous steps is left. -/
theorem barrierWaitsForAsynchronousSteps : Obligations.BarrierWaitsForAsynchronousSteps := by
  unfold Obligations.BarrierWaitsForAsynchronousSteps
  intro s i x t y h ho hs
  have hexec := (runsStep_barrier i).starts h ho hs
  exact ⟨fun hnone => next_congr hexec (congrArg resume (if_pos (List.isEmpty_iff.mpr hnone))),
    fun hsome => next_congr hexec (congrArg resume (if_neg (mt List.isEmpty_iff.mp hsome)))⟩

/-- Settles O37: data steps by `RunsStep`, UPDATE and the return buffer by their own commands, and the two ways in which a step ends. -/
theorem stagesUpdatesAndStepEndings : Obligations.StagesUpdatesAndStepEndings := by
  unfold Obligations.StagesUpdatesAndStepEndings
  refine ⟨?data, ?update, ?buffer, ?ends, ?noRun, ?notDone, ?notWaiting⟩
  case data => exact fun s i x t y h e he => (runsStep_data i e he).starts h
  case update =>
    intro s i x u y h ho
    have hl := stepReady_live h
    exact ⟨fun hs => next_congr (next_of_live rfl hl) (stepCommand_update h ho hs),
      fun hs => next_congr (next_of_live rfl hl) (stepCommand_update h ho hs),
      fun hp hs => next_congr (next_of_live rfl hl) (updateSlotTaken_takes h ho hp hs)⟩
  case buffer =>
    rintro s i x t y ⟨u, hready, hlocks⟩ hw
    exact next_congr (next_of_live rfl (stepReady_live hready)) (returnBufferAllocated_retries ⟨u, hready, hlocks⟩ hw)
  case ends =>
    exact fun s i v hl hv hs => ⟨fun hp => next_congr (next_of_live rfl hl) (stepComplete_done hv hs hp), fun hp hn =>
      let ⟨u, hu, hfault⟩ := recipeStepTimeout_waiting hv hs hp hn
      ⟨u, next_congr (next_of_live rfl hl) hu, hfault⟩⟩
  case noRun =>
    intro s i hl h
    have hat {ok : BitVec 128 → Bool} : stepCommand ok s i = s := stepCommand_elsewhere fun x hx => by rw [h] at hx; cases hx
    have hstep {c : Instr} {ok : BitVec 128 → Bool} (hc : exec c s = .next (whenLive s fun s => stepCommand ok s i)) : exec c s = .next s :=
      next_congr (next_of_live hc hl) hat
    simp only [List.forall_mem_cons]
    exact ⟨hstep rfl, hstep rfl, hstep rfl, hstep rfl, hstep rfl, hstep rfl, hstep rfl, hstep rfl, hstep rfl, hstep rfl,
      next_congr (next_of_live rfl hl) (updateSlotTaken_noRun h), next_congr (next_of_live rfl hl) (returnBufferAllocated_noRun h), List.forall_mem_nil _⟩
  case notDone => exact fun s i hl h => next_congr (next_of_live rfl hl) (stepComplete_nothing h)
  case notWaiting => exact fun s i hl h => next_congr (next_of_live rfl hl) (recipeStepTimeout_nothing h)

end Sys2Proof.Machine
end

section
/-! PROOFS. The counter and the revocations in OTP (18, R423). -/
namespace Sys2Proof.Machine

/-- Settles O59: the counter and the revoked slots are among what every step is held to. -/
theorem otpOnlyRises : Obligations.OtpOnlyRises := by
  unfold Obligations.OtpOnlyRises
  intro s t h ht
  obtain ⟨rest, hk⟩ := keeps_step (frozen := false) h nofun (fun _ _ _ _ => rfl) ht
  have p := keeps_parts hk
  exact ⟨p.rises, p.stays⟩

end Sys2Proof.Machine
end

section
/-! SUPPORT. The commits of recipes (R292 to R294) and stations (R323): how the commands run, and what each does by what stands under its
index. -/
namespace Sys2Proof.Machine

/-! How the commands run. -/

/-- A command that is one write has its effect where the checks and its owner accept it. -/
theorem next_of_accepted {o : Out1} {s t : State} {src : Source} {a : Nat} {v : List Byte} {owner : Bool} {f : State → State}
    (h : o = .next (whenWritten s src a v owner f)) (ha : Accepted s src a v) (ho : owner = true) (ht : f s = t) : o = .next t :=
  next_congr h ((whenWritten_accepted ha ho f).trans ht)

/-- A command that is one write changes nothing where the checks refuse it. -/
theorem next_of_refused {o : Out1} {s : State} {src : Source} {a : Nat} {v : List Byte} {owner : Bool} {f : State → State}
    (h : o = .next (whenWritten s src a v owner f)) (ha : ¬ Accepted s src a v) : o = .next s := next_congr h (whenWritten_refused ha f)

section
variable (s : State) (src : Source)

theorem exec_recipeInstall : exec (.recipeInstall src) s =
    .next (whenWritten s src eRecipeCommit [1] true fun s => installRecipe s (recipeSelected s src)) := rfl

theorem exec_recipeRemove : exec (.recipeRemove src) s =
    .next (whenWritten s src eRecipeCommit [2] true fun s => removeRecipe s (recipeSelected s src)) := rfl

theorem exec_stationInstall : exec (.stationInstall src) s =
    .next (whenWritten s src eStationCommit [1] true fun s => installStation s (stationSelected s src)) := rfl

theorem exec_stationRemove : exec (.stationRemove src) s =
    .next (whenWritten s src eStationCommit [2] true fun s => removeStation s (stationSelected s src)) := rfl

theorem exec_stationReady : exec (.stationReady src) s =
    .next (whenWritten s src eStationCommit [3] true fun s => readyStation s (stationSelected s src)) := rfl

theorem exec_stationReload : exec (.stationReload src) s =
    .next (whenWritten s src eStationCommit [4] true fun s => reloadStation s (stationSelected s src)) := rfl

end

/-! Recipes. -/

section
variable {s : State} {k : Nat}

theorem installRecipe_refused (h : recipeCode s k (recipeStage s k) ≠ 0) :
    installRecipe s k = recipeResult s k (recipeCode s k (recipeStage s k)) := if_pos h

theorem installRecipe_installs (h : recipeCode s k (recipeStage s k) = 0) : installRecipe s k =
    let x := recipeStage s k
    recipeResult { s with recipes := { s.recipes with
      installed := Tab.set s.recipes.installed k
        { header := BitVec.ofNat 256 (leNat (sliceZ x.header 0 32)), steps := stagedSteps x.steps, tensors := stagedTensors x.tensors },
      kept := Tab.set s.recipes.kept k x } } k 0 := if_neg (not_not.mpr h)

theorem removeRecipe_none (h : recipeOf s k = none) : removeRecipe s k = recipeResult s k 9 := by simp only [removeRecipe, h]

variable {r : Recipe} (h : recipeOf s k = some r)
include h

theorem removeRecipe_removing (hr : r.removing = true) : removeRecipe s k = recipeResult s k 10 := by
  simp only [removeRecipe, h, hr, if_true]

theorem removeRecipe_removes (hr : r.removing = false) : removeRecipe s k =
    dropRecipe (recipeResult { s with recipes := { s.recipes with
      installed := Tab.set s.recipes.installed k { r with removing := true }, kept := Tab.erase s.recipes.kept k } } k 0) k := by
  simp only [removeRecipe, h, hr, Bool.false_eq_true, if_false]

end

/-! Stations. -/

section
variable {s : State} {k : Nat}

theorem installStation_refused (h : stationCode s k (stationStage s k) ≠ 0) :
    installStation s k = stationResult s k (stationCode s k (stationStage s k)) := if_pos h

theorem removeStation_none (h : stationOf s k = none) : removeStation s k = stationResult s k 5 := by simp only [removeStation, h]

theorem readyStation_none (h : stationOf s k = none) : readyStation s k = stationResult s k 5 := by simp only [readyStation, h]

theorem reloadStation_none (h : stationOf s k = none) : reloadStation s k = stationResult s k 5 := by simp only [reloadStation, h]

section
variable (hc : stationCode s k (stationStage s k) = 0)
include hc

theorem installStation_noSpace (ha : allocFields (BitVec.ofNat 128 (leNat (sliceZ (stationStage s k).header 0 16))) s
    (stagedFields (stationStage s k).fields) = none) : installStation s k = stationResult s k 2 := by
  simp only [installStation, hc, ne_eq, not_true, if_false, ha]

theorem installStation_installs {bs : List Nat} {u : State}
    (ha : allocFields (BitVec.ofNat 128 (leNat (sliceZ (stationStage s k).header 0 16))) s
      (stagedFields (stationStage s k).fields) = some (bs, u)) : installStation s k =
    let x := stationStage s k
    let h := BitVec.ofNat 128 (leNat (sliceZ x.header 0 16))
    stationResult (setStation { u with stations := { u.stations with kept := Tab.set u.stations.kept k x } } k
      { header := h, fields := stagedFields x.fields, state := 1, initTag := x.initTag, bases := bs, slots := loadingSlots h x.initTag }) k 0 := by
  simp only [installStation, hc, ne_eq, not_true, if_false, ha]

end

variable {y : Station} (h : stationOf s k = some y)
include h

theorem readyStation_loading (hy : y.state = 1) :
    readyStation s k = stationResult (setStation (stationColmax s k y) k { y with state := 2 }) k 0 := by
  simp only [readyStation, h, hy, ne_eq, not_true, if_false]

theorem readyStation_other (hy : y.state ≠ 1) : readyStation s k = s := by simp only [readyStation, h, ne_eq, hy, not_false_iff, if_true]

theorem removeStation_inUse (hu : stationNamed s k = true ∨ stationInUse s k = true) : removeStation s k = stationResult s k 4 := by
  simp only [removeStation, h]
  exact if_pos (by simpa using hu)

theorem reloadStation_inUse (hu : stationNamed s k = true ∨ stationInUse s k = true) : reloadStation s k = stationResult s k 4 := by
  simp only [reloadStation, h]
  exact if_pos (by simpa using hu)

variable (hn : stationNamed s k = false) (hu : stationInUse s k = false)
include hn hu

theorem removeStation_removes : removeStation s k =
    let u := (y.bases.zip y.fields).foldl (fun s b => if sfKind b.2 = kiUNUSED then s else freeSlabs s b.1) s
    stationResult { u with stations := { u.stations with
      installed := Tab.erase u.stations.installed k, kept := Tab.erase u.stations.kept k } } k 0 := by
  simp only [removeStation, h, hn, hu, Bool.or_self, Bool.false_eq_true, if_false]

theorem reloadStation_reloads (hy : y.state ≠ 1) : reloadStation s k =
    stationResult (setStation s k { y with state := 1, slots := loadingSlots y.header (stationStage s k).initTag,
                                           initTag := (stationStage s k).initTag, chain := 0 }) k 0 := by
  simp only [reloadStation, h, hn, hu, Bool.or_self, Bool.false_eq_true, if_false, hy]

theorem reloadStation_loading (hy : y.state = 1) : reloadStation s k = s := by
  simp only [reloadStation, h, hn, hu, Bool.or_self, Bool.false_eq_true, if_false, hy, if_true]

end

end Sys2Proof.Machine
end

section
/-! PROOFS. The commits of recipes and stations (13). -/
namespace Sys2Proof.Machine

/-- Settles O33: each of the six commits by what stands under the selected index, and none where the checks refuse the write. -/
theorem recipesAndStationsInstall : Obligations.RecipesAndStationsInstall := by
  unfold Obligations.RecipesAndStationsInstall
  refine ⟨?recipeIn, ?recipeOut, ?stationIn, ?stationOut, ?ready, ?reload, ?refused⟩
  case recipeIn =>
    exact fun s src ha => ⟨fun hc => next_of_accepted (exec_recipeInstall s src) ha rfl (installRecipe_refused hc),
      fun hc => next_of_accepted (exec_recipeInstall s src) ha rfl (installRecipe_installs hc)⟩
  case recipeOut =>
    exact fun s src ha => ⟨fun hn => next_of_accepted (exec_recipeRemove s src) ha rfl (removeRecipe_none hn), fun r h =>
      ⟨fun hr => next_of_accepted (exec_recipeRemove s src) ha rfl (removeRecipe_removing h hr),
        fun hr => next_of_accepted (exec_recipeRemove s src) ha rfl (removeRecipe_removes h hr)⟩⟩
  case stationIn =>
    exact fun s src ha => ⟨fun hc => next_of_accepted (exec_stationInstall s src) ha rfl (installStation_refused hc),
      fun hc hf => next_of_accepted (exec_stationInstall s src) ha rfl (installStation_noSpace hc hf),
      fun bs u hc hf => next_of_accepted (exec_stationInstall s src) ha rfl (installStation_installs hc hf)⟩
  case stationOut =>
    exact fun s src ha => ⟨fun hn => next_of_accepted (exec_stationRemove s src) ha rfl (removeStation_none hn), fun y h =>
      ⟨fun hu => next_of_accepted (exec_stationRemove s src) ha rfl (removeStation_inUse h hu),
        fun hn hu => ⟨_, next_of_accepted (exec_stationRemove s src) ha rfl (removeStation_removes h hn hu), rfl⟩⟩⟩
  case ready =>
    exact fun s src ha => ⟨fun hn => next_of_accepted (exec_stationReady s src) ha rfl (readyStation_none hn), fun y h =>
      ⟨fun hy => next_of_accepted (exec_stationReady s src) ha rfl (readyStation_loading h hy),
        fun hy => next_of_accepted (exec_stationReady s src) ha rfl (readyStation_other h hy)⟩⟩
  case reload =>
    exact fun s src ha => ⟨fun hn => next_of_accepted (exec_stationReload s src) ha rfl (reloadStation_none hn), fun y h =>
      ⟨fun hu => next_of_accepted (exec_stationReload s src) ha rfl (reloadStation_inUse h hu),
        fun hn hu hy => next_of_accepted (exec_stationReload s src) ha rfl (reloadStation_reloads h hn hu hy),
        fun hn hu hy => next_of_accepted (exec_stationReload s src) ha rfl (reloadStation_loading h hn hu hy)⟩⟩
  case refused =>
    exact fun s src => ⟨next_of_refused (exec_recipeInstall s src), next_of_refused (exec_recipeRemove s src),
      next_of_refused (exec_stationInstall s src), next_of_refused (exec_stationRemove s src),
      next_of_refused (exec_stationReady s src), next_of_refused (exec_stationReload s src)⟩

end Sys2Proof.Machine
end

section
/-! SUPPORT. STRICT (R349), SAVE (R357 to R359) and RESTORE (R360): how the commands run, and each result in the order in which it is
tested. -/
namespace Sys2Proof.Machine

/-! How the commands run. -/

section
variable (s : State) (src : Source)

theorem exec_strictWrite (v : Nat) : exec (.strictWrite src v) s =
    .next (whenWritten s src eDeterminismStrict [BitVec.ofNat 8 v] (v ≤ 1) fun s => strictApply s v) := rfl

theorem exec_save : exec (.save src) s = .next (whenWritten s src eSaveCommand [1] true saveStart) := rfl

theorem exec_restore : exec (.restore src) s = .next (whenWritten s src eSaveCommand [2] true restoreStart) := rfl

end

section
variable {s : State} (hl : live s = true)
include hl

theorem exec_saveComplete : exec .saveComplete s = .next (saveComplete s) := next_of_live rfl hl

theorem exec_restoreVerifyDone (h : List Byte) : exec (.restoreVerifyDone h) s = .next (restoreVerifyDone s h) :=
  next_of_live (f := fun s => restoreVerifyDone s h) rfl hl

theorem exec_restoreApplyDone (f : Option Nat) : exec (.restoreApplyDone f) s = .next (restoreApplyDone s f) :=
  next_of_live (f := fun s => restoreApplyDone s f) rfl hl

end

/-! SAVE begins. -/

/-- The stations and the groups that a SAVE is to save. -/
def saveStations (s : State) : List Nat := u16List (blob s eSaveStationList)
def saveGroups (s : State) : List Nat := u16List (blob s eSaveGroupList)

/-- The state in which a SAVE runs: its lists noted, its locks taken. -/
def saveBegun (s : State) : State :=
  wr { s with
    save := { s.save with phase := 1, target := rd s eSaveTarget, base := rd s eSaveCellarBase,
                          stations := saveStations s, groups := saveGroups s },
    recipes := { s.recipes with locks := s.recipes.locks ++ saveLocks (saveStations s) } } eSaveResult 9

section
variable {s : State}

theorem saveStart_inProgress (h : s.save.phase ≠ 0) : saveStart s = wr s eSaveResult 6 := if_pos h

variable (hp : s.save.phase = 0)
include hp

theorem saveStart_busy (h : ((saveStations s).any (stationInUse s) || (saveGroups s).any (groupBusy s)) = true) :
    saveStart s = wr s eSaveResult 1 := (if_neg (not_not.mpr hp)).trans (if_pos h)

variable (hb : ((saveStations s).any (stationInUse s) || (saveGroups s).any (groupBusy s)) = false)
include hb

/-- Neither under way nor in use: the stations decide, then the groups, then the room. -/
theorem saveStart_idle : saveStart s =
    if (saveStations s).any fun k => (match stationOf s k with | some y => decide (y.state ≠ 2) | none => true) then wr s eSaveResult 2
    else if (saveGroups s).any fun g => (groupOf s g).isNone then wr s eSaveResult 7
    else if noSpace s (imageSlabs s (saveStations s) (saveGroups s)) then wr s eSaveResult 5
    else saveBegun s := (if_neg (not_not.mpr hp)).trans (if_neg (by rw [← Bool.not_eq_true] at hb; exact hb))

theorem saveStart_noStation (h : ∃ k ∈ saveStations s, ∀ y, stationOf s k = some y → y.state ≠ 2) : saveStart s = wr s eSaveResult 2 := by
  obtain ⟨k, hk, hy⟩ := h
  rw [saveStart_idle hp hb]
  refine if_pos (List.any_eq_true.mpr ⟨k, hk, ?_⟩)
  cases hs : stationOf s k with
  | none => rfl
  | some y => exact decide_eq_true (hy y hs)

variable (hs : ∀ k ∈ saveStations s, ∃ y, stationOf s k = some y ∧ y.state = 2)
include hs

theorem saveStart_ready : saveStart s =
    if (saveGroups s).any fun g => (groupOf s g).isNone then wr s eSaveResult 7
    else if noSpace s (imageSlabs s (saveStations s) (saveGroups s)) then wr s eSaveResult 5
    else saveBegun s := by
  rw [saveStart_idle hp hb]
  refine if_neg (Bool.eq_false_iff.mp (List.any_eq_false.mpr fun k hk => ?_))
  obtain ⟨y, hy, hready⟩ := hs k hk
  simp [hy, hready]

theorem saveStart_notFound (h : ∃ g ∈ saveGroups s, groupOf s g = none) : saveStart s = wr s eSaveResult 7 := by
  obtain ⟨g, hg, hn⟩ := h
  rw [saveStart_ready hp hb hs]
  exact if_pos (List.any_eq_true.mpr ⟨g, hg, by rw [hn]; rfl⟩)

variable (hg : ∀ g ∈ saveGroups s, groupOf s g ≠ none)
include hg

theorem saveStart_found : saveStart s =
    if noSpace s (imageSlabs s (saveStations s) (saveGroups s)) then wr s eSaveResult 5 else saveBegun s := by
  rw [saveStart_ready hp hb hs]
  refine if_neg (Bool.eq_false_iff.mp (List.any_eq_false.mpr fun g hm => ?_))
  rw [Option.isNone_iff_eq_none]
  exact hg g hm

theorem saveStart_noSpace (h : noSpace s (imageSlabs s (saveStations s) (saveGroups s)) = true) : saveStart s = wr s eSaveResult 5 := by
  rw [saveStart_found hp hb hs hg, if_pos h]

theorem saveStart_runs (h : noSpace s (imageSlabs s (saveStations s) (saveGroups s)) = false) : saveStart s = saveBegun s := by
  rw [saveStart_found hp hb hs hg, if_neg (Bool.eq_false_iff.mp h)]

end

/-! RESTORE begins. -/

theorem restoreStart_inProgress {s : State} (h : s.save.phase ≠ 0) : restoreStart s = wr s eSaveResult 6 := if_pos h

theorem restoreStart_runs {s : State} (h : s.save.phase = 0) : restoreStart s =
    wr { s with save := { s.save with phase := 2, target := rd s eSaveTarget, base := rd s eSaveCellarBase } } eSaveResult 9 :=
  if_neg (not_not.mpr h)

/-! SAVE ends. -/

/-- The slabs that the running SAVE reads, read. -/
def saveRead (s : State) : State × Ready := readSlabs s (s.save.stations.flatMap fun k => match stationOf s k with | some y => savedVat y | none => [])

/-- The state once a SAVE has read its slabs: its locks are free. -/
def saveDone (s : State) : State :=
  { (saveRead s).1 with recipes := { (saveRead s).1.recipes with locks := (saveRead s).1.recipes.locks.filter fun l => l.inv ≠ 1024 },
                        save := { (saveRead s).1.save with phase := 0 } }

/-- The image written, shown and marked. -/
def saveWritten (s : State) : State :=
  let u := saveDone s
  let body := imageBody u s.save.stations s.save.groups
  resume (saveMarker (wr (wr (saveResult (putImage u
      (imageHeader u s.save.stations s.save.groups (1 + body.length / 4096) (imageDigest body) ++ body)) svOK) eSaveImageSlabs (1 + body.length / 4096))
      eSaveImageDigest (imageDigest body).toNat) 1 (1 + body.length / 4096) (imageDigest body))

/-- The end of a SAVE that has read its slabs: CORRUPT at the first station that cannot be read, else the image. -/
def saveEnd (s : State) : State :=
  match unreadable (saveDone s) s.save.stations with
  | some k => resume (wr (wr (saveDone s) eSaveResult 4) eSaveLastStation k)
  | none => saveWritten s

section
variable {s : State}

theorem saveComplete_nothing (h : s.save.phase ≠ 1) : saveComplete s = s := if_pos h

variable (hp : s.save.phase = 1)
include hp

theorem saveComplete_waits (h : (saveRead s).2 = .wait) : saveComplete s = (saveRead s).1 :=
  (if_neg (not_not.mpr hp)).trans (if_pos h)

variable (hr : (saveRead s).2 ≠ .wait)
include hr

/-- What could be read decides the end. -/
theorem saveComplete_ends : saveComplete s = saveEnd s := (if_neg (not_not.mpr hp)).trans (if_neg hr)

theorem saveComplete_unreadable {k : Nat} (h : unreadable (saveDone s) s.save.stations = some k) :
    saveComplete s = resume (wr (wr (saveDone s) eSaveResult 4) eSaveLastStation k) := by
  rw [saveComplete_ends hp hr]
  simp only [saveEnd, h]

theorem saveComplete_writes (h : unreadable (saveDone s) s.save.stations = none) : saveComplete s = saveWritten s := by
  rw [saveComplete_ends hp hr]
  simp only [saveEnd, h]

end

/-! The checks of a RESTORE. -/

section
variable {s : State} {h : List Byte}

theorem restoreVerifyDone_nothing (hp : s.save.phase ≠ 2) : restoreVerifyDone s h = s := if_pos hp

/-- The sections and groups of an image, checked in this order: all here, all of the same definition, none in use. -/
def restoreChecked (s : State) (im : List Byte) : State :=
  if (imageSections im).any (fun x => (stationOf s (scStation x.1)).isNone) || (imageGroups im).any (fun g => (groupOf s g.1).isNone) then
    restoreEnd s svNOT_FOUND
  else match (imageSections im).find? fun x => !sectionMatches s x.1 with
    | some x => restoreEnd (wr s eSaveLastStation (scStation x.1)) svDEF_MISMATCH
    | none =>
      if (imageSections im).any (fun x => stationInUse s (scStation x.1)) || (imageGroups im).any (fun g => groupBusy s g.1) then
        restoreEnd s svBUSY
      else { s with save := { s.save with phase := 3, image := im } }

section
variable (hp : s.save.phase = 2)
include hp

theorem restoreVerifyDone_notWhole (hw : imageWhole (readImage s h) = false) : restoreVerifyDone s h = restoreEnd s svBAD_IMAGE := by
  simp only [restoreVerifyDone, hp, ne_eq, not_true, if_false, hw, Bool.not_false, if_true]

variable (hw : imageWhole (readImage s h) = true)
include hw

theorem restoreVerifyDone_badSlab {c : Nat} (hc : badImageSlab s (ihTotal (readImage s h)) = some c) : restoreVerifyDone s h =
    restoreEnd (raiseFault (bump s eCellarCrcErrorCount) 17 4 (channelOf c) (w64 c)) svCORRUPT := by
  simp only [restoreVerifyDone, hp, ne_eq, not_true, if_false, hw, Bool.not_true, Bool.false_eq_true, hc]

variable (hc : badImageSlab s (ihTotal (readImage s h)) = none)
include hc

theorem restoreVerifyDone_badDigest (hd : (imageDigest (sliceZ (readImage s h) 4096 (4096 * (ihTotal (readImage s h) - 1)))).toNat ≠
    ihDigest (readImage s h)) : restoreVerifyDone s h = restoreEnd s svCORRUPT := by
  simp only [restoreVerifyDone, hp, ne_eq, not_true, if_false, hw, Bool.not_true, Bool.false_eq_true, hc]
  exact if_pos hd

theorem restoreVerifyDone_checks (hd : (imageDigest (sliceZ (readImage s h) 4096 (4096 * (ihTotal (readImage s h) - 1)))).toNat =
    ihDigest (readImage s h)) : restoreVerifyDone s h = restoreChecked s (readImage s h) := by
  simp only [restoreVerifyDone, hp, ne_eq, not_true, if_false, hw, Bool.not_true, Bool.false_eq_true, hc, hd]
  rfl

end

section
variable {im : List Byte}

theorem restoreChecked_notFound (hf : (∃ x ∈ imageSections im, stationOf s (scStation x.1) = none) ∨ (∃ g ∈ imageGroups im, groupOf s g.1 = none)) :
    restoreChecked s im = restoreEnd s svNOT_FOUND := by
  refine if_pos ?_
  simpa only [Bool.or_eq_true, List.any_eq_true, Option.isNone_iff_eq_none] using hf

section
variable (hs : ∀ x ∈ imageSections im, stationOf s (scStation x.1) ≠ none) (hg : ∀ g ∈ imageGroups im, groupOf s g.1 ≠ none)
include hs hg

theorem restoreChecked_found : restoreChecked s im =
    match (imageSections im).find? fun x => !sectionMatches s x.1 with
    | some x => restoreEnd (wr s eSaveLastStation (scStation x.1)) svDEF_MISMATCH
    | none =>
      if (imageSections im).any (fun x => stationInUse s (scStation x.1)) || (imageGroups im).any (fun g => groupBusy s g.1) then
        restoreEnd s svBUSY
      else { s with save := { s.save with phase := 3, image := im } } := by
  refine (if_neg ?_).trans rfl
  simp only [Bool.or_eq_true, List.any_eq_true, Option.isNone_iff_eq_none]
  rintro (⟨x, hx, hn⟩ | ⟨g, hm, hn⟩)
  · exact hs x hx hn
  · exact hg g hm hn

theorem restoreChecked_mismatch {x : List Byte × Nat} (hx : (imageSections im).find? (fun x => !sectionMatches s x.1) = some x) :
    restoreChecked s im = restoreEnd (wr s eSaveLastStation (scStation x.1)) svDEF_MISMATCH := by
  simp only [restoreChecked_found hs hg, hx]

variable (hm : ∀ x ∈ imageSections im, sectionMatches s x.1 = true)
include hm

theorem restoreChecked_matches : restoreChecked s im =
    if (imageSections im).any (fun x => stationInUse s (scStation x.1)) || (imageGroups im).any (fun g => groupBusy s g.1) then
      restoreEnd s svBUSY
    else { s with save := { s.save with phase := 3, image := im } } := by
  have hnone : (imageSections im).find? (fun x => !sectionMatches s x.1) = none :=
    List.find?_eq_none.mpr fun x hx => by simp [hm x hx]
  simp only [restoreChecked_found hs hg, hnone]

theorem restoreChecked_busy (hu : (∃ x ∈ imageSections im, stationInUse s (scStation x.1) = true) ∨ (∃ g ∈ imageGroups im, groupBusy s g.1 = true)) :
    restoreChecked s im = restoreEnd s svBUSY := by
  rw [restoreChecked_matches hs hg hm]
  refine if_pos ?_
  simpa only [Bool.or_eq_true, List.any_eq_true] using hu

theorem restoreChecked_verified (hu : ∀ x ∈ imageSections im, stationInUse s (scStation x.1) = false)
    (hb : ∀ g ∈ imageGroups im, groupBusy s g.1 = false) : restoreChecked s im = { s with save := { s.save with phase := 3, image := im } } := by
  rw [restoreChecked_matches hs hg hm]
  refine if_neg ?_
  simp only [Bool.or_eq_true, List.any_eq_true]
  rintro (⟨x, hx, hn⟩ | ⟨g, hm, hn⟩)
  · exact Bool.eq_false_iff.mp (hu x hx) hn
  · exact Bool.eq_false_iff.mp (hb g hm) hn

end
end
end

/-! A RESTORE applied. -/

/-- The stations and groups of the verified image restored, and the image shown and marked. -/
def restored (s : State) : State :=
  let im := s.save.image
  saveMarker (wr (wr ((imageGroups im).foldl restoreGroup ((imageSections im).foldl (fun s x => restoreStation s im x) s))
    eSaveImageSlabs (ihTotal im)) eSaveImageDigest (w64 (ihDigest im)).toNat) 2 (ihTotal im) (w64 (ihDigest im))

section
variable {s : State} {f : Option Nat}

theorem restoreApplyDone_nothing (hp : s.save.phase ≠ 3) : restoreApplyDone s f = s := if_pos hp

variable (hp : s.save.phase = 3)
include hp

theorem restoreApplyDone_eq : restoreApplyDone s f =
    match f with
    | some k =>
      if (imageSections s.save.image).any fun x => scStation x.1 = k then
        resume (restoreEnd (wr (makeInconsistent (restored s) k k) eSaveLastStation k) svCORRUPT)
      else resume (restoreEnd (restored s) svOK)
    | none => resume (restoreEnd (restored s) svOK) := (if_neg (not_not.mpr hp)).trans rfl

theorem restoreApplyDone_whole (h : ∀ k, f = some k → ∀ x ∈ imageSections s.save.image, scStation x.1 ≠ k) :
    restoreApplyDone s f = resume (restoreEnd (restored s) svOK) := by
  rw [restoreApplyDone_eq hp]
  cases f with
  | none => rfl
  | some k => exact if_neg (by simpa using h k rfl)

theorem restoreApplyDone_failed {k : Nat} (hf : f = some k) (h : ∃ x ∈ imageSections s.save.image, scStation x.1 = k) :
    restoreApplyDone s f = resume (restoreEnd (wr (makeInconsistent (restored s) k k) eSaveLastStation k) svCORRUPT) := by
  rw [restoreApplyDone_eq hp, hf]
  exact if_pos (by simpa using h)

end

end Sys2Proof.Machine
end

section
/-! PROOFS. STRICT, SAVE and RESTORE (15). -/
namespace Sys2Proof.Machine

/-- Settles O39: each command by the first result that applies, in R359's and R360's order. -/
theorem strictSaveAndRestoreRun : Obligations.StrictSaveAndRestoreRun := by
  unfold Obligations.StrictSaveAndRestoreRun
  refine ⟨?strict, ?noStrict, ?save, ?restore, ?refused, ?saved, ?verify, ?apply, ?nothing⟩
  case strict => exact fun s src v hv ha => next_of_accepted (exec_strictWrite s src v) ha (decide_eq_true hv) rfl
  case noStrict => exact fun s src v ha => next_of_refused (exec_strictWrite s src v) ha
  case save =>
    intro s src ha ks gs
    have hexec {t : State} (h : saveStart s = t) : exec (.save src) s = .next t := next_of_accepted (exec_save s src) ha rfl h
    exact ⟨fun hp => hexec (saveStart_inProgress hp), fun hp hb => hexec (saveStart_busy hp hb),
      fun hp hb hs => hexec (saveStart_noStation hp hb hs), fun hp hb hs =>
        ⟨fun hg => hexec (saveStart_notFound hp hb hs hg), fun hg hn => hexec (saveStart_noSpace hp hb hs hg hn),
          fun hg hn => hexec (saveStart_runs hp hb hs hg hn)⟩⟩
  case restore =>
    exact fun s src ha => ⟨fun hp => next_of_accepted (exec_restore s src) ha rfl (restoreStart_inProgress hp),
      fun hp => next_of_accepted (exec_restore s src) ha rfl (restoreStart_runs hp)⟩
  case refused => exact fun s src => ⟨next_of_refused (exec_save s src), next_of_refused (exec_restore s src)⟩
  case saved =>
    exact fun s hl hp => ⟨fun hr => next_congr (exec_saveComplete hl) (saveComplete_waits hp hr),
      fun k hr hu => next_congr (exec_saveComplete hl) (saveComplete_unreadable hp hr hu),
      fun hr hu => next_congr (exec_saveComplete hl) (saveComplete_writes hp hr hu)⟩
  case verify =>
    intro s h hl hp im
    have hexec {t : State} (ht : restoreVerifyDone s h = t) : exec (.restoreVerifyDone h) s = .next t :=
      next_congr (exec_restoreVerifyDone hl h) ht
    refine ⟨fun hw => hexec (restoreVerifyDone_notWhole hp hw), fun c hw hc =>
      ⟨_, raiseFault_raised _ 4 (channelOf c) (w64 c) (by decide), hexec (restoreVerifyDone_badSlab hp hw hc)⟩, fun hw hc =>
      ⟨fun hd => hexec (restoreVerifyDone_badDigest hp hw hc hd), fun hd => ?_⟩⟩
    have hcheck {t : State} (ht : restoreChecked s im = t) : exec (.restoreVerifyDone h) s = .next t :=
      hexec ((restoreVerifyDone_checks hp hw hc hd).trans ht)
    exact ⟨fun hf => hcheck (restoreChecked_notFound hf), fun hs hg =>
      ⟨fun x hx => hcheck (restoreChecked_mismatch hs hg hx), fun hm =>
        ⟨fun hu => hcheck (restoreChecked_busy hs hg hm hu), fun hu hb => hcheck (restoreChecked_verified hs hg hm hu hb)⟩⟩⟩
  case apply =>
    exact fun s f hl hp => ⟨fun h => next_congr (exec_restoreApplyDone hl f) (restoreApplyDone_whole hp h),
      fun k hf h => next_congr (exec_restoreApplyDone hl f) (restoreApplyDone_failed hp hf h)⟩
  case nothing =>
    exact fun s h f hl => ⟨fun hp => next_congr (exec_saveComplete hl) (saveComplete_nothing hp),
      fun hp => next_congr (exec_restoreVerifyDone hl h) (restoreVerifyDone_nothing hp),
      fun hp => next_congr (exec_restoreApplyDone hl f) (restoreApplyDone_nothing hp)⟩

end Sys2Proof.Machine
end

section
/-! SUPPORT. Fault records (R367, R369), fence notices (R378 to R380), unfencing (R377) and the control cores (R375): how the commands run
and what each does by what it finds. -/
namespace Sys2Proof.Machine

/-! How the commands run. -/

section
variable {s : State} (hl : live s = true)
include hl

theorem exec_faultRecordClose (i : Nat) : exec (.faultRecordClose i) s = .next (faultRecordClose s i) :=
  next_of_live (f := fun s => faultRecordClose s i) rfl hl

theorem exec_coreFault {c : Nat} (hc : c < 16) : exec (.coreFault c) s = .next (coreFault s c) :=
  next_of_live (f := fun s => coreFault s c) (onUnit_of (decide_eq_true hc) _) hl

theorem exec_coreEcc {c : Nat} (hc : c < 16) : exec (.coreEcc c) s = .next (coreEcc s c) :=
  next_of_live (f := fun s => coreEcc s c) (onUnit_of (decide_eq_true hc) _) hl

theorem exec_coreRestartDone {c : Nat} (hc : c < 16) : exec (.coreRestartDone c) s = .next (coreRestartDone s c) :=
  next_of_live (f := fun s => coreRestartDone s c) (onUnit_of (decide_eq_true hc) _) hl

theorem exec_fenceNoticeDelay {p : Nat} (hp : p < 128) : exec (.fenceNoticeDelay p) s = .next (resume (fenceNoticeDelay s p)) :=
  next_of_live (f := fun s => resume (fenceNoticeDelay s p)) (onUnit_of (decide_eq_true hp) _) hl

theorem exec_fenceRefresh : exec .fenceRefresh s = .next (resume (fenceRefresh s)) :=
  next_of_live (f := fun s => resume (fenceRefresh s)) rfl hl

theorem exec_fenceNoticeReceived {p : Nat} (hp : p < 128 ∨ p = 255) (k : Packet) : exec (.fenceNoticeReceived p k) s =
    .next (clearTaken (if k.h.opcode = opFENCE_NOTICE then resume (fenceNoticeReceived (takeInbox s p k) k) else takeInbox s p k)) :=
  (onUnit_of (packetPort_wellFormed hp) _).trans (congrArg Host.Outcome.next (whenLive_live hl _))

theorem exec_fenceBitExpiry {m p : Nat} (hm : m < 4096) (hp : p < 104) : exec (.fenceBitExpiry m p) s =
    .next (resume (setFenceBit s (m * 104 + p) false)) :=
  next_of_live (f := fun s => resume (setFenceBit s (m * 104 + p) false))
    (onUnit_of (by simp only [Instr.wellFormed, hm, hp, decide_true, Bool.and_self]) _) hl

end

theorem exec_faultUnfence (s : State) (src : Source) (v : Nat) : exec (.faultUnfence src v) s =
    .next (whenWritten s src eFaultUnfence (leBytes 4 v) (isStateEntry (v / 256) (v % 256)) fun s => unfence s v) := rfl

theorem exec_fatalRecordFlash (s : State) : exec .fatalRecordFlash s = .next (if s.pins.mainUp then fatalRecordFlash s else s) := rfl

/-! Records (R367, R369). -/

section
variable {s : State} {i : Nat}

theorem faultRecordClose_unknown (h : (s.faults.records.find? fun r => r.id = i) = none) : faultRecordClose s i = s := by
  simp only [faultRecordClose, h]

variable {r : Record} (h : (s.faults.records.find? fun r => r.id = i) = some r)
include h

theorem faultRecordClose_closes (ho : r.opened = true) (hc : r.cls ≠ 2) :
    faultRecordClose s i = reportRecord (setRecord s { r with opened := false }) { r with opened := false } := by
  simp [faultRecordClose, h, ho, hc]

theorem faultRecordClose_stays (hr : r.opened = false ∨ r.cls = 2) : faultRecordClose s i = s := by
  simp only [faultRecordClose, h]
  exact if_pos (by simpa using hr)

/-- The record that a number finds is replaced in the log where that number stands. -/
theorem records_setRecord_closed : (setRecord s { r with opened := false }).faults.records =
    s.faults.records.map fun x => if x.id = i then { r with opened := false } else x := by
  have hid : r.id = i := by simpa using List.find?_some h
  simp only [setRecord, hid]

end

theorem flashCauses_iff (r : Record) : flashCauses r = true ↔ ∃ n, 34 ≤ n ∧ n < 64 ∧ r.causes.getLsbD n = true := by
  simp only [flashCauses, List.any_eq_true, List.mem_range, Bool.and_eq_true, decide_eq_true_iff]
  exact ⟨fun ⟨n, hn, h34, hbit⟩ => ⟨n, h34, hn, hbit⟩, fun ⟨n, h34, hn, hbit⟩ => ⟨n, hn, h34, hbit⟩⟩

section
variable {s : State}

theorem fatalRecordFlash_none (h : s.faults.fatal = none) : fatalRecordFlash s = s := by simp only [fatalRecordFlash, h]

variable {i : Nat} {r : Record} (hf : s.faults.fatal = some i) (h : (s.faults.records.find? fun r => r.id = i) = some r)
include hf h

theorem fatalRecordFlash_eq : fatalRecordFlash s =
    if flashCauses r then { s with faults := { s.faults with flash := some (recordBits r) } } else s := by
  simp only [fatalRecordFlash, hf, h]

theorem fatalRecordFlash_writes (hc : ∃ n, 34 ≤ n ∧ n < 64 ∧ r.causes.getLsbD n = true) :
    fatalRecordFlash s = { s with faults := { s.faults with flash := some (recordBits r) } } := by
  rw [fatalRecordFlash_eq hf h, if_pos ((flashCauses_iff r).mpr hc)]

theorem fatalRecordFlash_supply (hc : ∀ n, 34 ≤ n → n < 64 → r.causes.getLsbD n = false) : fatalRecordFlash s = s := by
  rw [fatalRecordFlash_eq hf h, if_neg]
  rintro hcause
  obtain ⟨n, h34, hn, hbit⟩ := (flashCauses_iff r).mp hcause
  exact Bool.eq_false_iff.mp (hc n h34 hn) hbit

end

/-! Unfencing (R377). -/

section
variable {s : State} {v : Nat}

theorem unfence_notFenced (h : (fnSite v).1 = 13 ∨ fnState s v ≠ .fenced) : unfence s v = wr s eFaultUnfenceResult 1 :=
  if_pos (by simpa using h)

variable (hf : fnState s v = .fenced)
include hf

/-- A FENCED function that is no slice: its kind decides. -/
theorem unfence_fenced (h : (fnSite v).1 ≠ 13) : unfence s v =
    if (fnSite v).1 = 9 then wr s eFaultUnfenceResult 3
    else if (fnSite v).1 = 1 then wr (portTo s (fnSite v).2 {}) eFaultUnfenceResult 0
    else if (fnSite v).1 = 14 then wr (engineTo s (fnSite v).2 {}) eFaultUnfenceResult 0
    else if s.proof.active = some (unfenceUnit (fnSite v)) then wr s eFaultUnfenceResult 4
    else proofEnqueue s (unfenceUnit (fnSite v)) true := if_neg (by simp [h, hf])

theorem unfence_group (h : (fnSite v).1 = 9) : unfence s v = wr s eFaultUnfenceResult 3 := by
  rw [unfence_fenced hf (by omega), if_pos h]

theorem unfence_port (h : (fnSite v).1 = 1) : unfence s v = wr (portTo s (fnSite v).2 {}) eFaultUnfenceResult 0 := by
  rw [unfence_fenced hf (by omega), if_neg (by omega), if_pos h]

theorem unfence_engine (h : (fnSite v).1 = 14) : unfence s v = wr (engineTo s (fnSite v).2 {}) eFaultUnfenceResult 0 := by
  rw [unfence_fenced hf (by omega), if_neg (by omega), if_neg (by omega), if_pos h]

section
variable (h : (fnSite v).1 = 7 ∨ (fnSite v).1 = 2)
include h

theorem unfence_unit : unfence s v =
    if s.proof.active = some (unfenceUnit (fnSite v)) then wr s eFaultUnfenceResult 4 else proofEnqueue s (unfenceUnit (fnSite v)) true := by
  rw [unfence_fenced hf (by omega), if_neg (by omega), if_neg (by omega), if_neg (by omega)]

end
end

/-! Control cores (R375). -/

section
variable {s : State} {c : Nat}

theorem coreFault_fenced (h : rd s (eControlCoreState c) = 2) : coreFault s c = s := if_pos h

theorem coreFault_raises (h : rd s (eControlCoreState c) ≠ 2) : coreFault s c =
    let u := raiseFault s 27 8 c 0
    fenceCore (if u.fw.live = some (c / 4) then proofNext (liveRevert u) else u) c := if_neg h

end

/-! Fence notices (R378 to R380). -/

section
variable {s : State} {p : Nat}

theorem isEdge_iff : isEdge p = true ↔ p < 104 := decide_eq_true_iff

theorem fenceNoticeDelay_originates (hp : p < 104) (hon : fnState s (ePortState p) ≠ .on) (hf : fnState s (ePortState p) ≠ .fenced)
    (hq : fnState s (ePortState p) ≠ .quarantined) : fenceNoticeDelay s p = originateNotice s p fnDOWN true := by
  unfold fenceNoticeDelay
  rw [if_neg (by simp [isEdge_iff.mpr hp])]
  cases h : fnState s (ePortState p) with
  | on => exact absurd h hon
  | fenced => exact absurd h hf
  | quarantined => exact absurd h hq
  | off | starting | stopping => rfl

theorem fenceNoticeDelay_none (h : 104 ≤ p ∨ fnState s (ePortState p) = .on ∨ fnState s (ePortState p) = .fenced ∨
    fnState s (ePortState p) = .quarantined) : fenceNoticeDelay s p = s := by
  unfold fenceNoticeDelay
  by_cases hp : isEdge p = true
  · rw [if_neg (by simp [hp])]
    rcases h.resolve_left (not_le.mpr (isEdge_iff.mp hp)) with h | h | h <;> simp only [h]
  · exact if_pos (by simpa using hp)

end

section
variable {s : State} {k : Packet}

theorem fenceNoticeReceived_noSizes (h : s.topo.sizes = none) : fenceNoticeReceived s k = s := by simp only [fenceNoticeReceived, h]

/-- The fields of a notice: its bytes as a number, its subject's module, and whether a notice as new was applied from there. -/
def noticeNumber (k : Packet) : Nat := leNat (k.payload.take 16)
def noticeCoord (k : Packet) : Nat := idCoord (fnSubject (noticeNumber k))
def noticeStale (s : State) (z : Nat × Nat × Nat) (k : Packet) : Prop :=
  ∃ a, Tab.find s.fence.applied (moduleNum z (noticeCoord k)) = some a ∧ fnAge (noticeNumber k) ≤ a

variable {z : Nat × Nat × Nat} (hz : s.topo.sizes = some z)
include hz

theorem fenceNoticeReceived_stale (h : noticeCoord k ≠ idCoord k.h.src ∨ noticeStale s z k) :
    fenceNoticeReceived s k = bump s eFenceNoticeStaleCount := by
  simp only [fenceNoticeReceived, hz]
  refine if_pos ?_
  rw [Bool.or_eq_true, decide_eq_true_iff]
  refine h.imp id fun ⟨a, ha, hage⟩ => ?_
  simp only [noticeCoord, noticeNumber] at ha hage
  simp only [ha, hage, decide_true]

variable (hc : noticeCoord k = idCoord k.h.src) (hn : ¬ noticeStale s z k)
include hc hn

theorem fenceNoticeReceived_newer : fenceNoticeReceived s k =
    if !inSizes z (noticeCoord k) || 104 ≤ idPort (fnSubject (noticeNumber k)) then s
    else expertsFenced (forwardNotice (setFenceBit
      { s with fence := { s.fence with applied := Tab.set s.fence.applied (moduleNum z (noticeCoord k)) (fnAge (noticeNumber k)) } }
      (moduleNum z (noticeCoord k) * 104 + idPort (fnSubject (noticeNumber k))) (fnInForce (noticeNumber k))) (k.payload.take 16)) := by
  simp only [fenceNoticeReceived, hz]
  refine if_neg ?_
  rw [Bool.or_eq_true, decide_eq_true_iff, not_or, not_not]
  refine ⟨hc, fun hstale => hn ?_⟩
  cases ha : Tab.find s.fence.applied (moduleNum z (noticeCoord k)) with
  | none =>
    simp only [noticeCoord, noticeNumber] at ha
    simp [ha] at hstale
  | some a =>
    refine ⟨a, ha, ?_⟩
    show fnAge (leNat (k.payload.take 16)) ≤ a
    simp only [noticeCoord, noticeNumber] at ha
    simpa [ha] using hstale

theorem fenceNoticeReceived_applied (hin : inSizes z (noticeCoord k) = true) (hp : idPort (fnSubject (noticeNumber k)) < 104) :
    fenceNoticeReceived s k = expertsFenced (forwardNotice (setFenceBit
      { s with fence := { s.fence with applied := Tab.set s.fence.applied (moduleNum z (noticeCoord k)) (fnAge (noticeNumber k)) } }
      (moduleNum z (noticeCoord k) * 104 + idPort (fnSubject (noticeNumber k))) (fnInForce (noticeNumber k))) (k.payload.take 16)) := by
  rw [fenceNoticeReceived_newer hz hc hn, if_neg (by simp [hin, hp])]

theorem fenceNoticeReceived_outside (h : inSizes z (noticeCoord k) = false ∨ 104 ≤ idPort (fnSubject (noticeNumber k))) :
    fenceNoticeReceived s k = s := by
  rw [fenceNoticeReceived_newer hz hc hn, if_pos (by simpa using h)]

end

theorem mem_bits_setFenceBit_off {s : State} {k j : Nat} : j ∈ (setFenceBit s k false).fence.bits ↔ j ∈ s.fence.bits ∧ j ≠ k := by
  simp [setFenceBit]

end Sys2Proof.Machine
end

section
/-! PROOFS. Fault records, unfencing and control cores, fence notices (16). -/
namespace Sys2Proof.Machine

/-- Settles O40: a record by whether it is open and FATAL, the flash by its causes. -/
theorem recordsCloseAndReachFlash : Obligations.RecordsCloseAndReachFlash := by
  unfold Obligations.RecordsCloseAndReachFlash
  refine ⟨?known, ?unknown, ?flash, ?noFlash⟩
  case known =>
    exact fun s i r hl h => ⟨fun ho hc => ⟨next_congr (exec_faultRecordClose hl i) (faultRecordClose_closes h ho hc), records_setRecord_closed h⟩,
      fun hr => next_congr (exec_faultRecordClose hl i) (faultRecordClose_stays h hr)⟩
  case unknown =>
    intro s i h
    refine congrArg Host.Outcome.next ?_
    cases hl : live s
    · exact whenLive_not hl _
    · exact (whenLive_live hl _).trans (faultRecordClose_unknown h)
  case flash =>
    exact fun s i r hup hf h => ⟨fun hc => next_congr (exec_fatalRecordFlash s) ((if_pos hup).trans (fatalRecordFlash_writes hf h hc)),
      fun hc => next_congr (exec_fatalRecordFlash s) ((if_pos hup).trans (fatalRecordFlash_supply hf h hc))⟩
  case noFlash =>
    intro s h
    refine next_congr (exec_fatalRecordFlash s) ?_
    rcases h with hdown | hnone
    · exact if_neg (Bool.eq_false_iff.mp hdown)
    · rw [fatalRecordFlash_none hnone, ite_self]

/-- Settles O41: the unfencing by the function's kind, each core event by the core's state. -/
theorem unfencingAndCoresAct : Obligations.UnfencingAndCoresAct := by
  unfold Obligations.UnfencingAndCoresAct
  refine ⟨?unfence, ?refused, ?cores⟩
  case unfence =>
    intro s src v hv ha x
    have hexec {t : State} (h : unfence s v = t) : exec (.faultUnfence src v) s = .next t :=
      next_of_accepted (exec_faultUnfence s src v) ha hv h
    exact ⟨fun h => hexec (unfence_notFenced h), fun hf => ⟨fun h => hexec (unfence_group hf h), fun h => hexec (unfence_port hf h),
      fun h => hexec (unfence_engine hf h), fun h => ⟨fun hu => hexec ((unfence_unit hf h).trans (if_pos hu)),
        fun hu => hexec ((unfence_unit hf h).trans (if_neg hu))⟩⟩⟩
  case refused =>
    exact fun s src v h => h.elim (fun hv => next_congr (exec_faultUnfence s src v) (whenWritten_owner hv _))
      (next_of_refused (exec_faultUnfence s src v))
  case cores =>
    exact fun s c hl hc => ⟨fun h => next_congr (exec_coreFault hl hc) (coreFault_fenced h),
      fun h => ⟨_, raiseFault_raised s 8 c 0 (by decide), next_congr (exec_coreFault hl hc) (coreFault_raises h)⟩,
      ⟨_, raiseFault_raised s 8 c 0 (by decide), exec_coreEcc hl hc⟩, exec_coreRestartDone hl hc⟩

/-- Settles O42: each command by the port's state or by what the notice says. -/
theorem fenceNoticesAct : Obligations.FenceNoticesAct := by
  unfold Obligations.FenceNoticesAct
  refine ⟨?delay, ?refresh, ?other, ?noSizes, ?received, ?expiry⟩
  case delay =>
    exact fun s p hl hp => ⟨fun he hon hf hq => next_congr (exec_fenceNoticeDelay hl hp) (congrArg resume (fenceNoticeDelay_originates he hon hf hq)),
      fun h => next_congr (exec_fenceNoticeDelay hl hp) (congrArg resume (fenceNoticeDelay_none h))⟩
  case refresh => exact fun s hl => exec_fenceRefresh hl
  case other => exact fun s p k hl hp ho => next_congr (exec_fenceNoticeReceived hl hp k) (congrArg clearTaken (if_neg ho))
  case noSizes =>
    exact fun s p k hl hp ho hz => next_congr (exec_fenceNoticeReceived hl hp k) (congrArg clearTaken ((if_pos ho).trans
      (congrArg resume (fenceNoticeReceived_noSizes (by rw [takeInbox_topo]; exact hz)))))
  case received =>
    intro s p k z hl hp ho hz u b c m
    have hexec {t : State} (h : fenceNoticeReceived u k = t) : exec (.fenceNoticeReceived p k) s = .next (served t) :=
      next_congr (exec_fenceNoticeReceived hl hp k) (congrArg clearTaken ((if_pos ho).trans (congrArg resume h)))
    have hzu : u.topo.sizes = some z := by rw [takeInbox_topo]; exact hz
    have happlied : u.fence.applied = s.fence.applied := by rw [takeInbox_fence]
    have hstale : noticeStale u z k ↔ ∃ a, Tab.find s.fence.applied m = some a ∧ fnAge b ≤ a := by rw [← happlied]; rfl
    have hnewer (h : ∀ a, Tab.find s.fence.applied m = some a → a < fnAge b) : ¬ noticeStale u z k := by
      rw [hstale]
      exact fun ⟨a, ha, hage⟩ => not_lt.mpr hage (h a ha)
    exact ⟨fun h => hexec (fenceNoticeReceived_stale hzu (h.imp id hstale.mpr)),
      fun hc hn hin hport => hexec (fenceNoticeReceived_applied hzu hc (hnewer hn) hin hport),
      fun hc hn h => hexec (fenceNoticeReceived_outside hzu hc (hnewer hn) h)⟩
  case expiry =>
    exact fun s m p hl hm hp => ⟨_, exec_fenceBitExpiry hl hm hp, fun h => (mem_bits_setFenceBit_off.mp h).2 rfl,
      fun k hk => mem_bits_setFenceBit_off.trans (and_iff_left hk), rfl⟩

end Sys2Proof.Machine
end

section
/-! SUPPORT. Proof's commands (R381 to R386): how they run, how a unit's turn comes, and how a test ends. -/
namespace Sys2Proof.Machine

/-! How the commands run. -/

section
variable {s : State} (hl : live s = true)
include hl

theorem exec_proofDue {u : Nat} (hu : u < 893) : exec (.proofDue u) s = .next (proofDue s u) :=
  next_of_live (f := fun s => proofDue s u) (onUnit_of (decide_eq_true hu) _) hl

theorem exec_proofTakeoverDone : exec .proofTakeoverDone s = .next (proofTakeoverDone s) := next_of_live rfl hl

theorem exec_proofTestDone (p : Bool) (fl : List (Nat × Nat × Nat)) : exec (.proofTestDone p fl) s = .next (proofTestDone s p fl) :=
  next_of_live (f := fun s => proofTestDone s p fl) rfl hl

theorem exec_proofDeferralEnd : exec .proofDeferralEnd s = .next (proofDeferralEnd s) := next_of_live rfl hl

end

theorem exec_proofNow (s : State) (src : Source) (u : Nat) : exec (.proofNow src u) s =
    .next (whenWritten s src eProofNow (leBytes 2 u) (u < 893) fun s => proofEnqueue s u false) := rfl

theorem exec_proofPeriodWrite (s : State) (src : Source) (v : Nat) : exec (.proofPeriodWrite src v) s =
    .next (whenWritten s src eProofPeriod (leBytes 4 v) (v < 2 ^ 32) fun s => proofPeriodApply s v) := rfl

/-! The queue (R381). -/

/-- The state with another list of due units. -/
def withQueue (s : State) (q : List (Nat × Bool)) : State := { s with proof := { s.proof with queue := q } }

section
variable {s : State} {u : Nat} {unfence : Bool}

theorem proofEnqueue_running (h : s.proof.active.isSome = true) : proofEnqueue s u unfence = withQueue s (s.proof.queue ++ [(u, unfence)]) :=
  if_pos h

variable (ha : s.proof.active = none) (hq : s.proof.queue = [])
include ha hq

/-- The first in an empty queue, with no test running: it waits where it is held, else its turn has come. -/
theorem proofEnqueue_first : proofEnqueue s u unfence =
    if proofHeld s u then withQueue s [(u, unfence)] else withQueue (proofStart (withQueue s [(u, unfence)]) u unfence) [] := by
  have hstart : proofEnqueue s u unfence = proofNextFrom [] [(u, unfence)] (withQueue s [(u, unfence)]) := by
    unfold proofEnqueue
    rw [hq]
    exact if_neg (by simp [ha])
  rw [hstart]
  show (if proofHeld s u then _ else _) = _
  congr 1
  exact ite_self _

end

/-! A unit's turn (R382, R384, R386). -/

section
variable {s : State} {u : Nat}

theorem proofStart_fenced (h : proofFenced s u = true) : proofStart s u false = proofResult s u 4 := by simp [proofStart, h]

variable (hf : proofFenced s u = false)
include hf

theorem proofStart_covered (hk : proofKind u = 4) (hp : lanePosition s (proofIndex u) = true) : proofStart s u false = proofResult s u 3 := by
  simp [proofStart, hf, hk, hp]

variable (hc : ¬ (proofKind u = 4 ∧ lanePosition s (proofIndex u) = true))
include hc

theorem proofStart_uncovered : proofStart s u false =
    if testsInPlace s u then proofPhase (takeSpareOut s u) u 2 else if spareFree s u then proofPhase s u 1 else proofDefer s u := by
  have hno : (decide (proofKind u = 4) && lanePosition s (proofIndex u)) = false := by
    rw [Bool.eq_false_iff, Ne, Bool.and_eq_true, decide_eq_true_iff]
    exact hc
  simp [proofStart, hf, hno]

theorem proofStart_inPlace (ht : testsInPlace s u = true) : proofStart s u false = proofPhase (takeSpareOut s u) u 2 := by
  rw [proofStart_uncovered hf hc, if_pos ht]

variable (ht : testsInPlace s u = false)
include ht

theorem proofStart_spare (hs : spareFree s u = true) : proofStart s u false = proofPhase s u 1 := by
  rw [proofStart_uncovered hf hc, if_neg (Bool.eq_false_iff.mp ht), if_pos hs]

theorem proofStart_deferred (hs : spareFree s u = false) : proofStart s u false = proofDefer s u := by
  rw [proofStart_uncovered hf hc, if_neg (Bool.eq_false_iff.mp ht), if_neg (Bool.eq_false_iff.mp hs)]

end

theorem proofDefer_proof (s : State) (u : Nat) : (proofDefer s u).proof = { s.proof with active := some u, phase := 3 } := by
  unfold proofDefer
  dsimp only
  split
  · rfl
  · rw [(raiseEvent_eventsOnly _ _ _).1]
    rfl

theorem proofDefer_event {s : State} {u : Nat} (h : proofKind u ≠ 3) : (proofDefer s u).mgmt.eventSeq = s.mgmt.eventSeq + 1 := by
  unfold proofDefer
  dsimp only
  rw [if_neg h]
  exact raiseEvent_seq _ _ _

/-! What a unit's turn asks does not look at the queue. -/

section
variable (s : State) (q : List (Nat × Bool)) (u : Nat)

theorem proofFenced_withQueue : proofFenced (withQueue s q) u = proofFenced s u := rfl
theorem lanePosition_withQueue (l : Nat) : lanePosition (withQueue s q) l = lanePosition s l := rfl
theorem testsInPlace_withQueue : testsInPlace (withQueue s q) u = testsInPlace s u := rfl
theorem spareFree_withQueue : spareFree (withQueue s q) u = spareFree s u := rfl

end

/-! A due unit. -/

section
variable {s : State} {u : Nat}

theorem proofDue_disabled (h : (rd s eProofEnable).testBit (proofKind u) = false) : proofDue s u = s := if_neg (Bool.eq_false_iff.mp h)

theorem proofDue_enabled (h : (rd s eProofEnable).testBit (proofKind u) = true) : proofDue s u = proofEnqueue s u false := if_pos h

section
variable (he : (rd s eProofEnable).testBit (proofKind u) = true) (ha : s.proof.active = none) (hq : s.proof.queue = [])
include he ha hq

theorem proofDue_held (h : proofHeld s u = true) : proofDue s u = withQueue s [(u, false)] := by
  rw [proofDue_enabled he, proofEnqueue_first ha hq, if_pos h]

theorem proofDue_turn (h : proofHeld s u = false) {t : State} (ht : proofStart (withQueue s [(u, false)]) u false = t) :
    proofDue s u = withQueue t [] := by
  rw [proofDue_enabled he, proofEnqueue_first ha hq, if_neg (Bool.eq_false_iff.mp h), ht]

end
end

/-! The period (R381). -/

section
variable (s : State) (v : Nat)

theorem proofPeriodApply_shape : proofPeriodApply s v = { s with
    regs := (proofPeriodApply s v).regs, mgmt := { s.mgmt with waiting := (proofPeriodApply s v).mgmt.waiting } } := by
  obtain ⟨w, hw⟩ := writeReg_shape s eProofPeriod v
  unfold proofPeriodApply
  rw [hw]
  rfl

theorem proofPeriodApply_period : rd (proofPeriodApply s v) eProofPeriod = v := by
  unfold proofPeriodApply
  rw [rd_wr_other _ _ (by decide), writeReg_rd_same]

theorem proofPeriodApply_other {a : Nat} (hp : a ≠ eProofPeriod) (ho : a ≠ eProofOrigin) : rd (proofPeriodApply s v) a = rd s a := by
  unfold proofPeriodApply
  rw [rd_wr_other _ _ ho, writeReg_rd_other _ _ _ _ hp]

end

/-! A takeover (Table 16.7). -/

section
variable {s : State}

theorem proofTakeoverDone_nothing (h : s.proof.active = none ∨ s.proof.phase ≠ 1) : proofTakeoverDone s = s := by
  cases ha : s.proof.active with
  | none => simp only [proofTakeoverDone, ha]
  | some u =>
    simp only [proofTakeoverDone, ha]
    exact if_pos (h.resolve_left (by simp [ha]))

section
variable {u : Nat} (ha : s.proof.active = some u) (hp : s.proof.phase = 1)
include ha hp

theorem proofTakeoverDone_eq : proofTakeoverDone s =
    if proofFenced s u then proofNext (proofDrop s)
    else if spareFree s u || s.proof.withheld || takenOver s u then proofPhase (proofTakeover s u) u 2
    else proofDefer s u := by
  simp only [proofTakeoverDone, ha]
  exact if_neg (not_not.mpr hp)

theorem proofTakeoverDone_fenced (h : proofFenced s u = true) : proofTakeoverDone s = proofNext (proofDrop s) := by
  rw [proofTakeoverDone_eq ha hp, if_pos h]

theorem proofTakeoverDone_starts (h : proofFenced s u = false) (hs : spareFree s u = true ∨ s.proof.withheld = true ∨ takenOver s u = true) :
    proofTakeoverDone s = proofPhase (proofTakeover s u) u 2 := by
  rw [proofTakeoverDone_eq ha hp, if_neg (Bool.eq_false_iff.mp h), if_pos (by simpa [or_assoc] using hs)]

theorem proofTakeoverDone_deferred (h : proofFenced s u = false) (hs : spareFree s u = false) (hw : s.proof.withheld = false)
    (ht : takenOver s u = false) : proofTakeoverDone s = proofDefer s u := by
  rw [proofTakeoverDone_eq ha hp, if_neg (Bool.eq_false_iff.mp h), if_neg (by simp [hs, hw, ht])]

end

variable {u : Nat}

theorem proofTakeover_cluster (hk : proofKind u = 0) (hw : s.proof.withheld = false) : proofTakeover s u = clusterTakeover s u .proof := by
  simp [proofTakeover, hk, hw]

theorem proofTakeover_churn (hk : proofKind u = 1) {j : Nat} (hj : spareChurn s (proofIndex u / 17) = some j) : proofTakeover s u =
    { wr (wr s (eChurnLaneStatus j) 2) eChurnSparesFree (rd s eChurnSparesFree - 1) with proof := { s.proof with cover := some (9 + j) } } := by
  simp only [proofTakeover, hk, hj]
  rfl

theorem proofTakeover_core (hk : proofKind u = 2) {c : Nat} (hc : spareCore s (proofIndex u / 4) = some c) : proofTakeover s u =
    { wr (wr s (eControlCoreState c) 0) (eControlCoreState (proofIndex u)) 3 with proof := { s.proof with cover := some (77 + c) } } := by
  simp only [proofTakeover, hk, hc]
  rfl

end

/-! The end of a test (Table 16.7). -/

section
variable {s : State} {p : Bool} {fl : List (Nat × Nat × Nat)}

theorem proofTestDone_nothing (h : s.proof.active = none ∨ s.proof.phase ≠ 2) : proofTestDone s p fl = s := by
  cases ha : s.proof.active with
  | none => simp only [proofTestDone, ha]
  | some u =>
    simp only [proofTestDone, ha]
    exact if_pos (h.resolve_left (by simp [ha]))

variable {u : Nat} (ha : s.proof.active = some u) (hp : s.proof.phase = 2)
include ha hp

theorem proofTestDone_drops (h : (proofFenced s u && !s.proof.unfencing) = true) : proofTestDone s p fl = proofNext (proofDrop s) := by
  simp only [proofTestDone, ha]
  exact (if_neg (not_not.mpr hp)).trans (if_pos h)

variable (h : (proofFenced s u && !s.proof.unfencing) = false)
include h

theorem proofTestDone_passes (hpass : p = true) : proofTestDone s p fl =
    proofNext (proofPass (proofResult (bump64 (proofDrop s) eProofRunCount 1) u 1) u s.proof) := by
  simp only [proofTestDone, ha]
  exact (if_neg (not_not.mpr hp)).trans ((if_neg (Bool.eq_false_iff.mp h)).trans (if_pos hpass))

/-- The state in which a failed run has been counted and raised. -/
def testFailed (s : State) (u : Nat) : State := raiseFault (bump s eProofFailCount) 7 (proofSite u).1 (proofSite u).2 0

/-- The arrays' repairs are chosen afresh (R377). -/
def choosesAfresh (s : State) (u : Nat) : Bool := s.proof.unfencing && anyArrayFenced (testFailed s u) u

/-- A failed cluster is repaired and tested once more (R383). -/
def testsAgain (s : State) (u : Nat) (fl : List (Nat × Nat × Nat)) : Bool :=
  decide (proofKind u = 0) && !s.proof.retried && !fl.isEmpty && repairable (testFailed s u) u fl (choosesAfresh s u)

theorem proofTestDone_fails (hpass : p = false) : proofTestDone s p fl =
    if testsAgain s u fl then
      let t := putRepairs (testFailed s u) u fl (choosesAfresh s u)
      if t.proof.active = some u then { t with proof := { t.proof with retried := true } }
      else if s.proof.unfencing then wr t eFaultUnfenceResult 2 else t
    else proofNext (proofFenceUnit (proofResult (bump64 (proofDrop (testFailed s u)) eProofRunCount 1) u 2) u s.proof fl) := by
  simp only [proofTestDone, ha]
  refine (if_neg (not_not.mpr hp)).trans ((if_neg (Bool.eq_false_iff.mp h)).trans ((if_neg (Bool.eq_false_iff.mp hpass)).trans ?_))
  rfl

theorem proofTestDone_fences (hpass : p = false) (hagain : testsAgain s u fl = false) : proofTestDone s p fl =
    proofNext (proofFenceUnit (proofResult (bump64 (proofDrop (testFailed s u)) eProofRunCount 1) u 2) u s.proof fl) := by
  rw [proofTestDone_fails ha hp h hpass, if_neg (Bool.eq_false_iff.mp hagain)]

theorem proofTestDone_repairs (hpass : p = false) (hagain : testsAgain s u fl = true)
    (hstays : (putRepairs (testFailed s u) u fl (choosesAfresh s u)).proof.active = some u) : proofTestDone s p fl =
    let t := putRepairs (testFailed s u) u fl (choosesAfresh s u)
    { t with proof := { t.proof with retried := true } } := by
  rw [proofTestDone_fails ha hp h hpass, if_pos hagain]
  exact if_pos hstays

end

/-! The end of a deferral (R384). -/

/-- The other healthy cores of the group of a unit that is a core. -/
def otherCores (s : State) (u : Nat) : List Nat :=
  (groupCores (proofIndex u / 4)).filter fun c => c ≠ proofIndex u && rd s (eControlCoreState c) = 0

/-- The state in which a unit is withheld. -/
def withheldUnit (s : State) (u : Nat) : State :=
  let t := proofPhase (bump (withhold s u) eProofWithholdCount) u 1
  { t with proof := { t.proof with withheld := true } }

section
variable {s : State}

theorem proofDeferralEnd_nothing (h : s.proof.active = none ∨ s.proof.phase ≠ 3) : proofDeferralEnd s = s := by
  cases ha : s.proof.active with
  | none => simp only [proofDeferralEnd, ha]
  | some u =>
    simp only [proofDeferralEnd, ha]
    exact if_pos (h.resolve_left (by simp [ha]))

variable {u : Nat} (ha : s.proof.active = some u) (hp : s.proof.phase = 3)
include ha hp

theorem proofDeferralEnd_fenced (h : proofFenced s u = true) : proofDeferralEnd s = proofNext (proofDrop s) := by
  simp only [proofDeferralEnd, ha]
  exact (if_neg (not_not.mpr hp)).trans (if_pos h)

variable (hf : proofFenced s u = false)
include hf

theorem proofDeferralEnd_starts (h : spareFree s u = true) : proofDeferralEnd s = proofPhase s u 1 := by
  simp only [proofDeferralEnd, ha]
  exact (if_neg (not_not.mpr hp)).trans ((if_neg (Bool.eq_false_iff.mp hf)).trans (if_pos h))

variable (hs : spareFree s u = false)
include hs

theorem proofDeferralEnd_ends : proofDeferralEnd s =
    if proofKind u = 3 || (proofKind u = 2 && (otherCores s u).length < 2) then proofSkip s u else withheldUnit s u := by
  simp only [proofDeferralEnd, ha]
  exact (if_neg (not_not.mpr hp)).trans ((if_neg (Bool.eq_false_iff.mp hf)).trans (if_neg (Bool.eq_false_iff.mp hs)))

theorem proofDeferralEnd_skips (h : proofKind u = 3 ∨ (proofKind u = 2 ∧ (otherCores s u).length < 2)) :
    proofDeferralEnd s = proofNext (proofResult (bump (proofDrop s) eProofSkipCount) u 4) := by
  rw [proofDeferralEnd_ends ha hp hf hs]
  exact if_pos (by simpa using h)

theorem proofDeferralEnd_withholds (hk : proofKind u ≠ 3) (h : ¬ (proofKind u = 2 ∧ (otherCores s u).length < 2)) :
    proofDeferralEnd s = withheldUnit s u := by
  rw [proofDeferralEnd_ends ha hp hf hs, if_neg]
  simpa [hk] using h

end

section
variable (s : State) (u : Nat)

theorem withhold_shape : withhold s u = { s with fns := (withhold s u).fns } := by
  unfold withhold
  split <;> rfl

theorem withheldUnit_count : cnt (withheldUnit s u) eProofWithholdCount = min (2 ^ 32 - 1) (cnt s eProofWithholdCount + 1) := by
  have hcnt : cnt (withhold s u) eProofWithholdCount = cnt s eProofWithholdCount := by rw [withhold_shape]; rfl
  exact (cnt_bumpBy_same 4 (withhold s u) eProofWithholdCount 1).trans (by rw [hcnt])

theorem withheldUnit_proof : (withheldUnit s u).proof = { s.proof with active := some u, phase := 1, withheld := true } := by
  have hproof : (withhold s u).proof = s.proof := by rw [withhold_shape]
  show { (withhold s u).proof with active := some u, phase := 1, withheld := true } = _
  rw [hproof]

theorem withheldUnit_cluster {u : Nat} (h : proofKind u = 0) :
    fnOf (withheldUnit s u) (eClusterState u) = fnDisable (fnOf s (eClusterState u)) := by
  show fnOf (withhold s u) (eClusterState u) = _
  unfold withhold
  rw [if_pos h, fnOf_setFn_same]

theorem withheldUnit_fns {u : Nat} (h : proofKind u ≠ 0) : (withheldUnit s u).fns = s.fns := by
  show (withhold s u).fns = s.fns
  unfold withhold
  rw [if_neg h]

end

end Sys2Proof.Machine
end

section
/-! PROOFS. Proof's units and tests (16). -/
namespace Sys2Proof.Machine

/-- Settles O43: a due unit by what its turn finds, the two writes, and a takeover by what it finds. -/
theorem proofUnitsAreTestedInTurn : Obligations.ProofUnitsAreTestedInTurn := by
  unfold Obligations.ProofUnitsAreTestedInTurn
  refine ⟨?due, ?now, ?period, ?takeover⟩
  case due =>
    intro s u hl hu
    have hexec {t : State} (h : proofDue s u = t) : exec (.proofDue u) s = .next t := next_congr (exec_proofDue hl hu) h
    refine ⟨fun he => hexec (proofDue_disabled he), fun he => ⟨fun ha => hexec ((proofDue_enabled he).trans (proofEnqueue_running ha)),
      fun ha hq => ?_⟩⟩
    intro w done
    refine ⟨fun hh => hexec (proofDue_held he ha hq hh), fun hh hf => ?_, fun hh hf => ⟨fun hk hp => ?_, fun hc => ?_⟩⟩
    · exact hexec (proofDue_turn he ha hq hh (proofStart_fenced hf))
    · exact hexec (proofDue_turn he ha hq hh (proofStart_covered hf hk hp))
    · refine ⟨fun ht => ⟨_, hexec (proofDue_turn he ha hq hh (proofStart_inPlace hf hc ht)), rfl, rfl, rfl⟩,
        fun ht hs => hexec (proofDue_turn he ha hq hh (proofStart_spare hf hc ht hs)),
        fun ht hs => ⟨_, hexec (proofDue_turn he ha hq hh (proofStart_deferred hf hc ht hs)), ?_, fun hk => proofDefer_event hk⟩⟩
      show { (proofDefer w u).proof with queue := [] } = _
      rw [proofDefer_proof]
  case now =>
    exact fun s src u => ⟨fun hu ha => ⟨next_of_accepted (exec_proofNow s src u) ha (decide_eq_true hu) rfl, proofEnqueue_running⟩,
      fun h => h.elim (fun hu => next_congr (exec_proofNow s src u) (whenWritten_owner (decide_eq_false (not_lt.mpr hu)) _))
        (next_of_refused (exec_proofNow s src u))⟩
  case period =>
    exact fun s src v => ⟨fun hv ha => ⟨_, next_of_accepted (exec_proofPeriodWrite s src v) ha (decide_eq_true hv) rfl,
        proofPeriodApply_period s v, rd_wr_same _ _ _, fun a hp ho => proofPeriodApply_other s v hp ho, proofPeriodApply_shape s v⟩,
      fun h => h.elim (fun hv => next_congr (exec_proofPeriodWrite s src v) (whenWritten_owner (decide_eq_false (not_lt.mpr hv)) _))
        (next_of_refused (exec_proofPeriodWrite s src v))⟩
  case takeover =>
    intro s hl
    have hexec {t : State} (h : proofTakeoverDone s = t) : exec .proofTakeoverDone s = .next t := next_congr (exec_proofTakeoverDone hl) h
    exact ⟨fun h => hexec (proofTakeoverDone_nothing h), fun u ha hp => ⟨fun hf => hexec (proofTakeoverDone_fenced ha hp hf),
      fun hf hs => hexec (proofTakeoverDone_starts ha hp hf hs), fun hf hs hw ht => hexec (proofTakeoverDone_deferred ha hp hf hs hw ht),
      proofTakeover_cluster, fun hk j hj => proofTakeover_churn hk hj, fun hk c hc => proofTakeover_core hk hc⟩⟩

/-- Settles O44: a test's end by how it went, a deferral's by what is free then. -/
theorem proofTestsEndAsTheyWent : Obligations.ProofTestsEndAsTheyWent := by
  unfold Obligations.ProofTestsEndAsTheyWent
  refine ⟨fun s p fl hl => ?_, fun s hl => ?_⟩
  · have hexec {t : State} (h : proofTestDone s p fl = t) : exec (.proofTestDone p fl) s = .next t :=
      next_congr (exec_proofTestDone hl p fl) h
    exact ⟨fun h => hexec (proofTestDone_nothing h), fun u ha hp => ⟨fun hd => hexec (proofTestDone_drops ha hp hd),
      fun hd hpass => ⟨hexec (proofTestDone_passes ha hp hd hpass), Tab.find_set_same _ _ _, rfl⟩,
      fun hd hpass => ⟨testFailed s u, raiseFault_raised _ _ _ _ (by decide), fun hagain => hexec (proofTestDone_fences ha hp hd hpass hagain),
        fun hagain hstays => hexec (proofTestDone_repairs ha hp hd hpass hagain hstays)⟩⟩⟩
  · have hexec {t : State} (h : proofDeferralEnd s = t) : exec .proofDeferralEnd s = .next t := next_congr (exec_proofDeferralEnd hl) h
    exact ⟨fun h => hexec (proofDeferralEnd_nothing h), fun u ha hp => ⟨fun hf => hexec (proofDeferralEnd_fenced ha hp hf),
      fun hf hs => hexec (proofDeferralEnd_starts ha hp hf hs), fun hf hs => ⟨fun h => hexec (proofDeferralEnd_skips ha hp hf hs h),
        fun hk h => ⟨_, hexec (proofDeferralEnd_withholds ha hp hf hs hk h), withheldUnit_count s u, withheldUnit_proof s u,
          withheldUnit_cluster s, withheldUnit_fns s⟩⟩⟩⟩

end Sys2Proof.Machine
end

section
/-! SUPPORT. The firmware (18, R418 to R429): the two slots of Loaf under the operations that move them, and what each command does by what it
finds. -/
namespace Sys2Proof.Machine

/-! The slots. -/

/-- The running slot and the inactive one are apart. -/
theorem inactive_apart (s : State) : ¬ (inactiveSlot s = 0 ↔ s.fw.running = 0) := by
  unfold inactiveSlot
  omega

theorem running_apart (s : State) : ¬ (s.fw.running = 0 ↔ inactiveSlot s = 0) := fun h => inactive_apart s h.symm

section
variable (s : State) (k : Nat)

theorem setFwSlot_running (x : LoafSlot) : (setFwSlot s k x).fw.running = s.fw.running := by
  obtain ⟨a, b, h⟩ := setFwSlot_shape s k x
  rw [h]

theorem setSlotState_same (st : Nat) : fwSlot (setSlotState s k st) k = { fwSlot s k with state := st } := fwSlot_setFwSlot_same _ _ _

theorem setSlotState_other {j : Nat} (st : Nat) (h : ¬ (j = 0 ↔ k = 0)) : fwSlot (setSlotState s k st) j = fwSlot s j :=
  fwSlot_setFwSlot_other _ _ h

theorem setSlotState_running (st : Nat) : (setSlotState s k st).fw.running = s.fw.running := setFwSlot_running _ _ _

/-- A slot's change of state leaves the rest of the firmware's state. -/
theorem setSlotState_shape (st : Nat) : ∃ a b, setSlotState s k st = { s with fw := { s.fw with slotA := a, slotB := b } } :=
  setFwSlot_shape _ _ _

theorem makeActive_same (st : Nat) : fwSlot (makeActive s k st) k = { fwSlot s k with state := st, trialBoots := 0 } :=
  fwSlot_setFwSlot_same _ _ _

theorem makeActive_other {j : Nat} (st : Nat) (h : ¬ (j = 0 ↔ k = 0)) : fwSlot (makeActive s k st) j = fwSlot s j :=
  fwSlot_setFwSlot_other _ _ h

theorem makeActive_running (st : Nat) : (makeActive s k st).fw.running = s.fw.running := setFwSlot_running _ _ _

/-- A result that is shown is read. -/
theorem rd_fwResult (r : Nat) : rd (fwResult s r) eFirmwareResult = r := rd_wr_same _ _ _

end

/-- One slot leaves its place to the other, which becomes active: what the two then are. -/
theorem exchanged (s : State) {i j : Nat} (st : Nat) (h : ¬ (i = 0 ↔ j = 0)) : let t := makeActive (setSlotState s i 2) j st
    t.fw.active = j ∧ fwSlot t j = { fwSlot s j with state := st, trialBoots := 0 } ∧ fwSlot t i = { fwSlot s i with state := 2 } ∧
      t.fw.running = s.fw.running := by
  have hj : ¬ (j = 0 ↔ i = 0) := fun e => h e.symm
  refine ⟨rfl, ?_, ?_, ?_⟩
  · rw [makeActive_same, setSlotState_other _ _ _ hj]
  · rw [makeActive_other _ _ _ h, setSlotState_same]
  · rw [makeActive_running, setSlotState_running]

/-! FirmwareCommand (R422, Table 18.2). -/

section
variable {s : State}

section
variable {ok : Bool}

theorem fwVerify_empty (h : (fwSlot s (inactiveSlot s)).state = 0) : fwVerify s ok = fwResult s fwNO_IMAGE := if_pos h

section
variable (h : (fwSlot s (inactiveSlot s)).state ≠ 0)
include h

theorem fwVerify_shows (hr : imageCheck s (fwSlot s (inactiveSlot s)).image ok = 0 ∨ (fwSlot s (inactiveSlot s)).state ≠ 2) :
    fwVerify s ok = fwResult s (imageCheck s (fwSlot s (inactiveSlot s)).image ok) :=
  (if_neg h).trans (congrArg (fwResult · _) (if_neg (by simp; tauto)))

theorem fwVerify_fails (hr : imageCheck s (fwSlot s (inactiveSlot s)).image ok ≠ 0) (h2 : (fwSlot s (inactiveSlot s)).state = 2) :
    fwVerify s ok = fwResult (setSlotState s (inactiveSlot s) 1) (imageCheck s (fwSlot s (inactiveSlot s)).image ok) :=
  (if_neg h).trans (congrArg (fwResult · _) (if_pos (by simp [hr, h2])))

end
end

theorem fwActivateLive_noImage (h : (fwSlot s (inactiveSlot s)).state ≠ 2) : fwActivateLive s = fwResult s fwNO_IMAGE := if_pos h

section
variable (h : (fwSlot s (inactiveSlot s)).state = 2)
include h

theorem fwActivateLive_incompatible (hf : liveFrom (fwSlot s (inactiveSlot s)).image = 0xFFFFFFFF ∨
    loafRevision s < liveFrom (fwSlot s (inactiveSlot s)).image) : fwActivateLive s = fwResult s fwLIVE_INCOMPATIBLE :=
  (if_neg (not_not.mpr h)).trans (if_pos (by simpa using hf))

section
variable (hne : liveFrom (fwSlot s (inactiveSlot s)).image ≠ 0xFFFFFFFF) (hle : liveFrom (fwSlot s (inactiveSlot s)).image ≤ loafRevision s)
include hne hle

theorem fwActivateLive_compatible : fwActivateLive s =
    if !levelsHeld s (fwSlot s (inactiveSlot s)).image then fwResult s fwLEVEL_CONFLICT
    else wr (fwResult { s with fw := { s.fw with live := some 0 } } fwRUNNING) eFirmwareProgress 0 :=
  (if_neg (not_not.mpr h)).trans (if_neg (by simpa using ⟨hne, hle⟩))

theorem fwActivateLive_conflict (hl : levelsHeld s (fwSlot s (inactiveSlot s)).image = false) :
    fwActivateLive s = fwResult s fwLEVEL_CONFLICT :=
  (fwActivateLive_compatible h hne hle).trans (if_pos (by simp [hl]))

theorem fwActivateLive_starts (hl : levelsHeld s (fwSlot s (inactiveSlot s)).image = true) :
    fwActivateLive s = wr (fwResult { s with fw := { s.fw with live := some 0 } } fwRUNNING) eFirmwareProgress 0 :=
  (fwActivateLive_compatible h hne hle).trans (if_neg (by simp [hl]))

end
end

theorem fwActivateAtReset_noImage (h : (fwSlot s (inactiveSlot s)).state ≠ 2 ∨ (fwSlot s s.fw.running).state ≠ 4) :
    fwActivateAtReset s = fwResult s fwNO_IMAGE := if_pos (by simpa using h)

theorem fwActivateAtReset_activates (h : (fwSlot s (inactiveSlot s)).state = 2) (hr : (fwSlot s s.fw.running).state = 4) :
    fwActivateAtReset s = fwResult (makeActive (setSlotState s s.fw.running 2) (inactiveSlot s) 3) fwOK := if_neg (by simp [h, hr])

/-! CONFIRM (R423). -/

theorem fwConfirm_notTrial (h : (fwSlot s s.fw.running).state ≠ 3) : fwConfirm s = fwResult s fwNOT_TRIAL := if_pos h

/-- The running slot is CONFIRMED, and what its image names is in OTP. -/
def confirmed (s : State) : State :=
  let t := setSlotState s s.fw.running 4
  { t with fw := { t.fw with rollback := max s.fw.rollback (imgSecurity (fwSlot s s.fw.running).image),
                             revokedFirmware := s.fw.revokedFirmware ||| BitVec.ofNat 4 (imgRevoke (fwSlot s s.fw.running).image) } }

/-- The other image is VALID but now below the counter. -/
def rolledBack (s : State) : Bool :=
  (fwSlot s (inactiveSlot s)).state = 2 && imgSecurity (fwSlot s (inactiveSlot s)).image < s.fw.rollback

theorem confirmed_slots (s : State) : (confirmed s).fw.running = s.fw.running ∧ inactiveSlot (confirmed s) = inactiveSlot s ∧
    fwSlot (confirmed s) s.fw.running = { fwSlot s s.fw.running with state := 4 } ∧
    fwSlot (confirmed s) (inactiveSlot s) = fwSlot s (inactiveSlot s) := by
  have hr : (confirmed s).fw.running = s.fw.running := setSlotState_running _ _ _
  exact ⟨hr, congrArg (1 - ·) hr, setSlotState_same _ _ _, setSlotState_other _ _ _ (inactive_apart s)⟩

theorem fwConfirm_confirms (h : (fwSlot s s.fw.running).state = 3) : fwConfirm s =
    fwResult (if rolledBack (confirmed s) then setSlotState (confirmed s) (inactiveSlot (confirmed s)) 1 else confirmed s) fwOK := by
  obtain ⟨a, b, hs⟩ := setSlotState_shape s s.fw.running 4
  unfold fwConfirm rolledBack confirmed
  rw [if_neg (not_not.mpr h)]
  simp only [hs]

/-- What CONFIRM leaves, whether or not it rejects the other image. -/
theorem confirmed_leaves (s : State) (v : Bool) :
    let t := if v then setSlotState (confirmed s) (inactiveSlot (confirmed s)) 1 else confirmed s
    (fwSlot t s.fw.running).state = 4 ∧ (fwSlot t s.fw.running).image = (fwSlot s s.fw.running).image ∧
      t.fw.rollback = max s.fw.rollback (imgSecurity (fwSlot s s.fw.running).image) ∧
      t.fw.revokedFirmware = s.fw.revokedFirmware ||| BitVec.ofNat 4 (imgRevoke (fwSlot s s.fw.running).image) ∧
      (fwSlot t (inactiveSlot s)).state = if v then 1 else (fwSlot s (inactiveSlot s)).state := by
  obtain ⟨-, hi, hrun, hother⟩ := confirmed_slots s
  cases v with
  | false =>
    refine ⟨?_, ?_, rfl, rfl, congrArg LoafSlot.state hother⟩
    · exact congrArg LoafSlot.state hrun
    · exact (congrArg LoafSlot.image hrun :)
  | true =>
    have hr := (setSlotState_other (confirmed s) (inactiveSlot s) 1 (running_apart s)).trans hrun
    obtain ⟨a, b, hs⟩ := setSlotState_shape (confirmed s) (inactiveSlot s) 1
    dsimp only
    rw [if_pos rfl, if_pos rfl, hi]
    refine ⟨congrArg LoafSlot.state hr, (congrArg LoafSlot.image hr :), ?_, ?_, congrArg LoafSlot.state (setSlotState_same _ _ _)⟩
    · rw [hs]; rfl
    · rw [hs]; rfl

/-! REJECT. -/

section
variable (h : (fwSlot s s.fw.running).state = 3)
include h

theorem fwReject_noImage (hk : (fwSlot s (inactiveSlot s)).state ≠ 2) : fwReject s = fwResult s fwNO_IMAGE := (if_pos h).trans (if_neg hk)

theorem fwReject_trial (hk : (fwSlot s (inactiveSlot s)).state = 2) :
    fwReject s = fwResult (makeActive (setSlotState s s.fw.running 2) (inactiveSlot s) 4) fwOK := (if_pos h).trans (if_pos hk)

end

section
variable (h : (fwSlot s s.fw.running).state ≠ 3)
include h

theorem fwReject_notTrial (hk : (fwSlot s (inactiveSlot s)).state ≠ 3) : fwReject s = fwResult s fwNOT_TRIAL := (if_neg h).trans (if_neg hk)

theorem fwReject_unbooted (hk : (fwSlot s (inactiveSlot s)).state = 3) :
    fwReject s = fwResult (makeActive (setSlotState s (inactiveSlot s) 2) s.fw.running 4) fwOK := (if_neg h).trans (if_pos hk)

end

/-! The write of FirmwareCommand. -/

theorem fwCommand_busy (h : fwBusy s = true) (v : Nat) (ok : Bool) : fwCommand s v ok = fwResult s fwIN_PROGRESS := if_pos h

/-- With nothing in progress each value has its own effect. -/
theorem fwCommand_idle (h : fwBusy s = false) (ok : Bool) : fwCommand s 1 ok = fwVerify s ok ∧ fwCommand s 2 ok = fwActivateLive s ∧
    fwCommand s 3 ok = fwActivateAtReset s ∧ fwCommand s 4 ok = fwConfirm s ∧ fwCommand s 5 ok = fwReject s := by
  simp only [fwCommand, h, Bool.false_eq_true, if_false, and_self]

theorem fwCommandStatus_activation {v : Nat} (h : v = 2 ∨ v = 3) (ht : someTrial s = true) : fwCommandStatus s v = stSTATE := by
  rcases h with rfl | rfl <;> simp [fwCommandStatus, ht]

theorem fwCommandStatus_ok {v : Nat} (h : v ∈ [1, 2, 3, 4, 5]) (ht : ¬ ((v = 2 ∨ v = 3) ∧ someTrial s = true)) :
    fwCommandStatus s v = stOK := by
  have hv : v ≠ 0 ∧ v ≤ 5 := by simp at h; omega
  simp only [fwCommandStatus]
  rw [if_neg (by simp; omega), if_neg (by simpa using ht)]

end

section
variable {s : State} {src : Source} {v : Nat} {ok : Bool}

theorem fwWrite_refused (h : ¬ Accepted s src eFirmwareCommand [BitVec.ofNat 8 v] ∨ ((v = 2 ∨ v = 3) ∧ someTrial s = true)) :
    fwWrite src v ok s = s := by
  rcases h with ha | ⟨hv, ht⟩
  · exact whenWritten_refused ha _
  · refine whenWritten_owner ?_ _
    rw [fwCommandStatus_activation hv ht]
    rfl

theorem fwWrite_accepted (ha : Accepted s src eFirmwareCommand [BitVec.ofNat 8 v]) (hv : v ∈ [1, 2, 3, 4, 5])
    (ht : ¬ ((v = 2 ∨ v = 3) ∧ someTrial s = true)) : fwWrite src v ok s = fwCommand s v ok :=
  whenWritten_accepted ha (decide_eq_true (fwCommandStatus_ok hv ht)) _

end

/-- Each command is the write of its value. -/
theorem exec_firmwareCommand {s : State} {src : Source} {ok : Bool} {c : Instr} {v : Nat}
    (h : (c, v) ∈ [(Instr.verify src ok, 1), (.activateLive src, 2), (.activateAtReset src, 3), (.confirm src, 4), (.reject src, 5)]) :
    v ∈ [1, 2, 3, 4, 5] ∧ ∃ sig, exec c s = .next (fwWrite src v sig s) := by
  simp only [List.mem_cons, Prod.mk.injEq, List.not_mem_nil, or_false] at h
  rcases h with ⟨rfl, rfl⟩ | ⟨rfl, rfl⟩ | ⟨rfl, rfl⟩ | ⟨rfl, rfl⟩ | ⟨rfl, rfl⟩
  · exact ⟨by decide, ok, rfl⟩
  · exact ⟨by decide, true, rfl⟩
  · exact ⟨by decide, true, rfl⟩
  · exact ⟨by decide, true, rfl⟩
  · exact ⟨by decide, true, rfl⟩

section
variable {s t : State} {src : Source} (hb : fwBusy s = false)
include hb

theorem exec_verify_of {ok : Bool} (ha : Accepted s src eFirmwareCommand [1]) (h : fwVerify s ok = t) : exec (.verify src ok) s = .next t :=
  congrArg Host.Outcome.next ((fwWrite_accepted ha (by decide) (by simp)).trans ((fwCommand_idle hb ok).1.trans h))

theorem exec_activateLive_of (ha : Accepted s src eFirmwareCommand [2]) (ht : someTrial s = false) (h : fwActivateLive s = t) :
    exec (.activateLive src) s = .next t :=
  congrArg Host.Outcome.next ((fwWrite_accepted ha (by decide) (by simp [ht])).trans ((fwCommand_idle hb true).2.1.trans h))

theorem exec_activateAtReset_of (ha : Accepted s src eFirmwareCommand [3]) (ht : someTrial s = false) (h : fwActivateAtReset s = t) :
    exec (.activateAtReset src) s = .next t :=
  congrArg Host.Outcome.next ((fwWrite_accepted ha (by decide) (by simp [ht])).trans ((fwCommand_idle hb true).2.2.1.trans h))

theorem exec_confirm_of (ha : Accepted s src eFirmwareCommand [4]) (h : fwConfirm s = t) : exec (.confirm src) s = .next t :=
  congrArg Host.Outcome.next ((fwWrite_accepted ha (by decide) (by simp)).trans ((fwCommand_idle hb true).2.2.2.1.trans h))

theorem exec_reject_of (ha : Accepted s src eFirmwareCommand [5]) (h : fwReject s = t) : exec (.reject src) s = .next t :=
  congrArg Host.Outcome.next ((fwWrite_accepted ha (by decide) (by simp)).trans ((fwCommand_idle hb true).2.2.2.2.trans h))

end

/-! LoafImage and its programming (R421). -/

theorem exec_loafImageWrite (s : State) (src : Source) (img : List Byte) : exec (.loafImageWrite src img) s =
    .next (whenWritten s src eLoafImage img (loafImageStatus s = stOK) fun s => loafImageApply s img) := rfl

section
variable {s : State}

theorem loafImageStatus_ok (ht : someTrial s = false) (hb : fwBusy s = false) : loafImageStatus s = stOK := if_neg (by simp [ht, hb])

theorem loafImageStatus_refused (h : someTrial s = true ∨ fwBusy s = true) : loafImageStatus s = stSTATE := if_pos (by simpa using h)

end

/-- The image is in the inactive slot, INVALID until it is checked. -/
theorem loafImageApply_leaves (s : State) (img : List Byte) : let t := loafImageApply s img
    fwSlot t (inactiveSlot s) = { state := 1, image := img } ∧ fwSlot t s.fw.running = fwSlot s s.fw.running ∧ t.fw.programming = true ∧
      t.fw.active = s.fw.active ∧ rd t eFirmwareResult = fwRUNNING :=
  ⟨fwSlot_setFwSlot_same _ _ _, fwSlot_setFwSlot_other _ _ (running_apart s), rfl, setFwSlot_active _ _ _, rd_fwResult _ _⟩

theorem live_of_loafUp {s : State} (hl : loafUp s = true) (hf : s.faults.frozen = false) : live s = true := by
  unfold live
  rw [hf, Bool.not_false, Bool.and_true]
  unfold loafUp at hl
  unfold dataUp
  cases hb : s.boot <;> simp [hb] at hl ⊢

section
variable {s : State} {ok : Bool}

theorem exec_loafProgramDone (hl : loafUp s = true) (hf : s.faults.frozen = false) :
    exec (.loafProgramDone ok) s = .next (loafProgramDone s ok) :=
  congrArg Host.Outcome.next ((if_pos hl).trans (whenLive_live (live_of_loafUp hl hf) _))

theorem loafProgramDone_none (h : s.fw.programming = false) : loafProgramDone s ok = s := if_pos (by simp [h])

/-- The image programmed has been checked. -/
def programmed (s : State) (r : Nat) : State :=
  let t := setSlotState s (inactiveSlot s) (if r = 0 then 2 else 1)
  fwResult { t with fw := { t.fw with programming := false } } r

theorem loafProgramDone_checks (h : s.fw.programming = true) :
    loafProgramDone s ok = programmed s (imageCheck s (fwSlot s (inactiveSlot s)).image ok) := if_neg (by simp [h])

theorem programmed_leaves (s : State) (r : Nat) :
    fwSlot (programmed s r) (inactiveSlot s) = { fwSlot s (inactiveSlot s) with state := if r = 0 then 2 else 1 } ∧
      (programmed s r).fw.programming = false ∧ rd (programmed s r) eFirmwareResult = r :=
  ⟨setSlotState_same _ _ _, rfl, rd_fwResult _ _⟩

end

/-! Live update (R424 to R427). -/

section
variable {s : State}

theorem exec_liveUpdateGroupDone (hl : live s = true) (b : Bool) : exec (.liveUpdateGroupDone b) s = .next (liveUpdateGroupDone s b) :=
  next_of_live (f := fun s => liveUpdateGroupDone s b) rfl hl

theorem liveUpdateGroupDone_none (h : s.fw.live = none) (b : Bool) : liveUpdateGroupDone s b = s := by simp only [liveUpdateGroupDone, h]

/-- The updated groups are back on the running image. -/
def liveReverted (s : State) : State := wr (wr { s with fw := { s.fw with live := none } } eFirmwareResult fwREVERTED) eFirmwareProgress 0xFF

section
variable {g : Nat} (h : s.fw.live = some g)
include h

theorem liveUpdateGroupDone_fails : liveUpdateGroupDone s false = proofNext (liveReverted s) := by
  simp only [liveUpdateGroupDone, liveRevert, h, Bool.not_false, if_true]
  rfl

theorem liveUpdateGroupDone_next (hg : g < 3) :
    liveUpdateGroupDone s true = wr { s with fw := { s.fw with live := some (g + 1) } } eFirmwareProgress (g + 1) := by
  simp only [liveUpdateGroupDone, h, hg, Bool.not_true, Bool.false_eq_true, if_true, if_false]

theorem liveUpdateGroupDone_last (hg : 3 ≤ g) : liveUpdateGroupDone s true = liveFinish s := by
  simp only [liveUpdateGroupDone, h, Nat.not_lt.mpr hg, Bool.not_true, Bool.false_eq_true, if_false]

end

theorem liveReverted_leaves (s : State) : liveReverted s = { s with regs := (liveReverted s).regs, fw := { s.fw with live := none } } ∧
    rd (liveReverted s) eFirmwareResult = fwREVERTED ∧ rd (liveReverted s) eFirmwareProgress = 0xFF :=
  ⟨rfl, (rd_wr_other _ _ (by decide)).trans (rd_wr_same _ _ _), rd_wr_same _ _ _⟩

/-- After group 3 the two slots have changed places, and the updated one runs. -/
def liveSwitched (s : State) : State :=
  let t := makeActive (setSlotState s s.fw.running 2) (inactiveSlot s) 3
  { t with fw := { t.fw with running := inactiveSlot s, live := none } }

/-- The measurement of the image that now runs. -/
def liveMeasured (s : State) : State :=
  let d := loafDigest s (fwSlot s s.fw.running).image
  extendMeasure d.2 3 d.1

/-- The end of a live update, before the Proof tests that waited for it. -/
def liveDone (s : State) : State :=
  wr (fwResult (bump (showLevels (liveMeasured (liveSwitched s))) eLiveUpdateCount) fwOK) eFirmwareProgress 0xFF

theorem liveFinish_eq (s : State) : liveFinish s = proofNext (liveDone s) := rfl

theorem liveMeasured_measuredOnly (s : State) : MeasuredOnly s (liveMeasured s) :=
  measuredOnly_trans (loafDigest_measuredOnly s _) (extendMeasure_measuredOnly _ _ _)

theorem liveDone_leaves (s : State) : let u := liveDone s
    u.fw.active = inactiveSlot s ∧ u.fw.running = inactiveSlot s ∧ u.fw.live = none ∧ (fwSlot u (inactiveSlot s)).state = 3 ∧
      (fwSlot u s.fw.running).state = 2 ∧ rd u eFirmwareResult = fwOK ∧ rd u eFirmwareProgress = 0xFF := by
  obtain ⟨hactive, hnew, hold, -⟩ := exchanged s 3 (running_apart s)
  have hm := liveMeasured_measuredOnly (liveSwitched s)
  have hfw : (liveDone s).fw = { (liveSwitched s).fw with measures := (liveMeasured (liveSwitched s)).fw.measures } :=
    congrArg State.fw hm
  have hslot : ∀ k, fwSlot (liveDone s) k = fwSlot (makeActive (setSlotState s s.fw.running 2) (inactiveSlot s) 3) k := fun k => by
    unfold fwSlot
    rw [hfw]
    rfl
  refine ⟨?_, ?_, ?_, ?_, ?_, (rd_wr_other _ _ (by decide)).trans (rd_wr_same _ _ _), rd_wr_same _ _ _⟩
  · rw [hfw]; exact hactive
  · rw [hfw]; rfl
  · rw [hfw]; rfl
  · rw [hslot, hnew]
  · rw [hslot, hold]

end

/-! Attestation (R429). -/

theorem exec_attestNonceWrite (s : State) (src : Source) (n : List Byte) : exec (.attestNonceWrite src n) s =
    .next (whenWritten s src eAttestNonce n true fun s => attestApply s n) := rfl

/-- A free string has the length asked for. -/
theorem length_drawBytes (s : State) (n : Nat) : (drawBytes s n).1.length = n := by
  simp only [drawBytes, List.length_append, List.length_take, List.length_replicate]
  omega

theorem attestApply_leaves (s : State) (n : List Byte) : let t := attestApply s n
    blob t eAttestNonce = n ∧ blob t eAttestReport = attestBody s n ++ (drawBytes s 132).1 ∧
      (∀ a, a ≠ eAttestNonce → a ≠ eAttestReport → blob t a = blob s a) ∧ t = { s with blobs := t.blobs, draws := s.draws + 1 } :=
  ⟨(blob_setBlob_other _ _ (by decide)).trans (blob_setBlob_same _ _ _), blob_setBlob_same _ _ _,
    fun _ hn hr => (blob_setBlob_other _ _ hr).trans (blob_setBlob_other _ _ hn), rfl⟩

end Sys2Proof.Machine
end

section
/-! PROOFS. The firmware commands (O51), and the programming, live update and attestation of Loaf (O52). -/
namespace Sys2Proof.Machine

/-- Settles O51: each command is one write (`exec_firmwareCommand`), and its effect case by case. -/
theorem firmwareCommandsAct : Obligations.FirmwareCommandsAct := by
  unfold Obligations.FirmwareCommandsAct
  refine ⟨?write, ?verify, ?activateLive, ?activateAtReset, ?confirm, ?reject⟩
  case write =>
    intro s src ok c v hc
    obtain ⟨hv, sig, hexec⟩ := exec_firmwareCommand (s := s) hc
    exact ⟨fun h => next_congr hexec (fwWrite_refused h),
      fun ha ht hb => next_congr hexec ((fwWrite_accepted ha hv ht).trans (fwCommand_busy hb v sig))⟩
  case verify =>
    exact fun s src ok ha hb => ⟨fun h => exec_verify_of hb ha (fwVerify_empty h), fun h =>
      ⟨fun hr => exec_verify_of hb ha (fwVerify_shows h hr), fun hr h2 => exec_verify_of hb ha (fwVerify_fails h hr h2)⟩⟩
  case activateLive =>
    intro s src ha hb ht
    exact ⟨fun h => exec_activateLive_of hb ha ht (fwActivateLive_noImage h),
      fun h hf => exec_activateLive_of hb ha ht (fwActivateLive_incompatible h hf), fun h hne hle =>
      ⟨fun hc => exec_activateLive_of hb ha ht (fwActivateLive_conflict h hne hle hc),
        fun hc => ⟨_, exec_activateLive_of hb ha ht (fwActivateLive_starts h hne hle hc), rfl,
          (rd_wr_other _ _ (by decide)).trans (rd_wr_same _ _ _), rd_wr_same _ _ _⟩⟩⟩
  case activateAtReset =>
    intro s src ha hb ht
    refine ⟨fun h => exec_activateAtReset_of hb ha ht (fwActivateAtReset_noImage h), fun h hr =>
      ⟨_, exec_activateAtReset_of hb ha ht (fwActivateAtReset_activates h hr), ?_⟩⟩
    obtain ⟨hactive, hnew, hold, hrun⟩ := exchanged s 3 (running_apart s)
    exact ⟨hactive, congrArg LoafSlot.state hnew, congrArg LoafSlot.trialBoots hnew, (congrArg LoafSlot.image hnew :),
      congrArg LoafSlot.state hold, hrun, rd_fwResult _ _⟩
  case confirm =>
    intro s src ha hb
    refine ⟨fun h => exec_confirm_of hb ha (fwConfirm_notTrial h), fun h => ⟨_, exec_confirm_of hb ha (fwConfirm_confirms h), ?_⟩⟩
    obtain ⟨-, hi, -, hother⟩ := confirmed_slots s
    obtain ⟨hstate, himage, hroll, hrevoked, hinactive⟩ := confirmed_leaves s (rolledBack (confirmed s))
    refine ⟨hstate, himage, hroll, hrevoked, hinactive.trans (if_congr ?_ rfl rfl), rd_fwResult _ _⟩
    show rolledBack (confirmed s) = true ↔ _ ∧ _ < (ite _ _ _ : State).fw.rollback
    rw [hroll]
    simp only [rolledBack, hi, hother, Bool.and_eq_true, decide_eq_true_iff]
    rfl
  case reject =>
    intro s src ha hb
    refine ⟨fun h => ⟨fun hk => exec_reject_of hb ha (fwReject_noImage h hk), fun hk => ⟨_, exec_reject_of hb ha (fwReject_trial h hk), ?_⟩⟩,
      fun h => ⟨fun hk => exec_reject_of hb ha (fwReject_notTrial h hk), fun hk => ⟨_, exec_reject_of hb ha (fwReject_unbooted h hk), ?_⟩⟩⟩
    · obtain ⟨hactive, hnew, hold, -⟩ := exchanged s 4 (running_apart s)
      exact ⟨hactive, congrArg LoafSlot.state hnew, congrArg LoafSlot.state hold, rd_fwResult _ _⟩
    · obtain ⟨hactive, hnew, hold, -⟩ := exchanged s 4 (inactive_apart s)
      exact ⟨hactive, congrArg LoafSlot.state hnew, congrArg LoafSlot.state hold, rd_fwResult _ _⟩

/-- Settles O52: the programming, the live update and the report, each by what it leaves. -/
theorem imagesAreProgrammedUpdatedLiveAndAttested : Obligations.ImagesAreProgrammedUpdatedLiveAndAttested := by
  unfold Obligations.ImagesAreProgrammedUpdatedLiveAndAttested
  refine ⟨?write, ?programmed, ?live, ?attest⟩
  case write =>
    intro s src img busy
    refine ⟨fun ha ht hb => ⟨_, next_of_accepted (exec_loafImageWrite s src img) ha (decide_eq_true (loafImageStatus_ok ht hb)) rfl,
      loafImageApply_leaves s img⟩, ?_⟩
    rintro (ha | h)
    · exact next_of_refused (exec_loafImageWrite s src img) ha
    · refine next_congr (exec_loafImageWrite s src img) (whenWritten_owner ?_ _)
      rw [loafImageStatus_refused h]
      rfl
  case programmed =>
    exact fun s ok hl hf => ⟨fun h => next_congr (exec_loafProgramDone hl hf) (loafProgramDone_none h),
      fun h => ⟨_, next_congr (exec_loafProgramDone hl hf) (loafProgramDone_checks h), programmed_leaves s _⟩⟩
  case live =>
    intro s b hl
    have hexec {b t} (h : liveUpdateGroupDone s b = t) : exec (.liveUpdateGroupDone b) s = .next t :=
      next_congr (exec_liveUpdateGroupDone hl b) h
    exact ⟨fun h => hexec (liveUpdateGroupDone_none h b), fun g h =>
      ⟨⟨_, hexec (liveUpdateGroupDone_fails h), liveReverted_leaves s⟩,
        fun hg => ⟨_, hexec (liveUpdateGroupDone_next h hg), rfl, rd_wr_same _ _ _⟩,
        fun hg => ⟨_, hexec ((liveUpdateGroupDone_last h hg).trans (liveFinish_eq s)), liveDone_leaves s⟩⟩⟩
  case attest =>
    exact fun s src n => ⟨fun ha => ⟨_, _, next_of_accepted (exec_attestNonceWrite s src n) ha rfl rfl, length_drawBytes s 132,
      attestApply_leaves s n⟩, next_of_refused (exec_attestNonceWrite s src n)⟩

end Sys2Proof.Machine
end

section
/-! SUPPORT. Dictionary writes (R393, R395, R396): one item, the manager keys and the sessions opened with them, and what flash takes. -/
namespace Sys2Proof.Machine

/-! One item. -/

section
variable {s : State} {src : Source} {it : Item}

theorem writeItem_applies (h : itemStatus s src it = stOK) : writeItem s src it = applyWrite s src (it.index * 256 + it.sub) it.value := if_pos h

theorem writeItem_refused (h : itemStatus s src it ≠ stOK) : writeItem s src it = s := if_neg h

theorem exec_managerKeyWrite (h : it.index = 0x1110 ∨ it.index = 0x1111) : exec (.managerKeyWrite src it) s = .next (writeItem s src it) :=
  congrArg Host.Outcome.next (if_pos (by simpa using h))

theorem exec_managerKeyWrite_other (h : it.index ≠ 0x1110) (h' : it.index ≠ 0x1111) : exec (.managerKeyWrite src it) s = .next s :=
  congrArg Host.Outcome.next (if_neg (by simp [h, h']))

end

/-! The sessions of a key slot (R403). -/

/-- Closing sessions takes them and their scoped values away, nothing else. -/
theorem closeSessions_shape (l : List Nat) (s : State) : let t := l.foldl closeSession s
    t = { s with mgmt := { s.mgmt with sessions := t.mgmt.sessions, sessionRegs := t.mgmt.sessionRegs } } := by
  induction l generalizing s with
  | nil => rfl
  | cons i l ih => exact ih (closeSession s i)

theorem mem_closeSessions (l : List Nat) (s : State) (x : Session) :
    x ∈ (l.foldl closeSession s).mgmt.sessions ↔ x ∈ s.mgmt.sessions ∧ x.id ∉ l := by
  induction l generalizing s with
  | nil => simp
  | cons i l ih =>
    have hone : x ∈ (closeSession s i).mgmt.sessions ↔ x ∈ s.mgmt.sessions ∧ x.id ≠ i := by simp [closeSession]
    rw [List.foldl_cons, ih, hone, List.mem_cons, not_or, and_assoc]

theorem closeSlot_shape (s : State) (k : Nat) : closeSlot s k =
    { s with mgmt := { s.mgmt with sessions := (closeSlot s k).mgmt.sessions, sessionRegs := (closeSlot s k).mgmt.sessionRegs } } :=
  closeSessions_shape _ s

/-- A session of the slot is gone. -/
theorem closeSlot_sessions {s : State} {k : Nat} {x : Session} (h : x ∈ (closeSlot s k).mgmt.sessions) :
    x ∈ s.mgmt.sessions ∧ x.slot ≠ k := by
  obtain ⟨hx, hid⟩ := (mem_closeSessions _ _ _).mp h
  refine ⟨hx, fun hk => hid (List.mem_map_of_mem ?_)⟩
  exact List.mem_filter.mpr ⟨hx, decide_eq_true hk⟩

/-! What a written key, role or PersistReset does: the row and the owner of each of these addresses. -/

section
variable (s : State) (src : Source) (v : List Byte)

theorem applyWrite_managerKey {k : Nat} (hk : k < 8) :
    applyWrite s src (0x1110 * 256 + (k + 1)) v = closeSlot (writeBlob s (eManagerKey k) v) k := by
  interval_cases k <;> rfl

theorem applyWrite_managerKeyRole {k : Nat} (hk : k < 8) :
    applyWrite s src (0x1111 * 256 + (k + 1)) v = closeSlot (writeReg s (eManagerKeyRole k) (leNat v)) k := by
  interval_cases k <;> rfl

theorem applyWrite_persistReset : applyWrite s src (ePersistReset / 256 * 256 + ePersistReset % 256) v =
    { s with mgmt := { s.mgmt with resetAtBoot := max s.mgmt.resetAtBoot (leNat v) } } := rfl

end

theorem leNat_byte {v : Nat} (h : v < 256) : leNat [BitVec.ofNat 8 v] = v := by
  simp [leNat, Nat.mod_eq_of_lt h]

/-- A stored byte string changes the byte entries and the list of what waits for flash, nothing else (R393). -/
theorem writeBlob_shape (s : State) (a : Nat) (v : List Byte) :
    ∃ w, writeBlob s a v = { setBlob s a v with mgmt := { s.mgmt with waiting := w } } := by
  unfold writeBlob markPersist
  split
  · split
    · exact ⟨_, rfl⟩
    · exact ⟨s.mgmt.waiting, rfl⟩
  · exact ⟨s.mgmt.waiting, rfl⟩

/-- What a written key leaves: its value, the scalar entries, and only sessions of other slots. -/
theorem keyWritten_leaves (s : State) (k : Nat) (v : List Byte) : let t := closeSlot (writeBlob s (eManagerKey k) v) k
    blob t (eManagerKey k) = v ∧ t.regs = s.regs ∧ ∀ x ∈ t.mgmt.sessions, x ∈ s.mgmt.sessions ∧ x.slot ≠ k := by
  obtain ⟨w, hw⟩ := writeBlob_shape s (eManagerKey k) v
  refine ⟨?_, ?_, fun x hx => ?_⟩
  · rw [closeSlot_shape, hw]
    exact blob_setBlob_same s _ v
  · rw [closeSlot_shape, hw]
    rfl
  · obtain ⟨hx, hk⟩ := closeSlot_sessions hx
    rw [hw] at hx
    exact ⟨hx, hk⟩

/-- What a written role leaves: its value, the byte entries, and only sessions of other slots. -/
theorem roleWritten_leaves (s : State) (k n : Nat) : let t := closeSlot (writeReg s (eManagerKeyRole k) n) k
    rd t (eManagerKeyRole k) = n ∧ t.blobs = s.blobs ∧ ∀ x ∈ t.mgmt.sessions, x ∈ s.mgmt.sessions ∧ x.slot ≠ k := by
  obtain ⟨w, hw⟩ := writeReg_shape s (eManagerKeyRole k) n
  refine ⟨?_, ?_, fun x hx => ?_⟩
  · rw [closeSlot_shape]
    exact writeReg_rd_same s _ n
  · rw [closeSlot_shape, hw]
  · obtain ⟨hx, hk⟩ := closeSlot_sessions hx
    rw [hw] at hx
    exact ⟨hx, hk⟩

/-! Flash (R393). -/

/-- Flash takes the values of a list of entries: only flash and the list of what waits change. -/
theorem storeAll_shape (l : List Nat) (s : State) : let t := l.foldl storeOne s
    t = { s with mgmt := { s.mgmt with flash := t.mgmt.flash, waiting := s.mgmt.waiting.filter fun a => a ∉ l } } := by
  induction l generalizing s with
  | nil => simp
  | cons b l ih =>
    refine (ih (storeOne s b)).trans ?_
    simp only [List.foldl_cons, storeOne, List.filter_filter, List.mem_cons, not_or]
    congr 3
    funext a
    exact Bool.eq_iff_iff.mpr (by simp [and_comm])

theorem storeAll_flash (l : List Nat) (s : State) (a : Nat) : Tab.find (l.foldl storeOne s).mgmt.flash a =
    if a ∈ l then some (storedValue s a) else Tab.find s.mgmt.flash a := by
  induction l generalizing s with
  | nil => rfl
  | cons b l ih =>
    have hvalue : storedValue (storeOne s b) a = storedValue s a := rfl
    rw [List.foldl_cons, ih, hvalue]
    by_cases hb : a = b
    · subst hb
      have hstored : Tab.find (storeOne s a).mgmt.flash a = some (storedValue s a) := Tab.find_set_same _ _ _
      rw [hstored, ite_self, if_pos List.mem_cons_self]
    · have hkept : Tab.find (storeOne s b).mgmt.flash a = Tab.find s.mgmt.flash a := Tab.find_set_other _ _ hb
      simp only [hkept, List.mem_cons, hb, false_or]

/-- Every waiting value is in flash, and nothing waits. -/
theorem storeWaiting_leaves (s : State) : let t := storeWaiting s
    t = { s with mgmt := { s.mgmt with flash := t.mgmt.flash, waiting := [] } } ∧
      (∀ a ∈ s.mgmt.waiting, Tab.find t.mgmt.flash a = some (storedValue s a)) ∧
      (∀ a, a ∉ s.mgmt.waiting → Tab.find t.mgmt.flash a = Tab.find s.mgmt.flash a) := by
  have hnone : s.mgmt.waiting.filter (fun a => a ∉ s.mgmt.waiting) = [] := List.filter_eq_nil_iff.mpr (by simp)
  refine ⟨?_, fun a h => (storeAll_flash _ s a).trans (if_pos h), fun a h => (storeAll_flash _ s a).trans (if_neg h)⟩
  have hshape := storeAll_shape s.mgmt.waiting s
  rw [hnone] at hshape
  exact hshape

theorem exec_persistStore (s : State) : exec .persistStore s = .next (if mgmtUp s then storeWaiting s else s) := rfl

theorem exec_persistFlush (s : State) (src : Source) :
    exec (.persistFlush src) s = .next (whenWritten s src ePersistFlush [1] true storeWaiting) := rfl

theorem exec_persistReset {s : State} {src : Source} {v : Nat} (h : v < 256) : exec (.persistReset src v) s =
    .next (writeItem s src ⟨ePersistReset / 256, ePersistReset % 256, [BitVec.ofNat 8 v]⟩) :=
  congrArg Host.Outcome.next (if_pos h)

end Sys2Proof.Machine
end

section
/-! PROOFS. Dictionary writes (O48). -/
namespace Sys2Proof.Machine

/-- Settles O48: an item by its status, a key and a role by what their owner does, flash by induction on what waits. -/
theorem writesApplyOrChangeNothing : Obligations.WritesApplyOrChangeNothing := by
  unfold Obligations.WritesApplyOrChangeNothing
  refine ⟨?item, ?key, ?stored, ?unstored, ?reset, ?wide⟩
  case item =>
    refine fun s src it => ⟨fun h => congrArg Host.Outcome.next (writeItem_applies h),
      fun h => ⟨congrArg Host.Outcome.next (writeItem_refused h), ?_⟩, fun hk hr => exec_managerKeyWrite_other hk hr⟩
    by_cases hi : it.index = 0x1110 ∨ it.index = 0x1111
    · exact next_congr (exec_managerKeyWrite hi) (writeItem_refused h)
    · exact exec_managerKeyWrite_other (fun e => hi (.inl e)) fun e => hi (.inr e)
  case key =>
    exact fun s src k v hk => ⟨fun h => ⟨_, next_congr (exec_managerKeyWrite (.inl rfl))
        ((writeItem_applies h).trans (applyWrite_managerKey s src v hk)), keyWritten_leaves s k v⟩,
      fun h => ⟨_, next_congr (exec_managerKeyWrite (.inr rfl))
        ((writeItem_applies h).trans (applyWrite_managerKeyRole s src v hk)), roleWritten_leaves s k _⟩⟩
  case stored =>
    rintro s c (⟨rfl, hup⟩ | ⟨src, rfl, ha⟩)
    · exact ⟨_, next_congr (exec_persistStore s) (if_pos hup), storeWaiting_leaves s⟩
    · exact ⟨_, next_of_accepted (exec_persistFlush s src) ha rfl rfl, storeWaiting_leaves s⟩
  case unstored =>
    exact fun s src => ⟨fun h => next_congr (exec_persistStore s) (if_neg (Bool.eq_false_iff.mp h)),
      next_of_refused (exec_persistFlush s src)⟩
  case reset =>
    intro s src v hv it
    refine ⟨fun h => next_congr (exec_persistReset hv) ?_, fun h => next_congr (exec_persistReset hv) (writeItem_refused h)⟩
    refine (writeItem_applies h).trans ((applyWrite_persistReset s src [BitVec.ofNat 8 v]).trans ?_)
    rw [leNat_byte hv]
  case wide => exact fun s src v hv => congrArg Host.Outcome.next (if_neg (Nat.not_lt.mpr hv))

end Sys2Proof.Machine
end

section
/-! SUPPORT. MDP (17, R398 to R408): the table of sessions, how a request is answered, how a session opens and closes, and what becomes of its
events and watches. -/
namespace Sys2Proof.Machine

/-! The table of sessions. -/

section
variable {s : State} {i : Nat} {x : Session}

theorem id_of_sessionOf (h : sessionOf s i = some x) : x.id = i := by simpa using List.find?_some h

/-- A session that is replaced is found in its new form. -/
theorem sessionOf_setSession {y : Session} (h : sessionOf s i = some x) (hy : y.id = i) : sessionOf (setSession s y) i = some y := by
  have hsame : (fun z : Session => decide ((if z.id = y.id then y else z).id = i)) = fun z => decide (z.id = i) := by
    funext z
    by_cases hz : z.id = y.id
    · rw [if_pos hz, hz]
    · rw [if_neg hz]
  have hfind : sessionOf (setSession s y) i = (sessionOf s i).map fun z => if z.id = y.id then y else z := by
    simp only [sessionOf, setSession, List.find?_map, Function.comp_def, hsame]
  rw [hfind, h, Option.map_some, if_pos ((id_of_sessionOf h).trans hy.symm)]

theorem sessionOf_closeSession_same (s : State) (i : Nat) : sessionOf (closeSession s i) i = none := by
  simp [sessionOf, closeSession, List.find?_filter]

theorem sessionOf_closeSession_other (s : State) {i j : Nat} (h : j ≠ i) : sessionOf (closeSession s i) j = sessionOf s j := by
  simp only [sessionOf, closeSession, List.find?_filter]
  congr 1
  funext x
  by_cases hx : x.id = j
  · simp [hx, h]
  · simp [hx]

end

/-! Requests (R402). -/

section
variable {s : State} {m : Datagram} {type : Nat} {f : State → Session → Reply × State}

theorem request_badFrame (h : mdpFrameOk m = false) : request s m type f = countMdp s eMdpFrameErrorCount := if_pos (by simp [h])

section
variable (hm : mdpFrameOk m = true) (ht : hdType m.header = type)
include hm ht

theorem request_noSession (h : sessionOf s (hdSession m.header) = none) : request s m type f = countMdp s eMdpFrameErrorCount := by
  simp [request, hm, ht, h, mdpDiscard]

section
variable {x : Session} (hx : sessionOf s (hdSession m.header) = some x)
include hx

theorem request_untrusted (h : x.isOpen = false ∨ m.tag ≠ mdpTag x.managerKey m.header m.body) :
    request s m type f = countMdp s eMdpFrameErrorCount := by
  have hbad : (!x.isOpen || m.tag ≠ mdpTag x.managerKey m.header m.body) = true := by simpa using h
  simp only [request, hm, ht, hx, hbad, Bool.not_true, Bool.false_eq_true, ne_eq, not_true_eq_false, if_false, if_true, mdpDiscard]

variable (ho : x.isOpen = true) (htag : m.tag = mdpTag x.managerKey m.header m.body)
include ho htag

theorem request_next (h : hdSeq m.header = x.lastSeq + 1) :
    request s m type f = respond (f s x).2 x type (hdSeq m.header) (f s x).1 := by
  simp [request, hm, ht, hx, ho, htag, h]

theorem request_repeats (h : hdSeq m.header = x.lastSeq) {c : BitVec 128 × List Byte} (hc : x.cached = some c) :
    request s m type f = sendSession s x (c.1 ||| BitVec.ofNat 128 (2 ^ 122)) c.2 := by
  simp [request, hm, ht, hx, ho, htag, h, hc]

theorem request_outOfOrder (h : hdSeq m.header ≠ x.lastSeq + 1) (hr : hdSeq m.header ≠ x.lastSeq ∨ x.cached = none) :
    request s m type f = countMdp s eMdpSeqErrorCount := by
  cases hc : x.cached with
  | none => simp [request, hm, ht, hx, ho, htag, h, hc]
  | some c =>
    have hlast : hdSeq m.header ≠ x.lastSeq := hr.resolve_right (by simp [hc])
    simp [request, hm, ht, hx, ho, htag, h, hc, hlast]

end
end
end

/-- The answer is the last message that leaves, and while the session stays it is kept with its seq. -/
theorem respond_leaves (u : State) (x : Session) (type seq : Nat) (r : Reply) : let t := respond u x type seq r
    let h := mdpHeader type r.status x.id seq r.body.length true r.last false
    t = { u with outbox := u.outbox ++ [.mdp x.addr h r.body (mdpTag x.moduleKey h r.body)],
                 mgmt := { u.mgmt with sessions := t.mgmt.sessions } } ∧
      (∀ y, sessionOf u x.id = some y → sessionOf t x.id = some { y with lastSeq := seq, cached := some (h, r.body) }) ∧
      (sessionOf u x.id = none → t.mgmt.sessions = u.mgmt.sessions) := by
  dsimp only [respond]
  cases hx : sessionOf u x.id with
  | none => exact ⟨rfl, nofun, fun _ => rfl⟩
  | some z =>
    refine ⟨rfl, ?_, nofun⟩
    rintro y ⟨⟩
    exact sessionOf_setSession hx (id_of_sessionOf hx :)

/-- Each command of the list is a request of its type, answered as the list says. -/
theorem exec_sessionRequest : ∀ q ∈ sessionRequests, ∀ m s, exec (q.1 m) s = .next (request s m q.2.1 (q.2.2 m)) := by
  simp only [sessionRequests, List.forall_mem_cons]
  exact ⟨fun _ _ => rfl, fun _ _ => rfl, fun _ _ => rfl, fun _ _ => rfl, fun _ _ => rfl, fun _ _ => rfl, fun _ _ => rfl,
    List.forall_mem_nil _⟩

/-! Before a session (R400, R401). -/

theorem exec_mdpFrameError (m : Datagram) (s : State) :
    exec (.mdpFrameError m) s = .next (if mgmtUp s && !mdpFrameOk m then mdpDiscard s else s) := rfl

section
variable {s : State} {m : Datagram}

section
variable (hu : mgmtUp s = true)
include hu

theorem exec_discover : exec (.discover m) s = .next (discover s m) := congrArg Host.Outcome.next (if_pos hu)

theorem exec_mdpOpen : exec (.mdpOpen m) s = .next (mdpOpen s m) := congrArg Host.Outcome.next (if_pos hu)

end

section
variable (hu : mgmtUp s = false)
include hu

theorem exec_discover_down : exec (.discover m) s = .next s := congrArg Host.Outcome.next (if_neg (Bool.eq_false_iff.mp hu))

theorem exec_mdpOpen_down : exec (.mdpOpen m) s = .next s := congrArg Host.Outcome.next (if_neg (Bool.eq_false_iff.mp hu))

end

theorem discover_badFrame (h : mdpFrameOk m = false) : discover s m = mdpDiscard s := if_pos (by simp [h])

theorem mdpOpen_badFrame (h : mdpFrameOk m = false) : mdpOpen s m = mdpDiscard s := if_pos (by simp [h])

theorem discover_answers (hm : mdpFrameOk m = true) (ht : hdType m.header = 0x01) : discover s m =
    if m.body.isEmpty then sendPlain s m.addr 0x01 stOK 0 (hdSeq m.header) (discoverBody s)
    else sendPlain s m.addr 0x01 stLENGTH 0 (hdSeq m.header) [] := (if_neg (by simp [hm])).trans (if_neg (not_not.mpr ht))

section
variable (hm : mdpFrameOk m = true)
include hm

theorem mdpOpen_lockedOut (h : m.addr ∈ s.mgmt.lockouts) : mdpOpen s m = s := (if_neg (by simp [hm])).trans (if_pos (by simp [h]))

variable (ht : hdType m.header = 0x02) (h : m.addr ∉ s.mgmt.lockouts)
include ht h

/-- From an address that is not locked out: NOT_READY, LENGTH, BUSY or AUTH, in that order, or CHALLENGE. -/
theorem mdpOpen_eq : mdpOpen s m =
    if !loafUp s then sendPlain s m.addr 0x02 stNOT_READY 0 (hdSeq m.header) []
    else if m.body.length ≠ 169 then sendPlain s m.addr 0x02 stLENGTH 0 (hdSeq m.header) []
    else if 8 ≤ s.mgmt.sessions.length then sendPlain s m.addr 0x02 stBUSY 0 (hdSeq m.header) []
    else if !slotUsable s (leNat (m.body.take 1)) then sendPlain (authFail s m.addr) m.addr 0x02 stAUTH 0 (hdSeq m.header) []
    else challenge s m := (if_neg (by simp [hm])).trans (if_neg (by simp [ht, h]))

theorem mdpOpen_notReady (hl : loafUp s = false) : mdpOpen s m = sendPlain s m.addr 0x02 stNOT_READY 0 (hdSeq m.header) [] := by
  rw [mdpOpen_eq hm ht h, if_pos (by simp [hl])]

variable (hl : loafUp s = true)
include hl

theorem mdpOpen_length (hb : m.body.length ≠ 169) : mdpOpen s m = sendPlain s m.addr 0x02 stLENGTH 0 (hdSeq m.header) [] := by
  rw [mdpOpen_eq hm ht h, if_neg (by simp [hl]), if_pos hb]

variable (hb : m.body.length = 169)
include hb

theorem mdpOpen_busy (hn : 8 ≤ s.mgmt.sessions.length) : mdpOpen s m = sendPlain s m.addr 0x02 stBUSY 0 (hdSeq m.header) [] := by
  rw [mdpOpen_eq hm ht h, if_neg (by simp [hl]), if_neg (not_not.mpr hb), if_pos hn]

variable (hn : s.mgmt.sessions.length < 8)
include hn

theorem mdpOpen_auth (hs : slotUsable s (leNat (m.body.take 1)) = false) :
    mdpOpen s m = sendPlain (authFail s m.addr) m.addr 0x02 stAUTH 0 (hdSeq m.header) [] := by
  rw [mdpOpen_eq hm ht h, if_neg (by simp [hl]), if_neg (not_not.mpr hb), if_neg (Nat.not_le.mpr hn), if_pos (by simp [hs])]

theorem mdpOpen_challenges (hs : slotUsable s (leNat (m.body.take 1)) = true) : mdpOpen s m = challenge s m := by
  rw [mdpOpen_eq hm ht h, if_neg (by simp [hl]), if_neg (not_not.mpr hb), if_neg (Nat.not_le.mpr hn), if_neg (by simp [hs])]

end

/-- CHALLENGE makes one session and sends 297 bytes. -/
theorem challenge_leaves (s : State) (m : Datagram) : ∃ x b, let t := challenge s m
    t = { s with draws := s.draws + 1, outbox := t.outbox,
                 mgmt := { s.mgmt with sessions := s.mgmt.sessions ++ [x], nextSession := s.mgmt.nextSession + 1 } } ∧
      x.id = s.mgmt.nextSession ∧ x.addr = m.addr ∧ x.slot = leNat (m.body.take 1) ∧ x.isOpen = false ∧ x.lastSeq = 0 ∧ b.length = 297 ∧
      t.outbox = s.outbox ++ [.mdp m.addr (mdpHeader 0x03 stOK x.id (hdSeq m.header) 297 true false false) b []] := by
  refine ⟨_, (drawBytes s 297).1, rfl, rfl, rfl, rfl, rfl, rfl, length_drawBytes s 297, ?_⟩
  have hbody : ∀ n, (drawBytes s 297).1.length = n → (challenge s m).outbox =
      s.outbox ++ [.mdp m.addr (mdpHeader 0x03 stOK s.mgmt.nextSession (hdSeq m.header) n true false false) (drawBytes s 297).1 []] := by
    rintro n rfl
    rfl
  exact hbody 297 (length_drawBytes s 297)

/-! PROVE, and the end of a session. -/

theorem exec_prove (hl : loafUp s = true) (ok : Bool) : exec (.prove m ok) s = .next (prove s m ok) :=
  congrArg Host.Outcome.next (if_pos hl)

section
variable {x : Session} {ok : Bool} (hm : mdpFrameOk m = true) (ht : hdType m.header = 0x04)
  (hx : sessionOf s (hdSession m.header) = some x) (ho : x.isOpen = false)
include hm ht hx ho

theorem prove_length (hb : m.body.length ≠ 132) : prove s m ok = sendPlain s m.addr 0x04 stLENGTH x.id (hdSeq m.header) [] := by
  simp [prove, hm, ht, hx, ho, hb]

variable (hb : m.body.length = 132)
include hb

theorem prove_opens (hok : ok = true) (hs : slotUsable s x.slot = true) :
    let y := { x with isOpen := true, role := rd s (eManagerKeyRole x.slot) }
    prove s m ok = sendSession (setSession s y) y (mdpHeader 0x04 stOK x.id (hdSeq m.header) 0 true false false) [] := by
  simp [prove, hm, ht, hx, ho, hb, hok, hs]

theorem prove_fails (h : ok = false ∨ slotUsable s x.slot = false) : prove s m ok =
    sendPlain (authFail (closeSession s x.id) m.addr) m.addr 0x04 stAUTH x.id (hdSeq m.header) [] := by
  have hbad : (!ok || !slotUsable s x.slot) = true := by simpa using h
  simp [prove, hm, ht, hx, ho, hb, hbad]

end

section
variable {i : Nat}

theorem proveTimeout_none (h : sessionOf s i = none) : proveTimeout s i = s := by simp only [proveTimeout, h]

theorem sessionTimeout_none (h : sessionOf s i = none) : sessionTimeout s i = s := by simp only [sessionTimeout, h]

variable {x : Session} (h : sessionOf s i = some x)
include h

theorem proveTimeout_unproved (ho : x.isOpen = false) :
    proveTimeout s i = sendPlain (authFail (closeSession s i) x.addr) x.addr 0x04 stAUTH i 0 [] := by
  simp [proveTimeout, h, ho]

theorem proveTimeout_open (ho : x.isOpen = true) : proveTimeout s i = s := by simp [proveTimeout, h, ho]

theorem sessionTimeout_open (ho : x.isOpen = true) : sessionTimeout s i = closeSession s i := by simp [sessionTimeout, h, ho]

theorem sessionTimeout_unproved (ho : x.isOpen = false) : sessionTimeout s i = s := by simp [sessionTimeout, h, ho]

end

/-! The network layer (R398). -/

section
variable {d a : BitVec 128} {p : List Byte}

section
variable (h : (mgmtUp s && ownAddress s d) = true)
include h

theorem exec_icmpv6Echo_own : exec (.icmpv6Echo d a p) s = .next (emit s (.icmp a p)) := congrArg Host.Outcome.next (if_pos h)

theorem exec_neighborDiscovery_own : exec (.neighborDiscovery d a) s = .next (emit s (.neighbor a d Config.macAddress)) :=
  congrArg Host.Outcome.next (if_pos h)

end

section
variable (h : ¬ (mgmtUp s && ownAddress s d) = true)
include h

theorem exec_icmpv6Echo_other : exec (.icmpv6Echo d a p) s = .next s := congrArg Host.Outcome.next (if_neg h)

theorem exec_neighborDiscovery_other : exec (.neighborDiscovery d a) s = .next s := congrArg Host.Outcome.next (if_neg h)

end
end
end

/-! Events, watches and block transfers (R404, R407, R408). -/

section
variable {s : State} {m : Datagram} {i : Nat} {x : Session}

section
variable (hm : mdpFrameOk m = true) (ht : hdType m.header = 0x16) (hx : sessionOf s (hdSession m.header) = some x)
  (ho : x.isOpen = true) (htag : m.tag = mdpTag x.managerKey m.header m.body)
include hm ht hx ho htag

theorem eventAck_seq (h : hdSeq m.header ≠ 0) : eventAck s m = countMdp s eMdpSeqErrorCount := by
  simp [eventAck, hm, ht, hx, ho, htag, h]

theorem eventAck_clears (h : hdSeq m.header = 0) (hb : m.body.length = 4) :
    eventAck s m = lostToSession (setSession s { x with queue := x.queue.filter fun r => leNat m.body < r.1 }) x.id := by
  simp [eventAck, hm, ht, hx, ho, htag, h, hb]

end

section
variable (h : sessionOf s i = some x)
include h

theorem lostToSession_none (hl : x.lost = 0) : lostToSession s i = s := by simp [lostToSession, h, hl]

theorem lostToSession_reports (hl : x.lost ≠ 0) (hq : x.queue.length < 256) :
    let er := eventRecord 21 (s.mgmt.eventSeq + 1) (fcNow s) (leBytes 4 x.lost)
    let z := { x with queue := x.queue ++ [(s.mgmt.eventSeq + 1, er, 1)], lost := 0 }
    lostToSession s i = sendEvents (setSession { s with mgmt := { s.mgmt with eventSeq := s.mgmt.eventSeq + 1 } } z) z [er] := by
  have hroom : (x.lost = 0 || 256 ≤ x.queue.length) = false := by simp [hl, hq]
  simp only [lostToSession, h, hroom, Bool.false_eq_true, if_false]

section
variable {q : Nat}

theorem eventResend_unknown (hr : (x.queue.find? fun r => r.1 = q) = none) : eventResend s i q = s := by
  simp only [eventResend, h, hr]

section
variable {r : Nat × BitVec 1024 × Nat} (hr : (x.queue.find? fun r => r.1 = q) = some r)
include hr

theorem eventResend_sends (hn : r.2.2 < 8) : let y := { x with queue := x.queue.map fun e => if e.1 = q then (e.1, e.2.1, e.2.2 + 1) else e }
    eventResend s i q = sendEvents (setSession s y) y [r.2.1] := by
  simp only [eventResend, h, hr, hn, if_true]

theorem eventResend_loses (hn : 8 ≤ r.2.2) : eventResend s i q =
    lostToSession (countMdp (setSession s { x with queue := (x.queue.filter fun e => e.1 ≠ q), lost := x.lost + 1 }) eMdpEventLostCount) i := by
  simp only [eventResend, h, hr, Nat.not_lt.mpr hn, if_false]

end
end

section
variable {n : Nat} {w : Watch} (hw : x.watches[n]? = some w)
include hw

theorem watchCheck_same (hs : x.isOpen = false ∨ w.last = some (entryValue s (.session i) w.index w.sub)) : watchCheck s i n = s := by
  have hquiet : (!x.isOpen || w.last = some (entryValue s (.session i) w.index w.sub)) = true := by simpa using hs
  simp only [watchCheck, h, hw, hquiet, if_true]

theorem watchCheck_changed (ho : x.isOpen = true) (hv : w.last ≠ some (entryValue s (.session i) w.index w.sub)) :
    let v := entryValue s (.session i) w.index w.sub
    let k := s.mgmt.eventSeq + 1
    let t := setSession { s with mgmt := { s.mgmt with eventSeq := k } } { x with watches := x.watches.set n { w with last := some v } }
    watchCheck s i n = eventToSession t 20 k (eventRecord 20 k (fcNow s) (entryChange w v)) i := by
  have hnews : (!x.isOpen || w.last = some (entryValue s (.session i) w.index w.sub)) = false := by simp [ho, hv]
  simp only [watchCheck, h, hw, hnews, Bool.false_eq_true, if_false]
  rfl

end

theorem setTransfer_session (t : Option Transfer) : setTransfer s (.session i) t = setSession s { x with transfer := t } := by
  simp only [setTransfer, h]

end

section
variable (h : sessionOf s i = none)
include h

theorem eventResend_noSession (q : Nat) : eventResend s i q = s := by simp only [eventResend, h]

theorem watchCheck_noSession (n : Nat) : watchCheck s i n = s := by simp only [watchCheck, h]

theorem setTransfer_noSession (t : Option Transfer) : setTransfer s (.session i) t = s := by simp only [setTransfer, h]

end
end

end Sys2Proof.Machine
end

section
/-! PROOFS. The requests of a session (O46), how sessions open and close (O45), and their events and watches (O47). -/
namespace Sys2Proof.Machine

/-- Settles O46: each of the seven is a `request`, whose cases are those of its checks. -/
theorem requestsAreHandledOnceAndAnswered : Obligations.RequestsAreHandledOnceAndAnswered := by
  unfold Obligations.RequestsAreHandledOnceAndAnswered
  intro q hq s m count
  have hexec {t} (h : request s m q.2.1 (q.2.2 m) = t) : exec (q.1 m) s = .next t := next_congr (exec_sessionRequest q hq m s) h
  refine ⟨fun h => hexec (request_badFrame h), fun hm ht => ⟨fun h => hexec (request_noSession hm ht h), fun x hx =>
    ⟨fun h => hexec (request_untrusted hm ht hx h), fun ho htag => ⟨fun h => ?_, fun h c hc => ?_, fun h hr => ?_⟩⟩⟩⟩
  · exact ⟨_, hexec (request_next hm ht hx ho htag h), respond_leaves _ x _ _ _⟩
  · exact hexec (request_repeats hm ht hx ho htag h hc)
  · exact hexec (request_outOfOrder hm ht hx ho htag h hr)

/-- Settles O45: DISCOVER, OPEN and PROVE by the order of their checks, the timeouts by what they find. -/
theorem sessionsOpenByChallengeAndProof : Obligations.SessionsOpenByChallengeAndProof := by
  unfold Obligations.SessionsOpenByChallengeAndProof
  refine ⟨?frame, ?discover, ?opens, ?prove, ?timeouts, ?lockout, ?network⟩
  case frame =>
    refine fun s m => ⟨fun hu hm => ?_, fun h => ?_, fun hu => ⟨exec_discover_down hu, exec_mdpOpen_down hu⟩⟩
    · exact ⟨next_congr (exec_mdpFrameError m s) (if_pos (by simp [hu, hm])), next_congr (exec_discover hu) (discover_badFrame hm),
        next_congr (exec_mdpOpen hu) (mdpOpen_badFrame hm)⟩
    · refine next_congr (exec_mdpFrameError m s) (if_neg ?_)
      rcases h with h | h <;> simp [h]
  case discover => exact fun s m hu hm ht => next_congr (exec_discover hu) (discover_answers hm ht)
  case opens =>
    intro s m hu hm ht no
    have hexec {t} (h : mdpOpen s m = t) : exec (.mdpOpen m) s = .next t := next_congr (exec_mdpOpen hu) h
    refine ⟨fun h => hexec (mdpOpen_lockedOut hm h), fun h => ⟨fun hl => hexec (mdpOpen_notReady hm ht h hl),
      fun hl hb => hexec (mdpOpen_length hm ht h hl hb), fun hl hb hn => hexec (mdpOpen_busy hm ht h hl hb hn), fun hl hb hn =>
      ⟨fun hs => hexec (mdpOpen_auth hm ht h hl hb hn hs), fun hs => ?_⟩⟩⟩
    obtain ⟨x, b, hleaves⟩ := challenge_leaves s m
    exact ⟨_, x, b, hexec (mdpOpen_challenges hm ht h hl hb hn hs), hleaves⟩
  case prove =>
    intro s m ok x hl hm ht hx ho
    have hexec {t} (h : prove s m ok = t) : exec (.prove m ok) s = .next t := next_congr (exec_prove hl ok) h
    refine ⟨fun hb => hexec (prove_length hm ht hx ho hb), fun hb hok hs => ?_, fun hb h => hexec (prove_fails hm ht hx ho hb h)⟩
    exact hexec (prove_opens hm ht hx ho hb hok hs)
  case timeouts =>
    have hprove {s i t} (h : proveTimeout s i = t) : exec (.proveTimeout i) s = .next t := congrArg Host.Outcome.next h
    have hsession {s i t} (h : sessionTimeout s i = t) : exec (.sessionTimeout i) s = .next t := congrArg Host.Outcome.next h
    exact fun s i => ⟨fun x hx => ⟨fun ho => hprove (proveTimeout_unproved hx ho), fun ho => hprove (proveTimeout_open hx ho),
        fun ho => ⟨_, hsession (sessionTimeout_open hx ho), sessionOf_closeSession_same s i, fun _ hj => sessionOf_closeSession_other s hj⟩,
        fun ho => hsession (sessionTimeout_unproved hx ho)⟩,
      fun h => ⟨hprove (proveTimeout_none h), hsession (sessionTimeout_none h)⟩⟩
  case lockout =>
    refine fun s a => ⟨_, rfl, ?_, fun b hb => ?_, rfl⟩
    · simp
    · simp [hb]
  case network =>
    refine fun s d a p => ⟨fun hu hd => ?_, fun h => ?_⟩
    · have hown : (mgmtUp s && ownAddress s d) = true := by simp [hu, hd]
      exact ⟨exec_icmpv6Echo_own hown, exec_neighborDiscovery_own hown⟩
    · have hother : ¬ (mgmtUp s && ownAddress s d) = true := by rcases h with h | h <;> simp [h]
      exact ⟨exec_icmpv6Echo_other hother, exec_neighborDiscovery_other hother⟩

/-- Settles O47: each command by the session, the record or the watch that it finds. -/
theorem eventsAreAckedResentAndWatched : Obligations.EventsAreAckedResentAndWatched := by
  unfold Obligations.EventsAreAckedResentAndWatched
  have hack {s m t} (h : eventAck s m = t) : exec (.eventAck m) s = .next t := congrArg Host.Outcome.next h
  have hresend {s i q t} (h : eventResend s i q = t) : exec (.eventResend i q) s = .next t := congrArg Host.Outcome.next h
  have hwatch {s i n t} (h : watchCheck s i n = t) : exec (.watchCheck i n) s = .next t := congrArg Host.Outcome.next h
  refine ⟨?ack, ?queued, ?noSession, fun s => rfl, ?transfer⟩
  case ack =>
    intro s m x hm ht hx ho htag
    refine ⟨fun h => hack (eventAck_seq hm ht hx ho htag h), ?_⟩
    intro h hb y
    have hclears : eventAck s m = lostToSession (setSession s y) x.id := eventAck_clears hm ht hx ho htag h hb
    have hy : sessionOf (setSession s y) x.id = some y :=
      sessionOf_setSession (hx.symm ▸ (congrArg (sessionOf s) (id_of_sessionOf hx))) rfl
    refine ⟨fun hl => ⟨hack hclears, lostToSession_none hy hl⟩, ?_⟩
    intro hl hq er z
    exact hack (hclears.trans (lostToSession_reports hy hl hq))
  case queued =>
    intro s i q x hx
    refine ⟨fun r hr => ⟨?_, ?_⟩, fun hr => hresend (eventResend_unknown hx hr), ?_⟩
    · exact fun hn => hresend (eventResend_sends hx hr hn)
    · exact fun hn => hresend (eventResend_loses hx hr hn)
    · intro n w hw v
      exact ⟨fun hs => hwatch (watchCheck_same hx hw hs), fun ho hv => hwatch (watchCheck_changed hx hw ho hv)⟩
  case noSession => exact fun s i q h => ⟨hresend (eventResend_noSession h q), hwatch (watchCheck_noSession h q)⟩
  case transfer =>
    exact fun s i => ⟨fun h => congrArg Host.Outcome.next (setTransfer_noSession h none),
      fun x h => congrArg Host.Outcome.next (setTransfer_session h none)⟩

end Sys2Proof.Machine
end

section
/-! SUPPORT. The mailbox (17, R409 to R415): how each command of the submission ring finishes, and how the rings move. -/
namespace Sys2Proof.Machine

/-! Commands that move no slab. -/

section
variable {s : State} {e : BitVec 512}

theorem exec_nop (s : State) (e : BitVec 512) : exec (.nop e) s = .next (if runnable s e 0x30 then finish s e stOK 0 0 else s) := rfl

theorem setSaveBuffer_idle (h : runnable s e 0x20 = false) : setSaveBuffer s e = s := if_pos (by simp [h])

section
variable (h : runnable s e 0x20 = true)
include h

theorem setSaveBuffer_frozen (hf : s.faults.frozen = true) : setSaveBuffer s e = finish s e stFROZEN 0 0 :=
  (if_neg (by simp [h])).trans (if_pos hf)

theorem setSaveBuffer_names (hf : s.faults.frozen = false) : setSaveBuffer s e =
    finish { s with save := { s.save with buffer := some (sbHost e, sbLength e) } } e stOK 0 0 :=
  (if_neg (by simp [h])).trans (if_neg (Bool.eq_false_iff.mp hf))

end

/-! DICT (R412). -/

section
variable {b : List Byte}

theorem dict_idle (h : runnable s e 0x01 = false ∨ b.length ≠ sbLength e) : dict s e b = s := if_pos (by simpa using h)

variable (h : runnable s e 0x01 = true) (hb : b.length = sbLength e)
include h hb

theorem dict_long (hl : 65536 < b.length) : dict s e b = finish s e stLENGTH 0 0 :=
  (if_neg (by simp [h, hb])).trans (if_pos (hb ▸ hl))

variable (hl : b.length ≤ 65536) {r : Reply} {t : State} (hr : dictRequest s e b = (r, t))
include hl hr

/-- A body that is not too long is applied, and its answer goes out where it fits. -/
theorem dict_answers : dict s e b =
    if sbRespLength e < r.body.length then finish t e stLENGTH 0 0
    else finish (if r.body.isEmpty then t else emit t (.hostMem (sbResp e) r.body)) e r.status r.body.length 0 := by
  unfold dict
  rw [if_neg (by simp [h, hb]), if_neg (hb ▸ Nat.not_lt.mpr hl), hr]

theorem dict_noRoom (hroom : sbRespLength e < r.body.length) : dict s e b = finish t e stLENGTH 0 0 := by
  rw [dict_answers h hb hl hr, if_pos hroom]

theorem dict_fits (hroom : r.body.length ≤ sbRespLength e) (hne : r.body ≠ []) :
    dict s e b = finish (emit t (.hostMem (sbResp e) r.body)) e r.status r.body.length 0 := by
  rw [dict_answers h hb hl hr, if_neg (Nat.not_lt.mpr hroom), if_neg (by simpa using hne)]

theorem dict_empty (hempty : r.body = []) : dict s e b = finish t e r.status 0 0 := by
  rw [dict_answers h hb hl hr, hempty]
  rfl

end

/-! DMA to the module (R413). -/

section
variable {status : Nat} {move : State → State}

theorem dmaWrite_frozen (hf : s.faults.frozen = true) : dmaWrite s e status move = finish s e stFROZEN 0 0 := if_pos hf

section
variable (hf : s.faults.frozen = false)
include hf

theorem dmaWrite_misshapen (h : dmaShape e ≠ stOK) : dmaWrite s e status move = finish s e (dmaShape e) 0 0 :=
  (if_neg (Bool.eq_false_iff.mp hf)).trans (if_pos h)

variable (h : dmaShape e = stOK)
include h

theorem dmaWrite_refused (hs : status ≠ stOK) : dmaWrite s e status move = finish s e status 0 0 :=
  (if_neg (Bool.eq_false_iff.mp hf)).trans ((if_neg (not_not.mpr h)).trans (if_pos hs))

theorem dmaWrite_moves (hs : status = stOK) :
    dmaWrite s e status move = finish (bump64 (move s) eDmaBytesToModule (sbLength e)) e stOK (sbLength e) 0 :=
  (if_neg (Bool.eq_false_iff.mp hf)).trans ((if_neg (not_not.mpr h)).trans (if_neg (not_not.mpr hs)))

end
end

/-- A command on the Vat waits while one of its slabs is being written. -/
def dmaWaits (s : State) (e : BitVec 512) : Bool := !s.faults.frozen && (dmaSlabs e).any (slabPending s)

theorem dmaWaits_iff : dmaWaits s e = true ↔ s.faults.frozen = false ∧ ∃ n ∈ dmaSlabs e, slabPending s n = true := by
  simp only [dmaWaits, Bool.and_eq_true, Bool.not_eq_true', List.any_eq_true]

theorem dmaWaits_not (h : s.faults.frozen = true ∨ ∀ n ∈ dmaSlabs e, slabPending s n = false) : dmaWaits s e = false := by
  rw [Bool.eq_false_iff, Ne, dmaWaits_iff]
  rintro ⟨hf, n, hn, hp⟩
  rcases h with h | h
  · exact Bool.eq_false_iff.mp hf h
  · exact Bool.eq_false_iff.mp (h n hn) hp

section
variable {d : List Byte}

theorem vatWrite_idle (h : d.length ≠ sbLength e ∨ runnable s e 0x10 = false ∨ dmaWaits s e = true) : vatWrite s e d = s := by
  refine if_pos ?_
  have hcases : ((!runnable s e 0x10 || d.length ≠ sbLength e) || dmaWaits s e) = true := by
    rcases h with h | h | h <;> simp [h]
  exact hcases

theorem cellarWrite_idle (h : d.length ≠ sbLength e ∨ runnable s e 0x12 = false) : cellarWrite s e d = s := by
  refine if_pos ?_
  rcases h with h | h <;> simp [h]

variable (hd : d.length = sbLength e)
include hd

theorem vatWrite_runs (h : runnable s e 0x10 = true) (hw : dmaWaits s e = false) :
    vatWrite s e d = dmaWrite s e (vatWriteStatus s (dmaSlabs e)) fun s => vatPut s (sbModule e) d := by
  refine if_neg ?_
  have hcases : ¬ ((!runnable s e 0x10 || d.length ≠ sbLength e) || dmaWaits s e) = true := by simp [h, hd, hw]
  exact hcases

theorem cellarWrite_runs (h : runnable s e 0x12 = true) :
    cellarWrite s e d = dmaWrite s e (cellarWriteStatus s (dmaSlabs e)) fun s => cellarPut s (sbModule e) d := if_neg (by simp [h, hd])

end

/-! DMA to the host (R413). -/

/-- Bytes that went to the host are counted, but not in a frozen module. -/
def countToHost (s : State) (n : Nat) : State := if s.faults.frozen then s else bump64 s eDmaBytesToHost n

section
variable {status : Nat} {good : Nat → Bool} {bytes : Nat → List Byte} {fail : State → Nat → State}

theorem dmaRead_misshapen (h : dmaShape e ≠ stOK) : dmaRead s e status good bytes fail = finish s e (dmaShape e) 0 0 := if_pos h

section
variable (h : dmaShape e = stOK)
include h

theorem dmaRead_refused (hs : status ≠ stOK) : dmaRead s e status good bytes fail = finish s e status 0 0 :=
  (if_neg (not_not.mpr h)).trans (if_pos hs)

section
variable (hs : status = stOK)
include hs

/-- Where every slab is good, all of them go out. -/
theorem dmaRead_all (hne : dmaSlabs e ≠ []) (hgood : ∀ n ∈ dmaSlabs e, good n = true) : dmaRead s e status good bytes fail =
    let u := emit s (.hostMem (sbHost e) ((dmaSlabs e).flatMap bytes))
    finish (countToHost u (4096 * (dmaSlabs e).length)) e stOK (4096 * (dmaSlabs e).length) 0 := by
  have hlead : goodPrefix good (dmaSlabs e) = dmaSlabs e := List.takeWhile_eq_self_iff.mpr hgood
  have hsome : (dmaSlabs e).isEmpty = false := by simpa using hne
  simp only [dmaRead, h, hs, hlead, hsome, List.getElem?_length, ne_eq, not_true_eq_false, Bool.false_eq_true, if_false]
  rfl

/-- The slabs before the first bad one go out; that one ends the command. -/
theorem dmaRead_bad {l r : List Nat} {b : Nat} (hl : dmaSlabs e = l ++ b :: r) (hgood : ∀ n ∈ l, good n = true) (hbad : good b = false) :
    dmaRead s e status good bytes fail =
      let u := countToHost (if l.isEmpty then s else emit s (.hostMem (sbHost e) (l.flatMap bytes))) (4096 * l.length)
      finish (if u.faults.frozen then u else fail u b) e stPOISONED (4096 * l.length) (4096 * b) := by
  have hlead : goodPrefix good (dmaSlabs e) = l := by
    rw [goodPrefix, hl, List.takeWhile_append_of_pos hgood, List.takeWhile_cons_of_neg (Bool.eq_false_iff.mp hbad), List.append_nil]
  have hfirst : (dmaSlabs e)[l.length]? = some b := by simp [hl]
  simp only [dmaRead, h, hs, hlead, hfirst, ne_eq, not_true_eq_false, if_false]
  rfl

end
end
end

theorem vatRead_idle (h : runnable s e 0x11 = false ∨ dmaWaits s e = true) : vatRead s e = s := by
  refine if_pos ?_
  have hcases : (!runnable s e 0x11 || dmaWaits s e) = true := by rcases h with h | h <;> simp [h]
  exact hcases

theorem cellarRead_idle (h : runnable s e 0x13 = false) : cellarRead s e = s := if_pos (by simp [h])

/-- The status of a read of the Vat, and of one of the Cellar. -/
def vatReadStatus (s : State) (e : BitVec 512) : Nat := if (dmaSlabs e).any fun n => (copyOwner s n).isNone then stRANGE else stOK
def cellarReadStatus (e : BitVec 512) : Nat := if (dmaSlabs e).any fun c => cellarSlabs ≤ c then stRANGE else stOK

/-- A slab that goes to the host as it stands. -/
def slabGood (s : State) (n : Nat) : Bool := !slabPoisoned s n && unitGood s n 0

/-- What a bad slab raises: one already poisoned nothing. -/
def vatReadFails (s : State) (n : Nat) : State := if slabPoisoned s n then s else failUnit s n 0
def cellarReadFails (s : State) (c : Nat) : State := raiseFault (bump s eCellarCrcErrorCount) 17 4 (channelOf c) (w64 c)

theorem vatRead_runs (h : runnable s e 0x11 = true) (hw : dmaWaits s e = false) :
    vatRead s e = dmaRead s e (vatReadStatus s e) (slabGood s) (fun n => unitBytes s n 0) vatReadFails := by
  refine if_neg ?_
  have hcases : ¬ (!runnable s e 0x11 || dmaWaits s e) = true := by simp [h, hw]
  exact hcases

theorem cellarRead_runs (h : runnable s e 0x13 = true) :
    cellarRead s e = dmaRead s e (cellarReadStatus e) (cellarGood s) (cellarBytes s) cellarReadFails := if_neg (by simp [h])

theorem vatReadStatus_range (h : ∃ n ∈ dmaSlabs e, copyOwner s n = none) : vatReadStatus s e = stRANGE :=
  if_pos (by simpa using h)

theorem vatReadStatus_ok (h : ∀ n ∈ dmaSlabs e, copyOwner s n ≠ none) : vatReadStatus s e = stOK := by
  refine if_neg ?_
  simpa [Option.isSome_iff_ne_none] using h

theorem cellarReadStatus_range (h : ∃ n ∈ dmaSlabs e, cellarSlabs ≤ n) : cellarReadStatus e = stRANGE := by
  refine if_pos (List.any_eq_true.mpr ?_)
  obtain ⟨n, hn, hle⟩ := h
  exact ⟨n, hn, decide_eq_true hle⟩

theorem cellarReadStatus_ok (h : ∀ n ∈ dmaSlabs e, n < cellarSlabs) : cellarReadStatus e = stOK := by
  refine if_neg fun hany => ?_
  obtain ⟨n, hn, hle⟩ := List.any_eq_true.mp hany
  exact absurd (h n hn) (Nat.not_lt.mpr (of_decide_eq_true hle))

theorem slabGood_of {n : Nat} (h : slabPoisoned s n = false ∧ unitGood s n 0 = true) : slabGood s n = true := by simp [slabGood, h]

theorem slabGood_not {n : Nat} (h : slabPoisoned s n = true ∨ unitGood s n 0 = false) : slabGood s n = false := by
  rcases h with h | h <;> simp [slabGood, h]

end

/-- A frozen module raises nothing, and a slab already poisoned neither. -/
theorem vatReadFails_unfrozen (u : State) (b : Nat) : (if u.faults.frozen then u else vatReadFails u b) =
    if u.faults.frozen || slabPoisoned u b then u else failUnit u b 0 := by
  cases hf : u.faults.frozen with
  | true => rfl
  | false => rfl

/-! The rings (R411, R415). -/

section
variable {s : State}

theorem fetchRung_full (h : cqFull s = true) : fetchRung s = s := if_pos (by simp [h])

theorem fetchRung_fetches (h : cqFull s = false) (hn : s.host.sqSize ≠ 0) : fetchRung s =
    { s with host := { s.host with fetched := s.host.fetched ++ s.host.ringed, ringed := [],
                                   sqHead := (s.host.sqHead + s.host.ringed.length) % s.host.sqSize } } := if_neg (by simp [h, hn])

section
variable {n : Nat} {l : List (BitVec 512)}

/-- The entries between the old tail and a new one. -/
def newlyRung (s : State) (n : Nat) : Nat := (n + s.host.sqSize - s.host.sqTail % s.host.sqSize) % s.host.sqSize

theorem sqDoorbell_refused (h : mailboxOn s = false ∨ s.host.sqSize ≤ n) : sqDoorbell s n l = s := if_pos (by simpa using h)

section
variable (hm : mailboxOn s = true) (hn : n < s.host.sqSize)
include hm hn

theorem sqDoorbell_eq : sqDoorbell s n l = if l.length < newlyRung s n then s
    else fetchRung { s with host := { s.host with ringed := s.host.ringed ++ l.take (newlyRung s n), sqTail := n } } :=
  if_neg (by simp [hm, hn])

theorem sqDoorbell_short (h : l.length < newlyRung s n) : sqDoorbell s n l = s := by rw [sqDoorbell_eq hm hn, if_pos h]

variable (h : newlyRung s n ≤ l.length)
include h

theorem sqDoorbell_holds (hf : cqFull s = true) : sqDoorbell s n l =
    { s with host := { s.host with ringed := s.host.ringed ++ l.take (newlyRung s n), sqTail := n } } := by
  rw [sqDoorbell_eq hm hn, if_neg (Nat.not_lt.mpr h)]
  exact fetchRung_full hf

theorem sqDoorbell_fetches (hf : cqFull s = false) : sqDoorbell s n l =
    { s with host := { s.host with fetched := s.host.fetched ++ (s.host.ringed ++ l.take (newlyRung s n)), ringed := [], sqTail := n,
                                   sqHead := (s.host.sqHead + (s.host.ringed ++ l.take (newlyRung s n)).length) % s.host.sqSize } } := by
  rw [sqDoorbell_eq hm hn, if_neg (Nat.not_lt.mpr h)]
  exact fetchRung_fetches hf (Nat.ne_of_gt (Nat.zero_lt_of_lt hn))

end
end

/-! Completions. -/

/-- One completion: its record and its vector leave, the tail moves on, and the phase turns at the wrap. -/
theorem putCompletion_leaves (s : State) (id status done detail : Nat) : let u := putCompletion s id status done detail
    u.outbox = s.outbox ++ [.hostMem (s.host.cqBase.toNat + 16 * s.host.cqTail) (completion s id status done detail),
      .msix (rd s eMailboxMsixVector)] ∧
      u.host.cqTail = (s.host.cqTail + 1) % s.host.cqSize ∧ (u.host.phase = if u.host.cqTail = 0 then !s.host.phase else s.host.phase) :=
  ⟨List.append_assoc _ _ _, rfl, rfl⟩

theorem headResult_unlisted {e : BitVec 512} (h : ¬ sbOpcode e ∈ sbOpcodes) : headResult s e = some (stRANGE, 0, 0) := if_pos (by simpa using h)

theorem mailboxComplete_none (h : s.host.fetched = []) : mailboxComplete s = s := by simp only [mailboxComplete, h]

section
variable {e : BitVec 512} {r : List (BitVec 512)} (h : s.host.fetched = e :: r)
include h

theorem mailboxComplete_undone (hr : headResult s e = none) : mailboxComplete s = s := by simp only [mailboxComplete, h, hr]

section
variable {x : Nat × Nat × Nat} (hx : headResult s e = some x)
include hx

theorem mailboxComplete_waits (hw : mailboxOn s = false ∨ s.host.aborted ≠ [] ∨ cqFull s = true) : mailboxComplete s = s := by
  have hwaits : (!mailboxOn s || !s.host.aborted.isEmpty || cqFull s) = true := by
    rcases hw with hw | hw | hw <;> simp [hw]
  simp only [mailboxComplete, h, hx, hwaits, if_true]

theorem mailboxComplete_completes (hm : mailboxOn s = true) (ha : s.host.aborted = []) (hf : cqFull s = false) :
    let u := putCompletion s (sbId e) x.1 x.2.1 x.2.2
    mailboxComplete s = fetchRung { u with host := { u.host with fetched := r, finished := dropFinished u.host.finished e } } := by
  have hgoes : (!mailboxOn s || !s.host.aborted.isEmpty || cqFull s) = false := by simp [hm, ha, hf]
  simp only [mailboxComplete, h, hx, hgoes, Bool.false_eq_true, if_false]

end
end

/-! Heads (R411, R414). -/

section
variable {v : Nat}

theorem cqHeadWrite_refused (h : barReady s = false ∨ s.host.cqSize ≤ v) : cqHeadWrite s v = s := if_pos (by simpa using h)

theorem eqHeadWrite_refused (h : barReady s = false ∨ s.host.eqSize ≤ v) : eqHeadWrite s v = s := if_pos (by simpa using h)

section
variable (hb : barReady s = true)
include hb

section
variable (hv : v < s.host.cqSize)
include hv

theorem cqHeadWrite_takes : cqHeadWrite s v =
    if s.host.enable then fetchRung (flushAborted s.host.aborted { s with host := { s.host with cqHead := v } })
    else { s with host := { s.host with cqHead := v } } := if_neg (by simp [hb, hv])

theorem cqHeadWrite_disabled (he : s.host.enable = false) : cqHeadWrite s v = { s with host := { s.host with cqHead := v } } := by
  rw [cqHeadWrite_takes hb hv, if_neg (Bool.eq_false_iff.mp he)]

theorem cqHeadWrite_goesOn (he : s.host.enable = true) :
    cqHeadWrite s v = fetchRung (flushAborted s.host.aborted { s with host := { s.host with cqHead := v } }) := by
  rw [cqHeadWrite_takes hb hv, if_pos he]

end

theorem eqHeadWrite_takes (hv : v < s.host.eqSize) : eqHeadWrite s v = lostToHost { s with host := { s.host with eqHead := v } } :=
  if_neg (by simp [hb, hv])

end
end

theorem lostToHost_none (h : s.host.eventLost = 0 ∨ s.host.enable = false ∨ (s.host.eqTail + 1) % s.host.eqSize = s.host.eqHead) :
    lostToHost s = s := by
  refine if_pos ?_
  rcases h with h | h | h <;> simp [hostRing, h]

/-! MB_CONTROL (R410, R415), and the vectors (R414). -/

section
variable {v : BitVec 32} {sq cq eq : BitVec 64} {a b c : Nat}

theorem mbControlWrite_refused (h : barReady s = false) : mbControlWrite s v sq cq eq a b c = s := if_pos (by simp [h])

section
variable (h : barReady s = true)
include h

theorem mbControlWrite_enabled (he : s.host.enable = true) :
    mbControlWrite s v sq cq eq a b c = { s with host := { s.host with enable := v.getLsbD 0 } } := by
  simp [mbControlWrite, h, he]

section
variable (he : s.host.enable = false)
include he

theorem mbControlWrite_stays (hv : v.getLsbD 0 = false) :
    mbControlWrite s v sq cq eq a b c = { s with host := { setRings s.host sq cq eq a b c with enable := v.getLsbD 0 } } := by
  simp only [mbControlWrite, h, he, hv, Bool.not_true, Bool.not_false, Bool.and_false, Bool.false_eq_true, if_false]

theorem mbControlWrite_enables (hv : v.getLsbD 0 = true) : mbControlWrite s v sq cq eq a b c = fetchRung (flushAborted s.host.aborted
    { s with host := { setRings s.host sq cq eq a b c with enable := v.getLsbD 0 } }) := by
  simp only [mbControlWrite, h, he, hv, Bool.not_true, Bool.not_false, Bool.and_true, Bool.false_eq_true, if_false, if_true]
  rfl

end
end
end

section
variable {v : Nat}

theorem eventMsixTimer_raises (hl : s.host.linkUp = true) (h : v ∈ s.host.unraised) : eventMsixTimer s v =
    emit { s with host := { s.host with unraised := s.host.unraised.filter fun x => x ≠ v } } (.msix v) := if_pos (by simp [hl, h])

theorem eventMsixTimer_none (h : s.host.linkUp = false ∨ v ∉ s.host.unraised) : eventMsixTimer s v = s := by
  refine if_neg ?_
  rcases h with h | h <;> simp [h]

end
end

end Sys2Proof.Machine
end

section
/-! PROOFS. The mailbox's commands (O49) and its rings (O50). -/
namespace Sys2Proof.Machine

/-- Settles O49: each command by what stops it, and a read by the slabs before its first bad one (`dmaRead_all`, `dmaRead_bad`). -/
theorem mailboxCommandsFinish : Obligations.MailboxCommandsFinish := by
  unfold Obligations.MailboxCommandsFinish
  refine ⟨?plain, ?dict, ?vatWrite, ?idle, ?cellarWrite, ?read, ?first⟩
  case plain =>
    exact fun s e => ⟨fun h => next_congr (exec_nop s e) (if_pos h), fun h => next_congr (exec_nop s e) (if_neg (Bool.eq_false_iff.mp h)),
      fun h => congrArg Host.Outcome.next (setSaveBuffer_idle h), fun h => ⟨fun hf => congrArg Host.Outcome.next (setSaveBuffer_frozen h hf),
        fun hf => congrArg Host.Outcome.next (setSaveBuffer_names h hf)⟩⟩
  case dict =>
    intro s e b
    have hexec {t} (h : dict s e b = t) : exec (.dict e b) s = .next t := congrArg Host.Outcome.next h
    exact ⟨fun h => hexec (dict_idle h), fun h hb => ⟨fun hl => hexec (dict_long h hb hl), fun hl r t hr =>
      ⟨fun hroom => hexec (dict_noRoom h hb hl hr hroom), fun hroom hne => hexec (dict_fits h hb hl hr hroom hne),
        fun hempty => hexec (dict_empty h hb hl hr hempty)⟩⟩⟩
  case vatWrite =>
    intro s e d hd h hw
    have hexec {t} (ht : dmaWrite s e (vatWriteStatus s (dmaSlabs e)) (fun s => vatPut s (sbModule e) d) = t) :
        exec (.vatWrite e d) s = .next t := congrArg Host.Outcome.next ((vatWrite_runs hd h (dmaWaits_not hw)).trans ht)
    rw [hd]
    exact ⟨fun hf => hexec (dmaWrite_frozen hf), fun hf => ⟨fun hs => hexec (dmaWrite_misshapen hf hs),
      fun hs hst => hexec (dmaWrite_refused hf hs hst), fun hs hst => hexec (dmaWrite_moves hf hs hst)⟩⟩
  case idle =>
    refine fun s e d => ⟨fun h => congrArg Host.Outcome.next (vatWrite_idle ?_), fun h => congrArg Host.Outcome.next (cellarWrite_idle h),
      fun h => congrArg Host.Outcome.next (vatRead_idle ?_), fun h => congrArg Host.Outcome.next (cellarRead_idle h)⟩
    · rwa [dmaWaits_iff]
    · rwa [dmaWaits_iff]
  case cellarWrite =>
    intro s e d hd h
    have hexec {t} (ht : dmaWrite s e (cellarWriteStatus s (dmaSlabs e)) (fun s => cellarPut s (sbModule e) d) = t) :
        exec (.cellarWrite e d) s = .next t := congrArg Host.Outcome.next ((cellarWrite_runs hd h).trans ht)
    rw [hd]
    exact ⟨fun hf => hexec (dmaWrite_frozen hf), fun hf => ⟨fun hs => hexec (dmaWrite_misshapen hf hs),
      fun hs hst => hexec (dmaWrite_refused hf hs hst), fun hs hst => hexec (dmaWrite_moves hf hs hst)⟩⟩
  case read =>
    intro s e count
    refine ⟨fun h hw => ?_, fun h => ?_⟩
    · have hexec {t} (ht : dmaRead s e (vatReadStatus s e) (slabGood s) (fun n => unitBytes s n 0) vatReadFails = t) :
          exec (.vatRead e) s = .next t := congrArg Host.Outcome.next ((vatRead_runs h (dmaWaits_not hw)).trans ht)
      refine ⟨fun hs => hexec (dmaRead_misshapen hs), fun hs => ⟨fun hr => ?_, fun hr hne => ⟨fun hall => ?_, ?_⟩⟩⟩
      · have hrange := vatReadStatus_range hr
        exact hexec ((dmaRead_refused hs (by rw [hrange]; decide)).trans (by rw [hrange]))
      · exact hexec (dmaRead_all hs (vatReadStatus_ok hr) hne fun n hn => slabGood_of (hall n hn))
      · intro l b r hl hlne hgood hbad u
        have hread := dmaRead_bad (s := s) (bytes := fun n => unitBytes s n 0) (fail := vatReadFails) hs (vatReadStatus_ok hr) hl
          (fun n hn => slabGood_of (hgood n hn)) (slabGood_not hbad)
        rw [if_neg (by simpa using hlne)] at hread
        dsimp only at hread
        rw [vatReadFails_unfrozen] at hread
        exact hexec hread
    · have hexec {t} (ht : dmaRead s e (cellarReadStatus e) (cellarGood s) (cellarBytes s) cellarReadFails = t) :
          exec (.cellarRead e) s = .next t := congrArg Host.Outcome.next ((cellarRead_runs h).trans ht)
      refine ⟨fun hs => hexec (dmaRead_misshapen hs), fun hs => ⟨fun hr => ?_, fun hr hne => ⟨fun hall => ?_, ?_⟩⟩⟩
      · have hrange := cellarReadStatus_range hr
        exact hexec ((dmaRead_refused hs (by rw [hrange]; decide)).trans (by rw [hrange]))
      · exact hexec (dmaRead_all hs (cellarReadStatus_ok hr) hne hall)
      · intro l b r hl hlne hgood hbad u
        have hread := dmaRead_bad (s := s) (bytes := cellarBytes s) (fail := cellarReadFails) hs (cellarReadStatus_ok hr) hl hgood hbad
        rw [if_neg (by simpa using hlne)] at hread
        exact hexec hread
  case first =>
    exact fun s e b r g by_ f hs hl hbad => dmaRead_bad (l := []) hs rfl hl (List.forall_mem_nil _) hbad

/-- Settles O50: each write by its checks, and a completion by `putCompletion_leaves`. -/
theorem ringsMoveInOrder : Obligations.RingsMoveInOrder := by
  unfold Obligations.RingsMoveInOrder
  refine ⟨?refused, ?doorbell, ?none, ?complete, ?unlisted, ?heads, ?control, ?timer⟩
  case refused => exact fun s n l h => congrArg Host.Outcome.next (sqDoorbell_refused h)
  case doorbell =>
    exact fun s n l hm hn => ⟨fun h => congrArg Host.Outcome.next (sqDoorbell_short hm hn h),
      fun h hf => congrArg Host.Outcome.next (sqDoorbell_holds hm hn h hf), fun h hf => congrArg Host.Outcome.next (sqDoorbell_fetches hm hn h hf)⟩
  case none => exact fun s h => congrArg Host.Outcome.next (mailboxComplete_none h)
  case complete =>
    intro s e r h
    refine ⟨fun hw => congrArg Host.Outcome.next ?_, ?_⟩
    · cases hx : headResult s e with
      | none => exact mailboxComplete_undone h hx
      | some x => exact mailboxComplete_waits h hx (hw.resolve_left (by simp [hx]))
    · exact fun x hx hm ha hf => ⟨congrArg Host.Outcome.next (mailboxComplete_completes h hx hm ha hf), putCompletion_leaves s _ _ _ _⟩
  case unlisted => exact fun s e h => headResult_unlisted h
  case heads =>
    refine fun s v => ⟨fun h => congrArg Host.Outcome.next (cqHeadWrite_refused h), fun h => congrArg Host.Outcome.next (eqHeadWrite_refused h),
      fun hb hv => ⟨fun he => congrArg Host.Outcome.next (cqHeadWrite_disabled hb hv he),
        fun he => congrArg Host.Outcome.next (cqHeadWrite_goesOn hb hv he)⟩,
      fun hb hv => ⟨congrArg Host.Outcome.next (eqHeadWrite_takes hb hv), fun h => lostToHost_none h⟩⟩
  case control =>
    exact fun s v sq cq eq a b c => ⟨fun h => congrArg Host.Outcome.next (mbControlWrite_refused h), fun h =>
      ⟨fun he => congrArg Host.Outcome.next (mbControlWrite_enabled h he), fun he =>
        ⟨fun hv => congrArg Host.Outcome.next (mbControlWrite_stays h he hv),
          fun hv => congrArg Host.Outcome.next (mbControlWrite_enables h he hv)⟩⟩⟩
  case timer =>
    exact fun s v => ⟨fun hl h => congrArg Host.Outcome.next (eventMsixTimer_raises hl h),
      fun h => congrArg Host.Outcome.next (eventMsixTimer_none h)⟩

end Sys2Proof.Machine
end
